-- ==== Sys2Proof/Word.lean ====
section
/-! DEFINITION. The words of the model: bytes, 64-bit registers, FP32 bit patterns, and the sparse map
every keyed collection of the state uses (a list of key and value pairs in rising key order). -/
namespace Sys2Proof

/-- One byte. -/
abbrev Byte := BitVec 8

/-- A 64-bit set-up register, status word or memory word (00_scope.md, "Register fields"). -/
abbrev Word := BitVec 64

/-- An IEEE 754 binary32 bit pattern (00_scope.md, "Tables, timing, pseudocode"). -/
abbrev F32 := BitVec 32

/-- A byte string, lowest address first. -/
abbrev Bytes := List Byte

/-- A sparse collection keyed by a number; keys strictly rising. -/
abbrev Map (α : Type) := List (Nat × α)

end Sys2Proof
end

