-- ==== Sys2Proof/Syntax.lean ====
section
/-! DEFINITION. The commands the block takes: one constructor per row of the opcode table, with the
operands this model gives it (the table gives none; notes/assumptions/1.md). Every command carries `t`,
the node time in ns at which it happens (R20, 02_tick.md). -/
namespace Sys2Proof

/-- The four classes (Table 10.1, 10_classes.md). -/
inductive Cls where
  | c0 | c1 | c2 | c3
deriving DecidableEq, Repr

/-- A unit the itinerary gives tasks to (R23, 02_tick.md): tile 0-1,535, engine 0-191, egress gate 0-15. -/
inductive UnitId where
  | tile (n : Nat)
  | engine (n : Nat)
  | gate (n : Nat)
deriving DecidableEq, Repr

/-- How a running task ended: done, a pebble that fails its check (R90), or a tag fault (R236). -/
inductive TaskOutcome where
  | done
  | corrupt (pebble : Nat)
  | tagFault (found : Nat)
deriving DecidableEq, Repr

/-- A ring: ring `r` of connection slot `slot` (R154), or local ring `n` (R159). -/
inductive RingRef where
  | partner (slot ring : Nat)
  | localRing (n : Nat)
deriving DecidableEq, Repr

/-- A received Trail packet as the port sees it (R189, 09_trail.md). `hdr` is the header of Table 9.2 with
the extension of Table 9.3 where the type has one, in network byte order; `payload` is the plain text, sealed under
`key` (0: no key, or altered since) with `nonce` and the authenticated data `aad` (R193, notes/assumptions/6.md). -/
structure Pkt where
  link : Nat
  dport : Nat
  /-- Bytes of the IP packet (R187). -/
  size : Nat
  /-- Whether the frame carries a feature of R185: stacked tags, IP options or extension headers, a fragment. -/
  unsupported : Bool
  /-- How full the link's receive buffer of the Trail priority is with this packet, in percent (R188, R232). -/
  fill : Nat
  dscp : Nat
  ce : Bool
  key : Nat
  nonce : Bytes
  aad : Bytes
  hdr : Bytes
  payload : Bytes
deriving DecidableEq, Repr

/-- A handshake message of Table 9.8 (440 bytes, R197) in its SEND on CONN 0, with the verdict of its ECDSA signature. -/
structure Handshake where
  link : Nat
  dport : Nat
  size : Nat
  unsupported : Bool
  hdr : Bytes
  bytes : Bytes
  sigOk : Bool
deriving DecidableEq, Repr

/-- What the sensors and the reference give the planner at a boundary: the measured offset in ns (R36),
the hottest reading of each half-column and the reading of each stack in 0.125 °C (R313, R315). -/
structure BoundaryInputs where
  offsetNs : Option Int
  hcTemp : Map Int
  stackTemp : Map Int
deriving DecidableEq, Repr

/-- A geode as the security engine reads it (Table 11.6, 11_isolation.md): header, recipient devices,
issuer key, decrypted body, and the verdicts of the cryptographic checks of R258. -/
structure GeodeInput where
  header : Bytes
  devices : List Bytes
  recipReservedOk : Bool
  issuerKey : Bytes
  sigOk : Bool
  wrapOk : Bool
  tagOk : Bool
  body : Bytes
deriving DecidableEq, Repr

/-- The configuration record of R256. -/
structure ConfigRecord where
  serial : Bytes
  /-- Member identity: for this part that of Tables 18.2 to 18.4, which the ID block reports. -/
  member : Bytes
  macs : List Bytes
  /-- Identity public key enrolled at manufacture, 133 bytes. -/
  publicKey : Bytes
  helperDigest : Bytes
  speedGrades : List Nat
deriving DecidableEq, Repr

/-- What a start-up stage finds (Table 16.2, 16_reset.md). -/
inductive StageResult where
  /-- Stage 0: rails up, package reset released. -/
  | rails
  /-- Stage 1: a valid Ranger firmware copy was found or not; SLOT_ID straps (R354). -/
  | ranger (ok : Bool) (svn : Nat) (straps : Nat)
  /-- Stage 2: configuration record, security firmware, which helper copies verify, and the identity public key derived from the seed (R253,
  R256). -/
  | identity (config : Option ConfigRecord) (secSvn : Nat) (helper : List Bool) (derivedKey : Bytes) (drbgOk : Bool)
  /-- Stage 3: stacks trained, far-tier channels that failed, engines that failed self-test, links up. -/
  | training (stacksOk : Bool) (farFailed : List Nat) (enginesFailed : List Nat) (links : List Nat)
      (cxlUp : Bool)
  /-- Stage 4: assist and kernel verified, translation map unsealed, key store copies readable. -/
  | images (codeOk : Bool) (kernelDigest : Bytes) (assistSvn kernelSvn : Nat) (mapOk : Bool)
      (keyStore : List Bool)
  /-- Stage 5: whether the sealed image's tag verifies. -/
  | restore (imageTagOk : Bool)
deriving DecidableEq, Repr

/-- The unit kinds of Table 14.6 and the quantities measured for one unit (14_power_health.md). -/
inductive WeatherSample where
  | stackChannel (n corrected marginPpm : Nat)
  | nandChannel (n meanPe berPpb relocations : Nat)
  | halfColumn (n riseMicro : Nat)
  | lane (n eye eye0 eyeMin : Nat)
  | phase (n esrMilli ronMilli : Nat)
deriving DecidableEq, Repr

/-- The roles of Table 15.1 (15_ranger.md), least privileged first. -/
inductive Role where
  | auditor | operator | administrator
deriving DecidableEq, Repr

/-- What a TLS client offers Ranger (R320): protocol 1.3 with the one suite, group and signature scheme;
no refused feature; the trust anchors its certificate chains to. -/
structure TlsOffer where
  tcpPort : Nat
  tls13 : Bool
  parameters : Bool
  refusedFeature : Bool
  anchors : List Nat
  /-- Subject of the client certificate (R329). -/
  subject : Bytes
deriving DecidableEq, Repr

/-- What a Debug or Profiling request asks (R328, R329). -/
inductive DebugOp where
  | read (offset : Nat)
  | write (offset : Nat) (value : Word)
  | counters
deriving DecidableEq, Repr

/-- The images of R255 that UpdateService takes (R331). -/
inductive ImageKind where
  | ranger | security | assist | kernel
deriving DecidableEq, Repr

/-- Frames beside Trail and PTP: neighbour resolution and router advertisement, which a link accepts (R184), and any other, such as
802.3x PAUSE or LLDP, which it does not (R185). -/
inductive NdFrame where
  | neighbor (addr mac : Bytes)
  | routerAdvert (router : Bytes)
  | arp (addr mac : Bytes)
  | other
deriving DecidableEq, Repr

/-- Frame sources of a timed-out read (R149). -/
inductive LateTier where
  | far | host
deriving DecidableEq, Repr

/-- The commands: spec/opcode_table.json, row by row. `t` is the node time in ns. -/
inductive Instr where
  | tickBoundary (t : Nat) (b : BoundaryInputs)
  | itineraryPublished (t : Nat)
  | taskComplete (t : Nat) (u : UnitId) (o : TaskOutcome)
  | windowNominalEnd (t : Nat) (u : UnitId) (c : Cls)
  | gatedTaskReleased (t : Nat) (u : UnitId) (task : Nat)
  | operandsLanded (t : Nat) (req block : Nat) (data : Bytes)
  | queryBlockComplete (t : Nat) (req block : Nat)
  | anchorScanComplete (t : Nat) (req : Nat)
  | refreshSlot (t : Nat) (engine : Nat)
  | makeupRefreshSlot (t : Nat) (engine : Nat)
  | refreshDebtRepay (t : Nat) (engine : Nat)
  | stackAbove85C (t : Nat) (stack : Nat)
  | tickPeriodWrite (t : Nat) (v : Word)
  | tickWindowWrite (t : Nat) (v : Word)
  | tickAlignWrite (t : Nat) (v : Word)
  | tickOriginWrite (t : Nat) (v : Word)
  | arm (t : Nat)
  | start (t : Nat)
  | syncInPulse (t : Nat) (widthNs : Nat)
  | syncInTimeout (t : Nat)
  | ptpLockLost (t : Nat)
  | referenceReturned (t : Nat) (offsetNs : Int)
  | thermalEmergency (t : Nat) (hc : Nat) (temp : Int)
  | stackHot (t : Nat) (stack : Nat) (temp : Int)
  | thermalTrip (t : Nat) (temp : Int)
  | attend (t : Nat) (req : Nat)
  | attendChunk (t : Nat) (req : Nat)
  | append (t : Nat) (req : Nat)
  | seal (t : Nat) (req : Nat)
  | fork (t : Nat) (req : Nat)
  | trim (t : Nat) (req : Nat)
  | release (t : Nat) (req : Nat)
  | hint (t : Nat) (req : Nat)
  | exportPages (t : Nat) (req : Nat)
  | importPages (t : Nat) (req : Nat) (parcels : List Bytes)
  | fence (t : Nat) (req : Nat)
  | fenceComplete (t : Nat) (req : Nat)
  | fenceCancel (t : Nat) (req : Nat)
  | probe (t : Nat) (req : Nat)
  | demotionComplete (t : Nat) (ctx page : Nat) (bad : Option Nat)
  | bell (t : Nat) (p : Pkt)
  | ringDbWrite (t : Nat) (n : Nat) (v : Word)
  | ringEnable (t : Nat) (n : Nat) (v : Word)
  | ringDisable (t : Nat) (n : Nat) (v : Word)
  | descriptorFetched (t : Nat) (ring : RingRef) (index : Nat) (entry : Bytes)
  | write (t : Nat) (p : Pkt)
  | readReq (t : Nat) (p : Pkt)
  | readResp (t : Nat) (p : Pkt)
  | readRespRerequest (t : Nat) (slot msg : Nat)
  | atomicAdd (t : Nat) (p : Pkt)
  | atomicCas (t : Nat) (p : Pkt)
  | releaseMessageExecute (t : Nat) (slot msg : Nat)
  | sack (t : Nat) (p : Pkt)
  | sackDelayExpiry (t : Nat) (slot : Nat)
  | nak (t : Nat) (p : Pkt)
  | policed (t : Nat) (p : Pkt)
  | rtoExpiry (t : Nat) (slot path : Nat)
  | deadTimer (t : Nat) (slot : Nat)
  | pathProbe (t : Nat) (slot path : Nat)
  | failedSlotRecover (t : Nat) (slot : Nat)
  | hello (t : Nat) (h : Handshake)
  | accept (t : Nat) (h : Handshake)
  | finish (t : Nat) (h : Handshake)
  | helloResend (t : Nat) (slot : Nat)
  | rekey (t : Nat) (p : Pkt)
  | rekeyAck (t : Nat) (p : Pkt)
  | keyUpdateTrigger (t : Nat) (slot : Nat)
  | previousKeyExpiry (t : Nat) (slot : Nat)
  | close (t : Nat) (slot : Nat) (received : Option Pkt) (reason : Nat)
  | closeWaitEnd (t : Nat) (slot : Nat)
  | regionAdv (t : Nat) (p : Pkt)
  | regionWd (t : Nat) (p : Pkt)
  | regionWdDone (t : Nat) (slot rkey : Nat)
  | linkDown (t : Nat) (link : Nat)
  | linkUp (t : Nat) (link : Nat)
  | connLoad (t : Nat) (ctl : Word) (mem : Option Bytes)
  | connRemove (t : Nat) (ctl : Word)
  | regionRegister (t : Nat) (ctl : Word)
  | regionRevoke (t : Nat) (ctl : Word)
  | revocationAbandon (t : Nat) (index : Nat)
  | revocationComplete (t : Nat) (index : Nat)
  | subreq (t : Nat) (p : Pkt)
  | partialMsg (t : Nat) (p : Pkt)
  | leaf (t : Nat) (p : Pkt)
  | journal (t : Nat) (p : Pkt)
  | move (t : Nat) (p : Pkt)
  | moveAck (t : Nat) (p : Pkt)
  | moveCommitMsg (t : Nat) (p : Pkt)
  | moveCopyComplete (t : Nat) (moveId : Nat) (bad : Option Nat)
  | pageOp (t : Nat) (p : Pkt)
  | pageOpDone (t : Nat) (p : Pkt)
  | inventory (t : Nat) (p : Pkt)
  | inventoryResponse (t : Nat) (p : Pkt)
  | seCommandStart (t : Nat) (engine : Nat)
  | seCommandComplete (t : Nat) (engine : Nat) (outcome : Nat) (detail : Nat)
  | seWatchdog (t : Nat) (engine : Nat)
  | seSelfTest (t : Nat) (v : Word)
  | seSelfTestDone (t : Nat) (equal : Bool)
  | tierSeMaskWrite (t : Nat) (n : Nat) (v : Word)
  | tierSeFaultClear (t : Nat) (n : Nat) (v : Word)
  | hdmRead (t : Nat) (addr len : Nat)
  | hdmWrite (t : Nat) (addr : Nat) (data : Bytes)
  | leaseGap (t : Nat) (engine : Nat)
  | snoopComplete (t : Nat) (ctx page : Nat)
  | farReadTimeout (t : Nat) (tier : LateTier) (ctx page : Nat)
  | farChannelFail (t : Nat) (channel : Nat)
  | hostLinkDown (t : Nat)
  | hostLinkUp (t : Nat) (width rate : Nat)
  | bedrockGc (t : Nat)
  | readDisturbRelocate (t : Nat) (block : Nat)
  | blockRetire (t : Nat) (block : Nat) (spare : Nat)
  | progLoad (t : Nat) (ctl : Word) (mem : Option Bytes)
  | progUnload (t : Nat) (ctl : Word)
  | ctxCreate (t : Nat) (ctl : Word) (mem : Option Bytes)
  | ctxLoadProfile (t : Nat) (ctl : Word) (mem : Option Bytes)
  | ctxTeardown (t : Nat) (ctl : Word)
  | teardownClose (t : Nat) (ctx : Nat)
  | keyZeroise (t : Nat) (ctx : Nat)
  | tombstoneDurable (t : Nat) (ctx : Nat)
  | scrubComplete (t : Nat) (ctx : Nat)
  | geodeLoad (t : Nat) (ctl : Word) (mem : Option GeodeInput)
  | geodeUnload (t : Nat) (ctl : Word)
  | ctxClassWrite (t : Nat) (v : Word)
  | assayCompare (t : Nat) (assay : Nat) (diff : Option (Nat × Nat))
  | assayAttribution (t : Nat) (assay : Nat) (equalsFirst equalsSecond : Bool)
  | healthAssayWrite (t : Nat) (v : Word)
  | healthTilefClear (t : Nat) (n : Nat) (v : Word)
  | compStage (t : Nat) (ctl : Word) (mem : Option Bytes)
  | compWithdraw (t : Nat) (ctl : Word)
  | mapActivation (t : Nat)
  | drainTimeout (t : Nat)
  | rebuildPageCommit (t : Nat) (ctx conv layer head index : Nat)
  | isolationTimeout (t : Nat)
  | suspectWindowEnd (t : Nat)
  | powerExitComplete (t : Nat)
  | supplyWarning (t : Nat) (mv : Nat)
  | flushAcknowledged (t : Nat)
  | supplyRecovery (t : Nat)
  | brownout (t : Nat) (mv : Nat)
  | powerAverage (t : Nat) (watts : Nat)
  | weatheringSample (t : Nat) (day : Nat) (w : WeatherSample)
  | weatheringReport (t : Nat)
  | rangerTakeRecord (t : Nat)
  | eventDelivery (t : Nat) (sub : Nat) (ok : Bool)
  | postRetry (t : Nat) (sub : Nat) (ok : Bool)
  | subscriptionSuspend (t : Nat) (sub : Nat)
  | tlsSession (t : Nat) (o : TlsOffer)
  | sessionIdleTimeout (t : Nat) (session : Nat)
  | managerReset (t : Nat) (session : Nat)
  | nodeReset (t : Nat) (session : Nat)
  | rangerWatchdog (t : Nat)
  | rangerSelfTest (t : Nat) (pass : Bool)
  | rangerEccError (t : Nat)
  | trustAnchorInstall (t : Nat) (session : Nat) (role : Role) (cert : Bytes)
  | trustAnchorRemove (t : Nat) (session : Nat) (anchor : Nat)
  | firstAnchorInstall (t : Nat) (role : Role) (cert : Bytes)
  | spdmMeasurements (t : Nat) (nonce : Bytes)
  | updateImage (t : Nat) (session : Nat) (kind : ImageKind) (svn : Nat) (digest : Bytes) (sigOk : Bool)
  | networkProtocolWrite (t : Nat) (session : Nat) (ip6 ip4 gateway : Bytes) (dhcp6 dhcp4 : Bool)
  | debugRequest (t : Nat) (session : Nat) (op : DebugOp)
  | traceArm (t : Nat) (v : Word)
  | traceEnd (t : Nat)
  | dbgRead (t : Nat) (v : Word)
  | dbgUnitTakeOut (t : Nat) (v : Word)
  | dbgUnitReturn (t : Nat) (v : Word)
  | dbgFreqLimitWrite (t : Nat) (v : Word)
  | secLockSet (t : Nat) (v : Word)
  | rwlWrite (t : Nat) (offset : Nat) (v : Word)
  | drbgFail (t : Nat)
  | registerWrite (t : Nat) (offset size : Nat) (v : Word)
  | powerOn (t : Nat) (mv : Nat)
  | moduleReset (t : Nat) (samples : Nat)
  | cxlHotReset (t : Nat) (perst : Bool)
  | flr (t : Nat)
  | perstNRelease (t : Nat)
  | startupStageComplete (t : Nat) (r : StageResult)
  | vinMated (t : Nat) (mv ms : Nat)
  | holdupCharged (t : Nat)
  | overVoltage (t : Nat) (mv : Nat)
  | overVoltageClear (t : Nat) (mv : Nat)
  | stackChannelFail (t : Nat) (channel : Nat)
  | moduleResetRelease (t : Nat)
  | inputSample (t : Nat) (mv : Nat)
  | ptpLockAcquired (t : Nat) (ptpNs : Nat)
  | entropyHealthPass (t : Nat)
  | bedrockBlockErased (t : Nat) (block : Nat)
  | reorderAllowanceExpiry (t : Nat) (slot msg offset : Nat)
  | operationBucketRefill (t : Nat) (slot : Nat)
  | pfcFrame (t : Nat) (port priority : Nat) (pause : Bool)
  | neighborDiscoveryFrame (t : Nat) (link : Nat) (f : NdFrame)
  | certificateInstall (t : Nat) (session : Nat) (spdmSlot1 : Bool) (forIdentityKey : Bool) (cert : Bytes)
  | eventSubscriptionCreate (t : Nat) (session : Nat) (push : Bool) (minSeverity : Nat) (cert : Bytes)
deriving DecidableEq, Repr

end Sys2Proof
end

