-- ==== Sys2Proof/WellFormed.lean ====
section
/-! DEFINITION. Well-formed commands: the ranges of Table 0.2, Table 1.2 and Table 18.1 that a command's operands
lie in. The meanings are total; a command outside these ranges comes from no sender of this node. -/
namespace Sys2Proof

/-- A unit of the itinerary that exists: 1,536 tiles, 192 engines, 16 gates (Table 1.2, R23). -/
def UnitId.wellFormed : UnitId → Bool
  | .tile n => decide (n < 1536)
  | .engine n => decide (n < 192)
  | .gate n => decide (n < 16)

/-- A ring that exists: four on each of 4,096 slots, 16 local (R153, R159). -/
def RingRef.wellFormed : RingRef → Bool
  | .partner slot ring => decide (slot < 4096) && decide (ring < 4)
  | .localRing n => decide (n < 16)

/-- A packet on one of 16 links, of a 16-bit IP length, with a 6-bit DSCP and a header of 24 or 36 bytes; a buffer is at most full (R184,
R188, Table 9.2). -/
def Pkt.wellFormed (p : Pkt) : Bool :=
  decide (p.link < 16) && decide (p.dport < 65536) && decide (p.size < 65536) && decide (p.fill ≤ 100) && decide (p.dscp < 64) &&
    (p.hdr.length == 24 || p.hdr.length == 36) && decide (p.payload.length ≤ 4096)

/-- A handshake message of 440 bytes in an IP packet of a 16-bit length (R192, Table 9.8). -/
def Handshake.wellFormed (h : Handshake) : Bool :=
  decide (h.link < 16) && decide (h.dport < 65536) && decide (h.size < 65536) && h.bytes.length == 440

/-- The checks of one command; every command's time is a 64-bit count of ns (R20). -/
def Instr.wellFormed : Instr → Bool
  | .tickBoundary t _ => decide (t < 2 ^ 64)
  | .itineraryPublished t => decide (t < 2 ^ 64)
  | .taskComplete t u _ => decide (t < 2 ^ 64) && u.wellFormed
  | .windowNominalEnd t u _ => decide (t < 2 ^ 64) && u.wellFormed
  | .gatedTaskReleased t u _ => decide (t < 2 ^ 64) && u.wellFormed
  | .operandsLanded t req _ _ => decide (t < 2 ^ 64) && decide (req < 65536)
  | .queryBlockComplete t req _ => decide (t < 2 ^ 64) && decide (req < 65536)
  | .anchorScanComplete t req => decide (t < 2 ^ 64) && decide (req < 65536)
  | .refreshSlot t engine => decide (t < 2 ^ 64) && decide (engine < 192)
  | .makeupRefreshSlot t engine => decide (t < 2 ^ 64) && decide (engine < 192)
  | .refreshDebtRepay t engine => decide (t < 2 ^ 64) && decide (engine < 192)
  | .stackAbove85C t stack => decide (t < 2 ^ 64) && decide (stack < 12)
  | .tickPeriodWrite t _ => decide (t < 2 ^ 64)
  | .tickWindowWrite t _ => decide (t < 2 ^ 64)
  | .tickAlignWrite t _ => decide (t < 2 ^ 64)
  | .tickOriginWrite t _ => decide (t < 2 ^ 64)
  | .arm t => decide (t < 2 ^ 64)
  | .start t => decide (t < 2 ^ 64)
  | .syncInPulse t _ => decide (t < 2 ^ 64)
  | .syncInTimeout t => decide (t < 2 ^ 64)
  | .ptpLockLost t => decide (t < 2 ^ 64)
  | .referenceReturned t _ => decide (t < 2 ^ 64)
  | .thermalEmergency t hc _ => decide (t < 2 ^ 64) && decide (hc < 96)
  | .stackHot t stack _ => decide (t < 2 ^ 64) && decide (stack < 12)
  | .thermalTrip t _ => decide (t < 2 ^ 64)
  | .attend t req => decide (t < 2 ^ 64) && decide (req < 65536)
  | .attendChunk t req => decide (t < 2 ^ 64) && decide (req < 65536)
  | .append t req => decide (t < 2 ^ 64) && decide (req < 65536)
  | .seal t req => decide (t < 2 ^ 64) && decide (req < 65536)
  | .fork t req => decide (t < 2 ^ 64) && decide (req < 65536)
  | .trim t req => decide (t < 2 ^ 64) && decide (req < 65536)
  | .release t req => decide (t < 2 ^ 64) && decide (req < 65536)
  | .hint t req => decide (t < 2 ^ 64) && decide (req < 65536)
  | .exportPages t req => decide (t < 2 ^ 64) && decide (req < 65536)
  | .importPages t req _ => decide (t < 2 ^ 64) && decide (req < 65536)
  | .fence t req => decide (t < 2 ^ 64) && decide (req < 65536)
  | .fenceComplete t req => decide (t < 2 ^ 64) && decide (req < 65536)
  | .fenceCancel t req => decide (t < 2 ^ 64) && decide (req < 65536)
  | .probe t req => decide (t < 2 ^ 64) && decide (req < 65536)
  | .demotionComplete t ctx page _ => decide (t < 2 ^ 64) && decide (ctx < 512) && decide (page < 2 ^ 31)
  | .bell t p => decide (t < 2 ^ 64) && p.wellFormed
  | .ringDbWrite t n _ => decide (t < 2 ^ 64) && decide (n < 16)
  | .ringEnable t n _ => decide (t < 2 ^ 64) && decide (n < 16)
  | .ringDisable t n _ => decide (t < 2 ^ 64) && decide (n < 16)
  | .descriptorFetched t ring _ entry => decide (t < 2 ^ 64) && ring.wellFormed && entry.length == 64
  | .write t p => decide (t < 2 ^ 64) && p.wellFormed
  | .readReq t p => decide (t < 2 ^ 64) && p.wellFormed
  | .readResp t p => decide (t < 2 ^ 64) && p.wellFormed
  | .readRespRerequest t slot _ => decide (t < 2 ^ 64) && decide (slot < 4096)
  | .atomicAdd t p => decide (t < 2 ^ 64) && p.wellFormed
  | .atomicCas t p => decide (t < 2 ^ 64) && p.wellFormed
  | .releaseMessageExecute t slot _ => decide (t < 2 ^ 64) && decide (slot < 4096)
  | .sack t p => decide (t < 2 ^ 64) && p.wellFormed
  | .sackDelayExpiry t slot => decide (t < 2 ^ 64) && decide (slot < 4096)
  | .nak t p => decide (t < 2 ^ 64) && p.wellFormed
  | .policed t p => decide (t < 2 ^ 64) && p.wellFormed
  | .rtoExpiry t slot path => decide (t < 2 ^ 64) && decide (slot < 4096) && decide (path < 64)
  | .deadTimer t slot => decide (t < 2 ^ 64) && decide (slot < 4096)
  | .pathProbe t slot path => decide (t < 2 ^ 64) && decide (slot < 4096) && decide (path < 64)
  | .failedSlotRecover t slot => decide (t < 2 ^ 64) && decide (slot < 4096)
  | .hello t h => decide (t < 2 ^ 64) && h.wellFormed
  | .accept t h => decide (t < 2 ^ 64) && h.wellFormed
  | .finish t h => decide (t < 2 ^ 64) && h.wellFormed
  | .helloResend t slot => decide (t < 2 ^ 64) && decide (slot < 4096)
  | .rekey t p => decide (t < 2 ^ 64) && p.wellFormed
  | .rekeyAck t p => decide (t < 2 ^ 64) && p.wellFormed
  | .keyUpdateTrigger t slot => decide (t < 2 ^ 64) && decide (slot < 4096)
  | .previousKeyExpiry t slot => decide (t < 2 ^ 64) && decide (slot < 4096)
  | .close t slot _ _ => decide (t < 2 ^ 64) && decide (slot < 4096)
  | .closeWaitEnd t slot => decide (t < 2 ^ 64) && decide (slot < 4096)
  | .regionAdv t p => decide (t < 2 ^ 64) && p.wellFormed
  | .regionWd t p => decide (t < 2 ^ 64) && p.wellFormed
  | .regionWdDone t slot rkey => decide (t < 2 ^ 64) && decide (slot < 4096) && decide (rkey < 2 ^ 32)
  | .linkDown t link => decide (t < 2 ^ 64) && decide (link < 16)
  | .linkUp t link => decide (t < 2 ^ 64) && decide (link < 16)
  | .connLoad t _ _ => decide (t < 2 ^ 64)
  | .connRemove t _ => decide (t < 2 ^ 64)
  | .regionRegister t _ => decide (t < 2 ^ 64)
  | .regionRevoke t _ => decide (t < 2 ^ 64)
  | .revocationAbandon t index => decide (t < 2 ^ 64) && decide (index < 65536)
  | .revocationComplete t index => decide (t < 2 ^ 64) && decide (index < 65536)
  | .subreq t p => decide (t < 2 ^ 64) && p.wellFormed
  | .partialMsg t p => decide (t < 2 ^ 64) && p.wellFormed
  | .leaf t p => decide (t < 2 ^ 64) && p.wellFormed
  | .journal t p => decide (t < 2 ^ 64) && p.wellFormed
  | .move t p => decide (t < 2 ^ 64) && p.wellFormed
  | .moveAck t p => decide (t < 2 ^ 64) && p.wellFormed
  | .moveCommitMsg t p => decide (t < 2 ^ 64) && p.wellFormed
  | .moveCopyComplete t _ _ => decide (t < 2 ^ 64)
  | .pageOp t p => decide (t < 2 ^ 64) && p.wellFormed
  | .pageOpDone t p => decide (t < 2 ^ 64) && p.wellFormed
  | .inventory t p => decide (t < 2 ^ 64) && p.wellFormed
  | .inventoryResponse t p => decide (t < 2 ^ 64) && p.wellFormed
  | .seCommandStart t engine => decide (t < 2 ^ 64) && decide (engine < 192)
  | .seCommandComplete t engine _ _ => decide (t < 2 ^ 64) && decide (engine < 192)
  | .seWatchdog t engine => decide (t < 2 ^ 64) && decide (engine < 192)
  | .seSelfTest t _ => decide (t < 2 ^ 64)
  | .seSelfTestDone t _ => decide (t < 2 ^ 64)
  | .tierSeMaskWrite t n _ => decide (t < 2 ^ 64) && decide (n < 3)
  | .tierSeFaultClear t n _ => decide (t < 2 ^ 64) && decide (n < 3)
  | .hdmRead t _ len => decide (t < 2 ^ 64) && decide (1 ≤ len)
  | .hdmWrite t _ _ => decide (t < 2 ^ 64)
  | .leaseGap t engine => decide (t < 2 ^ 64) && decide (engine < 192)
  | .snoopComplete t ctx page => decide (t < 2 ^ 64) && decide (ctx < 512) && decide (page < 2 ^ 31)
  | .farReadTimeout t _ ctx page => decide (t < 2 ^ 64) && decide (ctx < 512) && decide (page < 2 ^ 31)
  | .farChannelFail t channel => decide (t < 2 ^ 64) && decide (channel < 16)
  | .hostLinkDown t => decide (t < 2 ^ 64)
  | .hostLinkUp t _ _ => decide (t < 2 ^ 64)
  | .bedrockGc t => decide (t < 2 ^ 64)
  | .readDisturbRelocate t _ => decide (t < 2 ^ 64)
  | .blockRetire t _ _ => decide (t < 2 ^ 64)
  | .progLoad t _ _ => decide (t < 2 ^ 64)
  | .progUnload t _ => decide (t < 2 ^ 64)
  | .ctxCreate t _ _ => decide (t < 2 ^ 64)
  | .ctxLoadProfile t _ _ => decide (t < 2 ^ 64)
  | .ctxTeardown t _ => decide (t < 2 ^ 64)
  | .teardownClose t ctx => decide (t < 2 ^ 64) && decide (ctx < 512)
  | .keyZeroise t ctx => decide (t < 2 ^ 64) && decide (ctx < 512)
  | .tombstoneDurable t ctx => decide (t < 2 ^ 64) && decide (ctx < 512)
  | .scrubComplete t ctx => decide (t < 2 ^ 64) && decide (ctx < 512)
  | .geodeLoad t _ _ => decide (t < 2 ^ 64)
  | .geodeUnload t _ => decide (t < 2 ^ 64)
  | .ctxClassWrite t _ => decide (t < 2 ^ 64)
  | .assayCompare t _ _ => decide (t < 2 ^ 64)
  | .assayAttribution t _ _ _ => decide (t < 2 ^ 64)
  | .healthAssayWrite t _ => decide (t < 2 ^ 64)
  | .healthTilefClear t n _ => decide (t < 2 ^ 64) && decide (n < 24)
  | .compStage t _ _ => decide (t < 2 ^ 64)
  | .compWithdraw t _ => decide (t < 2 ^ 64)
  | .mapActivation t => decide (t < 2 ^ 64)
  | .drainTimeout t => decide (t < 2 ^ 64)
  | .rebuildPageCommit t ctx _ layer head index => decide (t < 2 ^ 64) && decide (ctx < 512) && decide (layer < 4096) && decide (head < 128) && decide (index < 2 ^ 32)
  | .isolationTimeout t => decide (t < 2 ^ 64)
  | .suspectWindowEnd t => decide (t < 2 ^ 64)
  | .powerExitComplete t => decide (t < 2 ^ 64)
  | .supplyWarning t mv => decide (t < 2 ^ 64) && decide (mv < 65536)
  | .flushAcknowledged t => decide (t < 2 ^ 64)
  | .supplyRecovery t => decide (t < 2 ^ 64)
  | .brownout t mv => decide (t < 2 ^ 64) && decide (mv < 65536)
  | .powerAverage t watts => decide (t < 2 ^ 64) && decide (watts < 65536)
  | .weatheringSample t _ _ => decide (t < 2 ^ 64)
  | .weatheringReport t => decide (t < 2 ^ 64)
  | .rangerTakeRecord t => decide (t < 2 ^ 64)
  | .eventDelivery t sub _ => decide (t < 2 ^ 64) && decide (sub < 8)
  | .postRetry t sub _ => decide (t < 2 ^ 64) && decide (sub < 8)
  | .subscriptionSuspend t sub => decide (t < 2 ^ 64) && decide (sub < 8)
  | .tlsSession t o => decide (t < 2 ^ 64) && decide (o.tcpPort < 65536)
  | .sessionIdleTimeout t _ => decide (t < 2 ^ 64)
  | .managerReset t _ => decide (t < 2 ^ 64)
  | .nodeReset t _ => decide (t < 2 ^ 64)
  | .rangerWatchdog t => decide (t < 2 ^ 64)
  | .rangerSelfTest t _ => decide (t < 2 ^ 64)
  | .rangerEccError t => decide (t < 2 ^ 64)
  | .trustAnchorInstall t _ _ cert => decide (t < 2 ^ 64) && !cert.isEmpty
  | .trustAnchorRemove t _ _ => decide (t < 2 ^ 64)
  | .firstAnchorInstall t _ _ => decide (t < 2 ^ 64)
  | .spdmMeasurements t nonce => decide (t < 2 ^ 64) && nonce.length == 32
  | .updateImage t _ _ _ digest _ => decide (t < 2 ^ 64) && digest.length == 64
  | .networkProtocolWrite t _ _ _ _ _ _ => decide (t < 2 ^ 64)
  | .debugRequest t _ _ => decide (t < 2 ^ 64)
  | .traceArm t _ => decide (t < 2 ^ 64)
  | .traceEnd t => decide (t < 2 ^ 64)
  | .dbgRead t _ => decide (t < 2 ^ 64)
  | .dbgUnitTakeOut t _ => decide (t < 2 ^ 64)
  | .dbgUnitReturn t _ => decide (t < 2 ^ 64)
  | .dbgFreqLimitWrite t _ => decide (t < 2 ^ 64)
  | .secLockSet t _ => decide (t < 2 ^ 64)
  | .rwlWrite t offset _ => decide (t < 2 ^ 64) && (decide (offset < 2 ^ 20) && offset % 8 == 0)
  | .drbgFail t => decide (t < 2 ^ 64)
  | .registerWrite t offset size _ => decide (t < 2 ^ 64) && decide (offset < 2 ^ 20) && (size == 4 || size == 8)
  | .powerOn t mv => decide (t < 2 ^ 64) && decide (mv < 65536)
  | .moduleReset t _ => decide (t < 2 ^ 64)
  | .cxlHotReset t _ => decide (t < 2 ^ 64)
  | .flr t => decide (t < 2 ^ 64)
  | .perstNRelease t => decide (t < 2 ^ 64)
  | .startupStageComplete t _ => decide (t < 2 ^ 64)
  | .vinMated t mv _ => decide (t < 2 ^ 64) && decide (mv < 65536)
  | .holdupCharged t => decide (t < 2 ^ 64)
  | .overVoltage t mv => decide (t < 2 ^ 64) && decide (mv < 65536)
  | .overVoltageClear t mv => decide (t < 2 ^ 64) && decide (mv < 65536)
  | .stackChannelFail t channel => decide (t < 2 ^ 64) && decide (channel < 192)
  | .moduleResetRelease t => decide (t < 2 ^ 64)
  | .inputSample t mv => decide (t < 2 ^ 64) && decide (mv < 65536)
  | .ptpLockAcquired t _ => decide (t < 2 ^ 64)
  | .entropyHealthPass t => decide (t < 2 ^ 64)
  | .bedrockBlockErased t _ => decide (t < 2 ^ 64)
  | .reorderAllowanceExpiry t slot _ _ => decide (t < 2 ^ 64) && decide (slot < 4096)
  | .operationBucketRefill t slot => decide (t < 2 ^ 64) && decide (slot < 4096)
  | .pfcFrame t port priority _ => decide (t < 2 ^ 64) && decide (port < 8) && decide (priority < 8)
  | .neighborDiscoveryFrame t link _ => decide (t < 2 ^ 64) && decide (link < 16)
  | .certificateInstall t _ _ _ _ => decide (t < 2 ^ 64)
  | .eventSubscriptionCreate t _ _ _ _ => decide (t < 2 ^ 64)

end Sys2Proof
end

