-- ==== Sys2Proof/Config.lean ====
section
/-! DEFINITION. What the manual leaves open: free values. None has a body, so a claim that holds of the
model holds whatever each of them is (notes/assumptions/4.md). -/
namespace Sys2Proof.Config

/-- A free natural number per draw: nonces, keys and seeds of the generator of R240 (11_isolation.md). -/
opaque freeNat : Nat → Nat

/-- A free byte per draw: stored ciphertext (R241, R370), random bytes of a handshake (R197). -/
opaque freeByte : Nat → Byte

/-- How the assay draw combines seed, request index, request sequence, page number and ROW_FIRST
before `mix` (R275, 12_integrity.md gives the ingredients and not the combination). -/
opaque assayCombine : Nat → Nat → Nat → Nat → Nat → BitVec 64

/-- The digest of the base die's fixed self-test partial (R120 says it is the same on every good part
and does not print it). -/
opaque selfTestDigest : Word

/-- The half-column voltage, in mV, that the power stages give at a frequency in MHz (R313: "Voltage
follows frequency"; the curve is not printed). -/
opaque railMv : Nat → Nat

/-- The signature of an SPDM measurement response over the nonce and the blocks (R260, R326): its per-signature value is random. -/
opaque spdmSignature : Nat → Bytes → Bytes

/-- What measurement blocks 0 to 6 hold as manufacture left them (Table 11.8): digests of images and of the configuration record, and the
encryption public key, whose values the manual does not print. -/
opaque measurement : Nat → Bytes

/-- An ECDSA P-521 signature r || s by the identity key (R197): its per-signature value is random (R240). -/
opaque identitySignature : Nat → Bytes → Bytes

/-- AES-256-GCM sealing of a packet under a symbolic key (R193): key, nonce, additional data, plain text. -/
opaque gcmSeal : Nat → Bytes → Bytes → Bytes → Bytes

/-- MSG_ID of a handshake SEND, by CONN and KIND: message IDs start once the handshake completes (R195, R197). -/
opaque handshakeMsg : Nat → Nat → Nat

/-- The words of a stored line as they lie on the pins, by draw and by the tweak of R241: which bytes lie at a physical address the manual
does not say (R370). -/
opaque storedWord : Nat → BitVec 128 → Nat → Word

/-- Sign and payload of the NaN an FP32 operation gives on two operands (R72 says NaN and no more). -/
opaque nanBits : F32 → F32 → F32

/-- Cycles of a housekeeping task whose cost the manual does not print (R32): which kind, and which page, move or context. -/
opaque hkCycles : Nat → Nat → Nat

/-- Cycles of rebuilding the share trees of some heads (R266): request, first head, heads. -/
opaque treeCycles : Nat → Nat → Nat → Nat

/-- A register of a tile thread whose content number is given: what a task leaves there the manual does not say (R238). -/
opaque threadReg : Nat → Nat → Nat

/-- The conversation under whose number a member's page records a page that a conversation homed elsewhere shares by FORK: the peer messages
of Table 13.3 carry no FORK (R125, R166): context, conversation, head key and page index. -/
opaque forkOf : Nat → Nat → Nat → Nat

/-- One less than the program units in an erase block of bedrock, and the erase blocks of a channel (R141, R142 print neither). -/
opaque blockUnits : Nat
opaque channelBlocks : Nat

/-- Channel-local addresses at which the record pool and the sketch pool of a stack channel begin (R92). -/
opaque recordPool : Nat → Nat
opaque sketchPool : Nat → Nat

end Sys2Proof.Config
end

