-- ==== Sys2Proof/Machine/Maps.lean ====
section
/-! DEFINITION. Operations on sparse maps (lists of key and value pairs in rising key order) and on lists of
records selected by a predicate. -/
namespace Sys2Proof.Machine

/-- The value at a key. -/
def mget {α : Type} : Map α → Nat → Option α
  | [], _ => none
  | (k, v) :: m, i => if i = k then some v else mget m i

/-- Put a value at a key, keeping the keys rising. -/
def mset {α : Type} : Map α → Nat → α → Map α
  | [], i, x => [(i, x)]
  | (k, v) :: m, i, x =>
    if i < k then (i, x) :: (k, v) :: m
    else if i = k then (i, x) :: m
    else (k, v) :: mset m i x

/-- Remove a key. -/
def mdel {α : Type} : Map α → Nat → Map α
  | [], _ => []
  | (k, v) :: m, i => if i = k then mdel m i else (k, v) :: mdel m i

/-- Change the value at a key, if there is one. -/
def mmod {α : Type} (m : Map α) (i : Nat) (f : α → α) : Map α :=
  m.map (fun e => if e.1 = i then (e.1, f e.2) else e)

/-- Change every value. -/
def mall {α : Type} (m : Map α) (f : Nat → α → α) : Map α :=
  m.map (fun e => (e.1, f e.1 e.2))

/-- Whether a key is present. -/
def mhas {α : Type} (m : Map α) (i : Nat) : Bool := (mget m i).isSome

/-- Put a value at a key, or remove the key. -/
def mput {α : Type} (m : Map α) (i : Nat) : Option α → Map α
  | some v => mset m i v
  | none => mdel m i

/-- The keys strictly rise from a bound on. -/
def mwfFrom {α : Type} : Nat → Map α → Bool
  | _, [] => true
  | lo, (k, _) :: m => decide (lo ≤ k) && mwfFrom (k + 1) m

/-- The keys strictly rise. -/
def mwf {α : Type} (m : Map α) : Bool := mwfFrom 0 m

/-- The smallest key below `n` that is absent, counting from `i`. -/
def mfree {α : Type} (m : Map α) (i : Nat) : Nat → Option Nat
  | 0 => none
  | fuel + 1 => if mhas m i then mfree m (i + 1) fuel else some i

/-- Change the list elements that satisfy a predicate. -/
def lmod {α : Type} (l : List α) (p : α → Bool) (f : α → α) : List α :=
  l.map (fun a => if p a then f a else a)

/-- Change one list element by position. -/
def lset {α : Type} : List α → Nat → α → List α
  | [], _, _ => []
  | _ :: l, 0, x => x :: l
  | a :: l, i + 1, x => a :: lset l i x

/-- The element at a position, or a default. -/
def lget {α : Type} (l : List α) (i : Nat) (d : α) : α := (l[i]?).getD d

/-- Sum of a list of numbers. -/
def lsum (l : List Nat) : Nat := l.foldl (· + ·) 0

/-- Insert into a list sorted by a key, after the elements of equal key. -/
def linsert {α : Type} (key : α → Nat) (x : α) : List α → List α
  | [] => [x]
  | a :: l => if key a ≤ key x then a :: linsert key x l else x :: a :: l

/-- Stable sort by a key. -/
def lsort {α : Type} (key : α → Nat) (l : List α) : List α :=
  l.foldl (fun acc x => linsert key x acc) []

/-- A counter field that stops at its largest value. -/
def satAdd (x n top : Nat) : Nat := if x + n > top then top else x + n

/-- Round up to a multiple. -/
def ceilDiv (a b : Nat) : Nat := if b = 0 then 0 else (a + b - 1) / b

end Sys2Proof.Machine
end

