-- ==== Sys2Proof/Machine/Bytes.lean ====
section
/-! DEFINITION. Byte strings: little-endian and big-endian numbers in them (R6, 00_scope.md) and bit fields of
numbers. -/
namespace Sys2Proof.Machine

/-- The number a byte string holds, first byte least significant. -/
def leNat : Bytes → Nat
  | [] => 0
  | b :: l => b.toNat + 256 * leNat l

/-- `n` bytes of a number, least significant first. -/
def leBytes : Nat → Nat → Bytes
  | 0, _ => []
  | n + 1, x => BitVec.ofNat 8 x :: leBytes n (x / 256)

/-- The number a byte string holds, first byte most significant. -/
def beNat (l : Bytes) : Nat := l.foldl (fun a b => 256 * a + b.toNat) 0

/-- `n` bytes of a number, most significant first. -/
def beBytes (n x : Nat) : Bytes := (leBytes n x).reverse

/-- `n` bytes at an offset. -/
def slice (l : Bytes) (off n : Nat) : Bytes := (l.drop off).take n

/-- A little-endian number of `n` bytes at an offset. -/
def le (l : Bytes) (off n : Nat) : Nat := leNat (slice l off n)

/-- A big-endian number of `n` bytes at an offset (network byte order). -/
def be (l : Bytes) (off n : Nat) : Nat := beNat (slice l off n)

/-- Bits `hi` down to `lo` of a number. -/
def bits (x hi lo : Nat) : Nat := (x >>> lo) % 2 ^ (hi + 1 - lo)

/-- One bit of a number. -/
def bit (x i : Nat) : Bool := x.testBit i

/-- Whether `n` bytes at an offset are all zero. -/
def zeroAt (l : Bytes) (off n : Nat) : Bool := (slice l off n).all (· == 0)

/-- A number from a truth value. -/
def b2n (b : Bool) : Nat := if b then 1 else 0

/-- The numbers `a`, `a + 1`, ... below `b`. -/
def span (a b : Nat) : List Nat := (List.range (b - a)).map (a + ·)

/-- A byte string padded with zeros to a length. -/
def padTo (n : Nat) (l : Bytes) : Bytes := l ++ List.replicate (n - l.length) 0

end Sys2Proof.Machine
end

