-- ==== Sys2Proof/Machine/Fp.lean ====
section
/-! DEFINITION. FP32 arithmetic of the node (R56-R58, R63, 03_attention.md; R72, 04_score_modifiers.md): every
operation rounds an exact result; subnormal inputs and results are flushed to a zero of the same sign,
with tininess detected after rounding. -/
namespace Sys2Proof.Machine

/-- A decoded FP32 value: `fin neg m e` is (-1)^neg * m * 2^e. -/
inductive Fv where
  | nan
  | inf (neg : Bool)
  | fin (neg : Bool) (m : Nat) (e : Int)
deriving DecidableEq, Repr

/-- Decode a bit pattern; a subnormal is read as a zero of its sign (R58). -/
def fUnpack (x : F32) : Fv :=
  let n := x.toNat
  let neg := bit n 31
  let e := bits n 30 23
  let f := bits n 22 0
  if e = 255 then (if f = 0 then .inf neg else .nan)
  else if e = 0 then .fin neg 0 0
  else .fin neg (2 ^ 23 + f) ((e : Int) - 150)

/-- Bit pattern from sign, biased exponent and fraction. -/
def fRaw (neg : Bool) (e f : Nat) : F32 :=
  BitVec.ofNat 32 (b2n neg * 2 ^ 31 + e * 2 ^ 23 + f)

/-- Plus or minus zero. -/
def fZero (neg : Bool) : F32 := fRaw neg 0 0

/-- Plus or minus infinity. -/
def fInf (neg : Bool) : F32 := fRaw neg 255 0

/-- A NaN; which one the manual does not say (notes/assumptions/7.md), as a function of the operands (R74). -/
def fNan (x y : F32) : F32 := 0x7FC00000#32 ||| (Config.nanBits x y &&& 0x803FFFFF#32)

/-- Rounding directions used by the manual. -/
inductive Rnd where
  /-- To nearest, ties to even. -/
  | near
  /-- Toward plus infinity. -/
  | up
  /-- Toward minus infinity. -/
  | down
deriving DecidableEq, Repr

/-- Round a magnitude m * 2^e (with a sticky bit below it) to `p` significant bits, exponent unbounded. -/
def fRound (p : Nat) (r : Rnd) (neg : Bool) (m : Nat) (sticky : Bool) (e : Int) : Nat × Int :=
  let w := Nat.log2 m + 1
  if w ≤ p then
    let inc := sticky && (match r with | .near => false | .up => !neg | .down => neg)
    if inc then ((m <<< (p - w)) + 1, e - ((p - w : Nat) : Int)) else (m, e)
  else
    let k := w - p
    let q := m >>> k
    let rem := m % 2 ^ k
    let half := 2 ^ (k - 1)
    let inexact := rem != 0 || sticky
    let inc := match r with
      | .near => if rem > half then true else if rem = half then (if sticky then true else q % 2 == 1) else false
      | .up => inexact && !neg
      | .down => inexact && neg
    (if inc then q + 1 else q, e + k)

/-- Whether m * 2^e is below 2^-126. -/
def fTiny (m : Nat) (e : Int) : Bool := decide ((Nat.log2 m : Int) + e < -126)

/-- Pack a rounded magnitude of at most 24 bits; flushes below 2^-126, overflows to infinity. -/
def fPack (neg : Bool) (m : Nat) (e : Int) : F32 :=
  if m = 0 then fZero neg
  else if fTiny m e then fZero neg
  else
    let w := Nat.log2 m
    let x := (w : Int) + e
    if x > 127 then fInf neg
    else
      let f := if w ≤ 23 then m <<< (23 - w) else m >>> (w - 23)
      fRaw neg (x + 127).toNat (f % 2 ^ 23)

/-- Round to FP32 to nearest even and flush (R58). -/
def fNear (neg : Bool) (m : Nat) (sticky : Bool) (e : Int) : F32 :=
  if m = 0 then fZero neg
  else
    let (q, x) := fRound 24 .near neg m sticky e
    fPack neg q x

/-- Round toward plus infinity without a flush (R63): a tiny positive result is 2^-126, a tiny negative one +0. -/
def fUp (neg : Bool) (m : Nat) (sticky : Bool) (e : Int) : F32 :=
  if m = 0 then fZero false
  else
    let (q, x) := fRound 24 .up neg m sticky e
    if fTiny q x then (if neg then fZero false else fRaw false 1 0)
    else if neg && decide ((Nat.log2 q : Int) + x > 127) then fRaw true 254 (2 ^ 23 - 1)
    else fPack neg q x

/-- The roundings of the node's arithmetic. -/
def fFin (r : Rnd) (neg : Bool) (m : Nat) (sticky : Bool) (e : Int) : F32 :=
  match r with
  | .up => fUp neg m sticky e
  | _ => fNear neg m sticky e

/-- The exact sum of two finite values as sign, magnitude and exponent. -/
def fSum (na : Bool) (ma : Nat) (ea : Int) (nb : Bool) (mb : Nat) (eb : Int) : Bool × Nat × Int :=
  let e := min ea eb
  let a := ma <<< (ea - e).toNat
  let b := mb <<< (eb - e).toNat
  if na = nb then (na, a + b, e)
  else if a > b then (na, a - b, e)
  else if b > a then (nb, b - a, e)
  else (false, 0, e)

/-- Addition. -/
def fAddR (r : Rnd) (x y : F32) : F32 :=
  match fUnpack x, fUnpack y with
  | .nan, _ => fNan x y
  | _, .nan => fNan x y
  | .inf a, .inf b => if a = b then fInf a else fNan x y
  | .inf a, _ => fInf a
  | _, .inf b => fInf b
  | .fin na ma ea, .fin nb mb eb =>
    if ma = 0 && mb = 0 then fZero (na && nb)
    else
      let (n, m, e) := if ma = 0 then (nb, mb, eb) else if mb = 0 then (na, ma, ea) else fSum na ma ea nb mb eb
      fFin r n m false e

/-- Multiplication. -/
def fMulR (r : Rnd) (x y : F32) : F32 :=
  match fUnpack x, fUnpack y with
  | .nan, _ => fNan x y
  | _, .nan => fNan x y
  | .inf a, .inf b => fInf (a != b)
  | .inf a, .fin nb mb _ => if mb = 0 then fNan x y else fInf (a != nb)
  | .fin na ma _, .inf b => if ma = 0 then fNan x y else fInf (na != b)
  | .fin na ma ea, .fin nb mb eb =>
    if ma = 0 || mb = 0 then fZero (na != nb) else fFin r (na != nb) (ma * mb) false (ea + eb)

/-- Division, correctly rounded (R58); by zero gives a signed infinity, 0 by 0 NaN (R72). -/
def fDivR (r : Rnd) (x y : F32) : F32 :=
  match fUnpack x, fUnpack y with
  | .nan, _ => fNan x y
  | _, .nan => fNan x y
  | .inf _, .inf _ => fNan x y
  | .inf a, .fin nb _ _ => fInf (a != nb)
  | .fin na _ _, .inf b => fZero (na != b)
  | .fin na ma ea, .fin nb mb eb =>
    if mb = 0 then (if ma = 0 then fNan x y else fInf (na != nb))
    else if ma = 0 then fZero (na != nb)
    else
      let n := ma <<< 32
      fFin r (na != nb) (n / mb) (n % mb != 0) (ea - eb - 32)

/-- FP32 addition, to nearest even. -/
def fadd (x y : F32) : F32 := fAddR .near x y
/-- FP32 multiplication, to nearest even. -/
def fmul (x y : F32) : F32 := fMulR .near x y
/-- FP32 division, to nearest even. -/
def fdiv (x y : F32) : F32 := fDivR .near x y
/-- Sign inverted. -/
def fneg (x : F32) : F32 := x ^^^ 0x80000000#32
/-- Sign cleared. -/
def fabs (x : F32) : F32 := x &&& 0x7FFFFFFF#32
/-- FP32 subtraction. -/
def fsub (x y : F32) : F32 := fadd x (fneg y)

/-- Whether a pattern is a NaN. -/
def fIsNan (x : F32) : Bool := fUnpack x == .nan
/-- Whether a pattern is minus infinity. -/
def fIsNegInf (x : F32) : Bool := x == 0xFF800000#32
/-- Whether a pattern is plus infinity or NaN (the score error of R43). -/
def fBadScore (x : F32) : Bool := fIsNan x || x == 0x7F800000#32
/-- Whether a pattern is an infinity or NaN. -/
def fNonFinite (x : F32) : Bool := bits x.toNat 30 23 == 255
/-- Flush a subnormal to a zero of its sign (R58). -/
def fFlush (x : F32) : F32 := if bits x.toNat 30 23 = 0 then x &&& 0x80000000#32 else x

/-- Whether a pattern is greater than 0 as a number, subnormals included: the range tests of profile fields
(Table 3.1), which are no canonical operation. -/
def fPositive (x : F32) : Bool := !fIsNan x && !bit x.toNat 31 && x != 0#32

/-- a < b for finite values given as sign, magnitude and exponent; zeros are equal. -/
def fLtFin (na : Bool) (ma : Nat) (ea : Int) (nb : Bool) (mb : Nat) (eb : Int) : Bool :=
  let (n, m, _) := fSum na ma ea (!nb) mb eb
  n && m != 0

/-- a < b; false when either is NaN (R72). -/
def flt (x y : F32) : Bool :=
  match fUnpack x, fUnpack y with
  | .nan, _ => false
  | _, .nan => false
  | .inf a, .inf b => a && !b
  | .inf a, .fin _ _ _ => a
  | .fin _ _ _, .inf b => !b
  | .fin na ma ea, .fin nb mb eb => fLtFin na ma ea nb mb eb

/-- a = b as values; false when either is NaN. -/
def feq (x y : F32) : Bool := !fIsNan x && !fIsNan y && !flt x y && !flt y x

/-- a ≤ b; false when either is NaN (R72). -/
def fle (x y : F32) : Bool := flt x y || feq x y

/-- Larger value; NaN if either is; -0 below +0 (R72). -/
def fmax (x y : F32) : F32 :=
  if fIsNan x || fIsNan y then fNan x y
  else if flt x y then fFlush y
  else if flt y x then fFlush x
  else if bit x.toNat 31 then fFlush y else fFlush x

/-- Smaller value; NaN if either is; -0 below +0 (R72). -/
def fmin (x y : F32) : F32 :=
  if fIsNan x || fIsNan y then fNan x y
  else if flt x y then fFlush x
  else if flt y x then fFlush y
  else if bit x.toNat 31 then fFlush x else fFlush y

/-- An integer converted to FP32 by a rounding. -/
def fOfIntR (r : Rnd) (i : Int) : F32 := fFin r (i < 0) i.natAbs false 0

/-- An integer converted to FP32, nearest even. -/
def fOfInt (i : Int) : F32 := fOfIntR .near i

/-- A natural number converted to FP32, nearest even. -/
def fOfNat (n : Nat) : F32 := fOfInt n

/-- BF16 to FP32. -/
def fOfBf16 (x : BitVec 16) : F32 := (x.setWidth 32) <<< 16

/-- Round an FP32 value to BF16 in a direction; result flushed under R58. -/
def toBf16R (r : Rnd) (x : F32) : BitVec 16 :=
  match fUnpack x with
  | .nan => (x >>> 16).setWidth 16 ||| 0x0040#16
  | .inf n => if n then 0xFF80#16 else 0x7F80#16
  | .fin n m e =>
    if m = 0 then (if n then 0x8000#16 else 0#16)
    else
      let (q, z) := fRound 8 r n m false e
      ((fPack n q z) >>> 16).setWidth 16

/-- Round to BF16, nearest even (R58). -/
def toBf16 (x : F32) : BitVec 16 := toBf16R .near x

/-- Magnitude of an integer times a power of two, rounded down, with the part lost. -/
def shiftInt (m : Nat) (e : Int) : Nat × Nat × Nat :=
  if 0 ≤ e then (m <<< e.toNat, 0, 1)
  else
    let k := (-e).toNat
    (m >>> k, m % 2 ^ k, 2 ^ k)

/-- floor of a finite FP32 value. -/
def fFloor (x : F32) : Int :=
  match fUnpack x with
  | .fin n m e =>
    let (q, r, _) := shiftInt m e
    if n then -((if r = 0 then q else q + 1 : Nat) : Int) else (q : Int)
  | _ => 0

/-- Nearest integer of a finite FP32 value, ties to even (R86). -/
def fRoundInt (x : F32) : Int :=
  match fUnpack x with
  | .fin n m e =>
    let (q, r, d) := shiftInt m e
    let up := if 2 * r > d then true else if 2 * r = d then q % 2 == 1 else false
    let v := if up then q + 1 else q
    if n then -(v : Int) else (v : Int)
  | _ => 0

/-- Multiply by a power of two (R57): exact scaling, below 2^-126 gives 0, beyond the range +infinity. -/
def fLdexp (x : F32) (k : Int) : F32 :=
  match fUnpack x with
  | .fin n m e => if m = 0 then x else if fTiny m (e + k) then fZero false else fPack n m (e + k)
  | _ => x

/-- 2^(k/64) rounded to nearest FP32, for k = 0 .. 63 (R57). -/
def pow2Table : List F32 :=
  [0x3F800000, 0x3F8164D2, 0x3F82CD87, 0x3F843A29, 0x3F85AAC3, 0x3F871F62, 0x3F88980F, 0x3F8A14D5,
   0x3F8B95C2, 0x3F8D1ADF, 0x3F8EA43A, 0x3F9031DC, 0x3F91C3D3, 0x3F935A2B, 0x3F94F4F0, 0x3F96942D,
   0x3F9837F0, 0x3F99E046, 0x3F9B8D3A, 0x3F9D3EDA, 0x3F9EF532, 0x3FA0B051, 0x3FA27043, 0x3FA43516,
   0x3FA5FED7, 0x3FA7CD94, 0x3FA9A15B, 0x3FAB7A3A, 0x3FAD583F, 0x3FAF3B79, 0x3FB123F6, 0x3FB311C4,
   0x3FB504F3, 0x3FB6FD92, 0x3FB8FBAF, 0x3FBAFF5B, 0x3FBD08A4, 0x3FBF179A, 0x3FC12C4D, 0x3FC346CD,
   0x3FC5672A, 0x3FC78D75, 0x3FC9B9BE, 0x3FCBEC15, 0x3FCE248C, 0x3FD06334, 0x3FD2A81E, 0x3FD4F35B,
   0x3FD744FD, 0x3FD99D16, 0x3FDBFBB8, 0x3FDE60F5, 0x3FE0CCDF, 0x3FE33F89, 0x3FE5B907, 0x3FE8396A,
   0x3FEAC0C7, 0x3FED4F30, 0x3FEFE4BA, 0x3FF28177, 0x3FF5257D, 0x3FF7D0DF, 0x3FFA83B3, 0x3FFD3E0C]

/-- canon_exp (R57), extended to positive arguments by the same procedure (Table 4.3, FEXP). -/
def canonExp (x : F32) : F32 :=
  match fUnpack x with
  | .nan => fNan x x
  | .inf n => if n then fZero false else fInf false
  | .fin _ _ _ =>
    let t := fmul x 0x42B8AA3B#32
    if fNonFinite t then (if bit t.toNat 31 then fZero false else fInf false)
    else
      let n := fFloor t
      let f := fmul (fsub t (fOfInt n)) 0x3C317218#32
      let p := fadd (fmul (fadd (fmul (fadd (fmul f 0x3E2AAAAB#32) 0x3F000000#32) f) 0x3F800000#32) f) 0x3F800000#32
      let y := fmul (lget pow2Table (n % 64).toNat 0) p
      fLdexp y (n / 64)

/-- canon_tanh (R58): sign(x) * (1 - e) / (1 + e), e = canon_exp(-2|x|). The sign of a zero is its sign bit, so -0 gives -0 (DESIGN CHOICE,
notes/assumptions/45.md: R58 and R72 leave sign(x) at zero open). -/
def canonTanh (x : F32) : F32 :=
  if fIsNan x then fNan x x
  else
    let e := canonExp (fmul 0xC0000000#32 (fabs x))
    let y := fdiv (fsub 0x3F800000#32 e) (fadd 0x3F800000#32 e)
    if bit x.toNat 31 then fneg y else y

/-- Integer square root by binary digits, from the bit below `fuel`. -/
def isqrt (n : Nat) : Nat → Nat → Nat
  | 0, r => r
  | k + 1, r => if (r + 2 ^ k) * (r + 2 ^ k) ≤ n then isqrt n k (r + 2 ^ k) else isqrt n k r

/-- 1/√d correctly rounded, the default score scale (Table 3.1). -/
def fInvSqrt (d : Nat) : F32 :=
  if d = 0 then fInf false
  else
    let r := isqrt (2 ^ 80 / d) 41 0
    fNear false r (r * r * d != 2 ^ 80) (-40)

/-- One level of the fixed pairwise tree of R56. -/
def treeLevel : List F32 → List F32
  | a :: b :: l => fadd a b :: treeLevel l
  | l => l

/-- Repeat the pairwise tree. -/
def treeFuel : Nat → List F32 → F32
  | 0, l => l.headD (fZero false)
  | n + 1, l => treeFuel n (treeLevel l)

/-- tree64 (R56): six levels. -/
def tree64 (l : List F32) : F32 := treeFuel 6 l

end Sys2Proof.Machine
end

