-- ==== Sys2Proof/Machine/State.lean ====
section
/-! DEFINITION. The state of the block: every register, queue, buffer, counter, mode and pin the spec gives
it, as plain data, with the queue of waiting commands; `State.reset` is the node as reset leaves it. -/
namespace Sys2Proof.Machine

/-! ### Registers -/

/-- The 64-bit registers of BAR0 by offset (R360, Table 18.1); an unlisted offset reads its reset value, and
no entry equals that value. -/
abbrev RegFile := Map Word

/-- A write whose effect waits for a tick boundary at least 400 ns later (R16, R362). -/
structure StagedWrite where
  time : Nat
  reg : Nat
  value : Word
deriving DecidableEq, Repr

/-! ### The tick -/

/-- Period, shares, origin and source in force, and what is staged (R19, R24, R35, R38-R40, 02_tick.md). -/
structure TickState where
  /-- Time of the last boundary and of the next one (R21). -/
  last : Nat
  next : Nat
  /-- Boundaries since the start barrier (TICK_INDEX). -/
  index : Nat
  periodUs : Nat
  shares : List Nat
  origin : Nat
  source : Nat
  stagedPeriod : Option Nat
  stagedShares : Option (List Nat)
  stagedOrigin : Option Nat
  stagedSource : Option Nat
  /-- START written, start pulse due at the next boundary (R34). -/
  startDue : Bool
  /-- ARM written while RUNNING (R39). -/
  rearmed : Bool
  holdover : Bool
  /-- The node stays in holdover after the reference returned out of limit, until it is armed again (R37). -/
  stuck : Bool
  ptpLocked : Bool
  ptpStepped : Bool
  lastEdge : Option Nat
  /-- PTP time less node time at the lock that node time has not been stepped to (R20). -/
  ptpAhead : Option Int
  /-- SYNC_OUT was enabled while the node ran: it drives ordinary pulses only (R40). -/
  syncPlain : Bool
  /-- TICK_ALIGN as last written while RUNNING: SYNC_DELAY_NS and SYNC_OUT_EN wait for the next boundary (R40). -/
  stagedAlign : Option Word
  /-- Boundaries since power-on, which no start point sets back: the model's own count of ticks, for the due tick of R33. -/
  count : Nat
  published : Bool
deriving DecidableEq, Repr

/-! ### Requests, pages, conversations -/

/-- The descriptor of Table 8.4 (08_rings.md), field by field. -/
structure Desc where
  opcode : Nat
  flags : Nat
  tag : Nat
  conv : Nat
  layer : Nat
  kvhFirst : Nat
  kvhCount : Nat
  qgroup : Nat
  qpos : Nat
  modifier : Nat
  queryAddr : Nat
  queryRkey : Nat
  resultRkey : Nat
  resultAddr : Nat
  statusAddr : Nat
  tokenFirst : Nat
  tokenSpan : Nat
  skipTheta : Nat
  reserved : Nat
deriving DecidableEq, Repr

/-- The attention section of a profile (Table 3.1, Table 18.10). -/
structure AttnProfile where
  layers : Nat
  kvheads : Nat
  group : Nat
  dk : Nat
  dv : Nat
  latent : Bool
  causal : Bool
  outRotated : Bool
  outBf16 : Bool
  geode : Nat
  sinks : Nat
  window : Nat
  scale : F32
  biasBase : F32
  biasRatio : F32
  softcap : F32
  qprojDin : Nat
  oprojDout : Nat
deriving DecidableEq, Repr

/-- The ladder section of a profile (Table 5.5). -/
structure LadderProfile where
  fresh : Nat
  fmts : List Nat
  floor : Nat
  sr : Bool
  ages : List Nat
  seed : Word
deriving DecidableEq, Repr

/-- The placement section of a profile (Table 7.3), with Q_NODE, X_SIZE and TRACK_MIN (Table 18.10). -/
structure PlaceProfile where
  stripeMin : Nat
  tail : Nat
  tSram : Nat
  sramUs : Nat
  nearMs : Nat
  farS : Nat
  qNear : Nat
  qFar : Nat
  qHost : Nat
  qNode : Nat
  xSize : Nat
  trackMin : Nat
deriving DecidableEq, Repr

/-- The class, loss, integrity and power sections of a profile (Tables 10.2, 13.7, 12.2, 14.2). -/
structure ClassProfile where
  c0Unit : Nat
  c1Unit : Nat
  c0Req : Nat
  c0Rows : Nat
  c1Req : Nat
  weights : List Nat
  fMode : Nat
  fJ : Nat
  cairn32 : Bool
  trail : Bool
  eLtolUs : Nat
deriving DecidableEq, Repr

/-- A context profile (Table 18.10, 18_registers.md) and the 256 bytes it was read from. -/
structure Profile where
  attn : AttnProfile
  ladder : LadderProfile
  place : PlaceProfile
  cls : ClassProfile
  raw : Bytes
deriving DecidableEq, Repr

/-- The partial of one query row (R51, 03_attention.md). -/
structure Partial where
  m : F32
  l : F32
  o : List F32
  z : F32
  k : Nat
deriving DecidableEq, Repr

/-- A place for a page: tier, unit of the tier (tile, stack channel, far-tier channel), frame slot in its pool, and the stack channel and
slot of its record and sketch, which count while the frame lies in tile SRAM, the stacks or the far tier (R92, R123, R129, R13). -/
structure Spot where
  tier : Nat
  home : Nat
  frame : Nat
  recHome : Nat
  recSlot : Nat
deriving DecidableEq, Repr

/-- A page held by this node: its record (Table 5.4), sketch (R93), pebbles (R91), leaf (R264), the unit of
its tier that holds it (R129), and the composition slot it belongs to (R287). -/
structure Page where
  conv : Nat
  index : Nat
  layer : Nat
  head : Nat
  format : Nat
  fill : Nat
  isSealed : Bool
  shared : Bool
  sketchValid : Bool
  poisoned : Bool
  demotePending : Bool
  refs : Nat
  tier : Nat
  rung : Nat
  frame : Nat
  digest : Bytes
  leaf : Bytes
  pebbles : List Bytes
  lo : List (BitVec 16)
  hi : List (BitVec 16)
  home : Nat
  /-- Stack channel and slot of the record and sketch (R92, R125). -/
  recHome : Nat
  recSlot : Nat
  slot : Nat
  /-- Rung of the demotion in progress while DEMOTE_PENDING is set (R96), 0 for none, and the format it goes to, as the ladder in force gave
  it when the rung was reached (R94, R16). -/
  pass : Nat
  passFmt : Nat
  /-- Pebbles with an uncorrectable error that a unit has met and whose stored bytes the model does not know (R90). -/
  bad : List Nat
  /-- Rebuilt in the far tier and not yet moved on into the stacks (R294). -/
  rebuilt : Bool
deriving DecidableEq, Repr

/-- One entry of a conversation's page map (R125): the member that holds the page, its local page number
there when that member is this node, the leaf (R264), and the poisoned and lost marks (R118, R297). Of a page that another member holds
the home keeps what the ladder, the references and an EXPORT need: RUNG, FORMAT and SHARED as the holder's record has them (R95, R98, R170),
and whether the holder has been asked to reopen it (R163). -/
structure PageEntry where
  member : Nat
  page : Nat
  leaf : Bytes
  poisoned : Bool
  lost : Bool
  rung : Nat
  fmt : Nat
  shared : Bool
  asked : Bool
deriving DecidableEq, Repr

/-- A conversation (R125, R133, R163, R164, R296). `lens` and `expected` are keyed by layer * 128 + head;
`pageMap` by (layer * 128 + head) * 2^25 + page index. -/
structure Conv where
  lens : Map Nat
  expected : Map Nat
  pageMap : Map PageEntry
  lastAttend : Nat
  pinned : Bool
  parked : Bool
  truncated : Option Nat
  /-- The creating APPEND, until it completes (R164). -/
  creator : Option Nat
  releasing : Bool
  /-- Held unserved until a map with this COMP_ID and slot activates (R338). -/
  unserved : Option (Nat × Nat)
  /-- Tier the placement engine gives the conversation now (R134). -/
  placed : Nat
  /-- Layer named by the request that last made the conversation hot (R136). -/
  hot : Nat
  /-- Slot of the composition the conversation is homed at (R125, R281). -/
  home : Nat
deriving DecidableEq, Repr

/-- A section of a geode body (Table 11.7, 11_isolation.md). -/
structure GeodeSection where
  kind : Nat
  layer : Nat
  head : Nat
  data : Bytes
deriving DecidableEq, Repr

/-- A loaded geode (R259). -/
structure Geode where
  bodyLen : Nat
  digest : Bytes
  sections : List GeodeSection
deriving DecidableEq, Repr

/-- A score-modifier program image (Table 4.4, 04_score_modifiers.md). -/
structure ProgImage where
  insn : List (BitVec 32)
  consts : List (BitVec 32)
  table : List (BitVec 32)
  digest : Bytes
  /-- Node time of the write that loaded it: two loads of one image are two images (R80). -/
  loaded : Nat
deriving DecidableEq, Repr

/-- A program slot: the image in force and the retiring image (R80). -/
structure ProgSlot where
  image : Option ProgImage
  retiring : Option ProgImage
deriving DecidableEq, Repr

/-- A load (`some`) or unload (`none`) of a program slot that waits for its boundary (R80, R16). -/
structure PendingProg where
  time : Nat
  slot : Nat
  image : Option ProgImage
deriving DecidableEq, Repr

/-- One meter set (R302, Table 13.14). -/
structure MeterSet where
  compId : Nat
  counts : List Nat
deriving DecidableEq, Repr

/-- Context states (Table 11.2). -/
inductive CtxPhase where
  | free | created | inService | draining | scrubbing
deriving DecidableEq, Repr

/-- A context (11_isolation.md). A context not listed in the state is in phase `free`. -/
structure Ctx where
  phase : CtxPhase
  hdmRead : Bool
  tenant : Bytes
  issuer : Bytes
  creation : Nat
  /-- The memory key lies in the key tables (R245, R248); its value is never readable (R243). -/
  keyLoaded : Bool
  profile : Option Profile
  pendingProfile : Option (Nat × Profile)
  slopes : List F32
  /-- Fixed parameters recorded for a restored context (R336). -/
  fixed : Option Profile
  /-- Time OP = 3 was written (teardown-pending), and the teardown boundary (R247). -/
  teardownAsked : Option Nat
  teardownAt : Option Nat
  degraded : Bool
  geodes : Map Geode
  programs : Map ProgSlot
  pendingProgs : List PendingProg
  /-- Exchange area (R210): canonical cells, an unlisted byte reads 0. -/
  xmem : List Host.Cell
  tccRelaxed : Nat
  tccBackup : Nat
  meters : List MeterSet
  /-- F_prev per class, 16 fractional bits (R222). -/
  fprev : List Nat
  convs : Map Conv
  /-- Conversations homed elsewhere of which this member holds pages or runs sub-requests: its local entries, with the lengths and the home
  slot it has been told (R125, R128). -/
  peers : Map Conv
  pages : Map Page
  retiring : List Nat
deriving DecidableEq, Repr

/-- A page partial delivered to the merge tile (R374, R106): rows `rowFirst ..` of one block. -/
structure Leaf where
  block : Nat
  head : Nat
  page : Nat
  rowFirst : Nat
  rows : List Partial
  /-- Leaf value a forwarded leaf carries (R270). -/
  leaf : Bytes
deriving DecidableEq, Repr

/-- One peer's share of a request's query block (R18, R33, R54, R300). -/
structure PeerShare where
  block : Nat
  pos : Nat
  member : Nat
  sent : Bool
  backup : Bool
  lastBackup : Bool
  rows : Option (List Partial)
  cairn : Bytes
  digest : Bytes
deriving DecidableEq, Repr

/-- A tracked request (R182) between the completion of its fetch and its final status word. -/
structure Req where
  id : Nat
  seq : Nat
  ctx : Nat
  ring : RingRef
  order : Nat
  desc : Desc
  raw : Bytes
  fetchedAt : Nat
  cls : Cls
  marked : Bool
  epoch : Nat
  /-- Slot the conversation was homed at when the request was admitted (R284). -/
  home : Nat
  /-- Operand bytes by query block (R28, R60). -/
  operands : Map Bytes
  admittedAt : Option Nat
  waited : Nat
  wrote1 : Bool
  wrote2 : Bool
  progress : Nat
  /-- N, profile, image and composition size the request runs under (R42, R80, R284). -/
  n : Nat
  profile : Option Profile
  image : Option ProgImage
  nc : Nat
  /-- FENCE or FENCE_BEFORE: fetch orders below this come first (R172). -/
  fence : Option Nat
  startedBlocks : List Nat
  doneBlocks : List Nat
  leaves : List Leaf
  shares : List PeerShare
  /-- Blocks whose anchor scan is over, so that their skip masks are formed (R373). -/
  skipBlocks : List Nat
  /-- Demotions the operation triggered and still waits for (R96). -/
  demotions : List Nat
  demoted : Nat
  /-- The operation has written its effect and awaits its acknowledgements (R164, R291). -/
  effectDone : Bool
  /-- JOURNAL messages an exact-mode APPEND waits for: connection slot and MSG_ID (R291). -/
  journalWait : List (Nat × Nat)
  /-- No further status word goes out (R178, R340). -/
  silent : Bool
  joined : Nat
  state3At : Option Nat
  /-- PROGRESS of the last STATE 3 word (R61). -/
  reported : Nat
  /-- Query blocks whose tasks the planner has formed (R60). -/
  placedBlocks : Nat
  /-- The cancelling FENCE that stops this request after its running units (R177). -/
  cancelledBy : Option Nat
  /-- Blocks for which members that only hold pages have been asked, and blocks whose leaves for other share nodes have gone
  (R128). -/
  askedHolders : List Nat
  leavesSent : List Nat
deriving DecidableEq, Repr

/-- A sub-request received from a peer (R18, R128, Table 13.4). -/
structure SubReq where
  /-- Number its tasks carry, above every tracked-request index. -/
  id : Nat
  ctx : Nat
  /-- Connection it came over; none for a backup that this home runs itself, as holder of the suspect's buddy (R300). -/
  slot : Option Nat
  hreq : Nat
  homeSlot : Nat
  nc : Nat
  pos : Nat
  block : Nat
  arrived : Nat
  admittedAt : Option Nat
  /-- Profile in force when it was admitted: it runs under that one (R16). -/
  profile : Option Profile
  /-- Program image in force when it was admitted (R80, R81). -/
  image : Option ProgImage
  epoch : Nat
  body : Bytes
  leaves : List Leaf
  /-- The leaves other share nodes need have gone (R128). -/
  leavesSent : Bool
  /-- The anchor scan of its bounded skip is over (R373). -/
  skipReady : Bool
deriving DecidableEq, Repr

/-! ### The itinerary -/

/-- What a placed task does (Table 2.2, 02_tick.md). Rows are counted within their KV head; a pebble count of 0 is the whole frame. -/
inductive TaskKind where
  /-- Latent query projection (R67). -/
  | project (block head rowFirst rowCount : Nat)
  | rotate (block head rowFirst rowCount : Nat)
  | page (block head index rowFirst rowCount pebFirst pebCount : Nat)
  | bound (block head index rowFirst rowCount : Nat)
  /-- Levels of tree_merge over the leaves of pages `first` to `last`; the last task of a head merges the results of the others (R374). -/
  | merge (block head rowFirst rowCount first last levels : Nat) (final : Bool)
  /-- Latent output projection (R67); rows are counted over the whole block. -/
  | unproject (block rowFirst rowCount : Nat)
  | output (block rowFirst : Nat)
  | append (headFirst headCount tokFirst tokCount : Nat)
  /-- The share trees of heads an APPEND names, rebuilt as their pages come to exceed P_STRIPE_MIN (R266). -/
  | trees (headFirst headCount : Nat)
  | demote (page pebFirst pebCount : Nat)
  /-- The held slot of R33: the last merge, projection and output steps for a run of rows of the whole block. -/
  | continuation (block rowFirst rowCount : Nat)
  | assay (id : Nat)
  /-- Housekeeping of C3 (R32): a mover's part of a migration move, a scrub write, sketch and page-root maintenance at a seal. -/
  | move (id : Nat)
  | scrub (context : Nat)
  | seal (page : Nat)
deriving DecidableEq, Repr

/-- The state a cut task leaves on its unit (R30): next pebble in frame order, position in the merge, and the running partial of each
row. -/
structure TaskState where
  nextPeb : Nat
  merged : Nat
  rows : List Partial
deriving DecidableEq, Repr

/-- A placed task with its class, context, worst-case cost and planned start in ps (R23, R372). -/
structure Task where
  id : Nat
  req : Option Nat
  ctx : Nat
  kind : TaskKind
  cls : Cls
  costPs : Nat
  planPs : Nat
  /-- Cycles and tier allowance the cost was converted from (R372). -/
  cycles : Nat
  allowPs : Nat
  carried : Bool
  displaced : Bool
  /-- Returned by an engine that was reset or disabled: placed on tiles (R119, R120). -/
  returned : Bool
  reserved : Bool
  startedAt : Option Nat
  /-- Cycles done, and the time from which the rest run at the unit's frequency, after a change of frequency in the middle of the task
  (R314). -/
  paced : Nat
  paceAt : Option Nat
  /-- Tick, as TickState.count numbers them, before which a held continuation is not placed (R33). -/
  due : Nat
  /-- What a cut has saved on the unit (R30). -/
  state : Option TaskState
deriving DecidableEq, Repr

/-- The list of one unit for the tick: running task, then placed tasks in order (R224). -/
structure UnitPlan where
  running : Option Task
  placed : List Task
  /-- Tasks carried to the next tick without a cut (R28). -/
  carry : List Task
deriving DecidableEq, Repr

/-- A frame the planner counts on an egress gate for work it has placed: context, class, planned start and end in ps (R222, R225). -/
structure GateFrame where
  link : Nat
  ctx : Nat
  cls : Cls
  reserved : Bool
  start : Nat
  stop : Nat
deriving DecidableEq, Repr

/-- The itinerary and the planner's queues (R22-R33, R222). -/
structure Itinerary where
  units : List (UnitId × UnitPlan)
  /-- Frames of this tick's work on the egress gates (R222). -/
  gates : List GateFrame
  /-- Tasks waiting for a later tick, in order (R23, R26, R29, R30). -/
  waiting : List Task
  nextTask : Nat
  /-- Virtual time V of each class, 16 fractional bits (R222). -/
  vtime : List Nat
  /-- F_prev of the housekeeping competitor in C3 (R217). -/
  hkPrev : Nat
deriving DecidableEq, Repr

/-! ### Stratum engines -/

/-- An unplanned access that waits for a lease boundary (R112): a CXL.mem read, or a debug read. -/
inductive Waiter where
  | hdm (at_ addr len : Nat)
  | debug (at_ : Nat)
deriving DecidableEq, Repr

/-- A query set in an engine's query buffer (R105): at most 64 rows of one KV head of a block, its place and size in bytes, the fields of
its request header, and its row headers and rows, which are empty until the merge tile has pushed them. -/
structure QuerySet where
  key : Nat
  block : Nat
  head : Nat
  rowFirst : Nat
  rowCount : Nat
  off : Nat
  size : Nat
  ctx : Nat
  scale : F32
  softcap : F32
  window : Nat
  sinks : Nat
  causal : Bool
  dk : Nat
  dv : Nat
  latent : Bool
  keyFirst : Nat
  keyEnd : Nat
  data : Bytes
deriving DecidableEq, Repr

/-- A stratum engine and its channel (06_stratum_engines.md). -/
structure Engine where
  /-- State buffer: cut tasks whose state is kept (R30, R106). -/
  saved : List Nat
  /-- Query buffer (R105). -/
  querySets : List QuerySet
  debt : Nat
  /-- Start and end, in ns, of the leases on the channel, in time order (06_stratum_engines.md, "Bank leases"). -/
  leases : List (Nat × Nat)
  trips : List Nat
  /-- Unplanned accesses waiting for a lease boundary (R112). -/
  waiters : List Waiter
  channelFailed : Bool
deriving DecidableEq, Repr

/-! ### Tiles -/

/-- A run of tile SRAM lines of 64 bytes that the planner has given to a context for the frame of a page (R123, R235, R237): first line,
count, tag, page number, and the valid bits, bit `n` for line `first + n`. -/
structure SramRun where
  first : Nat
  count : Nat
  tag : Nat
  page : Nat
  valid : Nat
deriving DecidableEq, Repr

/-- A page partial that an engine has delivered to a tile (R106), with the tag it carries (R235). -/
structure PartialSlot where
  tag : Nat
  req : Nat
  block : Nat
  head : Nat
  page : Nat
  rowFirst : Nat
  rows : List Partial
deriving DecidableEq, Repr

/-- An entry of a tile's completion queue (R106, Table 6.3), with the tag it carries (R235). -/
structure Completion where
  tag : Nat
  req : Nat
  rowFirst : Nat
  rowCount : Nat
  outcome : Nat
deriving DecidableEq, Repr

/-- A hardware thread of a tile: the context of its last task, and what its registers, predicates and pending loads hold: none after a
switch has invalidated them, else the number of a free content (R238). -/
structure Thread where
  ctx : Option Nat
  content : Option Nat
  loads : List Nat
deriving DecidableEq, Repr

/-- A tile's own state (R106, R237, R238): its SRAM, partial slots, completion queue, sixteen threads, and the content of its matrix and
vector units. -/
structure Tile where
  sram : List SramRun
  slots : Map PartialSlot
  completions : List Completion
  threads : Map Thread
  units : Option Nat
deriving DecidableEq, Repr

/-! ### Rings and duplicates -/

/-- A ring record (Table 8.1). -/
structure RingRec where
  absent : Bool
  addr : Nat
  rkey : Nat
  log2 : Nat
  cls : Nat
  en : Bool
  rswAddr : Nat
  rswRkey : Nat
deriving DecidableEq, Repr

/-- A fetch in flight (R158): entries `first .. first + count - 1`, message id on a connection. -/
structure Fetch where
  first : Nat
  count : Nat
  msg : Nat
deriving DecidableEq, Repr

/-- The running state of a ring (R153-R158, Table 8.2). -/
structure RingState where
  pi : Nat
  consumer : Nat
  issued : Nat
  rstate : Nat
  lastCode : Nat
  lastCount : Nat
  fetches : List Fetch
  /-- Entries fetched and not yet passed in order. -/
  ready : Map Bytes
  /-- Producer indices below which entries are marked yellow, with the BELL's epoch (R231, R216). -/
  bells : List (Nat × Bool × Nat)
  /-- Fetch order below which everything must be over before later descriptors of the ring are admitted, 0 for none: the last mode-0
  FENCE or FENCE_BEFORE (R172). -/
  fence : Nat
deriving DecidableEq, Repr

/-- Duplicate recognition of a connection or local ring (R179): horizon and completion cache
(tag, descriptor bytes, final status word), and the fetch order at which the window began: what was fetched before lies outside it. -/
structure Dedup where
  since : Nat
  horizon : Option Nat
  cache : List (Nat × Bytes × Word)
deriving DecidableEq, Repr

/-- A local ring (R159): its ring state and its duplicate window. -/
structure LocalRing where
  ring : RingState
  dedup : Dedup
deriving DecidableEq, Repr

/-! ### Trail -/

/-- A policer (Table 10.3, 10_classes.md). -/
structure Policer where
  mode : Nat
  defClass : Nat
  yellow : Nat
  bRate : Nat
  bBurst : Nat
  opRate : Nat
  opBurst : Nat
  bRate2 : Nat
  bBurst2 : Nat
deriving DecidableEq, Repr

/-- A connection entry (Table 9.7, 09_trail.md). -/
structure ConnEntry where
  conn : Nat
  ctx : Nat
  peer : Bool
  initiator : Bool
  ipv4 : Bool
  peerAddr : Bytes
  peerPort : Nat
  paths : Nat
  linkMask : Nat
  member : Nat
  peerId : Bytes
  policer : Policer
  rings : List RingRec
deriving DecidableEq, Repr

/-- A path of a connection (R206, R209): rate in Gb/s as FP32, times in ns. -/
structure PathState where
  rate : F32
  ai : Nat
  clean : Nat
  srtt : Nat
  rttvar : Nat
  base : List (Nat × Nat)
  lastRtt : Nat
  lastCut : Nat
  expiries : Nat
  suspendedUntil : Option Nat
  nextSend : Nat
  /-- Packets and CE-marked packets received on the path since the last report (Table 9.9). -/
  rcvd : Nat
  ce : Nat
deriving DecidableEq, Repr

/-- A Trail packet as it follows the UDP header (R189): header with its extension, plain text, and what it is sealed with (R193): key,
nonce and additional authenticated data of the 16-byte tag. Key 0: no tag, as on a handshake SEND (R192). -/
structure TrailPkt where
  hdr : Bytes
  key : Nat
  nonce : Bytes
  aad : Bytes
  payload : Bytes
deriving DecidableEq, Repr

/-- A frame the node sends (R184, R186): link, node time in ns, MAC addresses (the destination's when the link knows it), 802.1Q tag,
IP addresses, traffic class octet with DSCP and ECN, UDP ports, Trail packet. -/
structure TxFrame where
  link : Nat
  sentAt : Nat
  srcMac : Bytes
  dstMac : Option Bytes
  tag : Option Nat
  ipv4 : Bool
  src : Bytes
  dst : Bytes
  tos : Nat
  sport : Nat
  dport : Nat
  pkt : TrailPkt
deriving DecidableEq, Repr

/-- A packet that waits for a link to send it on: a control packet by TYPE and payload, an ATOMIC_RESP with its path, a READ_RESP packet, a
handshake message. -/
inductive TxWait where
  | control (type : Nat) (body : Bytes)
  | atomicResp (path : Nat) (p : TrailPkt)
  | readResp (msg off len : Nat) (payload : Bytes) (notBefore : Nat)
  | handshake (bytes : Bytes)
deriving DecidableEq, Repr

/-- A request message arriving in packets (R199-R201). -/
structure RxMsg where
  id : Nat
  type : Nat
  len : Nat
  got : List Nat
  buf : List (Nat × Bytes)
  rkey : Nat
  addr : Nat
  held : Bool
  marked : Bool
  abandoned : Bool
  /-- Epoch of its header (R215). -/
  epoch : Nat
deriving DecidableEq, Repr

/-- The final outcome of a completed message (R199): accepted, NAKed, or an atomic's old value. -/
inductive RxOutcome where
  | ok
  | nak (body : Bytes)
  /-- An atomic: the old value, and the ATOMIC_RESP with its path, for duplicates (R214). -/
  | atomic (old : Word) (path : Nat) (resp : TrailPkt)
deriving DecidableEq, Repr

/-- What a message the node sent was for (R207). -/
inductive TxKind where
  | fetch (ring : Nat)
  /-- Operands and results, by the fetch order of their descriptor. -/
  | operand (order block : Nat)
  | result (order : Nat)
  /-- A status word: fetch order of its descriptor, CODE, ring (R162). -/
  | status (order code ring : Nat)
  | ringStatus (ring : Nat)
  | control (kind : Nat)
  | peer (kind : Nat)
deriving DecidableEq, Repr

/-- An unacknowledged packet in the transmit buffer (R194, R206). A packet that has been sent keeps the epoch, the key and the phase it was
sealed with, so that a retransmission under the same key is byte-identical. -/
structure TxPkt where
  msg : Nat
  off : Nat
  type : Nat
  len : Nat
  isRelease : Bool
  kind : TxKind
  path : Nat
  link : Nat
  sentAt : Nat
  count : Nat
  order : Nat
  data : Bytes
  lost : Bool
  /-- Packets of the connection sent after it that have been acknowledged (R206). -/
  passed : Nat
  cls : Nat
  rkey : Nat
  addr : Nat
  /-- Not yet sent: message window, SEND credits, a POLICED wait, or no link open (R188, R199, R203, R207). -/
  held : Bool
  epoch : Nat
  key : Nat
  phase : Bool
  /-- Node time before which it is not placed again: the next tick, after its link went down (R208). -/
  notBefore : Nat
deriving DecidableEq, Repr

/-- A read the node has issued and not yet completed (R202). -/
structure ReadOut where
  msg : Nat
  addr : Nat
  rkey : Nat
  len : Nat
  kind : TxKind
  base : Nat
  got : List (Nat × Bytes)
  tries : Nat
  path : Nat
  lastAt : Nat
deriving DecidableEq, Repr

/-- An advertised partner region (R204). -/
structure AdvRegion where
  rkey : Nat
  rights : Nat
  addr : Nat
  len : Nat
deriving DecidableEq, Repr

/-- Keys and handshake of a connection (R194, R195, R197). Keys are symbolic numbers, 0 for none. -/
structure ConnKeys where
  key : Nat
  phase : Bool
  prev : Nat
  prevUntil : Option Nat
  /-- K' of a key update not yet in use (R195), 0 for none. -/
  next : Nat
  sentMsgs : Nat
  sentCtls : Nat
  rekeyStarted : Bool
  rekeyAnswered : Bool
  helloBytes : Bytes
  acceptBytes : Bytes
  helloFirstAt : Option Nat
  helloLastAt : Option Nat
deriving DecidableEq, Repr

/-- Receive side of a connection (R199-R205, R228). -/
structure ConnRx where
  cum : Nat
  msgs : List RxMsg
  outcomes : Map RxOutcome
  sincePkts : Nat
  sinceAt : Option Nat
  echoTime : Nat
  echoPath : Nat
  echoAt : Nat
  grants : Nat
  authDrops : List Nat
  btok : Nat
  btok2 : Nat
  otok : Nat
  refillAt : Nat
  policedAt : Option Nat
  policeDrops : Nat
  lastHeard : Nat
deriving DecidableEq, Repr

/-- Send side of a connection (R195, R199, R206). -/
structure ConnTx where
  nextMsg : Nat
  nextCtl : Nat
  order : Nat
  pkts : List TxPkt
  reads : List ReadOut
  cum : Nat
  credits : Nat
  progressAt : Nat
  waitUntil : Map Nat
  paths : List PathState
  /-- Packets that are not in the transmit buffer and wait for a link (R188, R208). -/
  waiting : List TxWait
deriving DecidableEq, Repr

/-- A connection slot (R196-R198); slot states 0-5 of Table 9.20. -/
structure Conn where
  entry : ConnEntry
  state : Nat
  keys : ConnKeys
  rx : ConnRx
  tx : ConnTx
  rings : List RingState
  dedup : Dedup
  nextRing : Nat
  regions : List AdvRegion
  withdrawn : List Nat
  closedAt : Option Nat
  failedAt : Option Nat
deriving DecidableEq, Repr

/-- A node region (R210-R212, Table 9.21). -/
structure Region where
  valid : Bool
  gen : Nat
  ctx : Nat
  off : Nat
  len : Nat
  rd : Bool
  wr : Bool
  at_ : Bool
  /-- Revocation fence in progress (R212). -/
  fenceAt : Option Nat
  /-- A generation of the index has been revoked (R210, R212). -/
  revoked : Bool
deriving DecidableEq, Repr

/-- A frame on an egress gate: planned start and end in ps, and its class; 4 for one that goes outside the class windows. A READ_RESP
frame, which no buffer keeps, is here with its connection slot. -/
structure GateSpan where
  start : Nat
  stop : Nat
  cls : Nat
  resp : Option (Nat × TxWait)
deriving DecidableEq, Repr

/-- A network link (R184, R188, R208). -/
structure Link where
  up : Bool
  paused : Bool
  rxFill : Nat
  router : Bytes
  neighbors : List (Bytes × Bytes)
  mac : Bytes
  /-- Frames placed on its egress gate, in the order of their starts (R225, R23). -/
  busy : List GateSpan
deriving DecidableEq, Repr

/-! ### Composition -/

/-- A composition map (Table 13.1, 13_fabric.md). -/
structure CompMap where
  epoch : Nat
  compId : Nat
  actTime : Nat
  kernel : Bytes
  nodes : List Bytes
  buddies : List Nat
deriving DecidableEq, Repr

/-- A journal stream held as buddy for a context and slot (R288): next SEQ, images of pages and lengths,
and what has arrived since the last TICK_MARK. -/
structure Journal where
  ctx : Nat
  slot : Nat
  seq : Nat
  lens : Map Nat
  pages : Map Page
  markedLens : Map Nat
  markedPages : Map Page
  bytes : Nat
  /-- Complete messages that wait for an earlier SEQ (R288). -/
  waiting : List (Nat × Bytes)
  /-- Leaves of pages that moved out of the slot (R264), for the page maps of a takeover (R294). -/
  leaves : Map Bytes
deriving DecidableEq, Repr

/-- A journal stream this node sends (R287, R290): next SEQ, unacknowledged TICK_MARKs, entries not sent. -/
structure JournalOut where
  ctx : Nat
  slot : Nat
  seq : Nat
  lag : Nat
  unsent : List Bytes
  unacked : List Nat
  /-- JOURNAL bodies whose message was lost with its connection: connection slot, old MSG_ID, body. -/
  again : List (Nat × Nat × Bytes)
  /-- The buddy has been through a reset: the next map counts it as a new buddy (R298). -/
  renew : Bool
deriving DecidableEq, Repr

/-- A page of a taken-over slot still to be rebuilt (R294). -/
structure Rebuild where
  ctx : Nat
  slot : Nat
  key : Nat
  page : Page
deriving DecidableEq, Repr

/-- Composition state (R281-R301). -/
structure CompState where
  epoch : Nat
  current : Option CompMap
  previous : Option CompMap
  staged : Option (Nat × CompMap)
  activated : Bool
  firstQualified : Option Nat
  isolated : Bool
  storm : Bool
  suspects : List Nat
  /-- Last arrivals and partials per slot in the window (R299). -/
  arrivals : Map (Nat × Nat)
  windowStart : Nat
  heard : Nat
  subs : List SubReq
  /-- PARTIALs of backups this home has run itself, not yet taken (R300). -/
  selfParts : List Bytes
  journals : List Journal
  streams : List JournalOut
  rebuilds : List Rebuild
  /-- Time up to which rebuilding has used its rate (R294). -/
  recoverFrom : Nat
  /-- Connection slots whose INVENTORY replies are still to come (R294). -/
  inventory : List Nat
  /-- Demotions a home has asked for with PAGE_OP: context, page number, connection slot, the operation's bytes. -/
  pageOps : List (Nat × Nat × Nat × Bytes)
  /-- Pages that a takeover in bounded mode has lost with the entries after the last TICK_MARK: context and journal key (R296). -/
  cut : List (Nat × Nat)
deriving DecidableEq, Repr

/-! ### Tiers -/

/-- Progress of a move (R130, R131); `freed` is one whose commit a home has announced to the source, which waits for its own tasks. -/
inductive MovePhase where
  | copying | copied | staged | acked | freed
deriving DecidableEq, Repr

/-- A move in progress (R130-R132); `member` names the other node of a move between nodes: its slot at the source, the connection at the
destination. -/
structure Move where
  id : Nat
  ctx : Nat
  page : Nat
  srcTier : Nat
  srcHome : Nat
  /-- The destination slot reserved here (R130). -/
  dst : Spot
  member : Option Nat
  incoming : Option Page
  phase : MovePhase
  /-- A request has been admitted that puts the page in the destination's share (R132). -/
  due : Bool
  /-- Time before which the movers' rate limit lets no copy be complete (R137). -/
  ready : Nat
deriving DecidableEq, Repr

/-- An extent of a pool (R123): the pool's tier, format and head dimensions, its number in the pool, the unit it lies in, and its first
place there with the number of places, which is more than one for a frame of tile SRAM above 64 KiB. -/
structure Extent where
  tier : Nat
  fmt : Nat
  dims : Nat
  index : Nat
  unit : Nat
  first : Nat
  count : Nat
deriving DecidableEq, Repr

/-- An entry of bedrock's translation map (R141): a stored page, the byte position of its parcel in the log, and its length. -/
structure Parcel where
  ctx : Nat
  page : Nat
  pos : Nat
  len : Nat
deriving DecidableEq, Repr

/-- An erase block of bedrock (R141-R143, R249): reads since it was programmed, program/erase count, and the stripe of the log it holds. -/
structure EraseBlock where
  reads : Nat
  erases : Nat
  stripe : Option Nat
  retired : Bool
  /-- Torn-down contexts whose parcels it holds. -/
  tombs : List Nat
deriving DecidableEq, Repr

/-- Tiers, movers, the logical window and the CXL link (07_tiers_placement.md). -/
structure TierState where
  moves : List Move
  nextMove : Nat
  /-- Snoop filter: tracked 4 KiB units, oldest first (R148). -/
  snoop : List Nat
  /-- Back-invalidations outstanding: context and page number (R124). -/
  invalidating : List (Nat × Nat)
  /-- Addresses of the logical space changed since the last boundary: context and page. -/
  changed : List (Nat × Nat)
  cxlUp : Bool
  cxlWidth : Nat
  cxlRate : Nat
  blocks : Map EraseBlock
  /-- The translation map (R141). -/
  parcels : List Parcel
  /-- Byte position at which the log goes on, and the erase blocks of each of its stripes, one a channel (R141). -/
  logHead : Nat
  stripes : List (List Nat)
  /-- Time until which the reclaiming of garbage has used its share of the NAND interface rate (R141). -/
  gcUntil : Nat
  /-- Extents of the pools (R123). -/
  extents : List Extent
  /-- Time until which the movers are busy at MOVE_GBPS (R137). -/
  moversUntil : Nat
  /-- Reads issued once again (R149): context and page. -/
  reissued : List (Nat × Nat)
  /-- CXL.mem accesses whose credits are withheld until an exit completes (R304): address, and the length of a read. -/
  withheld : List (Nat × Option Nat)
deriving DecidableEq, Repr

/-! ### Security, integrity, health -/

/-- An entry of the key store (R244, R248, R251): sealed key or tombstone, teardown marks of the four
copies, creation count, creation record fields, fixed parameters (R336). -/
structure KeyEntry where
  tombstone : Bool
  marks : List Bool
  creation : Nat
  hdmRead : Bool
  tenant : Bytes
  issuer : Bytes
  fixed : Option Profile
deriving DecidableEq, Repr

/-- The security engine (R240, R253, R366). -/
structure SecState where
  keysDerived : Bool
  configValid : Bool
  drbgOk : Bool
  /-- The configuration record in use (R256), the identity public key (R253), and its SHA-512, by which maps and peers name the node. -/
  record : Option ConfigRecord
  publicKey : Bytes
  identity : Bytes
  kernel : Bytes
  /-- Digests of images loaded since an update, by measurement block (Table 11.8); others are what manufacture left. -/
  digests : Map Bytes
  nextKey : Nat
  scrubs : List Nat
deriving DecidableEq, Repr

/-- An error record of Table 12.5 (12_integrity.md). -/
structure ErrorRecord where
  severity : Nat
  kind : Nat
  unitType : Nat
  unitIndex : Nat
  time : Nat
  ctx : Option Nat
  opcode : Nat
  cls : Nat
  temp : Int
  railMv : Nat
  req : Nat
  conn : Nat
  location : Nat
  detail : Nat
  cairnPrefix : Bytes
  seq : Nat
deriving DecidableEq, Repr

/-- An assay (R275-R279): the sampled task, its first unit and the re-executing unit. -/
structure Assay where
  id : Nat
  /-- Tracked-request index, or number of a sub-request, and query block. -/
  req : Nat
  block : Nat
  /-- Index and sequence, context, opcode, class and, once known, cairn prefix for the error record. -/
  hreq : Nat
  ctx : Nat
  opcode : Nat
  cls : Nat
  cairn : Bytes
  page : Nat
  rowFirst : Nat
  held : Bool
  /-- Rows, pebbles and worst-case cycles of the task on a tile and on an engine, and whether the re-execution has been placed (R277). -/
  cycles : Nat
  ecycles : Nat
  placed : Bool
  first : UnitId
  second : UnitId
  third : Option UnitId
  mismatch : Option (Nat × Nat)
deriving DecidableEq, Repr

/-- Integrity and weathering (12_integrity.md, 14_power_health.md). -/
structure HealthState where
  assays : List Assay
  nextAssay : Nat
  assaySeed : Nat
  /-- Attributed faults: unit and time (R279). -/
  faults : List (UnitId × Nat)
  buffer : List ErrorRecord
  seq : Nat
  /-- Weathering samples: unit key (kind * 256 + index), day, index (R316). -/
  weather : List (Nat × Nat × Nat)
  latest : Map Nat
deriving DecidableEq, Repr

/-! ### Power -/

/-- Power, supply and heat (14_power_health.md, 17_module.md). -/
structure PowerState where
  entering : Option Nat
  exiting : Bool
  exitFrom : Nat
  wake : Bool
  quietTicks : Nat
  hold : Bool
  flushSent : Bool
  recovered : Bool
  cap95Since : Option Nat
  /-- Half-columns in a thermal emergency with their frequency before it (R314). -/
  emergencies : Map Nat
  hcCoolSince : Map Nat
  above85 : List Nat
  /-- Last reading of each stack, 0.125 °C (R315, R375). -/
  stackTemps : Map Int
  hotGrid : List Nat
  switchClosed : Bool
  charging : Bool
  packageOn : Bool
  tripped : Bool
deriving DecidableEq, Repr

/-- Module pins (17_module.md). Inputs as driven, outputs as the node drives them. -/
structure Pins where
  moduleResetLow : Bool
  perstLow : Bool
  thermTrip : Bool
  pwrOk : Bool
  slotId : Nat
deriving DecidableEq, Repr

/-! ### Ranger -/

/-- A client session (R320-R322). -/
structure Session where
  id : Nat
  role : Role
  lastAt : Nat
  /-- Subject of the client certificate (R329). -/
  subject : Bytes
deriving DecidableEq, Repr

/-- A trust anchor (R321). -/
structure Anchor where
  id : Nat
  role : Role
  cert : Bytes
deriving DecidableEq, Repr

/-- An event subscription (R324). -/
structure Subscription where
  id : Nat
  owner : Nat
  push : Bool
  minSeverity : Nat
  cert : Bytes
  position : Nat
  failingSince : Option Nat
  /-- Time of the last failed POST (R324). -/
  failedAt : Nat
  suspended : Bool
deriving DecidableEq, Repr

/-- Ranger (15_ranger.md). -/
structure Ranger where
  running : Bool
  recovery : Bool
  restarts : List Nat
  sessions : List Session
  nextSession : Nat
  refused : Nat
  anchors : List Anchor
  nextAnchor : Nat
  certificates : List Bytes
  spdmSlot1 : Option Bytes
  subs : List Subscription
  nextSub : Nat
  /-- Ranger's own clock runs ahead of node time by this many ns: a reset that restarts node time does not restart it. -/
  clock : Int
  /-- The log of error records and of report events, oldest first (R323, R325). -/
  log : List ErrorRecord
  /-- DebugAudit: time and client subject of every Debug and Profiling request (R329). -/
  audit : List (Nat × Bytes)
  ip6 : Bytes
  ip4 : Bytes
  gateway : Bytes
  dhcp6 : Bool
  dhcp4 : Bool
  staged : List (ImageKind × Nat × Bytes)
  trips : List Nat
  straps : Nat
deriving DecidableEq, Repr

/-- A trace entry (R328): kind of the task or frame, its context tag, unit, class, planned start, actual start and end in ns, whether
the task was cut or displaced. -/
structure TraceEntry where
  kind : Nat
  tag : Nat
  unit : UnitId
  cls : Nat
  planPs : Nat
  startNs : Nat
  endNs : Nat
  cut : Bool
  displaced : Bool
deriving DecidableEq, Repr

/-- The DBG block's machine state: trace and units taken out (R328, R371). -/
structure DbgState where
  traceArmed : Bool
  traceLeft : Nat
  trace : List TraceEntry
  unitsOut : List UnitId
  pendingOut : List UnitId
deriving DecidableEq, Repr

/-- The sealed image of R337: contexts with pages, profiles, geodes and programs, COMP_ID and slots. -/
structure SealedImage where
  ctxs : Map Ctx
  compId : Nat
  slots : List Nat
  complete : Bool
deriving DecidableEq, Repr

/-- A park record (R338): the conversation as it was parked, the composition and slot; from a reset to the restore its pages too. -/
structure ParkRecord where
  ctx : Nat
  conv : Nat
  body : Conv
  pages : Map Page
  compId : Nat
  slot : Nat
deriving DecidableEq, Repr

/-- What bedrock keeps through every reset (R339 rows marked K). -/
structure NonVolatile where
  keyStore : Map KeyEntry
  creations : Nat
  image : Option SealedImage
  parks : List ParkRecord
deriving DecidableEq, Repr

/-! ### What the node emits -/

/-- Where a write to requester memory goes: a partner's connection slot, or control-host memory. -/
inductive Dest where
  | partner (slot : Nat)
  | host
deriving DecidableEq, Repr

/-- An emission of the node, as the outside sees it. -/
inductive Out where
  /-- A status word (Table 8.7), after every result it covers (R175). -/
  | status (d : Dest) (addr : Nat) (w : Word)
  /-- A ring status word (Table 8.2). -/
  | ringStatus (d : Dest) (addr : Nat) (w : Word)
  /-- Result, cairn, parcel or report bytes. -/
  | result (d : Dest) (addr : Nat) (data : Bytes)
  /-- A frame handed to an egress gate, with everything it carries on the wire (R184, R186, R189-R193). The entries below say
  which message, response or control packet the frames belong to. -/
  | frame (f : TxFrame)
  /-- A request message of Trail: slot, TYPE, MSG_ID, region key, address, length. -/
  | message (slot type msg rkey addr len : Nat)
  /-- A retransmission: slot, MSG_ID, OFFSET, link, path (R206, R226). -/
  | retransmit (slot msg off link path : Nat)
  /-- A SEND: slot, KIND, body. -/
  | send (slot kind : Nat) (body : Bytes)
  | readResp (slot msg : Nat) (data : Bytes)
  | atomicResp (slot msg : Nat) (old : Word)
  /-- A control packet (SACK, NAK, POLICED): slot, TYPE, path, payload (Tables 9.9 to 9.11, R205, R208). -/
  | control (slot type path : Nat) (body : Bytes)
  /-- A handshake message (Table 9.8) on CONN 0. -/
  | handshake (slot : Nat) (bytes : Bytes)
  /-- A read of control-host memory over CXL: address, length. -/
  | hostRead (addr len : Nat)
  /-- A CXL.cache access to the host tier: a read or a write of so many bytes at a control-host address (R144). -/
  | cacheAccess (write : Bool) (addr len : Nat)
  /-- Data or poison of a CXL.mem read (R147). -/
  | hdmData (data : Bytes)
  | hdmPoison
  | hdmDone
  | snoop (unit : Nat)
  | pfc (port priority : Nat)
  | syncPulse (widthNs : Nat)
  /-- An event or response of Ranger: subscription or session, SEQ or status code. -/
  | event (sub seq : Nat)
  | http (status : Nat)
  /-- A certificate alert that ends a TLS handshake (R320). -/
  | tlsAlert
  /-- A request Ranger refuses where the manual gives no status code. -/
  | refusedRequest
  /-- A DBG register as a Debug read returns it (R329), and every counter as a Profiling read returns them (R328). -/
  | debugValue (v : Word)
  | counters (vs : List Word)
  /-- A weathering report: the indices of the units, the module index, end-of-life days (R325). -/
  | report (units : List (Nat × Nat)) (module_ : Nat) (days : List (Nat × Nat))
  /-- A metering event: the meter sets of every context (R325, R302). -/
  | metering (sets : List (Nat × List MeterSet))
  | spdm (nonce : Bytes) (blocks : List Bytes) (signature : Bytes)
  | alertOverMctp (kind : Nat)
deriving DecidableEq, Repr

/-! ### The state -/

/-- The node. -/
structure State where
  /-- The commands that wait, first in, first out. -/
  pending : List Instr
  /-- Node time in ns (R20). -/
  now : Nat
  regs : RegFile
  live : RegFile
  staged : List StagedWrite
  tick : TickState
  itin : Itinerary
  reqs : List Req
  nextOrder : Nat
  nextSeq : Nat
  ctxs : Map Ctx
  engines : Map Engine
  tiles : Map Tile
  locals : Map LocalRing
  conns : Map Conn
  regions : Map Region
  links : Map Link
  comp : CompState
  tier : TierState
  sec : SecState
  health : HealthState
  power : PowerState
  pins : Pins
  ranger : Ranger
  dbg : DbgState
  nv : NonVolatile
  /-- Everything emitted so far, newest first (the model's own record of the outside). -/
  out : List Out
  /-- Draws taken so far from the free values of Config (the model's own). -/
  free : Nat
deriving DecidableEq, Repr

/-- Why the block stops. -/
inductive Fault where
  /-- An input voltage beyond the absolute limits of Table 17.7 (R358: the module may be destroyed and the
  manual states nothing further); raised by the commands that carry an input voltage; safe. -/
  | beyondAbsoluteLimits
deriving DecidableEq, Repr

/-- Why a command has no meaning. -/
inductive Refusal where
  /-- A command not modelled yet; raised by an arm of `exec` only; safe. -/
  | notModelled (mnemonic : String)
deriving DecidableEq, Repr

/-! ### Reset -/

/-- Tick state at reset (R20, R339: node time, tick and alignment return to their reset values). -/
def TickState.reset : TickState where
  last := 0
  next := 0
  index := 0
  periodUs := 10
  shares := [80, 64, 80, 32]
  origin := 0
  source := 0
  stagedPeriod := none
  stagedShares := none
  stagedOrigin := none
  stagedSource := none
  startDue := false
  rearmed := false
  holdover := false
  stuck := false
  ptpLocked := false
  ptpStepped := false
  lastEdge := none
  ptpAhead := none
  syncPlain := false
  stagedAlign := none
  count := 0
  published := false

/-- An empty itinerary. -/
def Itinerary.reset : Itinerary where
  units := []
  gates := []
  waiting := []
  nextTask := 0
  vtime := [0, 0, 0, 0]
  hkPrev := 0

/-- The composition of one slot before the first map (R281). -/
def CompState.reset : CompState where
  epoch := 0
  current := none
  previous := none
  staged := none
  activated := false
  firstQualified := none
  isolated := false
  storm := false
  suspects := []
  arrivals := []
  windowStart := 0
  heard := 0
  subs := []
  selfParts := []
  journals := []
  streams := []
  rebuilds := []
  recoverFrom := 0
  inventory := []
  pageOps := []
  cut := []

/-- Tiers with nothing in them and the CXL link down (R339). -/
def TierState.reset : TierState where
  moves := []
  nextMove := 0
  snoop := []
  invalidating := []
  changed := []
  cxlUp := false
  cxlWidth := 0
  cxlRate := 0
  blocks := []
  parcels := []
  logHead := 0
  stripes := []
  gcUntil := 0
  extents := []
  moversUntil := 0
  reissued := []
  withheld := []

/-- The security engine before stage 2. -/
def SecState.reset : SecState where
  keysDerived := false
  configValid := false
  drbgOk := false
  record := none
  publicKey := []
  identity := []
  kernel := []
  digests := []
  nextKey := 1
  scrubs := []

/-- Health state at power-up (SEQ from 0, R339). -/
def HealthState.reset : HealthState where
  assays := []
  nextAssay := 0
  assaySeed := 0
  faults := []
  buffer := []
  seq := 0
  weather := []
  latest := []

/-- The package powered, in N0, with no hold. -/
def PowerState.reset : PowerState where
  entering := none
  exiting := false
  exitFrom := 0
  wake := false
  quietTicks := 0
  hold := false
  flushSent := false
  recovered := false
  cap95Since := none
  emergencies := []
  hcCoolSince := []
  above85 := []
  stackTemps := []
  hotGrid := []
  switchClosed := true
  charging := false
  packageOn := true
  tripped := false

/-- Pins at reset: resets deasserted, no trip, PWR_OK low until stage 0 completes (R352). -/
def Pins.reset : Pins where
  moduleResetLow := false
  perstLow := false
  thermTrip := false
  pwrOk := false
  slotId := 0

/-- Ranger before its boot ROM has run (stage 1), with an empty store. -/
def Ranger.reset : Ranger where
  running := false
  recovery := false
  restarts := []
  sessions := []
  nextSession := 0
  refused := 0
  anchors := []
  nextAnchor := 0
  certificates := []
  spdmSlot1 := none
  subs := []
  nextSub := 0
  clock := 0
  log := []
  audit := []
  ip6 := []
  ip4 := []
  gateway := []
  dhcp6 := true
  dhcp4 := true
  staged := []
  trips := []
  straps := 0

/-- DBG at reset (18_registers.md, after Table 18.14). -/
def DbgState.reset : DbgState where
  traceArmed := false
  traceLeft := 0
  trace := []
  unitsOut := []
  pendingOut := []

/-- The module right after power-on reset: start-up stage 0, READY 0, every register at its reset value,
nothing stored (R332-R339, 16_reset.md). -/
def State.reset : State where
  pending := []
  now := 0
  regs := []
  live := []
  staged := []
  tick := TickState.reset
  itin := Itinerary.reset
  reqs := []
  nextOrder := 0
  nextSeq := 0
  ctxs := []
  engines := []
  tiles := []
  locals := []
  conns := []
  regions := []
  links := []
  comp := CompState.reset
  tier := TierState.reset
  sec := SecState.reset
  health := HealthState.reset
  power := PowerState.reset
  pins := Pins.reset
  ranger := Ranger.reset
  dbg := DbgState.reset
  nv := { keyStore := [], creations := 0, image := none, parks := [] }
  out := []
  free := 0

end Sys2Proof.Machine
end

