-- ==== Sys2Proof/Machine/Modifier.lean ====
section
/-! DEFINITION. Score-modifier programs: the image and its checks, the 25 instructions, weight and cost
(04_score_modifiers.md, R70-R81). -/
namespace Sys2Proof.Machine

/-- Size of a program image (Table 4.4). -/
def progImageBytes : Nat := 1248

/-- Fields an opcode uses (Table 4.3): operands A, B, C, the shift count, and its weight (R75); none when undefined. -/
structure OpShape where
  useB : Bool
  useC : Bool
  useImm : Bool
  weight : Nat
deriving DecidableEq, Repr

/-- Opcode map (Table 4.3). -/
def opShape (opc : Nat) : Option OpShape :=
  let un (w : Nat) : Option OpShape := some ⟨false, false, false, w⟩
  let bi (w : Nat) : Option OpShape := some ⟨true, false, false, w⟩
  match opc with
  | 0x00 => un 1 | 0x01 => bi 1 | 0x02 => bi 1 | 0x03 => bi 1 | 0x04 => bi 4 | 0x05 => bi 1 | 0x06 => bi 1
  | 0x07 => un 1 | 0x08 => un 1 | 0x09 => un 4 | 0x0A => un 4
  | 0x10 => bi 1 | 0x11 => bi 1 | 0x12 => bi 1 | 0x13 => bi 1
  | 0x14 => some ⟨false, false, true, 1⟩
  | 0x15 => bi 1 | 0x16 => un 1 | 0x17 => bi 1 | 0x18 => bi 1 | 0x19 => bi 1 | 0x1A => bi 1 | 0x1B => bi 1
  | 0x1C => some ⟨true, true, false, 1⟩
  | 0x20 => un 1
  | _ => none

/-- OPC, DST, A, B, C, IMM of an instruction word (Table 4.2). -/
def insnOpc (w : BitVec 32) : Nat := bits w.toNat 31 26
def insnDst (w : BitVec 32) : Nat := bits w.toNat 25 23
def insnA (w : BitVec 32) : Nat := bits w.toNat 22 18
def insnB (w : BitVec 32) : Nat := bits w.toNat 17 13
def insnC (w : BitVec 32) : Nat := bits w.toNat 12 8
def insnImm (w : BitVec 32) : Nat := bits w.toNat 7 0

/-- Undefined opcode or a non-zero field the opcode does not use (R71, R77). -/
def insnBad (w : BitVec 32) : Bool :=
  match opShape (insnOpc w) with
  | none => true
  | some o => (!o.useB && insnB w != 0) || (!o.useC && insnC w != 0) || (!o.useImm && insnImm w != 0)

/-- ISHR with a count above 31 (R77). -/
def insnBadShift (w : BitVec 32) : Bool := insnOpc w == 0x14 && decide (31 < insnImm w)

/-- The 32 instruction words of an image. -/
def imageInsns (b : Bytes) : List (BitVec 32) := (List.range 32).map (fun i => BitVec.ofNat 32 (le b (0x60 + 4 * i) 4))

/-- The first failing check of R77 as its ERRCODE (Table 4.6), 0 when the image passes. -/
def progCheck (b : Bytes) : Nat :=
  let count := le b 5 1
  let insns := imageInsns b
  if le b 0 4 != 0x534D4F44 || le b 4 1 != 1 then 1
  else if count = 0 || count > 32 then 2
  else if !zeroAt b 6 26 || (insns.drop count).any (· != 0#32) then 3
  else if (insns.take count).any insnBad then 3
  else if (insns.take count).any insnBadShift then 4
  else 0

/-- The program of a checked image; its digest is the SHA-512 of the image (R78). -/
def progOfImage (digest : Bytes) (b : Bytes) (loaded : Nat) : ProgImage where
  insn := (imageInsns b).take (le b 5 1)
  consts := (List.range 16).map (fun i => BitVec.ofNat 32 (le b (0x20 + 4 * i) 4))
  table := (List.range 256).map (fun i => BitVec.ofNat 32 (le b (0xE0 + 4 * i) 4))
  digest := digest
  loaded := loaded

/-- Inputs of one run (Table 4.1): S, QP, KP, HD, LY. -/
structure ProgIn where
  s : F32
  qp : BitVec 32
  kp : BitVec 32
  hd : BitVec 32
  ly : BitVec 32
deriving DecidableEq, Repr

/-- The value of an operand code (Table 4.1). -/
def progOperand (p : ProgImage) (i : ProgIn) (w : List (BitVec 32)) (code : Nat) : BitVec 32 :=
  if code < 8 then lget w code 0
  else if code = 8 then i.s
  else if code = 9 then i.qp
  else if code = 10 then i.kp
  else if code = 11 then i.hd
  else if code = 12 then i.ly
  else if code = 13 then 0
  else if code = 14 then 0x3F800000#32
  else if code = 15 then 0xFF800000#32
  else lget p.consts (code - 16) 0

/-- True and false of a comparison (R72). -/
def progBool (b : Bool) : BitVec 32 := if b then 0xFFFFFFFF#32 else 0#32

/-- The result of an instruction (Table 4.3). -/
def progOp (p : ProgImage) (opc imm : Nat) (a b c : BitVec 32) : BitVec 32 :=
  match opc with
  | 0x00 => a
  | 0x01 => fadd a b
  | 0x02 => fsub a b
  | 0x03 => fmul a b
  | 0x04 => fdiv a b
  | 0x05 => fmin a b
  | 0x06 => fmax a b
  | 0x07 => fabs (fFlush a)
  | 0x08 => fneg (fFlush a)
  | 0x09 => canonExp a
  | 0x0A => canonTanh a
  | 0x10 => a + b
  | 0x11 => a - b
  | 0x12 => a &&& b
  | 0x13 => a ||| b
  | 0x14 => a >>> imm
  | 0x15 => if a.toNat ≤ b.toNat then a else b
  | 0x16 => fOfNat a.toNat
  | 0x17 => fOfInt ((a.toNat : Int) - (b.toNat : Int))
  | 0x18 => progBool (flt a b)
  | 0x19 => progBool (fle a b)
  | 0x1A => progBool (decide (a.toNat < b.toNat))
  | 0x1B => progBool (a == b)
  | 0x1C => if c != 0#32 then a else b
  | 0x20 => lget p.table (min a.toNat 255) 0
  | _ => a

/-- One instruction on the working registers. -/
def progStep (p : ProgImage) (i : ProgIn) (w : List (BitVec 32)) (x : BitVec 32) : List (BitVec 32) :=
  lset w (insnDst x) (progOp p (insnOpc x) (insnImm x) (progOperand p i w (insnA x)) (progOperand p i w (insnB x))
    (progOperand p i w (insnC x)))

/-- The program's output: W0 after the last instruction; W0 holds S at entry, W1 to W7 hold 0 (R70). -/
def progRun (p : ProgImage) (i : ProgIn) : F32 :=
  lget (p.insn.foldl (progStep p i) (i.s :: List.replicate 7 0)) 0 0

/-- The weight W of a program (R75). -/
def progWeight (p : ProgImage) : Nat :=
  2 + lsum (p.insn.map (fun w => ((opShape (insnOpc w)).map OpShape.weight).getD 0))

end Sys2Proof.Machine
end

