-- ==== Sys2Proof/Machine/Hash.lean ====
section
/-! DEFINITION. The hash functions of the node: SHA-512 and SHA-512/256 (R263, 12_integrity.md: "as FIPS 180-4
defines them"; the constants below are that standard's, PRESUMED, notes/assumptions/5.md), and CRC-32C
(R89, 05_shale.md). -/
namespace Sys2Proof.Machine

/-- Round constants of SHA-512. -/
def sha512K0 : List Word :=
  [0x428A2F98D728AE22, 0x7137449123EF65CD, 0xB5C0FBCFEC4D3B2F, 0xE9B5DBA58189DBBC,
   0x3956C25BF348B538, 0x59F111F1B605D019, 0x923F82A4AF194F9B, 0xAB1C5ED5DA6D8118,
   0xD807AA98A3030242, 0x12835B0145706FBE, 0x243185BE4EE4B28C, 0x550C7DC3D5FFB4E2,
   0x72BE5D74F27B896F, 0x80DEB1FE3B1696B1, 0x9BDC06A725C71235, 0xC19BF174CF692694,
   0xE49B69C19EF14AD2, 0xEFBE4786384F25E3, 0x0FC19DC68B8CD5B5, 0x240CA1CC77AC9C65,
   0x2DE92C6F592B0275, 0x4A7484AA6EA6E483, 0x5CB0A9DCBD41FBD4, 0x76F988DA831153B5,
   0x983E5152EE66DFAB, 0xA831C66D2DB43210, 0xB00327C898FB213F, 0xBF597FC7BEEF0EE4,
   0xC6E00BF33DA88FC2, 0xD5A79147930AA725, 0x06CA6351E003826F, 0x142929670A0E6E70,
   0x27B70A8546D22FFC, 0x2E1B21385C26C926, 0x4D2C6DFC5AC42AED, 0x53380D139D95B3DF,
   0x650A73548BAF63DE, 0x766A0ABB3C77B2A8, 0x81C2C92E47EDAEE6, 0x92722C851482353B]

/-- Round constants of SHA-512, the second half. -/
def sha512K1 : List Word :=
  [0xA2BFE8A14CF10364, 0xA81A664BBC423001, 0xC24B8B70D0F89791, 0xC76C51A30654BE30,
   0xD192E819D6EF5218, 0xD69906245565A910, 0xF40E35855771202A, 0x106AA07032BBD1B8,
   0x19A4C116B8D2D0C8, 0x1E376C085141AB53, 0x2748774CDF8EEB99, 0x34B0BCB5E19B48A8,
   0x391C0CB3C5C95A63, 0x4ED8AA4AE3418ACB, 0x5B9CCA4F7763E373, 0x682E6FF3D6B2B8A3,
   0x748F82EE5DEFB2FC, 0x78A5636F43172F60, 0x84C87814A1F0AB72, 0x8CC702081A6439EC,
   0x90BEFFFA23631E28, 0xA4506CEBDE82BDE9, 0xBEF9A3F7B2C67915, 0xC67178F2E372532B,
   0xCA273ECEEA26619C, 0xD186B8C721C0C207, 0xEADA7DD6CDE0EB1E, 0xF57D4F7FEE6ED178,
   0x06F067AA72176FBA, 0x0A637DC5A2C898A6, 0x113F9804BEF90DAE, 0x1B710B35131C471B,
   0x28DB77F523047D84, 0x32CAAB7B40C72493, 0x3C9EBE0A15C9BEBC, 0x431D67C49C100D4C,
   0x4CC5D4BECB3E42B6, 0x597F299CFC657E2A, 0x5FCB6FAB3AD6FAEC, 0x6C44198C4A475817]

/-- Round constants of SHA-512. -/
def sha512K : List Word := sha512K0 ++ sha512K1

/-- Initial value of SHA-512. -/
def sha512Iv : List Word :=
  [0x6A09E667F3BCC908, 0xBB67AE8584CAA73B, 0x3C6EF372FE94F82B, 0xA54FF53A5F1D36F1,
   0x510E527FADE682D1, 0x9B05688C2B3E6C1F, 0x1F83D9ABFB41BD6B, 0x5BE0CD19137E2179]

/-- Initial value of SHA-512/256. -/
def sha512_256Iv : List Word :=
  [0x22312194FC2BF72C, 0x9F555FA3C84C64C2, 0x2393B86B6F53B151, 0x963877195940EABD,
   0x96283EE2A88EFFE3, 0xBE5E1E2553863992, 0x2B0199FC2C85B8AA, 0x0EB72DDC81C52CA2]

/-- Working variables of the compression function. -/
structure Sha512Vars where
  a : Word
  b : Word
  c : Word
  d : Word
  e : Word
  f : Word
  g : Word
  h : Word
deriving DecidableEq, Repr

/-- Rotate right. -/
def rotr64 (x : Word) (n : Nat) : Word := (x >>> n) ||| (x <<< (64 - n))

/-- The next schedule word from the last sixteen, oldest first. -/
def sha512Next (w : List Word) : Word :=
  let x := lget w 1 0
  let y := lget w 14 0
  lget w 0 0 + (rotr64 x 1 ^^^ rotr64 x 8 ^^^ (x >>> 7)) + lget w 9 0 +
    (rotr64 y 19 ^^^ rotr64 y 61 ^^^ (y >>> 6))

/-- One round. -/
def sha512Round (v : Sha512Vars) (k w : Word) : Sha512Vars :=
  let t1 := v.h + (rotr64 v.e 14 ^^^ rotr64 v.e 18 ^^^ rotr64 v.e 41) +
    ((v.e &&& v.f) ^^^ (~~~v.e &&& v.g)) + k + w
  let t2 := (rotr64 v.a 28 ^^^ rotr64 v.a 34 ^^^ rotr64 v.a 39) +
    ((v.a &&& v.b) ^^^ (v.a &&& v.c) ^^^ (v.b &&& v.c))
  ⟨t1 + t2, v.a, v.b, v.c, v.d + t1, v.e, v.f, v.g⟩

/-- The rounds over the constants, with a sliding window of schedule words. -/
def sha512Rounds : List Word → List Word → Sha512Vars → Sha512Vars
  | [], _, v => v
  | k :: ks, w, v => sha512Rounds ks (w.drop 1 ++ [sha512Next w]) (sha512Round v k (lget w 0 0))

/-- Compress one block of sixteen words into the chaining value. -/
def sha512Block (h : List Word) (w : List Word) : List Word :=
  let v := sha512Rounds sha512K w
    ⟨lget h 0 0, lget h 1 0, lget h 2 0, lget h 3 0, lget h 4 0, lget h 5 0, lget h 6 0, lget h 7 0⟩
  List.zipWith (· + ·) h [v.a, v.b, v.c, v.d, v.e, v.f, v.g, v.h]

/-- Padding of a message of `n` bytes to whole 128-byte blocks. -/
def sha512Pad (n : Nat) : Bytes :=
  [0x80] ++ List.replicate ((112 + 128 - (n + 1) % 128) % 128) 0 ++ beBytes 16 (n * 8)

/-- Compress the blocks of a padded message; the first argument bounds their number. -/
def sha512Blocks : Nat → List Word → Bytes → List Word
  | 0, h, _ => h
  | n + 1, h, m =>
    sha512Blocks n (sha512Block h ((List.range 16).map (fun i => BitVec.ofNat 64 (beNat ((m.drop (8 * i)).take 8)))))
      (m.drop 128)

/-- SHA-512 with a given initial value. -/
def sha512With (iv : List Word) (m : Bytes) : Bytes :=
  let p := m ++ sha512Pad m.length
  (sha512Blocks (p.length / 128) iv p).flatMap (fun w => beBytes 8 w.toNat)

/-- SHA-512 of a byte string, 64 bytes. -/
def sha512 (m : Bytes) : Bytes := sha512With sha512Iv m

/-- SHA-512/256 of a byte string, 32 bytes. -/
def sha512_256 (m : Bytes) : Bytes := (sha512With sha512_256Iv m).take 32

/-- One bit of the reflected CRC-32C register (polynomial 0x82F6_3B78, R89). -/
def crcBit (c : BitVec 32) : BitVec 32 :=
  if c.getLsbD 0 then (c >>> 1) ^^^ 0x82F63B78#32 else c >>> 1

/-- One byte through the CRC register. -/
def crcByte (c : BitVec 32) (b : Byte) : BitVec 32 :=
  let x := c ^^^ b.setWidth 32
  crcBit (crcBit (crcBit (crcBit (crcBit (crcBit (crcBit (crcBit x)))))))

/-- CRC-32C (R89): initial value and final exclusive-or 0xFFFF_FFFF. -/
def crc32c (m : Bytes) : BitVec 32 := (m.foldl crcByte 0xFFFFFFFF#32) ^^^ 0xFFFFFFFF#32

/-- The tree shape of R265: an odd last value moves up unchanged. -/
def treeHashLevel : List Bytes → List Bytes
  | a :: b :: l => sha512_256 ([0x01] ++ a ++ b) :: treeHashLevel l
  | l => l

/-- tree_hash with a bound on the number of levels. -/
def treeHashFuel : Nat → List Bytes → Bytes
  | 0, l => l.headD []
  | n + 1, l => if l.length ≤ 1 then l.headD [] else treeHashFuel n (treeHashLevel l)

/-- tree_hash (R265, 12_integrity.md); no value gives 32 zero bytes, the root of an empty share. -/
def treeHash (l : List Bytes) : Bytes :=
  if l.isEmpty then List.replicate 32 0 else treeHashFuel l.length l

end Sys2Proof.Machine
end

