-- ==== Sys2Proof/Machine/Shale.lean ====
section
/-! DEFINITION. Shale pebbles: decoding, encoding, stochastic draws, sketches, page digests, demotion
(05_shale.md, R82-R100; R263 of 12_integrity.md). -/
namespace Sys2Proof.Machine

/-- Whether a number is a format code of Table 5.1. -/
def fmtValid (f : Nat) : Bool := f == 3 || f == 4 || f == 6 || f == 8 || f == 16

/-- Largest code of a format below Shale-16 (Table 5.1). -/
def fmtQmax (f : Nat) : Nat := 2 ^ (f - 1) - 1

/-- Pebble size in bytes: payload and 8-byte trailer (Table 5.1). -/
def pebSize (f : Nat) : Nat := f * 8 + 8

/-- Frame size in bytes (R91): `np` pebbles a token. -/
def frameSize (f np : Nat) : Nat := 128 * np * pebSize f

/-- SCALE of the trailer (Table 5.2). -/
def pebScale (b : Bytes) (f : Nat) : F32 := fOfBf16 (BitVec.ofNat 16 (le b (f * 8) 2))

/-- Whether a pebble passes its check: size, FORMAT of the trailer, CRC (R84, R89, R90). -/
def pebOk (f : Nat) (b : Bytes) : Bool :=
  b.length == pebSize f && le b (f * 8 + 2) 1 == f &&
    le b (f * 8 + 4) 4 == (crc32c (b.take (f * 8 + 4))).toNat

/-- Element codes of a pebble as FP32: integers, or the BF16 elements of Shale-16 (R83). -/
def pebCodes (f : Nat) (b : Bytes) : List F32 :=
  if f = 16 then (List.range 64).map (fun e => fOfBf16 (BitVec.ofNat 16 (le b (2 * e) 2)))
  else
    let p := leNat (b.take (f * 8))
    (List.range 64).map (fun e =>
      let c := (p >>> (f * e)) % 2 ^ f
      fOfInt (if c < 2 ^ (f - 1) then (c : Int) else (c : Int) - 2 ^ f))

/-- Decoded elements: code times scale (R83). -/
def pebDecode (f : Nat) (b : Bytes) : List F32 := (pebCodes f b).map (fun c => fmul c (pebScale b f))

/-- A pebble from payload, SCALE and FLAGS: trailer and CRC (Table 5.2, R89). -/
def pebBuild (f : Nat) (payload : Bytes) (scale : BitVec 16) (flags : Nat) : Bytes :=
  let b := payload ++ leBytes 2 scale.toNat ++ [BitVec.ofNat 8 f, BitVec.ofNat 8 flags]
  b ++ leBytes 4 (crc32c b).toNat

/-- FLAGS of the trailer (Table 5.2). -/
def pebFlags (value stochastic demoted : Bool) : Nat := b2n value + 2 * b2n stochastic + 4 * b2n demoted

/-- The absent-slot pebble of a format (R91). -/
def pebAbsent (f : Nat) (value : Bool) : Bytes :=
  pebBuild f (List.replicate (f * 8) 0) (if f = 16 then 0x3F80#16 else 0#16) (pebFlags value false false)

/-- `mix` (R87). -/
def mix (z : Word) : Word :=
  let z := (z ^^^ (z >>> 30)) * 0xBF58476D1CE4E5B9#64
  let z := (z ^^^ (z >>> 27)) * 0x94D049BB133111EB#64
  z ^^^ (z >>> 31)

/-- Who an element is, for the draw of R87. -/
structure DrawId where
  seed : Word
  conv : Nat
  token : Nat
  layer : Nat
  head : Nat
  kind : Nat
  pass : Nat
  j : Nat
deriving DecidableEq, Repr

/-- `sr_draw` (R87) for element `e`. -/
def srDraw (d : DrawId) (e : Nat) : F32 :=
  let c0 := BitVec.ofNat 64 (d.conv % 2 ^ 32 * 2 ^ 32 + d.token % 2 ^ 32)
  let c1 := BitVec.ofNat 64 (d.layer <<< 48 ||| d.head <<< 40 ||| d.kind <<< 36 ||| d.pass <<< 32 ||| d.j <<< 8 ||| e)
  let r := mix (d.seed ^^^ mix (c0 ^^^ mix c1))
  fNear false (r >>> 40).toNat false (-24)

/-- Pebble scale of R85 as BF16. -/
def shaleScale (f : Nat) (xs : List F32) : BitVec 16 :=
  let a := xs.foldl (fun m x => fmax m (fabs x)) (fZero false)
  if a == fZero false then 0#16
  else
    let s := toBf16R .up (fdiv a (fOfNat (fmtQmax f)))
    if s == 0#16 then 0x0080#16 else s

/-- One code (R86). -/
def shaleCode (f : Nat) (scale x : F32) (u : Option F32) : Int :=
  let v := fdiv x scale
  let c := match u with
    | none => fRoundInt v
    | some u => fFloor (fadd v u)
  let q : Int := fmtQmax f
  if c > q then q else if c < -q then -q else c

/-- Pack codes of `n` bits, element 0 lowest (R83). -/
def packCodes (n : Nat) : List Int → Nat
  | [] => 0
  | c :: l => (c % 2 ^ n).toNat + 2 ^ n * packCodes n l

/-- Encode 64 FP32 elements (R85, R86). `draw` is present when S_SR is set; none is the answer when an element of
Shale-16 rounds to an infinity (R88). -/
def pebEncode (f : Nat) (xs : List F32) (value demoted : Bool) (draw : Option DrawId) : Option Bytes :=
  if f = 16 then
    let es := xs.map toBf16
    if es.any (fun e => fNonFinite (fOfBf16 e)) then none
    else some (pebBuild 16 (es.flatMap (fun e => leBytes 2 e.toNat)) 0x3F80#16 (pebFlags value false demoted))
  else
    let s := shaleScale f xs
    let codes := if s == 0#16 then xs.map (fun _ => (0 : Int))
      else xs.zipIdx.map (fun x => shaleCode f (fOfBf16 s) x.1 (draw.map (fun d => srDraw d x.2)))
    some (pebBuild f (leBytes (f * 8) (packCodes f codes)) s (pebFlags value draw.isSome demoted))

/-- Key blocks per token. -/
def AttnProfile.nk (a : AttnProfile) : Nat := a.dk / 64

/-- Value pebbles per token: none in a latent profile (R66, R91). -/
def AttnProfile.nv (a : AttnProfile) : Nat := if a.latent then 0 else a.dv / 64

/-- Index of key pebble (t, j) in the frame (R91). -/
def keyPeb (a : AttnProfile) (t j : Nat) : Nat := t * a.nk + j

/-- Index of value pebble (t, j); a latent profile reads the key's (R66, R91). -/
def valPeb (a : AttnProfile) (t j : Nat) : Nat := if a.latent then t * a.nk + j else 128 * a.nk + t * a.nv + j

/-- Whether a frame index is a value pebble. -/
def isValPeb (a : AttnProfile) (i : Nat) : Bool := decide (128 * a.nk ≤ i)

/-- Token slot of a frame index. -/
def slotOfPeb (a : AttnProfile) (i : Nat) : Nat :=
  if isValPeb a i then (i - 128 * a.nk) / a.nv else i / a.nk

/-- Block number of a frame index within its token. -/
def blockOfPeb (a : AttnProfile) (i : Nat) : Nat :=
  if isValPeb a i then (i - 128 * a.nk) % a.nv else i % a.nk

/-- A frame of absent-slot pebbles. -/
def emptyFrame (a : AttnProfile) (f : Nat) : List Bytes :=
  List.replicate (128 * a.nk) (pebAbsent f false) ++ List.replicate (128 * a.nv) (pebAbsent f true)

/-- Pebbles of token slot `t`, keys then values, as the digest chain takes them (R263). -/
def slotPebbles (a : AttnProfile) (pebbles : List Bytes) (t : Nat) : List Bytes :=
  (List.range a.nk).map (fun j => lget pebbles (keyPeb a t j) []) ++
    (List.range a.nv).map (fun j => lget pebbles (128 * a.nk + t * a.nv + j) [])

/-- First pebble of the first `fill` slots that fails its check, in frame order (R90). -/
def firstBad (f : Nat) (pebbles : List Bytes) : Option Nat := pebbles.findIdx? (fun b => !pebOk f b)

/-- The first pebble of a page that a reader finds failing: by its CRC, or with an uncorrectable error (R90). -/
def Page.badPeb (p : Page) : Option Nat :=
  (p.pebbles.zipIdx.find? (fun x => !pebOk p.format x.1 || p.bad.contains x.2)).map Prod.snd

/-- Start of the digest chain (R263). -/
def chainStart (layer head index fmt : Nat) : Bytes :=
  sha512_256 ([0x00] ++ leBytes 2 layer ++ leBytes 1 head ++ leBytes 4 index ++ leBytes 1 fmt)

/-- One slot of the digest chain (R263). -/
def chainStep (d : Bytes) (pebs : List Bytes) : Bytes := sha512_256 ([0x02] ++ d ++ pebs.flatten)

/-- The chain over slots 0 .. fill - 1 (R263). -/
def pageChain (a : AttnProfile) (layer head index fmt fill : Nat) (pebbles : List Bytes) : Bytes :=
  (List.range fill).foldl (fun d t => chainStep d (slotPebbles a pebbles t)) (chainStart layer head index fmt)

/-- Bring a page's leaf up to date after a change of its pebbles or FILL (R264); DIGEST is the leaf of a sealed
page and zero otherwise (Table 5.4). -/
def Page.relink (a : AttnProfile) (p : Page) : Page :=
  let d := pageChain a p.layer p.head p.index p.format p.fill p.pebbles
  { p with leaf := d, digest := if p.isSealed then d else List.replicate 32 0 }

/-- Decoded key vectors of the written slots. -/
def pageKeys (a : AttnProfile) (p : Page) : List (List F32) :=
  (List.range p.fill).map (fun t =>
    (List.range a.nk).flatMap (fun j => pebDecode p.format (lget p.pebbles (keyPeb a t j) [])))

/-- Minimum of one dimension over the tokens, as BF16 toward minus infinity (R93). -/
def sketchLo (ks : List (List F32)) (i : Nat) : BitVec 16 :=
  toBf16R .down (ks.foldl (fun m k => fmin m (lget k i 0)) (lget (ks.headD []) i 0))

/-- Maximum of one dimension, as BF16 toward plus infinity (R93). -/
def sketchHi (ks : List (List F32)) (i : Nat) : BitVec 16 :=
  toBf16R .up (ks.foldl (fun m k => fmax m (lget k i 0)) (lget (ks.headD []) i 0))

/-- Compute the sketch of a sealed page (R93). -/
def Page.resketch (a : AttnProfile) (p : Page) : Page :=
  let ks := pageKeys a p
  { p with sketchValid := true
           lo := (List.range a.dk).map (sketchLo ks)
           hi := (List.range a.dk).map (sketchHi ks) }

/-- Seal a page: SEALED, sketch, digest (R93, R263). -/
def Page.sealUp (a : AttnProfile) (p : Page) : Page := (({ p with isSealed := true } : Page).resketch a).relink a

/-- Re-encode one pebble in a new format (R96). -/
def demotePeb (a : AttnProfile) (l : LadderProfile) (p : Page) (fmt pass i : Nat) (b : Bytes) : Bytes :=
  let v := isValPeb a i
  let t := slotOfPeb a i
  if t < p.fill then
    let d : DrawId := ⟨l.seed, p.conv, p.index * 128 + t, p.layer, p.head, b2n v, pass, blockOfPeb a i⟩
    (pebEncode fmt (pebDecode p.format b) v true (if l.sr then some d else none)).getD b
  else pebAbsent fmt v

/-- A demotion (R96): the page in the new format, or poisoned with its format kept when a pebble fails its check;
the second value is that pebble. -/
def Page.demote (a : AttnProfile) (l : LadderProfile) (fmt pass rung : Nat) (p : Page) : Page × Option Nat :=
  match p.badPeb with
  | some i => ({ p with poisoned := true, demotePending := false }, some i)
  | none =>
    let q : Page := { p with pebbles := p.pebbles.zipIdx.map (fun x => demotePeb a l p fmt pass x.2 x.1)
                             format := fmt, rung := rung, demotePending := false }
    ((q.resketch a).relink a, none)

/-- Format of ladder rung `k`, 1 to 3 (Table 5.5). -/
def LadderProfile.fmt (l : LadderProfile) (k : Nat) : Nat := lget l.fmts (k - 1) 8

/-- The rung a page reaches when its head's tail page index is `t` (R95): the highest that qualifies. -/
def rungReached (l : LadderProfile) (t : Nat) (p : Page) : Option Nat :=
  if p.isSealed && !p.shared && !p.poisoned then
    [3, 2, 1].find? (fun k =>
      let age := lget l.ages (k - 1) 0
      age != 0 && decide (p.index + age ≤ t) && decide (p.rung < k))
  else none

/-- Logical bytes of one page (R99). -/
def pageLogical (a : AttnProfile) : Nat := if a.latent then 128 * a.dk * 2 else 128 * (a.dk + a.dv) * 2

/-- The page record of Table 5.4 as memory holds it (R92). -/
def Page.record (p : Page) (tag : Nat) : Bytes :=
  leBytes 4 p.conv ++ leBytes 4 p.index ++ leBytes 2 p.layer ++ leBytes 1 p.head ++ leBytes 1 p.format ++
    leBytes 1 p.fill ++
    leBytes 1 (b2n p.isSealed + 2 * b2n p.shared + 4 * b2n p.sketchValid + 8 * b2n p.poisoned + 16 * b2n p.demotePending) ++
    leBytes 2 tag ++ leBytes 4 p.refs ++ leBytes 1 p.tier ++ leBytes 1 p.rung ++ leBytes 2 0 ++ leBytes 8 p.frame ++
    padTo 32 p.digest

/-- The sketch as memory holds it (R93): lo then hi. -/
def Page.sketch (p : Page) : Bytes := (p.lo ++ p.hi).flatMap (fun x => leBytes 2 x.toNat)

end Sys2Proof.Machine
end

