-- ==== Sys2Proof/Machine/Attn.lean ====
section
/-! DEFINITION. Canonical attention arithmetic: rotation, scores, masks, page partials, merges, bounded skip and
the output steps (03_attention.md, R42-R68). Pure functions of the request, its pages and the profile. -/
namespace Sys2Proof.Machine

/-- One query row: rotated BF16 elements as FP32, token position, global query head (R42), KV head. -/
structure QRow where
  q : List F32
  pos : Nat
  gh : Nat
  kvh : Nat
deriving DecidableEq, Repr

/-- What scoring needs beside the row and the page. -/
structure ScoreEnv where
  attn : AttnProfile
  scale : F32
  slopes : List F32
  prog : Option ProgImage
  layer : Nat
  kfirst : Nat
  kend : Nat
  causal : Bool
deriving DecidableEq, Repr

/-- The score scale in force: A_SCALE, or 1/√d_k for 0 (Table 18.10, Table 3.1). -/
def AttnProfile.effScale (a : AttnProfile) : F32 := if a.scale == 0#32 then fInvSqrt a.dk else a.scale

/-- Bias slopes of all global query heads (R41): slope[h] = slope[h - 1] * A_BIAS_RATIO. -/
def slopesFrom (r : F32) : Nat → F32 → List F32
  | 0, _ => []
  | n + 1, s => s :: slopesFrom r n (fmul s r)

/-- The slopes of a profile (R41). -/
def AttnProfile.biasSlopes (a : AttnProfile) : List F32 := slopesFrom a.biasRatio (a.kvheads * a.group) a.biasBase

/-- Whether the linear bias is on (R43 step 4). -/
def AttnProfile.biased (a : AttnProfile) : Bool := fPositive a.biasBase

/-- Whether the soft-cap is on (R43 step 3). -/
def AttnProfile.capped (a : AttnProfile) : Bool := fPositive a.softcap

/-- Whether the mask allows key `j` for a query at `i` (R44). -/
def allowed (e : ScoreEnv) (i j : Nat) : Bool :=
  decide (e.kfirst ≤ j) && decide (j < e.kend) && (!e.causal || decide (j ≤ i)) &&
    (e.attn.window == 0 || decide (i < j + e.attn.window) || decide (j < e.attn.sinks))

/-- Whether the mask allows a query at `i` any of the tokens `first` to `first + count - 1` (R44, R54): the test of `allowed` over a run
of keys, which needs no page. -/
def spanAllowed (e : ScoreEnv) (i first count : Nat) : Bool :=
  let lo := max first e.kfirst
  let hi := min (min (first + count) e.kend) (if e.causal then i + 1 else first + count)
  decide (lo < hi) && (e.attn.window == 0 || decide (max lo (i + 1 - e.attn.window) < hi) || decide (lo < min hi e.attn.sinks))

/-- Steps 2 to 5 of R43 on a dot product; none is a score of +infinity or NaN at any step. -/
def modifyScore (e : ScoreEnv) (r : QRow) (j : Nat) (dot : F32) : Option F32 :=
  let s := fmul dot e.scale
  if fBadScore s then none
  else
    let s := if e.attn.capped then fmul e.attn.softcap (canonTanh (fdiv s e.attn.softcap)) else s
    if fBadScore s then none
    else
      let s := if e.attn.biased then fadd s (fmul (lget e.slopes r.gh 0) (fOfInt ((j : Int) - r.pos))) else s
      if fBadScore s then none
      else
        match e.prog with
        | none => some s
        | some p =>
          let o := progRun p ⟨s, BitVec.ofNat 32 r.pos, BitVec.ofNat 32 j, BitVec.ofNat 32 r.gh, BitVec.ofNat 32 e.layer⟩
          if fBadScore o then none else some o

/-- The canonical dot product of R56: key pebbles in index order. -/
def keyDot (q : List F32) (fmt : Nat) (pebs : List Bytes) : F32 :=
  (pebs.zipIdx.foldl (fun acc x =>
    let prods := List.zipWith fmul ((q.drop (64 * x.2)).take 64) (pebCodes fmt x.1)
    fadd acc (fmul (tree64 prods) (pebScale x.1 fmt))) (fZero false))

/-- Dot product of a row with token slot `t` of a page. -/
def slotDot (a : AttnProfile) (p : Page) (q : List F32) (t : Nat) : F32 :=
  keyDot q p.format ((List.range a.nk).map (fun j => lget p.pebbles (keyPeb a t j) []))

/-- Scores of a row over the 128 slots: `some none` for a token that is not live, none for a score error. -/
def pageScores (e : ScoreEnv) (r : QRow) (p : Page) : Nat → Option (List (Option F32))
  | 0 => some []
  | n + 1 =>
    match pageScores e r p n with
    | none => none
    | some l =>
      if n < p.fill && allowed e r.pos (p.index * 128 + n) then
        match modifyScore e r (p.index * 128 + n) (slotDot e.attn p r.q n) with
        | none => none
        | some s => some (l ++ [if fIsNegInf s then none else some s])
      else some (l ++ [none])

/-- The empty partial (R51). -/
def emptyPartial (dv : Nat) : Partial := ⟨fInf true, fZero false, List.replicate dv (fZero false), fZero false, 0⟩

/-- Sum of 128 values as two 64-trees (R56). -/
def tree128 (l : List F32) : F32 := fadd (tree64 (l.take 64)) (tree64 (l.drop 64))

/-- Largest live score. -/
def maxScore (l : List (Option F32)) : F32 :=
  l.foldl (fun m s => match s with | none => m | some s => fmax m s) (fInf true)

/-- Canonical weights (R56). -/
def weightsOf (m : F32) (l : List (Option F32)) : List F32 :=
  l.map (fun s => match s with | none => fZero false | some s => fOfBf16 (toBf16 (canonExp (fsub s m))))

/-- Value codes and scale of block `j` of token slot `t`; an absent slot has code 0 (R56). -/
def slotValue (a : AttnProfile) (p : Page) (j t : Nat) : F32 × List F32 :=
  if t < p.fill then
    let b := lget p.pebbles (valPeb a t j) []
    (pebScale b p.format, pebCodes p.format b)
  else (fZero false, List.replicate 64 (fZero false))

/-- Output block `j` of a page partial: element `e` sums the 128 weighted codes. -/
def valueBlock (a : AttnProfile) (p : Page) (u : List F32) (j : Nat) : List F32 :=
  let vs := (List.range 128).map (slotValue a p j)
  (List.range 64).map (fun e =>
    tree128 (List.zipWith (fun w v => fmul (fmul w v.1) (lget v.2 e 0)) u vs))

/-- page_partial (R56); none is the error SCORE_RANGE (R43). -/
def pagePartial (e : ScoreEnv) (r : QRow) (p : Page) : Option Partial :=
  match pageScores e r p 128 with
  | none => none
  | some s =>
    let m := maxScore s
    if fIsNegInf m then some (emptyPartial e.attn.dv)
    else
      let u := weightsOf m s
      some ⟨m, tree128 u, (List.range (e.attn.dv / 64)).flatMap (valueBlock e.attn p u), fZero false, 0⟩

/-- The running state (m, l, o) of a page scan of which the first `n` pebbles in frame order have been read (R30, R91): the maximum over
the tokens scored so far in the score pass, the sums over the tokens weighted so far in the value pass. -/
def runningPartial (e : ScoreEnv) (r : QRow) (p : Page) (n : Nat) : Partial :=
  let a := e.attn
  let keys := 128 * a.nk
  let seen (k : Nat) : Option (List (Option F32)) := pageScores e r { p with fill := min p.fill k } 128
  if n < keys then
    match seen (n / max 1 a.nk) with
    | none => emptyPartial a.dv
    | some s => { emptyPartial a.dv with m := maxScore s }
  else
    match seen 128 with
    | none => emptyPartial a.dv
    | some s =>
      let u := weightsOf (maxScore s) s
      let done := (n - keys) / max 1 a.nv
      let part := u.zipIdx.map (fun x => if x.2 < done then x.1 else fZero false)
      if fIsNegInf (maxScore s) then emptyPartial a.dv
      else ⟨maxScore s, tree128 u, (List.range (a.dv / 64)).flatMap (valueBlock a p part), fZero false, 0⟩

/-- Whether a page holds a key the mask allows for a row (R54). -/
def pageTouched (e : ScoreEnv) (r : QRow) (p : Page) : Bool :=
  (List.range p.fill).any (fun t => allowed e r.pos (p.index * 128 + t))

/-- Number of tokens of a page live under the mask for a row (R64). -/
def liveCount (e : ScoreEnv) (r : QRow) (p : Page) : Nat :=
  ((List.range p.fill).filter (fun t => allowed e r.pos (p.index * 128 + t))).length

/-- merge of two partials, `a` before `b` (R52). -/
def mergePartial (a b : Partial) : Partial :=
  if fIsNegInf a.m then { b with k := (a.k + b.k) % 2 ^ 32 }
  else if fIsNegInf b.m then { a with k := (a.k + b.k) % 2 ^ 32 }
  else
    let m := fmax a.m b.m
    let ca := canonExp (fsub a.m m)
    let cb := canonExp (fsub b.m m)
    { m := m
      l := fadd (fmul a.l ca) (fmul b.l cb)
      o := List.zipWith (fun x y => fadd (fmul x ca) (fmul y cb)) a.o b.o
      z := fadd (fmul a.z ca) (fmul b.z cb)
      k := (a.k + b.k) % 2 ^ 32 }

/-- One level of the canonical tree (R53). -/
def mergeLevel : List Partial → List Partial
  | a :: b :: l => mergePartial a b :: mergeLevel l
  | l => l

/-- Levels of the canonical tree, bounded. -/
def mergeFuel : Nat → List Partial → List Partial
  | 0, l => l
  | n + 1, l => if l.length ≤ 1 then l else mergeFuel n (mergeLevel l)

/-- tree_merge (R53); no partial gives the empty partial (R42). -/
def treeMerge (dv : Nat) (l : List Partial) : Partial := (mergeFuel l.length l).headD (emptyPartial dv)

/-- The fold of RELAXED_MERGE in completion order (R55). -/
def foldMerge (dv : Nat) (l : List Partial) : Partial := l.foldl mergePartial (emptyPartial dv)

/-- One output of an orthogonal block or projection row: products rounded, summed by tree64 (R48). -/
def dot64 (u x : List F32) : F32 := tree64 (List.zipWith fmul u x)

/-- Rotation of a vector block by block: y_a = sum over b of U[a][b] x[b] (R48). -/
def rotateVec (u : List (List F32)) (x : List F32) : List F32 :=
  (List.range (x.length / 64)).flatMap (fun j => u.map (fun row => dot64 row ((x.drop (64 * j)).take 64)))

/-- Transpose of a 64 x 64 matrix. -/
def transpose64 (u : List (List F32)) : List (List F32) :=
  (List.range 64).map (fun b => u.map (fun row => lget row b 0))

/-- Un-rotation: o_b = sum over a of U[a][b] o'_a (R49). -/
def unrotateVec (u : List (List F32)) (x : List F32) : List F32 := rotateVec (transpose64 u) x

/-- A projection: each output accumulates tree64 sums of blocks of 64 inputs in index order (R66). -/
def projectVec (m : List (List F32)) (x : List F32) : List F32 :=
  m.map (fun row =>
    (List.range (x.length / 64)).foldl
      (fun acc j => fadd acc (dot64 ((row.drop (64 * j)).take 64) ((x.drop (64 * j)).take 64))) (fZero false))

/-- Matrix of FP32 elements, row by row, from bytes. -/
def matOfBytes (cols : Nat) (b : Bytes) : Nat → List (List F32)
  | 0 => []
  | n + 1 => matOfBytes cols b n ++
      [(List.range cols).map (fun c => BitVec.ofNat 32 (le b (4 * (n * cols + c)) 4))]

/-- Section of a geode by type, layer and head (Table 11.7). -/
def Geode.section? (g : Geode) (kind layer head : Nat) : Option Bytes :=
  (g.sections.find? (fun s => s.kind == kind && s.layer == layer && s.head == head)).map GeodeSection.data

/-- The rotation U of a layer and KV head (section type 1). -/
def Geode.rotation (g : Geode) (layer head : Nat) : List (List F32) :=
  matOfBytes 64 ((g.section? 1 layer head).getD []) 64

/-- Rotated, rounded query elements of one row, or none for QUERY_VALUE (R45, R48, R66). -/
def rotateQuery (a : AttnProfile) (g : Geode) (layer kvh gh : Nat) (raw : List F32) : Option (List F32) :=
  if raw.any fNonFinite then none
  else
    let x := raw.map fFlush
    let x := if a.qprojDin = 0 then x else projectVec (matOfBytes a.qprojDin ((g.section? 2 layer gh).getD []) a.dk) x
    if x.any fNonFinite then none
    else
      let y := rotateVec (g.rotation layer kvh) x
      if y.any fNonFinite then none
      else
        let z := y.map (fun v => fOfBf16 (toBf16 v))
        if z.any fNonFinite then none else some z

/-- BF16 elements of a byte string. -/
def bf16s (b : Bytes) (n : Nat) : List F32 := (List.range n).map (fun i => fOfBf16 (BitVec.ofNat 16 (le b (2 * i) 2)))

/-- Input dimension of a query row (R45). -/
def AttnProfile.din (a : AttnProfile) : Nat := if a.qprojDin = 0 then a.dk else a.qprojDin

/-- Output dimension of a record (R46). -/
def AttnProfile.dout (a : AttnProfile) : Nat := if a.oprojDout = 0 then a.dv else a.oprojDout

/-- Rows of a query block in its order [position][relative KV head][group member] (R45): position index,
KV head, global query head. -/
def blockRows (a : AttnProfile) (kvhFirst kvhCount positions : Nat) : List (Nat × Nat × Nat) :=
  (List.range positions).flatMap (fun p =>
    (List.range kvhCount).flatMap (fun h =>
      (List.range a.group).map (fun g => (p, kvhFirst + h, (kvhFirst + h) * a.group + g))))

/-- Rows of a query block whose first position is `first`; none for QUERY_VALUE (R45, R48). -/
def queryRows (a : AttnProfile) (g : Geode) (layer kvhFirst kvhCount positions first : Nat) (data : Bytes) :
    Option (List QRow) :=
  ((blockRows a kvhFirst kvhCount positions).zipIdx).foldr (fun x acc =>
    let (p, kvh, gh) := x.1
    match acc, rotateQuery a g layer kvh gh (bf16s (data.drop (x.2 * a.din * 2)) a.din) with
    | some l, some q => some (⟨q, first + p, gh, kvh⟩ :: l)
    | _, _ => none) (some [])

/-! ### Bounded skip -/

/-- Absolute value and sums that round toward plus infinity (R63). -/
def boundSums (q : List F32) (lo hi : List (BitVec 16)) : F32 × F32 :=
  (List.zipWith Prod.mk q (List.zipWith Prod.mk lo hi)).foldl (fun s x =>
    let l := fOfBf16 x.2.1
    let h := fOfBf16 x.2.2
    (fAddR .up s.1 (fmax (fMulR .up x.1 l) (fMulR .up x.1 h)),
     fAddR .up s.2 (fMulR .up (fabs x.1) (fmax (fabs l) (fabs h))))) (fZero false, fZero false)

/-- Largest live key position of a page for a row. -/
def jmaxOf (e : ScoreEnv) (r : QRow) (p : Page) : Nat :=
  (List.range p.fill).foldl (fun m t => if allowed e r.pos (p.index * 128 + t) then p.index * 128 + t else m) 0

/-- page_bound (R63). -/
def pageBound (e : ScoreEnv) (r : QRow) (p : Page) : F32 :=
  let (b, a) := boundSums r.q p.lo p.hi
  let b := fAddR .up (fMulR .up b e.scale) (fDivR .up (fMulR .up a e.scale) 0x47800000#32)
  let b := if e.attn.capped then
      fAddR .up (fMulR .up e.attn.softcap (canonTanh (fDivR .up b e.attn.softcap)))
        (fDivR .up e.attn.softcap 0x49800000#32)
    else b
  if e.attn.biased then
    fAddR .up b (fMulR .up (lget e.slopes r.gh 0) (fOfIntR .up ((jmaxOf e r p : Int) - r.pos)))
  else b

/-- Whether a page holds a sink token allowed for the row (R62). -/
def holdsSink (e : ScoreEnv) (r : QRow) (p : Page) : Bool :=
  (List.range p.fill).any (fun t => decide (p.index * 128 + t < e.attn.sinks) && allowed e r.pos (p.index * 128 + t))

/-- Index of the page with the largest bound, the lowest index winning a tie (R62). -/
def bestBound : List (Nat × F32) → Option (Nat × F32)
  | [] => none
  | x :: l =>
    match bestBound l with
    | none => some x
    | some y => if flt x.2 y.2 then some y else some x

/-- Exact test b < m - theta / 256 (R62). -/
def belowAnchor (b m : F32) (theta : Nat) : Bool :=
  match fUnpack b, fUnpack m with
  | .inf n, .fin _ _ _ => n
  | .fin nb mb eb, .fin nm mm em =>
    let (n1, m1, e1) := fSum nm mm em true theta (-8)
    fLtFin nb mb eb n1 m1 e1
  | _, _ => false

/-- Whether a page belongs to the anchor set of a row, given the best-bounded page (R62). -/
def isAnchor (e : ScoreEnv) (r : QRow) (best : Option (Nat × F32)) (p : Page) : Bool :=
  !p.isSealed || holdsSink e r p || (best.map Prod.fst) == some p.index

/-- A page of a share as its node sees it: held here, or a leaf forwarded by the node that holds it (R128). -/
inductive PageSrc where
  | here (p : Page)
  | got (index : Nat) (r : Partial)
  /-- Every token masked for the row: not read, wherever it lies (R54). -/
  | masked (index : Nat)
deriving DecidableEq, Repr

/-- The page, when it is held here. -/
def PageSrc.page? : PageSrc → Option Page
  | .here p => some p
  | .got _ _ => none
  | .masked _ => none

/-- Bounds of the sealed pages the mask does not exclude entirely (R62). -/
def rowBounds (e : ScoreEnv) (r : QRow) (pages : List Page) : List (Nat × F32) :=
  (pages.filter (fun p => p.isSealed && p.sketchValid && pageTouched e r p)).map (fun p => (p.index, pageBound e r p))

/-- m_anchor: the largest score among the live tokens of the anchor pages. -/
def anchorMax (e : ScoreEnv) (r : QRow) (best : Option (Nat × F32)) (pages : List Page) : Option F32 :=
  (pages.filter (fun p => isAnchor e r best p && pageTouched e r p)).foldl (fun acc p =>
    match acc, pageScores e r p 128 with
    | some m, some s => some (fmax m (maxScore s))
    | _, _ => none) (some (fInf true))

/-- Pages skipped for a row with their bounds, ascending; none for a score error in the anchor set (R62). -/
def rowSkips (e : ScoreEnv) (r : QRow) (theta : Nat) (pages : List Page) : Option (List (Nat × F32)) :=
  let bounds := rowBounds e r pages
  let best := bestBound bounds
  match anchorMax e r best pages with
  | none => none
  | some m =>
    if fIsNegInf m then some []
    else some (bounds.filter (fun x =>
      belowAnchor x.2 m theta && (pages.any (fun p => p.index == x.1 && !isAnchor e r best p))))

/-- Partial of one page for a row within a share: empty when masked or skipped (R54, R62). -/
def sharePage (e : ScoreEnv) (r : QRow) (skips : List (Nat × F32)) (p : Page) : Option Partial :=
  if skips.any (fun x => x.1 == p.index) then some { emptyPartial e.attn.dv with k := 1 }
  else if !pageTouched e r p then some (emptyPartial e.attn.dv)
  else pagePartial e r p

/-- Collect results in order; none if any is missing. -/
def collect {α : Type} : List (Option α) → Option (List α)
  | [] => some []
  | none :: _ => none
  | some a :: l => (collect l).map (a :: ·)

/-- z of a row after its share's tree merge (R64). -/
def neglect (e : ScoreEnv) (r : QRow) (m : F32) (skips : List (Nat × F32)) (pages : List Page) : F32 :=
  (pages.foldl (fun z p =>
    match skips.find? (fun x => x.1 == p.index) with
    | none => z
    | some (_, b) => fadd z (fmul (fOfNat (liveCount e r p)) (canonExp (fsub b m)))) (fZero false))

/-- A row's partial over a node's share, pages of its KV head in ascending index (R53, R54, R62, R64); none for
SCORE_RANGE. Under RELAXED_MERGE the fold runs in the completion order `srcs` is given in (R55); the bounds, the anchor set and z keep
the ascending order of R62 and R64. A forwarded leaf enters the merge as it came: its sketch lies with its holder (R128). -/
def shareRow (e : ScoreEnv) (r : QRow) (theta : Option Nat) (relaxed : Bool) (srcs : List PageSrc) : Option Partial :=
  let pages := lsort Page.index (srcs.filterMap PageSrc.page?)
  match (match theta with | none => some [] | some t => rowSkips e r t pages) with
  | none => none
  | some skips =>
    match collect (srcs.map (fun x => match x with
      | .here p => sharePage e r skips p
      | .got _ q => some q
      | .masked _ => some (emptyPartial e.attn.dv))) with
    | none => none
    | some ps =>
      let p := if relaxed then foldMerge e.attn.dv ps else treeMerge e.attn.dv ps
      some { p with z := if theta.isSome then fadd p.z (neglect e r p.m skips pages) else fZero false }

/-! ### Output -/

/-- Output steps of R49 on a merged row: o un-rotated, projected, normalised (the BF16 step is in the record). With A_OUT_ROTATED = 1 and
an output projection R49 omits the un-rotation and R66 speaks of the un-rotated o: the model projects the rotated o (DESIGN CHOICE,
notes/assumptions/31.md). -/
def outputRow (a : AttnProfile) (g : Geode) (layer : Nat) (normalize : Bool) (r : QRow) (p : Partial) : List F32 :=
  let o := if a.outRotated then p.o else unrotateVec (g.rotation layer r.kvh) p.o
  let o := if a.oprojDout = 0 then o else projectVec (matOfBytes a.dv ((g.section? 3 layer r.gh).getD []) a.oprojDout) o
  if normalize then (if feq p.l (fZero false) then o.map (fun _ => fZero false) else o.map (fun x => fdiv x p.l)) else o

/-- FP32 as bytes. -/
def f32Bytes (x : F32) : Bytes := leBytes 4 x.toNat

/-- The result record of Table 3.3; an empty row as R68 gives it. -/
def resultRecord (a : AttnProfile) (g : Geode) (layer : Nat) (normalize skip : Bool) (r : QRow) (p : Partial) : Bytes :=
  let o := if fIsNegInf p.m then List.replicate a.dout (fZero false) else outputRow a g layer normalize r p
  let ob := if a.outBf16 then o.flatMap (fun x => leBytes 2 (toBf16 x).toNat) else o.flatMap f32Bytes
  f32Bytes p.m ++ f32Bytes p.l ++ (if skip then f32Bytes p.z ++ leBytes 4 p.k else []) ++ ob

/-- Bytes of one record (R46). -/
def recordSize (a : AttnProfile) (skip : Bool) : Nat :=
  (if skip then 16 else 8) + a.dout * (if a.outBf16 then 2 else 4)

/-- The partial of a row as it travels between nodes (Table 13.5): m, l, with BOUNDED_SKIP z and k, then o. -/
def Partial.bytes (skip : Bool) (p : Partial) : Bytes :=
  f32Bytes p.m ++ f32Bytes p.l ++ (if skip then f32Bytes p.z ++ leBytes 4 p.k else []) ++ p.o.flatMap f32Bytes

/-- Bytes of one travelling row. -/
def partialSize (dv : Nat) (skip : Bool) : Nat := (if skip then 16 else 8) + 4 * dv

/-- A row partial read back from those bytes. -/
def partialOfBytes (dv : Nat) (skip : Bool) (b : Bytes) : Partial :=
  let o := if skip then 16 else 8
  ⟨BitVec.ofNat 32 (le b 0 4), BitVec.ofNat 32 (le b 4 4),
   (List.range dv).map (fun i => BitVec.ofNat 32 (le b (o + 4 * i) 4)),
   if skip then BitVec.ofNat 32 (le b 8 4) else fZero false, if skip then le b 12 4 else 0⟩

/-- Row partials of a message. -/
def partialsOfBytes (dv : Nat) (skip : Bool) : Nat → Bytes → List Partial
  | 0, _ => []
  | n + 1, b => partialOfBytes dv skip b :: partialsOfBytes dv skip n (b.drop (partialSize dv skip))

end Sys2Proof.Machine
end

