-- ==== Sys2Proof/Machine/Regs.lean ====
section
/-! DEFINITION. The set-up registers of BAR0 (Table 18.1, 18_registers.md), field by field as the tables of the
chapters print them: offset, stride and count of the register, bits, access type (Table 0.4), whether it is
a counter field (R363), the reset value and, where the table gives one, the range outside which a written value is ignored. -/
namespace Sys2Proof.Machine

/-- Access types (Table 0.4, 00_scope.md). -/
inductive Access where
  | ro | rw | rw1c | wo | rws | rwl
deriving DecidableEq, Repr

/-- A register field: registers `off + stride * n` for `n < count`, bits `hi` down to `lo`. `range` is
the first and last accepted value and the step between accepted values. -/
structure Field where
  off : Nat
  stride : Nat
  count : Nat
  hi : Nat
  lo : Nat
  ty : Access
  counter : Bool
  reset : Nat
  range : Option (Nat × Nat × Nat)
deriving DecidableEq, Repr

/-! ### ID -/

/-- ID_DEVICE (Table 18.2, 18_registers.md). -/
def F.ID_DEVICE.DEVICE : Field := ⟨0x0000, 8, 1, 15, 0, .ro, false, 39106, none⟩
/-- STEPPING: Table 18.2 gives a dash for its reset; the model reads 0 (DESIGN CHOICE, notes/assumptions/3.md). -/
def F.ID_DEVICE.STEPPING : Field := ⟨0x0000, 8, 1, 23, 16, .ro, false, 0, none⟩
def F.ID_DEVICE.MAP_VERSION : Field := ⟨0x0000, 8, 1, 31, 24, .ro, false, 1, none⟩
/-- ID_MEMBER0 (Table 18.3, 18_registers.md). -/
def F.ID_MEMBER0.TILES : Field := ⟨0x0008, 8, 1, 15, 0, .ro, false, 1536, none⟩
def F.ID_MEMBER0.COLUMNS : Field := ⟨0x0008, 8, 1, 23, 16, .ro, false, 48, none⟩
def F.ID_MEMBER0.ROWS : Field := ⟨0x0008, 8, 1, 31, 24, .ro, false, 32, none⟩
def F.ID_MEMBER0.STACKS : Field := ⟨0x0008, 8, 1, 35, 32, .ro, false, 12, none⟩
def F.ID_MEMBER0.ENGINES_PER_STACK : Field := ⟨0x0008, 8, 1, 40, 36, .ro, false, 16, none⟩
def F.ID_MEMBER0.FAR_PACKAGES : Field := ⟨0x0008, 8, 1, 45, 41, .ro, false, 16, none⟩
def F.ID_MEMBER0.PORTS : Field := ⟨0x0008, 8, 1, 49, 46, .ro, false, 8, none⟩
def F.ID_MEMBER0.CONTEXTS : Field := ⟨0x0008, 8, 1, 59, 50, .ro, false, 512, none⟩
/-- ID_MEMBER1 (Table 18.4, 18_registers.md). -/
def F.ID_MEMBER1.HALF_COLUMNS : Field := ⟨0x0010, 8, 1, 7, 0, .ro, false, 96, none⟩
def F.ID_MEMBER1.NAND_CHANNELS : Field := ⟨0x0010, 8, 1, 12, 8, .ro, false, 16, none⟩
def F.ID_MEMBER1.BEDROCK_GB : Field := ⟨0x0010, 8, 1, 31, 16, .ro, false, 28000, none⟩
def F.ID_MEMBER1.CONNECTIONS : Field := ⟨0x0010, 8, 1, 47, 32, .ro, false, 4096, none⟩
def F.ID_MEMBER1.STACK_GB : Field := ⟨0x0010, 8, 1, 63, 48, .ro, false, 48, none⟩
/-- ID_SERIAL (Table 18.5, 18_registers.md). -/
def F.ID_SERIAL.SERIAL : Field := ⟨0x0018, 8, 2, 63, 0, .ro, false, 0, none⟩
/-- ID_KERNEL (Table 18.5, 18_registers.md). -/
def F.ID_KERNEL.DIGEST : Field := ⟨0x0040, 8, 8, 63, 0, .ro, false, 0, none⟩
/-- ID_SCRATCH (Table 18.5, 18_registers.md). -/
def F.ID_SCRATCH.SCRATCH : Field := ⟨0x0080, 8, 4, 63, 0, .rws, false, 0, none⟩
/-- ID_BOOT (Table 16.5, 16_reset.md). -/
def F.ID_BOOT.STAGE : Field := ⟨0x0100, 8, 1, 2, 0, .ro, false, 0, none⟩
def F.ID_BOOT.READY : Field := ⟨0x0100, 8, 1, 3, 3, .ro, false, 0, none⟩
def F.ID_BOOT.FAIL : Field := ⟨0x0100, 8, 1, 4, 4, .ro, false, 0, none⟩
def F.ID_BOOT.FAILCODE : Field := ⟨0x0100, 8, 1, 11, 8, .ro, false, 0, none⟩
def F.ID_BOOT.CAUSE : Field := ⟨0x0100, 8, 1, 18, 16, .ro, false, 0, none⟩
def F.ID_BOOT.IMAGE : Field := ⟨0x0100, 8, 1, 19, 19, .ro, false, 0, none⟩
def F.ID_BOOT.RESTORED : Field := ⟨0x0100, 8, 1, 33, 24, .ro, false, 0, none⟩

/-- Fields of the ID block. -/
def F.listID : List Field :=
  [F.ID_DEVICE.DEVICE, F.ID_DEVICE.STEPPING, F.ID_DEVICE.MAP_VERSION,
   F.ID_MEMBER0.TILES, F.ID_MEMBER0.COLUMNS, F.ID_MEMBER0.ROWS,
   F.ID_MEMBER0.STACKS, F.ID_MEMBER0.ENGINES_PER_STACK, F.ID_MEMBER0.FAR_PACKAGES,
   F.ID_MEMBER0.PORTS, F.ID_MEMBER0.CONTEXTS, F.ID_MEMBER1.HALF_COLUMNS,
   F.ID_MEMBER1.NAND_CHANNELS, F.ID_MEMBER1.BEDROCK_GB, F.ID_MEMBER1.CONNECTIONS,
   F.ID_MEMBER1.STACK_GB, F.ID_SERIAL.SERIAL, F.ID_KERNEL.DIGEST,
   F.ID_SCRATCH.SCRATCH, F.ID_BOOT.STAGE, F.ID_BOOT.READY,
   F.ID_BOOT.FAIL, F.ID_BOOT.FAILCODE, F.ID_BOOT.CAUSE,
   F.ID_BOOT.IMAGE, F.ID_BOOT.RESTORED]

/-- All fields of the ID block. -/
def F.allID : List Field := F.listID

/-! ### TICK -/

/-- TICK_PERIOD (Table 2.6, 02_tick.md). -/
def F.TICK_PERIOD.PERIOD_US : Field := ⟨0x1000, 8, 1, 9, 0, .rw, false, 10, none⟩
def F.TICK_PERIOD.ACTIVE_US : Field := ⟨0x1000, 8, 1, 25, 16, .ro, false, 10, none⟩
/-- TICK_WINDOW (Table 2.7, 02_tick.md). -/
def F.TICK_WINDOW.C0_SHARE : Field := ⟨0x1008, 8, 1, 7, 0, .rw, false, 80, none⟩
def F.TICK_WINDOW.C1_SHARE : Field := ⟨0x1008, 8, 1, 15, 8, .rw, false, 64, none⟩
def F.TICK_WINDOW.C2_SHARE : Field := ⟨0x1008, 8, 1, 23, 16, .rw, false, 80, none⟩
def F.TICK_WINDOW.C3_SHARE : Field := ⟨0x1008, 8, 1, 31, 24, .rw, false, 32, none⟩
/-- TICK_ALIGN (Table 2.8, 02_tick.md). -/
def F.TICK_ALIGN.SOURCE : Field := ⟨0x1010, 8, 1, 1, 0, .rw, false, 0, (some (0, 2, 1))⟩
def F.TICK_ALIGN.SYNC_OUT_EN : Field := ⟨0x1010, 8, 1, 2, 2, .rw, false, 0, none⟩
def F.TICK_ALIGN.SYNC_DELAY_NS : Field := ⟨0x1010, 8, 1, 27, 16, .rw, false, 0, none⟩
def F.TICK_ALIGN.HOP_NS : Field := ⟨0x1010, 8, 1, 47, 32, .rw, false, 2000, none⟩
/-- TICK_ORIGIN (Table 2.9, 02_tick.md). -/
def F.TICK_ORIGIN.ORIGIN : Field := ⟨0x1018, 8, 1, 63, 0, .rw, false, 0, none⟩
/-- TICK_BARRIER (Table 2.10, 02_tick.md). -/
def F.TICK_BARRIER.ARM : Field := ⟨0x1020, 8, 1, 0, 0, .wo, false, 0, none⟩
def F.TICK_BARRIER.START : Field := ⟨0x1020, 8, 1, 1, 1, .wo, false, 0, none⟩
def F.TICK_BARRIER.ARMED : Field := ⟨0x1020, 8, 1, 2, 2, .ro, false, 0, none⟩
def F.TICK_BARRIER.RUNNING : Field := ⟨0x1020, 8, 1, 3, 3, .ro, false, 0, none⟩
def F.TICK_BARRIER.ALIGNED : Field := ⟨0x1020, 8, 1, 4, 4, .ro, false, 0, none⟩
/-- TICK_NOW (Table 2.9, 02_tick.md). -/
def F.TICK_NOW.NOW : Field := ⟨0x1028, 8, 1, 63, 0, .ro, false, 0, none⟩
/-- TICK_INDEX (Table 2.9, 02_tick.md). -/
def F.TICK_INDEX.INDEX : Field := ⟨0x1030, 8, 1, 63, 0, .ro, false, 0, none⟩
/-- TICK_OFFSET (Table 2.11, 02_tick.md). -/
def F.TICK_OFFSET.OFFSET_NS : Field := ⟨0x1038, 8, 1, 15, 0, .ro, false, 0, none⟩
def F.TICK_OFFSET.PEAK_NS : Field := ⟨0x1038, 8, 1, 31, 16, .rw, true, 0, none⟩
def F.TICK_OFFSET.LIMIT_NS : Field := ⟨0x1038, 8, 1, 43, 32, .rw, false, 125, (some (10, 1000, 1))⟩
/-- TICK_STATUS (Table 2.12, 02_tick.md). -/
def F.TICK_STATUS.BAD_CONFIG : Field := ⟨0x1040, 8, 1, 0, 0, .rw1c, false, 0, none⟩
def F.TICK_STATUS.REF_LOST : Field := ⟨0x1040, 8, 1, 1, 1, .rw1c, false, 0, none⟩
def F.TICK_STATUS.OFFSET_EXCEEDED : Field := ⟨0x1040, 8, 1, 2, 2, .rw1c, false, 0, none⟩
def F.TICK_STATUS.STAGED : Field := ⟨0x1040, 8, 1, 3, 3, .ro, false, 0, none⟩
def F.TICK_STATUS.REF_OK : Field := ⟨0x1040, 8, 1, 4, 4, .ro, false, 1, none⟩
/-- TICK_OVERRUN (Table 2.13, 02_tick.md). -/
def F.TICK_OVERRUN.C0 : Field := ⟨0x1048, 8, 1, 15, 0, .rw, true, 0, none⟩
def F.TICK_OVERRUN.C1 : Field := ⟨0x1048, 8, 1, 31, 16, .rw, true, 0, none⟩
def F.TICK_OVERRUN.C2 : Field := ⟨0x1048, 8, 1, 47, 32, .rw, true, 0, none⟩
def F.TICK_OVERRUN.C3 : Field := ⟨0x1048, 8, 1, 63, 48, .rw, true, 0, none⟩
/-- TICK_EVENTS (Table 2.13, 02_tick.md). -/
def F.TICK_EVENTS.SPILL : Field := ⟨0x1050, 8, 1, 15, 0, .rw, true, 0, none⟩
def F.TICK_EVENTS.DISPLACED : Field := ⟨0x1050, 8, 1, 31, 16, .rw, true, 0, none⟩
def F.TICK_EVENTS.OPERAND_LATE : Field := ⟨0x1050, 8, 1, 47, 32, .rw, true, 0, none⟩
def F.TICK_EVENTS.LATE_PEER : Field := ⟨0x1050, 8, 1, 63, 48, .rw, true, 0, none⟩

/-- Fields of the TICK block. -/
def F.listTICK0 : List Field :=
  [F.TICK_PERIOD.PERIOD_US, F.TICK_PERIOD.ACTIVE_US, F.TICK_WINDOW.C0_SHARE,
   F.TICK_WINDOW.C1_SHARE, F.TICK_WINDOW.C2_SHARE, F.TICK_WINDOW.C3_SHARE,
   F.TICK_ALIGN.SOURCE, F.TICK_ALIGN.SYNC_OUT_EN, F.TICK_ALIGN.SYNC_DELAY_NS,
   F.TICK_ALIGN.HOP_NS, F.TICK_ORIGIN.ORIGIN, F.TICK_BARRIER.ARM,
   F.TICK_BARRIER.START, F.TICK_BARRIER.ARMED, F.TICK_BARRIER.RUNNING,
   F.TICK_BARRIER.ALIGNED, F.TICK_NOW.NOW, F.TICK_INDEX.INDEX,
   F.TICK_OFFSET.OFFSET_NS, F.TICK_OFFSET.PEAK_NS, F.TICK_OFFSET.LIMIT_NS,
   F.TICK_STATUS.BAD_CONFIG, F.TICK_STATUS.REF_LOST, F.TICK_STATUS.OFFSET_EXCEEDED,
   F.TICK_STATUS.STAGED, F.TICK_STATUS.REF_OK, F.TICK_OVERRUN.C0,
   F.TICK_OVERRUN.C1, F.TICK_OVERRUN.C2, F.TICK_OVERRUN.C3]

/-- Fields of the TICK block. -/
def F.listTICK1 : List Field :=
  [F.TICK_EVENTS.SPILL, F.TICK_EVENTS.DISPLACED, F.TICK_EVENTS.OPERAND_LATE,
   F.TICK_EVENTS.LATE_PEER]

/-- All fields of the TICK block. -/
def F.allTICK : List Field := F.listTICK0 ++ F.listTICK1

/-! ### CTX -/

/-- CTX_PROF_ADDR (Table 11.9, 11_isolation.md). -/
def F.CTX_PROF_ADDR.ADDR : Field := ⟨0x2000, 8, 1, 63, 6, .rw, false, 0, none⟩
/-- CTX_CTL (Table 11.10, 11_isolation.md). -/
def F.CTX_CTL.CTX : Field := ⟨0x2008, 8, 1, 8, 0, .rw, false, 0, none⟩
def F.CTX_CTL.OP : Field := ⟨0x2008, 8, 1, 18, 16, .wo, false, 0, none⟩
def F.CTX_CTL.BUSY : Field := ⟨0x2008, 8, 1, 19, 19, .ro, false, 0, none⟩
def F.CTX_CTL.DONE : Field := ⟨0x2008, 8, 1, 20, 20, .rw1c, false, 0, none⟩
def F.CTX_CTL.ERROR : Field := ⟨0x2008, 8, 1, 21, 21, .rw1c, false, 0, none⟩
def F.CTX_CTL.ERRCODE : Field := ⟨0x2008, 8, 1, 27, 24, .ro, false, 0, none⟩
/-- CTX_STATE (Table 11.11, 11_isolation.md). -/
def F.CTX_STATE.STATE : Field := ⟨0x2010, 8, 1, 2, 0, .ro, false, 0, none⟩
def F.CTX_STATE.HDM_READ : Field := ⟨0x2010, 8, 1, 3, 3, .ro, false, 0, none⟩
def F.CTX_STATE.DEGRADED : Field := ⟨0x2010, 8, 1, 4, 4, .ro, false, 0, none⟩
def F.CTX_STATE.TOMBSTONE : Field := ⟨0x2010, 8, 1, 5, 5, .ro, false, 0, none⟩
def F.CTX_STATE.GEODES : Field := ⟨0x2010, 8, 1, 19, 16, .ro, false, 0, none⟩
/-- CTX_SCRUB (Table 11.12, 11_isolation.md). -/
def F.CTX_SCRUB.GBPS : Field := ⟨0x2018, 8, 1, 10, 0, .rw, false, 400, (some (1, 1229, 1))⟩
def F.CTX_SCRUB.ACTIVE : Field := ⟨0x2018, 8, 1, 25, 16, .ro, false, 0, none⟩
def F.CTX_SCRUB.BEDROCK_BLOCKS : Field := ⟨0x2018, 8, 1, 63, 32, .ro, false, 0, none⟩
/-- CTX_GEODE_ADDR (Table 11.13, 11_isolation.md). -/
def F.CTX_GEODE_ADDR.ADDR : Field := ⟨0x2020, 8, 1, 63, 6, .rw, false, 0, none⟩
/-- CTX_GEODE_CTL (Table 11.13, 11_isolation.md). -/
def F.CTX_GEODE_CTL.CTX : Field := ⟨0x2028, 8, 1, 8, 0, .rw, false, 0, none⟩
def F.CTX_GEODE_CTL.SLOT : Field := ⟨0x2028, 8, 1, 17, 16, .rw, false, 0, none⟩
def F.CTX_GEODE_CTL.OP : Field := ⟨0x2028, 8, 1, 25, 24, .wo, false, 0, none⟩
def F.CTX_GEODE_CTL.BUSY : Field := ⟨0x2028, 8, 1, 26, 26, .ro, false, 0, none⟩
def F.CTX_GEODE_CTL.DONE : Field := ⟨0x2028, 8, 1, 27, 27, .rw1c, false, 0, none⟩
def F.CTX_GEODE_CTL.ERROR : Field := ⟨0x2028, 8, 1, 28, 28, .rw1c, false, 0, none⟩
def F.CTX_GEODE_CTL.ERRCODE : Field := ⟨0x2028, 8, 1, 35, 32, .ro, false, 0, none⟩
/-- CTX_GEODE_DIGEST (Table 11.14, 11_isolation.md). -/
def F.CTX_GEODE_DIGEST.DIGEST : Field := ⟨0x2030, 8, 8, 63, 0, .ro, false, 0, none⟩
/-- CTX_TAGF (Table 11.15, 11_isolation.md). -/
def F.CTX_TAGF.FAULTS : Field := ⟨0x2070, 8, 1, 31, 0, .rw, true, 0, none⟩
def F.CTX_TAGF.EXPECTED : Field := ⟨0x2070, 8, 1, 40, 32, .ro, false, 0, none⟩
def F.CTX_TAGF.FOUND : Field := ⟨0x2070, 8, 1, 49, 41, .ro, false, 0, none⟩
/-- CTX_PROF_DIGEST (Table 18.11, 18_registers.md). -/
def F.CTX_PROF_DIGEST.DIGEST : Field := ⟨0x2080, 8, 8, 63, 0, .ro, false, 0, none⟩
/-- CTX_PROG_ADDR (Table 4.5, 04_score_modifiers.md). -/
def F.CTX_PROG_ADDR.ADDR : Field := ⟨0x2100, 8, 1, 63, 6, .rw, false, 0, none⟩
/-- CTX_PROG_CTL (Table 4.6, 04_score_modifiers.md). -/
def F.CTX_PROG_CTL.CTX : Field := ⟨0x2108, 8, 1, 8, 0, .rw, false, 0, none⟩
def F.CTX_PROG_CTL.SLOT : Field := ⟨0x2108, 8, 1, 21, 16, .rw, false, 0, none⟩
def F.CTX_PROG_CTL.OP : Field := ⟨0x2108, 8, 1, 25, 24, .wo, false, 0, none⟩
def F.CTX_PROG_CTL.BUSY : Field := ⟨0x2108, 8, 1, 32, 32, .ro, false, 0, none⟩
def F.CTX_PROG_CTL.DONE : Field := ⟨0x2108, 8, 1, 33, 33, .rw1c, false, 0, none⟩
def F.CTX_PROG_CTL.ERROR : Field := ⟨0x2108, 8, 1, 34, 34, .rw1c, false, 0, none⟩
def F.CTX_PROG_CTL.ERRCODE : Field := ⟨0x2108, 8, 1, 47, 40, .ro, false, 0, none⟩
/-- CTX_PROG_DIGEST (Table 4.7, 04_score_modifiers.md). -/
def F.CTX_PROG_DIGEST.DIGEST : Field := ⟨0x2110, 8, 8, 63, 0, .ro, false, 0, none⟩
/-- CTX_CLASS (Table 10.6, 10_classes.md). -/
def F.CTX_CLASS.C0_MARGIN_NS : Field := ⟨0x2180, 8, 1, 15, 0, .rw, false, 320, none⟩
def F.CTX_CLASS.HK_WEIGHT : Field := ⟨0x2180, 8, 1, 31, 16, .rw, false, 256, (some (1, 65535, 1))⟩
/-- CTX_CLASS_STATUS (Table 10.7, 10_classes.md). -/
def F.CTX_CLASS_STATUS.TIMING_REFUSED : Field := ⟨0x2188, 8, 1, 0, 0, .rw1c, false, 0, none⟩
def F.CTX_CLASS_STATUS.C0_DEGRADED : Field := ⟨0x2188, 8, 1, 1, 1, .ro, false, 0, none⟩
def F.CTX_CLASS_STATUS.DEGRADED_COUNT : Field := ⟨0x2188, 8, 1, 25, 16, .ro, false, 0, none⟩
def F.CTX_CLASS_STATUS.MARKED : Field := ⟨0x2188, 8, 1, 47, 32, .rw, true, 0, none⟩

/-- Fields of the CTX block. -/
def F.listCTX0 : List Field :=
  [F.CTX_PROF_ADDR.ADDR, F.CTX_CTL.CTX, F.CTX_CTL.OP,
   F.CTX_CTL.BUSY, F.CTX_CTL.DONE, F.CTX_CTL.ERROR,
   F.CTX_CTL.ERRCODE, F.CTX_STATE.STATE, F.CTX_STATE.HDM_READ,
   F.CTX_STATE.DEGRADED, F.CTX_STATE.TOMBSTONE, F.CTX_STATE.GEODES,
   F.CTX_SCRUB.GBPS, F.CTX_SCRUB.ACTIVE, F.CTX_SCRUB.BEDROCK_BLOCKS,
   F.CTX_GEODE_ADDR.ADDR, F.CTX_GEODE_CTL.CTX, F.CTX_GEODE_CTL.SLOT,
   F.CTX_GEODE_CTL.OP, F.CTX_GEODE_CTL.BUSY, F.CTX_GEODE_CTL.DONE,
   F.CTX_GEODE_CTL.ERROR, F.CTX_GEODE_CTL.ERRCODE, F.CTX_GEODE_DIGEST.DIGEST,
   F.CTX_TAGF.FAULTS, F.CTX_TAGF.EXPECTED, F.CTX_TAGF.FOUND,
   F.CTX_PROF_DIGEST.DIGEST, F.CTX_PROG_ADDR.ADDR, F.CTX_PROG_CTL.CTX]

/-- Fields of the CTX block. -/
def F.listCTX1 : List Field :=
  [F.CTX_PROG_CTL.SLOT, F.CTX_PROG_CTL.OP, F.CTX_PROG_CTL.BUSY,
   F.CTX_PROG_CTL.DONE, F.CTX_PROG_CTL.ERROR, F.CTX_PROG_CTL.ERRCODE,
   F.CTX_PROG_DIGEST.DIGEST, F.CTX_CLASS.C0_MARGIN_NS, F.CTX_CLASS.HK_WEIGHT,
   F.CTX_CLASS_STATUS.TIMING_REFUSED, F.CTX_CLASS_STATUS.C0_DEGRADED, F.CTX_CLASS_STATUS.DEGRADED_COUNT,
   F.CTX_CLASS_STATUS.MARKED]

/-- All fields of the CTX block. -/
def F.allCTX : List Field := F.listCTX0 ++ F.listCTX1

/-! ### TIER -/

/-- TIER_SRAM (Table 7.5, 07_tiers_placement.md). -/
def F.TIER_SRAM.PAGE_KIB : Field := ⟨0x3000, 8, 1, 9, 0, .rw, false, 512, (some (0, 768, 64))⟩
def F.TIER_SRAM.ACTIVE_KIB : Field := ⟨0x3000, 8, 1, 25, 16, .ro, false, 512, none⟩
/-- TIER_PLACE (Table 7.6, 07_tiers_placement.md). -/
def F.TIER_PLACE.LOOKAHEAD : Field := ⟨0x3008, 8, 1, 3, 0, .rw, false, 4, none⟩
def F.TIER_PLACE.SHARED_MIN : Field := ⟨0x3008, 8, 1, 11, 8, .rw, false, 4, (some (2, 15, 1))⟩
def F.TIER_PLACE.MOVE_GBPS : Field := ⟨0x3008, 8, 1, 26, 16, .rw, false, 400, (some (1, 1200, 1))⟩
/-- TIER_PLACE_STATUS (Table 7.7, 07_tiers_placement.md). -/
def F.TIER_PLACE_STATUS.C0_REFUSED : Field := ⟨0x3010, 8, 1, 0, 0, .rw1c, false, 0, none⟩
def F.TIER_PLACE_STATUS.STACKS_SHORT : Field := ⟨0x3010, 8, 1, 1, 1, .ro, false, 0, none⟩
def F.TIER_PLACE_STATUS.FAR_SHORT : Field := ⟨0x3010, 8, 1, 2, 2, .ro, false, 0, none⟩
def F.TIER_PLACE_STATUS.BEDROCK_LOW : Field := ⟨0x3010, 8, 1, 3, 3, .ro, false, 0, none⟩
def F.TIER_PLACE_STATUS.HOST_DOWN : Field := ⟨0x3010, 8, 1, 4, 4, .ro, false, 0, none⟩
/-- TIER_HOST_BASE (Table 7.8, 07_tiers_placement.md). -/
def F.TIER_HOST_BASE.ADDR : Field := ⟨0x3018, 8, 1, 63, 12, .rwl, false, 0, none⟩
/-- TIER_HOST_SIZE (Table 7.8, 07_tiers_placement.md). -/
def F.TIER_HOST_SIZE.SIZE : Field := ⟨0x3020, 8, 1, 63, 12, .rwl, false, 0, none⟩
/-- TIER_HDM (Table 7.9, 07_tiers_placement.md). -/
def F.TIER_HDM.EN : Field := ⟨0x3028, 8, 1, 0, 0, .rwl, false, 0, none⟩
def F.TIER_HDM.WRITES_DROPPED : Field := ⟨0x3028, 8, 1, 47, 32, .rw, true, 0, none⟩
def F.TIER_HDM.POISON_READS : Field := ⟨0x3028, 8, 1, 63, 48, .rw, true, 0, none⟩
/-- TIER_MOVES (Table 7.10, 07_tiers_placement.md). -/
def F.TIER_MOVES.COMMITS : Field := ⟨0x3030, 8, 1, 31, 0, .rw, true, 0, none⟩
def F.TIER_MOVES.ABORTS : Field := ⟨0x3030, 8, 1, 47, 32, .rw, true, 0, none⟩
def F.TIER_MOVES.FORWARDED : Field := ⟨0x3030, 8, 1, 63, 48, .rw, true, 0, none⟩
/-- TIER_LATE (Table 7.11, 07_tiers_placement.md). -/
def F.TIER_LATE.FAR_LATE : Field := ⟨0x3038, 8, 1, 15, 0, .rw, true, 0, none⟩
def F.TIER_LATE.HOST_LATE : Field := ⟨0x3038, 8, 1, 31, 16, .rw, true, 0, none⟩
def F.TIER_LATE.REISSUED : Field := ⟨0x3038, 8, 1, 47, 32, .rw, true, 0, none⟩
/-- TIER_FAR_FAULT (Table 7.12, 07_tiers_placement.md). -/
def F.TIER_FAR_FAULT.CHANNEL : Field := ⟨0x3040, 8, 1, 15, 0, .ro, false, 0, none⟩
/-- TIER_BEDROCK (Table 7.12, 07_tiers_placement.md). -/
def F.TIER_BEDROCK.SPARE : Field := ⟨0x3048, 8, 1, 9, 0, .ro, false, 125, none⟩
def F.TIER_BEDROCK.READ_ONLY : Field := ⟨0x3048, 8, 1, 10, 10, .ro, false, 0, none⟩
def F.TIER_BEDROCK.DISTURB : Field := ⟨0x3048, 8, 1, 31, 16, .rw, true, 0, none⟩
def F.TIER_BEDROCK.RETIRED : Field := ⟨0x3048, 8, 1, 47, 32, .ro, false, 0, none⟩
/-- TIER_SE_MASK (Table 6.4, 06_stratum_engines.md). -/
def F.TIER_SE_MASK.MASK : Field := ⟨0x3800, 8, 3, 63, 0, .rw, false, 0, none⟩
/-- TIER_SE_FAULT (Table 6.5, 06_stratum_engines.md). -/
def F.TIER_SE_FAULT.FAULT : Field := ⟨0x3818, 8, 3, 63, 0, .rw1c, false, 0, none⟩
/-- TIER_SE_LEASE (Table 6.6, 06_stratum_engines.md). -/
def F.TIER_SE_LEASE.WAITS : Field := ⟨0x3830, 8, 1, 31, 0, .rw, true, 0, none⟩
def F.TIER_SE_LEASE.MAX_WAIT_NS : Field := ⟨0x3830, 8, 1, 47, 32, .rw, true, 0, none⟩
def F.TIER_SE_LEASE.GAPS : Field := ⟨0x3830, 8, 1, 63, 48, .rw, true, 0, none⟩
/-- TIER_SE_REFRESH (Table 6.7, 06_stratum_engines.md). -/
def F.TIER_SE_REFRESH.POSTPONED : Field := ⟨0x3838, 8, 1, 15, 0, .rw, true, 0, none⟩
def F.TIER_SE_REFRESH.FORCED : Field := ⟨0x3838, 8, 1, 31, 16, .rw, true, 0, none⟩
def F.TIER_SE_REFRESH.INTRUSION : Field := ⟨0x3838, 8, 1, 47, 32, .rw, true, 0, none⟩
def F.TIER_SE_REFRESH.DEBT_MAX : Field := ⟨0x3838, 8, 1, 51, 48, .ro, false, 0, none⟩
/-- TIER_SE_TEST (Table 6.8, 06_stratum_engines.md). -/
def F.TIER_SE_TEST.ENGINE : Field := ⟨0x3840, 8, 1, 7, 0, .rw, false, 0, (some (0, 191, 1))⟩
def F.TIER_SE_TEST.START : Field := ⟨0x3840, 8, 1, 8, 8, .wo, false, 0, none⟩
def F.TIER_SE_TEST.BUSY : Field := ⟨0x3840, 8, 1, 9, 9, .ro, false, 0, none⟩
def F.TIER_SE_TEST.DONE : Field := ⟨0x3840, 8, 1, 10, 10, .ro, false, 0, none⟩
def F.TIER_SE_TEST.PASS : Field := ⟨0x3840, 8, 1, 11, 11, .ro, false, 0, none⟩
def F.TIER_SE_TEST.REFUSED : Field := ⟨0x3840, 8, 1, 12, 12, .ro, false, 0, none⟩
/-- TIER_SE_TEST_RESULT (Table 6.8, 06_stratum_engines.md). -/
def F.TIER_SE_TEST_RESULT.DIGEST : Field := ⟨0x3848, 8, 1, 63, 0, .ro, false, 0, none⟩

/-- Fields of the TIER block. -/
def F.listTIER0 : List Field :=
  [F.TIER_SRAM.PAGE_KIB, F.TIER_SRAM.ACTIVE_KIB, F.TIER_PLACE.LOOKAHEAD,
   F.TIER_PLACE.SHARED_MIN, F.TIER_PLACE.MOVE_GBPS, F.TIER_PLACE_STATUS.C0_REFUSED,
   F.TIER_PLACE_STATUS.STACKS_SHORT, F.TIER_PLACE_STATUS.FAR_SHORT, F.TIER_PLACE_STATUS.BEDROCK_LOW,
   F.TIER_PLACE_STATUS.HOST_DOWN, F.TIER_HOST_BASE.ADDR, F.TIER_HOST_SIZE.SIZE,
   F.TIER_HDM.EN, F.TIER_HDM.WRITES_DROPPED, F.TIER_HDM.POISON_READS,
   F.TIER_MOVES.COMMITS, F.TIER_MOVES.ABORTS, F.TIER_MOVES.FORWARDED,
   F.TIER_LATE.FAR_LATE, F.TIER_LATE.HOST_LATE, F.TIER_LATE.REISSUED,
   F.TIER_FAR_FAULT.CHANNEL, F.TIER_BEDROCK.SPARE, F.TIER_BEDROCK.READ_ONLY,
   F.TIER_BEDROCK.DISTURB, F.TIER_BEDROCK.RETIRED, F.TIER_SE_MASK.MASK,
   F.TIER_SE_FAULT.FAULT, F.TIER_SE_LEASE.WAITS, F.TIER_SE_LEASE.MAX_WAIT_NS]

/-- Fields of the TIER block. -/
def F.listTIER1 : List Field :=
  [F.TIER_SE_LEASE.GAPS, F.TIER_SE_REFRESH.POSTPONED, F.TIER_SE_REFRESH.FORCED,
   F.TIER_SE_REFRESH.INTRUSION, F.TIER_SE_REFRESH.DEBT_MAX, F.TIER_SE_TEST.ENGINE,
   F.TIER_SE_TEST.START, F.TIER_SE_TEST.BUSY, F.TIER_SE_TEST.DONE,
   F.TIER_SE_TEST.PASS, F.TIER_SE_TEST.REFUSED, F.TIER_SE_TEST_RESULT.DIGEST]

/-- All fields of the TIER block. -/
def F.allTIER : List Field := F.listTIER0 ++ F.listTIER1

/-! ### RING -/

/-- RING_DB (Table 8.12, 08_rings.md). -/
def F.RING_DB.PI : Field := ⟨0x4000, 8, 16, 31, 0, .wo, false, 0, none⟩
/-- RING_LBASE (Table 8.13, 08_rings.md). -/
def F.RING_LBASE.ADDR : Field := ⟨0x4100, 32, 16, 63, 6, .rw, false, 0, none⟩
/-- RING_LCTL (Table 8.14, 08_rings.md). -/
def F.RING_LCTL.CTX : Field := ⟨0x4108, 32, 16, 8, 0, .rw, false, 0, none⟩
def F.RING_LCTL.LOG2_SIZE : Field := ⟨0x4108, 32, 16, 16, 12, .rw, false, 6, (some (6, 16, 1))⟩
def F.RING_LCTL.CLASS : Field := ⟨0x4108, 32, 16, 19, 18, .rw, false, 3, none⟩
def F.RING_LCTL.EN : Field := ⟨0x4108, 32, 16, 20, 20, .rw, false, 0, none⟩
def F.RING_LCTL.RSTATE : Field := ⟨0x4108, 32, 16, 27, 24, .ro, false, 3, none⟩
/-- RING_LRSW (Table 8.15, 08_rings.md). -/
def F.RING_LRSW.ADDR : Field := ⟨0x4110, 32, 16, 63, 3, .rw, false, 0, none⟩
/-- RING_LINFO (Table 8.16, 08_rings.md). -/
def F.RING_LINFO.CONSUMER : Field := ⟨0x4118, 32, 16, 31, 0, .ro, false, 0, none⟩
def F.RING_LINFO.PRODUCER : Field := ⟨0x4118, 32, 16, 63, 32, .ro, false, 0, none⟩
/-- RING_TRACK (Table 8.17, 08_rings.md). -/
def F.RING_TRACK.IN_USE : Field := ⟨0x4400, 8, 1, 16, 0, .ro, false, 0, none⟩
def F.RING_TRACK.PEAK : Field := ⟨0x4400, 8, 1, 48, 32, .rw, true, 0, none⟩
/-- RING_EVENTS (Table 8.18, 08_rings.md). -/
def F.RING_EVENTS.DUP_JOINED : Field := ⟨0x4408, 8, 1, 15, 0, .rw, true, 0, none⟩
def F.RING_EVENTS.DUP_REPLAYED : Field := ⟨0x4408, 8, 1, 31, 16, .rw, true, 0, none⟩
def F.RING_EVENTS.DUP_EXPIRED : Field := ⟨0x4408, 8, 1, 47, 32, .rw, true, 0, none⟩
def F.RING_EVENTS.BAD_BELL : Field := ⟨0x4408, 8, 1, 63, 48, .rw, true, 0, none⟩

/-- Fields of the RING block. -/
def F.listRING : List Field :=
  [F.RING_DB.PI, F.RING_LBASE.ADDR, F.RING_LCTL.CTX,
   F.RING_LCTL.LOG2_SIZE, F.RING_LCTL.CLASS, F.RING_LCTL.EN,
   F.RING_LCTL.RSTATE, F.RING_LRSW.ADDR, F.RING_LINFO.CONSUMER,
   F.RING_LINFO.PRODUCER, F.RING_TRACK.IN_USE, F.RING_TRACK.PEAK,
   F.RING_EVENTS.DUP_JOINED, F.RING_EVENTS.DUP_REPLAYED, F.RING_EVENTS.DUP_EXPIRED,
   F.RING_EVENTS.BAD_BELL]

/-- All fields of the RING block. -/
def F.allRING : List Field := F.listRING

/-! ### NET -/

/-- NET_PCFG (Table 9.15, 09_trail.md). -/
def F.NET_PCFG.MODE : Field := ⟨0x5000, 8, 8, 1, 0, .rw, false, 1, (some (0, 2, 1))⟩
def F.NET_PCFG.MEDIA : Field := ⟨0x5000, 8, 8, 2, 2, .rw, false, 0, none⟩
def F.NET_PCFG.VLAN_EN : Field := ⟨0x5000, 8, 8, 3, 3, .rw, false, 0, none⟩
def F.NET_PCFG.VID : Field := ⟨0x5000, 8, 8, 15, 4, .rw, false, 0, none⟩
def F.NET_PCFG.PCP : Field := ⟨0x5000, 8, 8, 18, 16, .rw, false, 0, none⟩
def F.NET_PCFG.PFC_EN : Field := ⟨0x5000, 8, 8, 19, 19, .rw, false, 0, none⟩
def F.NET_PCFG.MTU : Field := ⟨0x5000, 8, 8, 37, 24, .rw, false, 4200, (some (4200, 9216, 1))⟩
def F.NET_PCFG.LINK_UP : Field := ⟨0x5000, 8, 8, 41, 40, .ro, false, 0, none⟩
/-- NET_LIP6H (Table 9.16, 09_trail.md). -/
def F.NET_LIP6H.ADDR : Field := ⟨0x5040, 24, 16, 63, 0, .rw, false, 0, none⟩
/-- NET_LIP6L (Table 9.16, 09_trail.md). -/
def F.NET_LIP6L.ADDR : Field := ⟨0x5048, 24, 16, 63, 0, .rw, false, 0, none⟩
/-- NET_LIP4 (Table 9.16, 09_trail.md). -/
def F.NET_LIP4.ADDR : Field := ⟨0x5050, 24, 16, 31, 0, .rw, false, 0, none⟩
def F.NET_LIP4.GATEWAY : Field := ⟨0x5050, 24, 16, 63, 32, .rw, false, 0, none⟩
/-- NET_UDP (Table 9.17, 09_trail.md). -/
def F.NET_UDP.DPORT : Field := ⟨0x5200, 8, 1, 15, 0, .rw, false, 49912, none⟩
def F.NET_UDP.SPORT_BASE : Field := ⟨0x5200, 8, 1, 31, 16, .rw, false, 49152, (some (0, 65472, 1))⟩
def F.NET_UDP.DSCP : Field := ⟨0x5200, 8, 1, 37, 32, .rw, false, 26, none⟩
/-- NET_CC (Table 9.18, 09_trail.md). -/
def F.NET_CC.INIT_GBPS : Field := ⟨0x5208, 8, 1, 7, 0, .rw, false, 50, none⟩
def F.NET_CC.AI_GBPS : Field := ⟨0x5208, 8, 1, 15, 8, .rw, false, 2, none⟩
def F.NET_CC.AI_MAX_GBPS : Field := ⟨0x5208, 8, 1, 23, 16, .rw, false, 32, none⟩
def F.NET_CC.MIN_GBPS : Field := ⟨0x5208, 8, 1, 31, 24, .rw, false, 1, none⟩
def F.NET_CC.TARGET_NS : Field := ⟨0x5208, 8, 1, 47, 32, .rw, false, 6000, none⟩
def F.NET_CC.BETA : Field := ⟨0x5208, 8, 1, 55, 48, .rw, false, 128, none⟩
def F.NET_CC.GAMMA : Field := ⟨0x5208, 8, 1, 63, 56, .rw, false, 128, none⟩
/-- NET_RETX (Table 9.19, 09_trail.md). -/
def F.NET_RETX.RTO_MIN_NS : Field := ⟨0x5210, 8, 1, 15, 0, .rw, false, 8000, none⟩
def F.NET_RETX.REO_NS : Field := ⟨0x5210, 8, 1, 31, 16, .rw, false, 1000, none⟩
def F.NET_RETX.RETX_MAX : Field := ⟨0x5210, 8, 1, 39, 32, .rw, false, 16, (some (1, 255, 1))⟩
def F.NET_RETX.DEAD_MS : Field := ⟨0x5210, 8, 1, 51, 40, .rw, false, 500, (some (1, 4095, 1))⟩
/-- NET_ACK (Table 9.19, 09_trail.md). -/
def F.NET_ACK.SACK_PKTS : Field := ⟨0x5218, 8, 1, 7, 0, .rw, false, 8, (some (1, 64, 1))⟩
def F.NET_ACK.SACK_NS : Field := ⟨0x5218, 8, 1, 23, 8, .rw, false, 2000, none⟩
def F.NET_ACK.SEND_CREDITS : Field := ⟨0x5218, 8, 1, 31, 24, .rw, false, 64, none⟩
/-- NET_CONN_ADDR (Table 9.20, 09_trail.md). -/
def F.NET_CONN_ADDR.ADDR : Field := ⟨0x5220, 8, 1, 63, 6, .rw, false, 0, none⟩
/-- NET_CONN_CTL (Table 9.20, 09_trail.md). -/
def F.NET_CONN_CTL.SLOT : Field := ⟨0x5228, 8, 1, 11, 0, .rw, false, 0, none⟩
def F.NET_CONN_CTL.OP : Field := ⟨0x5228, 8, 1, 13, 12, .wo, false, 0, none⟩
def F.NET_CONN_CTL.BUSY : Field := ⟨0x5228, 8, 1, 14, 14, .ro, false, 0, none⟩
def F.NET_CONN_CTL.DONE : Field := ⟨0x5228, 8, 1, 15, 15, .rw1c, false, 0, none⟩
def F.NET_CONN_CTL.ERROR : Field := ⟨0x5228, 8, 1, 16, 16, .rw1c, false, 0, none⟩
def F.NET_CONN_CTL.ERRCODE : Field := ⟨0x5228, 8, 1, 23, 20, .ro, false, 0, none⟩
def F.NET_CONN_CTL.STATE : Field := ⟨0x5228, 8, 1, 26, 24, .ro, false, 0, none⟩
/-- NET_REGION_ADDR (Table 9.21, 09_trail.md). -/
def F.NET_REGION_ADDR.OFFSET : Field := ⟨0x5230, 8, 1, 31, 0, .rw, false, 0, none⟩
def F.NET_REGION_ADDR.LENGTH : Field := ⟨0x5230, 8, 1, 63, 32, .rw, false, 0, none⟩
/-- NET_REGION_CTL (Table 9.21, 09_trail.md). -/
def F.NET_REGION_CTL.INDEX : Field := ⟨0x5238, 8, 1, 15, 0, .rw, false, 0, none⟩
def F.NET_REGION_CTL.CTX : Field := ⟨0x5238, 8, 1, 24, 16, .rw, false, 0, none⟩
def F.NET_REGION_CTL.RD : Field := ⟨0x5238, 8, 1, 25, 25, .rw, false, 0, none⟩
def F.NET_REGION_CTL.WR : Field := ⟨0x5238, 8, 1, 26, 26, .rw, false, 0, none⟩
def F.NET_REGION_CTL.AT : Field := ⟨0x5238, 8, 1, 27, 27, .rw, false, 0, none⟩
def F.NET_REGION_CTL.OP : Field := ⟨0x5238, 8, 1, 29, 28, .wo, false, 0, none⟩
def F.NET_REGION_CTL.BUSY : Field := ⟨0x5238, 8, 1, 30, 30, .ro, false, 0, none⟩
def F.NET_REGION_CTL.DONE : Field := ⟨0x5238, 8, 1, 31, 31, .rw1c, false, 0, none⟩
def F.NET_REGION_CTL.ERROR : Field := ⟨0x5238, 8, 1, 32, 32, .rw1c, false, 0, none⟩
def F.NET_REGION_CTL.ERRCODE : Field := ⟨0x5238, 8, 1, 35, 33, .ro, false, 0, none⟩
def F.NET_REGION_CTL.GEN : Field := ⟨0x5238, 8, 1, 47, 40, .ro, false, 0, none⟩
def F.NET_REGION_CTL.VALID : Field := ⟨0x5238, 8, 1, 48, 48, .ro, false, 0, none⟩
/-- NET_DROPS (Table 9.22, 09_trail.md). -/
def F.NET_DROPS.HEADER : Field := ⟨0x5240, 8, 1, 15, 0, .rw, true, 0, none⟩
def F.NET_DROPS.AUTH : Field := ⟨0x5240, 8, 1, 31, 16, .rw, true, 0, none⟩
def F.NET_DROPS.WINDOW : Field := ⟨0x5240, 8, 1, 47, 32, .rw, true, 0, none⟩
def F.NET_DROPS.EPOCH : Field := ⟨0x5240, 8, 1, 63, 48, .rw, true, 0, none⟩
/-- NET_EVENTS (Table 9.22, 09_trail.md). -/
def F.NET_EVENTS.RETX : Field := ⟨0x5248, 8, 1, 15, 0, .rw, true, 0, none⟩
def F.NET_EVENTS.RTO : Field := ⟨0x5248, 8, 1, 31, 16, .rw, true, 0, none⟩
def F.NET_EVENTS.CONN_FAILED : Field := ⟨0x5248, 8, 1, 47, 32, .rw, true, 0, none⟩
def F.NET_EVENTS.NAK_SENT : Field := ⟨0x5248, 8, 1, 63, 48, .rw, true, 0, none⟩
/-- NET_COMP_ADDR (Table 13.9, 13_fabric.md). -/
def F.NET_COMP_ADDR.ADDR : Field := ⟨0x5300, 8, 1, 63, 6, .rw, false, 0, none⟩
/-- NET_COMP_CTL (Table 13.10, 13_fabric.md). -/
def F.NET_COMP_CTL.OP : Field := ⟨0x5308, 8, 1, 1, 0, .wo, false, 0, none⟩
def F.NET_COMP_CTL.BUSY : Field := ⟨0x5308, 8, 1, 2, 2, .ro, false, 0, none⟩
def F.NET_COMP_CTL.DONE : Field := ⟨0x5308, 8, 1, 3, 3, .rw1c, false, 0, none⟩
def F.NET_COMP_CTL.ERROR : Field := ⟨0x5308, 8, 1, 4, 4, .rw1c, false, 0, none⟩
def F.NET_COMP_CTL.ERRCODE : Field := ⟨0x5308, 8, 1, 11, 8, .ro, false, 0, none⟩
def F.NET_COMP_CTL.EPOCH : Field := ⟨0x5308, 8, 1, 31, 16, .ro, false, 0, none⟩
def F.NET_COMP_CTL.STAGED_EPOCH : Field := ⟨0x5308, 8, 1, 47, 32, .ro, false, 0, none⟩
def F.NET_COMP_CTL.STAGED : Field := ⟨0x5308, 8, 1, 48, 48, .ro, false, 0, none⟩
def F.NET_COMP_CTL.DEFERRED : Field := ⟨0x5308, 8, 1, 49, 49, .ro, false, 0, none⟩
def F.NET_COMP_CTL.ISOLATED : Field := ⟨0x5308, 8, 1, 50, 50, .ro, false, 0, none⟩
def F.NET_COMP_CTL.STORM : Field := ⟨0x5308, 8, 1, 51, 51, .ro, false, 0, none⟩
/-- NET_COMP_INFO (Table 13.11, 13_fabric.md). -/
def F.NET_COMP_INFO.COMP_ID : Field := ⟨0x5310, 8, 1, 31, 0, .ro, false, 0, none⟩
def F.NET_COMP_INFO.N_C : Field := ⟨0x5310, 8, 1, 40, 32, .ro, false, 1, none⟩
/-- NET_FAB (Table 13.11, 13_fabric.md). -/
def F.NET_FAB.ISOLATE_MS : Field := ⟨0x5318, 8, 1, 11, 0, .rw, false, 200, (some (10, 4095, 1))⟩
def F.NET_FAB.DRAIN_MS : Field := ⟨0x5318, 8, 1, 27, 16, .rw, false, 100, (some (1, 4095, 1))⟩
def F.NET_FAB.RECOVER_GBPS : Field := ⟨0x5318, 8, 1, 42, 32, .rw, false, 200, (some (1, 1200, 1))⟩
/-- NET_SUSPECT (Table 13.12, 13_fabric.md). -/
def F.NET_SUSPECT.WINDOW_MS : Field := ⟨0x5320, 8, 1, 11, 0, .rw, false, 100, (some (10, 4095, 1))⟩
def F.NET_SUSPECT.LAST_MIN : Field := ⟨0x5320, 8, 1, 31, 16, .rw, false, 32, none⟩
def F.NET_SUSPECT.LAST_PCT : Field := ⟨0x5320, 8, 1, 38, 32, .rw, false, 50, (some (1, 100, 1))⟩
def F.NET_SUSPECT.BUDGET : Field := ⟨0x5320, 8, 1, 43, 40, .rw, false, 2, none⟩
def F.NET_SUSPECT.BACKUP_EN : Field := ⟨0x5320, 8, 1, 48, 48, .rw, false, 1, none⟩
/-- NET_SUSPECT_STAT (Table 13.13, 13_fabric.md). -/
def F.NET_SUSPECT_STAT.DECLARED : Field := ⟨0x5328, 8, 1, 15, 0, .rw, true, 0, none⟩
def F.NET_SUSPECT_STAT.STORMS : Field := ⟨0x5328, 8, 1, 31, 16, .rw, true, 0, none⟩
def F.NET_SUSPECT_STAT.BACKUPS : Field := ⟨0x5328, 8, 1, 47, 32, .rw, true, 0, none⟩
def F.NET_SUSPECT_STAT.BACKUP_WINS : Field := ⟨0x5328, 8, 1, 63, 48, .rw, true, 0, none⟩
/-- NET_JOURNAL (Table 13.13, 13_fabric.md). -/
def F.NET_JOURNAL.HELD_MIB : Field := ⟨0x5330, 8, 1, 31, 0, .ro, false, 0, none⟩
def F.NET_JOURNAL.LAG_MAX : Field := ⟨0x5330, 8, 1, 47, 32, .ro, false, 0, none⟩
def F.NET_JOURNAL.REFUSED : Field := ⟨0x5330, 8, 1, 63, 48, .rw, true, 0, none⟩

/-- Fields of the NET block. -/
def F.listNET0 : List Field :=
  [F.NET_PCFG.MODE, F.NET_PCFG.MEDIA, F.NET_PCFG.VLAN_EN,
   F.NET_PCFG.VID, F.NET_PCFG.PCP, F.NET_PCFG.PFC_EN,
   F.NET_PCFG.MTU, F.NET_PCFG.LINK_UP, F.NET_LIP6H.ADDR,
   F.NET_LIP6L.ADDR, F.NET_LIP4.ADDR, F.NET_LIP4.GATEWAY,
   F.NET_UDP.DPORT, F.NET_UDP.SPORT_BASE, F.NET_UDP.DSCP,
   F.NET_CC.INIT_GBPS, F.NET_CC.AI_GBPS, F.NET_CC.AI_MAX_GBPS,
   F.NET_CC.MIN_GBPS, F.NET_CC.TARGET_NS, F.NET_CC.BETA,
   F.NET_CC.GAMMA, F.NET_RETX.RTO_MIN_NS, F.NET_RETX.REO_NS,
   F.NET_RETX.RETX_MAX, F.NET_RETX.DEAD_MS, F.NET_ACK.SACK_PKTS,
   F.NET_ACK.SACK_NS, F.NET_ACK.SEND_CREDITS, F.NET_CONN_ADDR.ADDR]

/-- Fields of the NET block. -/
def F.listNET1 : List Field :=
  [F.NET_CONN_CTL.SLOT, F.NET_CONN_CTL.OP, F.NET_CONN_CTL.BUSY,
   F.NET_CONN_CTL.DONE, F.NET_CONN_CTL.ERROR, F.NET_CONN_CTL.ERRCODE,
   F.NET_CONN_CTL.STATE, F.NET_REGION_ADDR.OFFSET, F.NET_REGION_ADDR.LENGTH,
   F.NET_REGION_CTL.INDEX, F.NET_REGION_CTL.CTX, F.NET_REGION_CTL.RD,
   F.NET_REGION_CTL.WR, F.NET_REGION_CTL.AT, F.NET_REGION_CTL.OP,
   F.NET_REGION_CTL.BUSY, F.NET_REGION_CTL.DONE, F.NET_REGION_CTL.ERROR,
   F.NET_REGION_CTL.ERRCODE, F.NET_REGION_CTL.GEN, F.NET_REGION_CTL.VALID,
   F.NET_DROPS.HEADER, F.NET_DROPS.AUTH, F.NET_DROPS.WINDOW,
   F.NET_DROPS.EPOCH, F.NET_EVENTS.RETX, F.NET_EVENTS.RTO,
   F.NET_EVENTS.CONN_FAILED, F.NET_EVENTS.NAK_SENT, F.NET_COMP_ADDR.ADDR]

/-- Fields of the NET block. -/
def F.listNET2 : List Field :=
  [F.NET_COMP_CTL.OP, F.NET_COMP_CTL.BUSY, F.NET_COMP_CTL.DONE,
   F.NET_COMP_CTL.ERROR, F.NET_COMP_CTL.ERRCODE, F.NET_COMP_CTL.EPOCH,
   F.NET_COMP_CTL.STAGED_EPOCH, F.NET_COMP_CTL.STAGED, F.NET_COMP_CTL.DEFERRED,
   F.NET_COMP_CTL.ISOLATED, F.NET_COMP_CTL.STORM, F.NET_COMP_INFO.COMP_ID,
   F.NET_COMP_INFO.N_C, F.NET_FAB.ISOLATE_MS, F.NET_FAB.DRAIN_MS,
   F.NET_FAB.RECOVER_GBPS, F.NET_SUSPECT.WINDOW_MS, F.NET_SUSPECT.LAST_MIN,
   F.NET_SUSPECT.LAST_PCT, F.NET_SUSPECT.BUDGET, F.NET_SUSPECT.BACKUP_EN,
   F.NET_SUSPECT_STAT.DECLARED, F.NET_SUSPECT_STAT.STORMS, F.NET_SUSPECT_STAT.BACKUPS,
   F.NET_SUSPECT_STAT.BACKUP_WINS, F.NET_JOURNAL.HELD_MIB, F.NET_JOURNAL.LAG_MAX,
   F.NET_JOURNAL.REFUSED]

/-- All fields of the NET block. -/
def F.allNET : List Field := F.listNET0 ++ F.listNET1 ++ F.listNET2

/-! ### SEC -/

/-- SEC_LOCK (Table 18.6, 18_registers.md). -/
def F.SEC_LOCK.LOCK : Field := ⟨0x6000, 8, 1, 0, 0, .rw, false, 0, none⟩
def F.SEC_LOCK.VIOLATIONS : Field := ⟨0x6000, 8, 1, 31, 16, .rw, true, 0, none⟩
/-- SEC_STATUS (Table 18.7, 18_registers.md). -/
def F.SEC_STATUS.KEYS_DERIVED : Field := ⟨0x6008, 8, 1, 0, 0, .ro, false, 0, none⟩
def F.SEC_STATUS.CONFIG_VALID : Field := ⟨0x6008, 8, 1, 1, 1, .ro, false, 0, none⟩
def F.SEC_STATUS.HELPER_VALID : Field := ⟨0x6008, 8, 1, 5, 2, .ro, false, 0, none⟩
def F.SEC_STATUS.KEYSTORE_VALID : Field := ⟨0x6008, 8, 1, 9, 6, .ro, false, 0, none⟩
def F.SEC_STATUS.DRBG_OK : Field := ⟨0x6008, 8, 1, 10, 10, .ro, false, 0, none⟩
def F.SEC_STATUS.IDE_IO : Field := ⟨0x6008, 8, 1, 11, 11, .ro, false, 0, none⟩
def F.SEC_STATUS.IDE_CACHEMEM : Field := ⟨0x6008, 8, 1, 12, 12, .ro, false, 0, none⟩
/-- SEC_KEYSTORE (Table 18.8, 18_registers.md). -/
def F.SEC_KEYSTORE.SEALED : Field := ⟨0x6010, 8, 1, 9, 0, .ro, false, 0, none⟩
def F.SEC_KEYSTORE.TOMBSTONES : Field := ⟨0x6010, 8, 1, 19, 10, .ro, false, 0, none⟩
/-- SEC_IDENT (Table 18.9, 18_registers.md). -/
def F.SEC_IDENT.DIGEST : Field := ⟨0x6040, 8, 8, 63, 0, .ro, false, 0, none⟩
/-- SEC_SVN (Table 18.9, 18_registers.md). -/
def F.SEC_SVN.RANGER : Field := ⟨0x6080, 8, 1, 15, 0, .ro, false, 0, none⟩
def F.SEC_SVN.SECURITY : Field := ⟨0x6080, 8, 1, 31, 16, .ro, false, 0, none⟩
def F.SEC_SVN.ASSIST : Field := ⟨0x6080, 8, 1, 47, 32, .ro, false, 0, none⟩
def F.SEC_SVN.KERNEL : Field := ⟨0x6080, 8, 1, 63, 48, .ro, false, 0, none⟩

/-- Fields of the SEC block. -/
def F.listSEC : List Field :=
  [F.SEC_LOCK.LOCK, F.SEC_LOCK.VIOLATIONS, F.SEC_STATUS.KEYS_DERIVED,
   F.SEC_STATUS.CONFIG_VALID, F.SEC_STATUS.HELPER_VALID, F.SEC_STATUS.KEYSTORE_VALID,
   F.SEC_STATUS.DRBG_OK, F.SEC_STATUS.IDE_IO, F.SEC_STATUS.IDE_CACHEMEM,
   F.SEC_KEYSTORE.SEALED, F.SEC_KEYSTORE.TOMBSTONES, F.SEC_IDENT.DIGEST,
   F.SEC_SVN.RANGER, F.SEC_SVN.SECURITY, F.SEC_SVN.ASSIST,
   F.SEC_SVN.KERNEL]

/-- All fields of the SEC block. -/
def F.allSEC : List Field := F.listSEC

/-! ### PWR -/

/-- PWR_LTOL (Table 14.7, 14_power_health.md). -/
def F.PWR_LTOL.HOST_US : Field := ⟨0x7000, 8, 1, 31, 0, .rw, false, 1, (some (1, 4294967295, 1))⟩
def F.PWR_LTOL.MAX_STATE : Field := ⟨0x7000, 8, 1, 34, 32, .rw, false, 5, (some (0, 5, 1))⟩
/-- PWR_STATE (Table 14.8, 14_power_health.md). -/
def F.PWR_STATE.CURRENT : Field := ⟨0x7008, 8, 1, 2, 0, .ro, false, 0, none⟩
def F.PWR_STATE.SELECTED : Field := ⟨0x7008, 8, 1, 5, 3, .ro, false, 0, none⟩
def F.PWR_STATE.ENTERING : Field := ⟨0x7008, 8, 1, 6, 6, .ro, false, 0, none⟩
def F.PWR_STATE.EXITING : Field := ⟨0x7008, 8, 1, 7, 7, .ro, false, 0, none⟩
def F.PWR_STATE.QUIET : Field := ⟨0x7008, 8, 1, 8, 8, .ro, false, 0, none⟩
def F.PWR_STATE.T_US : Field := ⟨0x7008, 8, 1, 63, 32, .ro, false, 1, none⟩
/-- PWR_CTL (Table 14.9, 14_power_health.md). -/
def F.PWR_CTL.IDLE_TICKS : Field := ⟨0x7010, 8, 1, 15, 0, .rw, false, 100, (some (1, 65535, 1))⟩
/-- PWR_SUPPLY (Table 14.10, 14_power_health.md). -/
def F.PWR_SUPPLY.INPUT_MV : Field := ⟨0x7018, 8, 1, 15, 0, .ro, false, 0, none⟩
def F.PWR_SUPPLY.MIN_MV : Field := ⟨0x7018, 8, 1, 31, 16, .rw, true, 65535, none⟩
def F.PWR_SUPPLY.WARN : Field := ⟨0x7018, 8, 1, 32, 32, .ro, false, 0, none⟩
def F.PWR_SUPPLY.FLUSHED : Field := ⟨0x7018, 8, 1, 33, 33, .ro, false, 0, none⟩
def F.PWR_SUPPLY.LOW : Field := ⟨0x7018, 8, 1, 34, 34, .ro, false, 0, none⟩
def F.PWR_SUPPLY.OVER : Field := ⟨0x7018, 8, 1, 35, 35, .ro, false, 0, none⟩
def F.PWR_SUPPLY.HOLDS : Field := ⟨0x7018, 8, 1, 63, 48, .rw, true, 0, none⟩
/-- PWR_CAP (Table 14.11, 14_power_health.md). -/
def F.PWR_CAP.CAP_W : Field := ⟨0x7020, 8, 1, 10, 0, .rw, false, 1700, (some (800, 1700, 1))⟩
def F.PWR_CAP.POWER_W : Field := ⟨0x7020, 8, 1, 26, 16, .ro, false, 0, none⟩
def F.PWR_CAP.CAPPED : Field := ⟨0x7020, 8, 1, 32, 32, .ro, false, 0, none⟩
def F.PWR_CAP.CAP_EVENTS : Field := ⟨0x7020, 8, 1, 63, 48, .rw, true, 0, none⟩
/-- PWR_THERM (Table 14.12, 14_power_health.md). -/
def F.PWR_THERM.T_THROTTLE : Field := ⟨0x7028, 8, 1, 7, 0, .rw, false, 95, (some (80, 100, 1))⟩
def F.PWR_THERM.EMERGENCIES : Field := ⟨0x7028, 8, 1, 31, 16, .rw, true, 0, none⟩
def F.PWR_THERM.THROTTLED : Field := ⟨0x7028, 8, 1, 47, 32, .rw, true, 0, none⟩
def F.PWR_THERM.MAX_TJ : Field := ⟨0x7028, 8, 1, 63, 48, .rw, true, 0, none⟩
/-- PWR_STACK (Table 14.12, 14_power_health.md). -/
def F.PWR_STACK.HOT : Field := ⟨0x7030, 8, 1, 11, 0, .ro, false, 0, none⟩
/-- PWR_HC (Table 14.13, 14_power_health.md). -/
def F.PWR_HC.FREQ_MHZ : Field := ⟨0x7100, 8, 96, 11, 0, .ro, false, 1800, none⟩
def F.PWR_HC.MAX_MHZ : Field := ⟨0x7100, 8, 96, 27, 16, .ro, false, 1800, none⟩
def F.PWR_HC.VOLT_MV : Field := ⟨0x7100, 8, 96, 43, 32, .ro, false, 0, none⟩
def F.PWR_HC.TJ : Field := ⟨0x7100, 8, 96, 63, 48, .ro, false, 0, none⟩

/-- Fields of the PWR block. -/
def F.listPWR : List Field :=
  [F.PWR_LTOL.HOST_US, F.PWR_LTOL.MAX_STATE, F.PWR_STATE.CURRENT,
   F.PWR_STATE.SELECTED, F.PWR_STATE.ENTERING, F.PWR_STATE.EXITING,
   F.PWR_STATE.QUIET, F.PWR_STATE.T_US, F.PWR_CTL.IDLE_TICKS,
   F.PWR_SUPPLY.INPUT_MV, F.PWR_SUPPLY.MIN_MV, F.PWR_SUPPLY.WARN,
   F.PWR_SUPPLY.FLUSHED, F.PWR_SUPPLY.LOW, F.PWR_SUPPLY.OVER,
   F.PWR_SUPPLY.HOLDS, F.PWR_CAP.CAP_W, F.PWR_CAP.POWER_W,
   F.PWR_CAP.CAPPED, F.PWR_CAP.CAP_EVENTS, F.PWR_THERM.T_THROTTLE,
   F.PWR_THERM.EMERGENCIES, F.PWR_THERM.THROTTLED, F.PWR_THERM.MAX_TJ,
   F.PWR_STACK.HOT, F.PWR_HC.FREQ_MHZ, F.PWR_HC.MAX_MHZ,
   F.PWR_HC.VOLT_MV, F.PWR_HC.TJ]

/-- All fields of the PWR block. -/
def F.allPWR : List Field := F.listPWR

/-! ### HEALTH -/

/-- HEALTH_WEATHER_SEL (Table 14.14, 14_power_health.md). -/
def F.HEALTH_WEATHER_SEL.KIND : Field := ⟨0x8000, 8, 1, 2, 0, .rw, false, 0, (some (0, 4, 1))⟩
def F.HEALTH_WEATHER_SEL.UNIT : Field := ⟨0x8000, 8, 1, 15, 8, .rw, false, 0, none⟩
/-- HEALTH_WEATHER (Table 14.14, 14_power_health.md). -/
def F.HEALTH_WEATHER.INDEX : Field := ⟨0x8008, 8, 1, 9, 0, .ro, false, 0, none⟩
def F.HEALTH_WEATHER.MODULE : Field := ⟨0x8008, 8, 1, 25, 16, .ro, false, 0, none⟩
def F.HEALTH_WEATHER.EOL_DAYS : Field := ⟨0x8008, 8, 1, 47, 32, .ro, false, 65535, none⟩
def F.HEALTH_WEATHER.MODULE_EOL_DAYS : Field := ⟨0x8008, 8, 1, 63, 48, .ro, false, 65535, none⟩
/-- HEALTH_ASSAY (Table 12.7, 12_integrity.md). -/
def F.HEALTH_ASSAY.RATE : Field := ⟨0x8100, 8, 1, 12, 0, .rw, false, 64, (some (0, 4096, 1))⟩
def F.HEALTH_ASSAY.PENDING : Field := ⟨0x8100, 8, 1, 28, 16, .ro, false, 0, none⟩
/-- HEALTH_ASSAY_STAT (Table 12.8, 12_integrity.md). -/
def F.HEALTH_ASSAY_STAT.MATCHED : Field := ⟨0x8108, 8, 1, 23, 0, .rw, true, 0, none⟩
def F.HEALTH_ASSAY_STAT.MISMATCHED : Field := ⟨0x8108, 8, 1, 35, 24, .rw, true, 0, none⟩
def F.HEALTH_ASSAY_STAT.UNRESOLVED : Field := ⟨0x8108, 8, 1, 43, 36, .rw, true, 0, none⟩
def F.HEALTH_ASSAY_STAT.DROPPED : Field := ⟨0x8108, 8, 1, 53, 44, .rw, true, 0, none⟩
def F.HEALTH_ASSAY_STAT.ABANDONED : Field := ⟨0x8108, 8, 1, 63, 54, .rw, true, 0, none⟩
/-- HEALTH_TCC_SEL (Table 12.9, 12_integrity.md). -/
def F.HEALTH_TCC_SEL.CTX : Field := ⟨0x8110, 8, 1, 8, 0, .rw, false, 0, none⟩
/-- HEALTH_TCC (Table 12.9, 12_integrity.md). -/
def F.HEALTH_TCC.RELAXED : Field := ⟨0x8118, 8, 1, 31, 0, .rw, true, 0, none⟩
def F.HEALTH_TCC.BACKUP : Field := ⟨0x8118, 8, 1, 63, 32, .rw, true, 0, none⟩
/-- HEALTH_ERRCNT (Table 12.10, 12_integrity.md). -/
def F.HEALTH_ERRCNT.SENT : Field := ⟨0x8120, 8, 1, 31, 0, .ro, false, 0, none⟩
def F.HEALTH_ERRCNT.LOST : Field := ⟨0x8120, 8, 1, 47, 32, .rw, true, 0, none⟩
def F.HEALTH_ERRCNT.BUFFERED : Field := ⟨0x8120, 8, 1, 58, 48, .ro, false, 0, none⟩
/-- HEALTH_TILEF (Table 12.11, 12_integrity.md). -/
def F.HEALTH_TILEF.FAULT : Field := ⟨0x8140, 8, 24, 63, 0, .rw1c, false, 0, none⟩
/-- HEALTH_METER_SEL (Table 13.14, 13_fabric.md). -/
def F.HEALTH_METER_SEL.CTX : Field := ⟨0x8200, 8, 1, 8, 0, .rw, false, 0, none⟩
def F.HEALTH_METER_SEL.SET : Field := ⟨0x8200, 8, 1, 10, 9, .rw, false, 0, none⟩
/-- HEALTH_METER_ID (Table 13.14, 13_fabric.md). -/
def F.HEALTH_METER_ID.COMP_ID : Field := ⟨0x8208, 8, 1, 31, 0, .ro, false, 0, none⟩
/-- HEALTH_METER (Table 13.14, 13_fabric.md). -/
def F.HEALTH_METER.COUNT : Field := ⟨0x8210, 8, 8, 63, 0, .ro, false, 0, none⟩

/-- Fields of the HEALTH block. -/
def F.listHEALTH : List Field :=
  [F.HEALTH_WEATHER_SEL.KIND, F.HEALTH_WEATHER_SEL.UNIT, F.HEALTH_WEATHER.INDEX,
   F.HEALTH_WEATHER.MODULE, F.HEALTH_WEATHER.EOL_DAYS, F.HEALTH_WEATHER.MODULE_EOL_DAYS,
   F.HEALTH_ASSAY.RATE, F.HEALTH_ASSAY.PENDING, F.HEALTH_ASSAY_STAT.MATCHED,
   F.HEALTH_ASSAY_STAT.MISMATCHED, F.HEALTH_ASSAY_STAT.UNRESOLVED, F.HEALTH_ASSAY_STAT.DROPPED,
   F.HEALTH_ASSAY_STAT.ABANDONED, F.HEALTH_TCC_SEL.CTX, F.HEALTH_TCC.RELAXED,
   F.HEALTH_TCC.BACKUP, F.HEALTH_ERRCNT.SENT, F.HEALTH_ERRCNT.LOST,
   F.HEALTH_ERRCNT.BUFFERED, F.HEALTH_TILEF.FAULT, F.HEALTH_METER_SEL.CTX,
   F.HEALTH_METER_SEL.SET, F.HEALTH_METER_ID.COMP_ID, F.HEALTH_METER.COUNT]

/-- All fields of the HEALTH block. -/
def F.allHEALTH : List Field := F.listHEALTH

/-! ### DBG -/

/-- DBG_RD_SEL (Table 18.12, 18_registers.md). -/
def F.DBG_RD_SEL.TIER : Field := ⟨0x9000, 8, 1, 2, 0, .rw, false, 0, none⟩
def F.DBG_RD_SEL.UNIT : Field := ⟨0x9000, 8, 1, 11, 4, .rw, false, 0, none⟩
def F.DBG_RD_SEL.LINE : Field := ⟨0x9000, 8, 1, 63, 16, .rw, false, 0, none⟩
/-- DBG_RD_CTL (Table 18.12, 18_registers.md). -/
def F.DBG_RD_CTL.GO : Field := ⟨0x9008, 8, 1, 0, 0, .wo, false, 0, none⟩
def F.DBG_RD_CTL.BUSY : Field := ⟨0x9008, 8, 1, 1, 1, .ro, false, 0, none⟩
def F.DBG_RD_CTL.DONE : Field := ⟨0x9008, 8, 1, 2, 2, .rw1c, false, 0, none⟩
def F.DBG_RD_CTL.ERROR : Field := ⟨0x9008, 8, 1, 3, 3, .rw1c, false, 0, none⟩
def F.DBG_RD_CTL.ERRCODE : Field := ⟨0x9008, 8, 1, 7, 4, .ro, false, 0, none⟩
/-- DBG_RD_DATA (Table 18.12, 18_registers.md). -/
def F.DBG_RD_DATA.DATA : Field := ⟨0x9010, 8, 8, 63, 0, .ro, false, 0, none⟩
/-- DBG_SEQ_SEL (Table 18.13, 18_registers.md). -/
def F.DBG_SEQ_SEL.ENGINE : Field := ⟨0x9050, 8, 1, 7, 0, .rw, false, 0, none⟩
def F.DBG_SEQ_SEL.ENTRY : Field := ⟨0x9050, 8, 1, 12, 8, .rw, false, 0, none⟩
/-- DBG_SEQ_DATA (Table 18.13, 18_registers.md). -/
def F.DBG_SEQ_DATA.DATA : Field := ⟨0x9058, 8, 6, 63, 0, .ro, false, 0, none⟩
/-- DBG_TRACE_CTL (Table 18.14, 18_registers.md). -/
def F.DBG_TRACE_CTL.TICKS : Field := ⟨0x9088, 8, 1, 12, 0, .rw, false, 1, (some (1, 4096, 1))⟩
def F.DBG_TRACE_CTL.ARM : Field := ⟨0x9088, 8, 1, 13, 13, .wo, false, 0, none⟩
def F.DBG_TRACE_CTL.RUNNING : Field := ⟨0x9088, 8, 1, 14, 14, .ro, false, 0, none⟩
def F.DBG_TRACE_CTL.FULL : Field := ⟨0x9088, 8, 1, 15, 15, .ro, false, 0, none⟩
def F.DBG_TRACE_CTL.ENTRIES : Field := ⟨0x9088, 8, 1, 35, 16, .ro, false, 0, none⟩
/-- DBG_UNIT_OFF (Table 18.14, 18_registers.md). -/
def F.DBG_UNIT_OFF.KIND : Field := ⟨0x9090, 8, 1, 0, 0, .rw, false, 0, none⟩
def F.DBG_UNIT_OFF.UNIT : Field := ⟨0x9090, 8, 1, 11, 1, .rw, false, 0, none⟩
def F.DBG_UNIT_OFF.OP : Field := ⟨0x9090, 8, 1, 13, 12, .wo, false, 0, none⟩
/-- DBG_FREQ_LIMIT (Table 18.14, 18_registers.md). -/
def F.DBG_FREQ_LIMIT.MHZ : Field := ⟨0x9098, 8, 1, 11, 0, .rw, false, 0, none⟩

/-- Fields of the DBG block. -/
def F.listDBG : List Field :=
  [F.DBG_RD_SEL.TIER, F.DBG_RD_SEL.UNIT, F.DBG_RD_SEL.LINE,
   F.DBG_RD_CTL.GO, F.DBG_RD_CTL.BUSY, F.DBG_RD_CTL.DONE,
   F.DBG_RD_CTL.ERROR, F.DBG_RD_CTL.ERRCODE, F.DBG_RD_DATA.DATA,
   F.DBG_SEQ_SEL.ENGINE, F.DBG_SEQ_SEL.ENTRY, F.DBG_SEQ_DATA.DATA,
   F.DBG_TRACE_CTL.TICKS, F.DBG_TRACE_CTL.ARM, F.DBG_TRACE_CTL.RUNNING,
   F.DBG_TRACE_CTL.FULL, F.DBG_TRACE_CTL.ENTRIES, F.DBG_UNIT_OFF.KIND,
   F.DBG_UNIT_OFF.UNIT, F.DBG_UNIT_OFF.OP, F.DBG_FREQ_LIMIT.MHZ]

/-- All fields of the DBG block. -/
def F.allDBG : List Field := F.listDBG

/-- The fields of the 4 KiB block that holds an offset (00_scope.md, "Register fields and access types"). -/
def F.block (off : Nat) : List Field :=
  match off / 4096 with
  | 0 => F.allID
  | 1 => F.allTICK
  | 2 => F.allCTX
  | 3 => F.allTIER
  | 4 => F.allRING
  | 5 => F.allNET
  | 6 => F.allSEC
  | 7 => F.allPWR
  | 8 => F.allHEALTH
  | 9 => F.allDBG
  | _ => []

end Sys2Proof.Machine
end

