-- ==== Sys2Proof/Machine/Flags.lean ====
section
/-! DEFINITION. Register fields: reading, writing, saturating counters, and the write rule of each access type
(Table 0.4, R7, 00_scope.md; R362, R363, 18_registers.md). -/
namespace Sys2Proof.Machine

/-- Width of a field in bits. -/
def Field.width (f : Field) : Nat := f.hi + 1 - f.lo

/-- Offset of the `n`-th register that has a field. -/
def Field.at_ (f : Field) (n : Nat) : Nat := f.off + f.stride * n

/-- Whether the register at an offset has a field. -/
def Field.covers (f : Field) (off : Nat) : Bool :=
  decide (f.off ≤ off) && decide (off < f.off + f.stride * f.count) && (off - f.off) % f.stride == 0

/-- Fields of the register at an offset. -/
def regFields (off : Nat) : List Field := (F.block off).filter (fun f => f.covers off)

/-- Reset value of the register at an offset. -/
def regReset (off : Nat) : Word := BitVec.ofNat 64 ((regFields off).foldl (fun x f => x + f.reset * 2 ^ f.lo) 0)

/-- Value of a register in a register file. -/
def getReg (rf : RegFile) (off : Nat) : Word := (mget rf off).getD (regReset off)

/-- Put a register; no entry equals the reset value. -/
def putReg (rf : RegFile) (off : Nat) (v : Word) : RegFile :=
  if v = regReset off then mdel rf off else mset rf off v

/-- Field of a word. -/
def fieldOf (f : Field) (w : Word) : Nat := (w.extractLsb' f.lo f.width).toNat

/-- A word with a field replaced. -/
def withField (f : Field) (w : Word) (v : Nat) : Word :=
  (w &&& ~~~(BitVec.ofNat 64 (2 ^ f.width - 1) <<< f.lo)) ||| (BitVec.ofNat 64 (v % 2 ^ f.width) <<< f.lo)

/-- Read a field of a register file. -/
def fget (rf : RegFile) (f : Field) (n : Nat := 0) : Nat := fieldOf f (getReg rf (f.at_ n))

/-- Write a field of a register file, whatever its access type (the node's own update). -/
def fput (rf : RegFile) (f : Field) (v : Nat) (n : Nat := 0) : RegFile :=
  putReg rf (f.at_ n) (withField f (getReg rf (f.at_ n)) v)

/-- Whether a written value lies in the field's accepted range. -/
def Field.accepts (f : Field) (v : Nat) : Bool :=
  match f.range with
  | none => true
  | some (a, b, step) => decide (a ≤ v) && decide (v ≤ b) && (v - a) % step == 0

/-- The new value of one field under a control-host write (Table 0.4, R363). A locked RWL field and an RO or WO
field keep the old value. -/
def fieldWrite (locked : Bool) (f : Field) (old v : Nat) : Nat :=
  match f.ty with
  | .ro => old
  | .wo => old
  | .rw1c => old &&& (2 ^ f.width - 1 - v)
  | .rws => v
  | .rwl => if locked then old else v
  | .rw =>
    if f.counter then
      (if f.off = F.PWR_SUPPLY.MIN_MV.off && f.lo = F.PWR_SUPPLY.MIN_MV.lo then (if v = 65535 then v else old)
       else if v = 0 then 0 else old)
    else if f.accepts v then v else old

/-- The new value of a register under a control-host write: field by field, reserved bits reading 0 (R7). -/
def regWritten (locked : Bool) (off : Nat) (old v : Word) : Word :=
  (regFields off).foldl (fun w f => withField f w (fieldWrite locked f (fieldOf f old) (fieldOf f v))) old

/-- Read a field as software does, of the stored registers. -/
def State.rd (s : State) (f : Field) (n : Nat := 0) : Nat := fget s.regs f n

/-- Read the value of a field in force. -/
def State.lv (s : State) (f : Field) (n : Nat := 0) : Nat := fget s.live f n

/-- Set a status field. -/
def State.wr (s : State) (f : Field) (v : Nat) (n : Nat := 0) : State := { s with regs := fput s.regs f v n }

/-- Add to a counter field, which saturates at its largest value (R363). -/
def State.bump (s : State) (f : Field) (k : Nat := 1) (n : Nat := 0) : State :=
  s.wr f (satAdd (s.rd f n) k (2 ^ f.width - 1)) n

/-- Raise a PEAK or MAX field. -/
def State.peak (s : State) (f : Field) (v : Nat) (n : Nat := 0) : State :=
  if s.rd f n < v then s.wr f (min v (2 ^ f.width - 1)) n else s

/-- Set a register the control host wrote, now and in force (a write that takes effect at once). -/
def State.writeNow (s : State) (off : Nat) (v : Word) : State :=
  { s with regs := putReg s.regs off v, live := putReg s.live off v }

/-- Set a register the control host wrote, its effect waiting for a boundary (R16, R362). -/
def State.writeStaged (s : State) (off : Nat) (v : Word) : State :=
  { s with regs := putReg s.regs off v, staged := s.staged ++ [⟨s.now, off, v⟩] }

/-- Node time moves to the time of a command; it never steps back (R20). -/
def State.at_ (s : State) (t : Nat) : State := { s with now := max s.now t }

/-- Emit. -/
def State.emit (s : State) (o : Out) : State := { s with out := o :: s.out }

/-- Draw a free number (Config.freeNat). -/
def State.draw (s : State) : Nat × State := (Config.freeNat s.free, { s with free := s.free + 1 })

/-- Whether BAR0 takes writes outside the ID block (R334). -/
def State.ready (s : State) : Bool := s.rd F.ID_BOOT.READY == 1

/-- A wake event (R304): the exit from a state deeper than N1 starts, or waits for the entry step in progress to finish (R306). -/
def State.wakeUp (s : State) : State :=
  if s.power.entering.isSome then { s with power := { s.power with wake := true } }
  else if s.rd F.PWR_STATE.CURRENT ≤ 1 || s.power.exiting || s.power.hold then s
  else
    { s.wr F.PWR_STATE.EXITING 1 with
      power := { s.power with exiting := true, exitFrom := s.rd F.PWR_STATE.CURRENT, quietTicks := 0 } }

end Sys2Proof.Machine
end

