-- ==== Sys2Proof/Machine/Errors.lean ====
section
/-! DEFINITION. Error records: forming, buffering, layout (12_integrity.md, R280, R375, Tables 12.5 and 12.6). -/
namespace Sys2Proof.Machine

/-- Kinds of Table 12.6 with their severities. -/
inductive ErrKind where
  | pebbleCorrupt | farChannel | bedrockLow | tagFault | engineWatchdog | unitDisabled | assayMismatch
  | contribution | offsetExceeded | c0Degraded | connFailed | authFlood | keysNotDerived | suspect
  | suspicionStorm | homeFailover | supplyWarning | thermalEmergency | brownoutReset
deriving DecidableEq, Repr

/-- KIND code (Table 12.6). -/
def ErrKind.code : ErrKind → Nat
  | .pebbleCorrupt => 0x0001 | .farChannel => 0x0002 | .bedrockLow => 0x0003 | .tagFault => 0x0010
  | .engineWatchdog => 0x0011 | .unitDisabled => 0x0012 | .assayMismatch => 0x0013 | .contribution => 0x0014
  | .offsetExceeded => 0x0020 | .c0Degraded => 0x0021 | .connFailed => 0x0030 | .authFlood => 0x0031
  | .keysNotDerived => 0x0040 | .suspect => 0x0050 | .suspicionStorm => 0x0051 | .homeFailover => 0x0052
  | .supplyWarning => 0x0060 | .thermalEmergency => 0x0061 | .brownoutReset => 0x0062

/-- Severity (Table 12.6). -/
def ErrKind.severity : ErrKind → Nat
  | .pebbleCorrupt => 1 | .farChannel => 2 | .bedrockLow => 2 | .tagFault => 1 | .engineWatchdog => 2
  | .unitDisabled => 2 | .assayMismatch => 1 | .contribution => 1 | .offsetExceeded => 3 | .c0Degraded => 2
  | .connFailed => 1 | .authFlood => 0 | .keysNotDerived => 3 | .suspect => 0 | .suspicionStorm => 3
  | .homeFailover => 2 | .supplyWarning => 3 | .thermalEmergency => 2 | .brownoutReset => 3

/-- UNIT_TYPE codes of Table 12.5. -/
inductive ErrUnit where
  | none
  | tile (n : Nat)
  | engine (n : Nat)
  | stackChannel (n : Nat)
  | farChannel (n : Nat)
  | nandChannel (n : Nat)
  | link (n : Nat)
  | trail
  | cxl
  | security
  | ranger
  | planner
  | powerStage (n : Nat)
  | mover
deriving DecidableEq, Repr

/-- UNIT_TYPE and UNIT_INDEX. -/
def ErrUnit.codes : ErrUnit → Nat × Nat
  | .none => (0, 0) | .tile n => (1, n) | .engine n => (2, n) | .stackChannel n => (3, n) | .farChannel n => (4, n)
  | .nandChannel n => (5, n) | .link n => (6, n) | .trail => (7, 0) | .cxl => (8, 0) | .security => (9, 0)
  | .ranger => (10, 0) | .planner => (11, 0) | .powerStage n => (12, n) | .mover => (13, 0)

/-- The tile or engine of the itinerary as an error unit. -/
def ErrUnit.ofUnit : UnitId → ErrUnit
  | .tile n => .tile n
  | .engine n => .engine n
  | .gate n => .link n

/-- Half-column of a tile: 16 tiles each, 96 in all (Table 0.2). -/
def halfColumn (tile : Nat) : Nat := tile / 16

/-- Stack of an engine or channel (Table 1.2: sixteen per stack). -/
def stackOf (engine : Nat) : Nat := engine / 16

/-- TEMP and RAIL_MV (R375): a tile takes its half-column's sensor and rail, an engine or stack channel its stack's;
the planner stands on the compute die, whose hottest sensor is that of its half-columns; other values come from dies whose readings the
manual gives no register for, and are free. -/
def recordSensors (s : State) (u : ErrUnit) : Int × Nat :=
  match u with
  | .tile n => ((s.rd F.PWR_HC.TJ (halfColumn n) : Int), s.rd F.PWR_HC.VOLT_MV (halfColumn n))
  | .engine n => ((mget s.power.stackTemps (stackOf n)).getD 0, Config.freeNat s.free % 65536)
  | .stackChannel n => ((mget s.power.stackTemps (stackOf n)).getD 0, Config.freeNat s.free % 65536)
  | .planner => (((List.range 96).map (fun n => (BitVec.ofNat 16 (s.rd F.PWR_HC.TJ n)).toInt)).foldl max (-32768),
      Config.freeNat s.free % 65536)
  | _ => ((Config.freeNat s.free % 32768 : Nat), Config.freeNat (s.free + 1) % 65536)

/-- What an error record says beside kind and unit. -/
structure ErrInfo where
  ctx : Option Nat := none
  opcode : Nat := 0
  cls : Nat := 0
  req : Nat := 0
  conn : Nat := 0
  location : Nat := 0
  detail : Nat := 0
  cairn : Bytes := []
deriving DecidableEq, Repr

/-- Put a record into the buffer of 1,024 (R280). -/
def bufferRecord (s : State) (r : ErrorRecord) : State :=
  if s.health.buffer.length < 1024 then { s with health := { s.health with buffer := s.health.buffer ++ [r] } }
  else
    let s := s.bump F.HEALTH_ERRCNT.LOST
    match s.health.buffer.findIdx? (fun x => x.severity == 0) with
    | some i =>
      if 2 ≤ r.severity then { s with health := { s.health with buffer := s.health.buffer.eraseIdx i ++ [r] } } else s
    | none => s

/-- Form an error record of an event and buffer it for Ranger (R280). -/
def errRecord (s : State) (k : ErrKind) (u : ErrUnit) (i : ErrInfo) : State :=
  let (temp, mv) := recordSensors s u
  let r : ErrorRecord :=
    { severity := k.severity, kind := k.code, unitType := u.codes.1, unitIndex := u.codes.2, time := s.now
      ctx := i.ctx, opcode := i.opcode, cls := i.cls, temp := temp, railMv := mv, req := i.req, conn := i.conn
      location := i.location, detail := i.detail, cairnPrefix := padTo 8 (i.cairn.take 8), seq := s.health.seq % 2 ^ 32 }
  bufferRecord { s with free := s.free + 2, health := { s.health with seq := s.health.seq + 1 } } r

/-- The 64 bytes of an error record (Table 12.5). -/
def ErrorRecord.bytes (r : ErrorRecord) : Bytes :=
  let b := leBytes 1 1 ++ leBytes 1 r.severity ++ leBytes 2 r.kind ++ leBytes 1 r.unitType ++ leBytes 1 0 ++ leBytes 2 r.unitIndex ++
    leBytes 8 r.time ++ leBytes 2 (match r.ctx with | some c => c | none => 0x8000) ++ leBytes 1 r.opcode ++
    leBytes 1 r.cls ++ leBytes 2 (r.temp % 65536).toNat ++ leBytes 2 r.railMv ++ leBytes 4 r.req ++ leBytes 4 r.conn ++
    leBytes 8 r.location ++ leBytes 8 r.detail ++ padTo 8 (r.cairnPrefix.take 8) ++ leBytes 4 r.seq
  b ++ leBytes 4 (crc32c b).toNat

/-! ### Ranger's log -/

/-- Whether Ranger serves: it runs and is not in its recovery state (R330). -/
def State.rangerUp (s : State) : Bool := s.ranger.running && !s.ranger.recovery

/-- Records the circular log holds (R323). -/
def logDepth : Nat := 65536

/-- Append to Ranger's log; at 65,536 entries the oldest is overwritten, and the subscriptions' positions move with it (R323). -/
def State.logRecord (s : State) (r : ErrorRecord) : State :=
  let full := decide (logDepth ≤ s.ranger.log.length)
  let log := (if full then s.ranger.log.drop 1 else s.ranger.log) ++ [r]
  let subs := if full then s.ranger.subs.map (fun u => { u with position := u.position - 1 }) else s.ranger.subs
  { s with ranger := { s.ranger with log := log, subs := subs } }

/-- Kinds this model gives the report events in the log, which Table 12.6 does not number. -/
def weatheringEvent : Nat := 0x10000
def meteringEvent : Nat := 0x10001

/-- A weathering report or metering event: severity 0, delivered as R324 says, when Ranger runs (R325). -/
def State.reportEvent (s : State) (kind : Nat) : State :=
  if !s.rangerUp then s
  else s.logRecord
    { severity := 0, kind := kind, unitType := 10, unitIndex := 0, time := s.now, ctx := none, opcode := 0, cls := 0, temp := 0, railMv := 0
      req := 0, conn := 0, location := 0, detail := 0, cairnPrefix := List.replicate 8 0, seq := s.health.seq % 2 ^ 32 }

end Sys2Proof.Machine
end

