-- ==== Sys2Proof/Machine/Operands.lean ====
section
/-! DEFINITION. Operand forms: the records the node reads from memory and from packets, field by field, with the
checks their tables state (Tables 8.1, 8.3, 8.4, 9.2, 9.3, 9.7, 10.3, 18.10). -/
namespace Sys2Proof.Machine

/-! ### Descriptors -/

/-- The descriptor of Table 8.4 from its 64 bytes. -/
def parseDesc (b : Bytes) : Desc where
  opcode := le b 0x00 1
  flags := le b 0x01 1
  tag := le b 0x02 2
  conv := le b 0x04 4
  layer := le b 0x08 2
  kvhFirst := le b 0x0A 1
  kvhCount := le b 0x0B 1
  qgroup := le b 0x0C 1
  qpos := le b 0x0D 1
  modifier := le b 0x0E 2
  queryAddr := le b 0x10 8
  queryRkey := le b 0x18 4
  resultRkey := le b 0x1C 4
  resultAddr := le b 0x20 8
  statusAddr := le b 0x28 8
  tokenFirst := le b 0x30 8
  tokenSpan := le b 0x38 4
  skipTheta := le b 0x3C 2
  reserved := le b 0x3E 2

def Desc.partialOk (d : Desc) : Bool := bit d.flags 0
def Desc.cairn (d : Desc) : Bool := bit d.flags 1
def Desc.normalize (d : Desc) : Bool := bit d.flags 2
def Desc.skip (d : Desc) : Bool := bit d.flags 3
def Desc.assayHold (d : Desc) : Bool := bit d.flags 4
def Desc.relaxed (d : Desc) : Bool := bit d.flags 5
def Desc.fenceBefore (d : Desc) : Bool := bit d.flags 6

/-- Whether the opcode is ATTEND or ATTEND_CHUNK. -/
def Desc.isAttend (d : Desc) : Bool := d.opcode == 1 || d.opcode == 2

/-- Flags an opcode lists (Table 8.5); bit 7 is reserved everywhere. -/
def allowedFlags (op : Nat) : Nat :=
  if op = 1 || op = 2 then 0x7F
  else if op = 9 || op = 10 then 0x41
  else if op = 11 then 0
  else 0x40

/-- Whether a field an opcode does not use is non-zero, MODIFIER not 0xFFFF, or a flag is not its own (R160). An
undefined opcode uses no field here: step 2 of R161 answers it. -/
def descReserved (d : Desc) : Bool :=
  let op := d.opcode
  let z (used : List Nat) (v : Nat) : Bool := !used.contains op && v != 0
  d.reserved != 0 || d.flags &&& (255 - (if 1 ≤ op && op ≤ 12 then allowedFlags op else 0x7F)) != 0 ||
    (1 ≤ op && op ≤ 12 &&
      (z [1, 2, 3, 9, 12] d.layer || z [1, 2, 3, 9, 12] d.kvhFirst || z [1, 2, 3, 9, 12] d.kvhCount ||
        z [1, 2, 8, 11] d.qgroup || z [1, 2] d.qpos || (!(op == 1 || op == 2) && d.modifier != 0xFFFF) ||
        z [1, 2, 3, 10] d.queryAddr || z [1, 2, 3, 5, 10] d.queryRkey || z [1, 2, 9, 12] d.resultAddr ||
        z [1, 2, 3, 6, 9] d.tokenFirst || z [1, 2, 3, 5, 9, 10] d.tokenSpan || z [1, 2] d.skipTheta))

/-! ### Rings and connections -/

/-- A ring record (Table 8.1). -/
def parseRingRec (b : Bytes) : RingRec where
  absent := zeroAt b 0 64
  addr := le b 0x00 8
  rkey := le b 0x08 4
  log2 := le b 0x0C 1
  cls := le b 0x0D 1
  en := bit (le b 0x0E 1) 0
  rswAddr := le b 0x10 8
  rswRkey := le b 0x18 4

/-- Whether a ring record lies within Table 8.1; all zero describes no ring (R154). -/
def ringRecOk (b : Bytes) : Bool :=
  zeroAt b 0 64 ||
    (le b 0 8 % 64 == 0 && decide (6 ≤ le b 0x0C 1) && decide (le b 0x0C 1 ≤ 16) && decide (le b 0x0D 1 ≤ 3) &&
      decide (le b 0x0E 1 ≤ 1) && le b 0x0F 1 == 0 && le b 0x10 8 % 8 == 0 && zeroAt b 0x1C 36)

/-- A policer (Table 10.3). -/
def parsePolicer (b : Bytes) : Policer where
  mode := le b 0x00 1
  defClass := le b 0x01 1 % 4
  yellow := le b 0x02 1 % 64
  bRate := le b 0x04 4
  bBurst := le b 0x08 4
  opRate := le b 0x0C 4
  opBurst := le b 0x10 4
  bRate2 := le b 0x14 4
  bBurst2 := le b 0x18 4

/-- Whether a policer obeys the rules of Table 10.3. -/
def policerOk (b : Bytes) : Bool :=
  let m := le b 0 1
  decide (m ≤ 5) && le b 3 1 == 0 && zeroAt b 0x1C 4 &&
    (m == 0 ||
      (decide (le b 1 1 < 4) && decide (le b 2 1 < 64) && decide (4096 ≤ le b 8 4) && decide (1 ≤ le b 0x10 4) &&
        (decide (m ≤ 1) || decide (4096 ≤ le b 0x18 4)) &&
        (!(m == 2 || m == 3) || decide (le b 4 4 ≤ le b 0x14 4))))

/-- A connection entry (Table 9.7). -/
def parseConnEntry (b : Bytes) : ConnEntry where
  conn := le b 0 4 % 2 ^ 24
  ctx := le b 4 2 % 512
  peer := le b 6 1 == 1
  initiator := bit (le b 7 1) 0
  ipv4 := bit (le b 7 1) 1
  peerAddr := slice b 8 16
  peerPort := le b 0x18 2
  paths := le b 0x1A 1
  linkMask := le b 0x1C 2
  member := le b 0x1E 2
  peerId := slice b 0x20 64
  policer := parsePolicer (slice b 0x60 32)
  rings := (List.range 4).map (fun i => parseRingRec (slice b (0x80 + 64 * i) 64))

/-- Whether every value of a connection entry lies in range (Table 9.7, R154, R196). -/
def connEntryOk (b : Bytes) : Bool :=
  let kind := le b 6 1
  let flags := le b 7 1
  decide (1 ≤ le b 0 4) && decide (le b 0 4 < 2 ^ 24) && decide (le b 4 2 < 512) && decide (kind ≤ 1) &&
    decide (flags < 4) && !(kind == 0 && bit flags 0) && (!bit flags 1 || zeroAt b 8 12) &&
    decide (1 ≤ le b 0x1A 1) && decide (le b 0x1A 1 ≤ 64) && le b 0x1B 1 == 0 && le b 0x1C 2 != 0 &&
    (kind == 1 || le b 0x1E 2 == 0) && policerOk (slice b 0x60 32) &&
    (if kind = 1 then zeroAt b 0x80 256 else (List.range 4).all (fun i => ringRecOk (slice b (0x80 + 64 * i) 64)))

/-! ### Trail packets -/

/-- A Trail header with its extension (Tables 9.2 and 9.3); absent extension fields read 0. -/
structure Hdr where
  ver : Nat
  type : Nat
  isRelease : Bool
  retx : Bool
  phase : Bool
  dir : Bool
  reserved : Nat
  epoch : Nat
  conn : Nat
  path : Nat
  msg : Nat
  off : Nat
  len : Nat
  tx : Nat
  rkey : Nat
  addr : Nat
deriving DecidableEq, Repr

/-- Types of responses, and of control packets (Table 9.4). -/
def isResponseType (type : Nat) : Bool := type == 3 || type == 7
def isControlType (type : Nat) : Bool := [9, 10, 11].contains type

/-- Types that carry the address extension (Table 9.4). -/
def hasExt (type : Nat) : Bool := type == 1 || type == 2 || type == 5 || type == 6

/-- Request types (Table 9.4). -/
def isRequestType (type : Nat) : Bool := [1, 2, 4, 5, 6, 8].contains type

/-- Header fields in network byte order. -/
def parseHdr (b : Bytes) : Hdr where
  ver := be b 0 1 / 16
  type := be b 0 1 % 16
  isRelease := bit (be b 1 1) 7
  retx := bit (be b 1 1) 6
  phase := bit (be b 1 1) 5
  dir := bit (be b 1 1) 4
  reserved := be b 1 1 % 16
  epoch := be b 2 2
  conn := be b 4 3
  path := be b 7 1
  msg := be b 8 4
  off := be b 0x0C 4
  len := be b 0x10 4
  tx := be b 0x14 4
  rkey := if hasExt (be b 0 1 % 16) then be b 0x18 4 else 0
  addr := if hasExt (be b 0 1 % 16) then be b 0x1C 8 else 0

/-- The bytes of a header with its extension (Tables 9.2 and 9.3). -/
def encHdr (h : Hdr) : Bytes :=
  beBytes 1 (h.ver * 16 + h.type) ++
    beBytes 1 (b2n h.isRelease * 128 + b2n h.retx * 64 + b2n h.phase * 32 + b2n h.dir * 16 + h.reserved) ++ beBytes 2 h.epoch ++
    beBytes 3 h.conn ++ beBytes 1 h.path ++ beBytes 4 h.msg ++ beBytes 4 h.off ++ beBytes 4 h.len ++ beBytes 4 h.tx ++
    (if hasExt h.type then beBytes 4 h.rkey ++ beBytes 8 h.addr else [])

/-- The nonce of a packet (Table 9.6): DIR, RESP, CTL, CONN, MSG_ID, OFFSET. -/
def gcmNonce (h : Hdr) : Bytes :=
  beBytes 1 (b2n h.dir * 128 + b2n (isResponseType h.type) * 64 + b2n (isControlType h.type) * 32) ++ beBytes 3 h.conn ++
    beBytes 4 h.msg ++ beBytes 4 h.off

/-- The additional authenticated data: the header with its extension, PATH, RETX and TX_TIME set to 0 (R193). -/
def authData (hdr : Bytes) : Bytes :=
  hdr.zipIdx.map (fun x => if x.2 = 1 then x.1 &&& 0xBF else if x.2 = 7 || (0x14 ≤ x.2 && x.2 < 0x18) then 0 else x.1)

/-- A packet sealed under a key (R193). -/
def sealPkt (key : Nat) (h : Hdr) (payload : Bytes) : TrailPkt :=
  { hdr := encHdr h, key := key, nonce := gcmNonce h, aad := authData (encHdr h), payload := payload }

/-- The bytes that follow the UDP header: header, extension, cipher text and tag (R189). -/
def TrailPkt.bytes (p : TrailPkt) : Bytes := p.hdr ++ (if p.key = 0 then p.payload else Config.gcmSeal p.key p.nonce p.aad p.payload)

/-- Whether a received packet's nonce and authenticated data are those of its header: else no tag verifies (R193). -/
def pktClean (p : Pkt) : Bool := p.nonce == gcmNonce (parseHdr p.hdr) && p.aad == authData p.hdr

/-- Largest message, 4 MiB (Table 9.4). -/
def maxMessage : Nat := 4194304

/-- Payload size a packet must have (R191); READ_REQ carries none. -/
def payloadSize (h : Hdr) : Nat := if h.type = 2 then 0 else min 4096 (h.len - h.off)

/-- Whether OFFSET, LENGTH and the payload size agree with TYPE (R191, Table 9.4, R201, check 5 of Table 9.5). -/
def hdrConsistent (h : Hdr) (payload : Nat) : Bool :=
  h.reserved == 0 && h.off % 4096 == 0 && (h.off == 0 || decide (h.off < h.len)) && payload == payloadSize h &&
    (!h.isRelease || !isRequestType h.type || decide (h.len ≤ 4096) || h.type == 2) &&
    (match h.type with
     | 1 => decide (1 ≤ h.len) && decide (h.len ≤ maxMessage)
     | 2 => decide (1 ≤ h.len) && decide (h.len ≤ maxMessage) && h.off == 0
     | 3 => decide (1 ≤ h.len) && decide (h.len ≤ maxMessage)
     | 4 => decide (8 ≤ h.len) && decide (h.len ≤ maxMessage)
     | 5 => h.len == 8
     | 6 => h.len == 16
     | 7 => h.len == 8
     | 8 => h.len == 8
     | 9 => h.off == 0 && decide (16 ≤ h.len) && decide (h.len ≤ 16 + 32 + 384)
     | 10 => h.off == 0 && h.len == 32
     | 11 => h.off == 0 && h.len == 12
     | _ => false)

/-- A BELL payload (Table 8.3): ring, RESYNC, reserved bits, PI. -/
structure BellBody where
  ring : Nat
  resync : Bool
  reserved : Nat
  pi : Nat
deriving DecidableEq, Repr

/-- The fields of a BELL payload. -/
def parseBell (b : Bytes) : BellBody where
  ring := le b 0 8 % 4
  resync := bit (le b 0 8) 2
  reserved := bits (le b 0 8) 31 3
  pi := le b 4 4

/-- A SACK payload (Table 9.9). -/
structure SackBody where
  cum : Nat
  credits : Nat
  echoTime : Nat
  holdNs : Nat
  echoPath : Nat
  /-- PATH, CE, RCVD. -/
  paths : List (Nat × Nat × Nat)
  /-- MSG_ID, BASE, MAP. -/
  msgs : List (Nat × Nat × Nat)
deriving DecidableEq, Repr

/-- The fields of a SACK payload, network byte order. -/
def parseSack (b : Bytes) : SackBody where
  cum := be b 0 4
  credits := be b 4 2
  echoTime := be b 8 4
  holdNs := be b 0x0C 2
  echoPath := be b 0x0E 1
  paths := (List.range (be b 6 1)).map (fun i =>
    (be b (0x10 + 4 * i) 1, be b (0x11 + 4 * i) 1, be b (0x12 + 4 * i) 2))
  msgs := (List.range (be b 7 1)).map (fun i =>
    let o := 0x10 + 4 * be b 6 1 + 12 * i
    (be b o 4, be b (o + 4) 2, be b (o + 8) 4))

/-- Whether the reserved fields and counts of a SACK payload are right (Table 9.9). -/
def sackOk (b : Bytes) : Bool :=
  decide (be b 6 1 ≤ 8) && decide (be b 7 1 ≤ 32) && be b 0x0F 1 == 0 &&
    b.length == 16 + 4 * be b 6 1 + 12 * be b 7 1 &&
    (List.range (be b 7 1)).all (fun i => be b (0x10 + 4 * be b 6 1 + 12 * i + 6) 2 == 0)

/-- The bytes of a SACK payload. -/
def sackBytes (s : SackBody) : Bytes :=
  beBytes 4 s.cum ++ beBytes 2 s.credits ++ beBytes 1 s.paths.length ++ beBytes 1 s.msgs.length ++
    beBytes 4 s.echoTime ++ beBytes 2 s.holdNs ++ beBytes 1 s.echoPath ++ beBytes 1 0 ++
    s.paths.flatMap (fun p => beBytes 1 p.1 ++ beBytes 1 p.2.1 ++ beBytes 2 p.2.2) ++
    s.msgs.flatMap (fun m => beBytes 4 m.1 ++ beBytes 2 m.2.1 ++ beBytes 2 0 ++ beBytes 4 m.2.2)

/-- A NAK payload (Table 9.10). -/
def nakBytes (code newEpoch msg off hintPort : Nat) (hintAddr : Bytes) : Bytes :=
  beBytes 1 code ++ beBytes 1 0 ++ beBytes 2 newEpoch ++ beBytes 4 msg ++ beBytes 4 off ++ beBytes 2 hintPort ++
    beBytes 2 0 ++ padTo 16 hintAddr

/-- A POLICED payload (Table 9.11). -/
def policedBytes (cls bucket msg waitNs : Nat) : Bytes :=
  beBytes 1 cls ++ beBytes 1 bucket ++ beBytes 2 0 ++ beBytes 4 msg ++ beBytes 4 waitNs

/-- Whether the entries of a JOURNAL from an offset on have their reserved byte 0 (Table 13.6). -/
def journalReservedOk (b : Bytes) (o : Nat) : Nat → Bool
  | 0 => true
  | n + 1 => zeroAt b (o + 0x0F) 1 && journalReservedOk b (o + 32 + le b (o + 0x1C) 4) n

/-- Whether the reserved fields of a SEND body, or of its first bytes, are zero (R203, Tables 9.12, 13.3 to 13.6). -/
def sendReservedOk (b : Bytes) : Bool :=
  zeroAt b 2 6 && (match le b 0 2 with
    | 1 => zeroAt b 0x48 24
    | 2 => le b 0x11 1 &&& 0xFE == 0 && zeroAt b 0x12 2 && zeroAt b 0x98 8
    | 3 => zeroAt b 0x78 8
    | 4 => zeroAt b 0x0A 2 && journalReservedOk b 0x18 (min (le b 0x0C 4) (b.length / 32))
    | 5 => zeroAt b 0x13 1 && zeroAt b 0x18 16
    | 8 => zeroAt b 0x15 3
    | 9 => zeroAt b 0x15 3
    | _ => true)

/-- Whether the reserved fields of a control or SEND payload are zero (check 5 of Table 9.5). -/
def payloadReservedOk (h : Hdr) (b : Bytes) : Bool :=
  match h.type with
  | 8 => (parseBell b).reserved == 0
  | 9 => sackOk b
  | 10 => be b 1 1 == 0 && be b 0x0E 2 == 0
  | 11 => be b 2 2 == 0
  | 4 => h.off != 0 || sendReservedOk b
  | _ => true

/-! ### Profiles -/

/-- A context profile from its 256 bytes (Table 18.10). -/
def parseProfile (b : Bytes) : Profile where
  attn :=
    { layers := le b 0x00 2, kvheads := le b 0x02 1, group := le b 0x03 1, dk := le b 0x04 2, dv := le b 0x06 2
      latent := bit (le b 0x08 1) 0, causal := bit (le b 0x08 1) 1, outRotated := bit (le b 0x08 1) 2
      outBf16 := bit (le b 0x08 1) 3, geode := le b 0x09 1, sinks := le b 0x0A 2, window := le b 0x0C 4
      scale := BitVec.ofNat 32 (le b 0x10 4), biasBase := BitVec.ofNat 32 (le b 0x14 4)
      biasRatio := BitVec.ofNat 32 (le b 0x18 4), softcap := BitVec.ofNat 32 (le b 0x1C 4)
      qprojDin := le b 0x20 2, oprojDout := le b 0x22 2 }
  ladder :=
    { fresh := le b 0x40 1, fmts := [le b 0x41 1, le b 0x42 1, le b 0x43 1], floor := le b 0x44 1
      sr := bit (le b 0x45 1) 0, ages := [le b 0x48 4, le b 0x4C 4, le b 0x50 4], seed := BitVec.ofNat 64 (le b 0x58 8) }
  place :=
    { stripeMin := le b 0x60 4, tail := le b 0x64 1, tSram := le b 0x65 1, sramUs := le b 0x68 4, nearMs := le b 0x6C 4
      farS := le b 0x70 4, qNear := le b 0x78 8, qFar := le b 0x80 8, qHost := le b 0x88 8, qNode := le b 0x90 8
      xSize := le b 0x98 4, trackMin := le b 0x9C 2 }
  cls :=
    { c0Unit := le b 0xA0 2, c1Unit := le b 0xA2 2, c0Req := le b 0xA4 2, c0Rows := le b 0xA6 2, c1Req := le b 0xA8 2
      weights := [le b 0xAC 2, le b 0xAE 2, le b 0xB0 2, le b 0xB2 2], fMode := le b 0xC0 1, fJ := le b 0xC1 1
      cairn32 := bit (le b 0xC2 1) 0, trail := bit (le b 0xC2 1) 1, eLtolUs := le b 0xC4 4 }
  raw := b

/-- Whether the reserved bytes and bits of a profile record are zero (R367). -/
def profileReservedOk (b : Bytes) : Bool :=
  decide (le b 0x08 1 < 16) && zeroAt b 0x24 28 && decide (le b 0x45 1 < 2) && zeroAt b 0x46 2 && zeroAt b 0x54 4 &&
    zeroAt b 0x66 2 && zeroAt b 0x74 4 && zeroAt b 0x9E 2 && zeroAt b 0xAA 2 && zeroAt b 0xB4 12 &&
    decide (le b 0xC2 1 < 4) && zeroAt b 0xC3 1 && zeroAt b 0xC8 56

/-- A multiple of 64 from 64 to 576 (Table 3.1). -/
def dimOk (d : Nat) : Bool := decide (64 ≤ d) && decide (d ≤ 576) && d % 64 == 0

/-- Zero or such a multiple. -/
def projOk (d : Nat) : Bool := d == 0 || dimOk d

/-- An FP32 value of at least 0, read as a number: a subnormal is not flushed, and +∞ is in the range (Table 3.1;
DEDUCED, notes/assumptions/8.md). -/
def fNonNeg (x : F32) : Bool := !fIsNan x && (!bit x.toNat 31 || x == fZero true)

/-- Whether the attention section lies within Table 3.1. -/
def attnOk (a : AttnProfile) : Bool :=
  decide (1 ≤ a.layers) && decide (a.layers ≤ 4096) && decide (1 ≤ a.kvheads) && decide (a.kvheads ≤ 128) &&
    (!a.latent || a.kvheads == 1) && dimOk a.dk && dimOk a.dv && (if a.latent then decide (a.dv ≤ a.dk) else a.dv == a.dk) &&
    decide (1 ≤ a.group) && decide (a.group ≤ 64) && (a.scale == 0#32 || (!fNonFinite a.scale && fPositive a.scale)) &&
    decide (a.sinks ≤ 4096) && fNonNeg a.biasBase && fPositive a.biasRatio && fle a.biasRatio 0x3F800000#32 &&
    fNonNeg a.softcap && projOk a.qprojDin && projOk a.oprojDout && decide (a.geode ≤ 3)

/-- Whether the ladder section lies within Table 5.5. -/
def ladderRangeOk (l : LadderProfile) : Bool :=
  (l.fresh :: l.fmts).all fmtValid && fmtValid l.floor && l.ages.all (fun a => decide (a ≤ 2 ^ 25))

/-- Whether the ladder obeys R94: formats do not widen and are not tighter than the floor, ages of enabled rungs rise. -/
def ladderOk (l : LadderProfile) : Bool :=
  let fs := l.fresh :: l.fmts
  let ages := l.ages.filter (· != 0)
  fs.all (fun f => decide (l.floor ≤ f)) && (List.zipWith (fun a b => decide (b ≤ a)) fs l.fmts).all id &&
    (List.zipWith (fun a b => decide (a < b)) ages (ages.drop 1)).all id

/-- Whether the placement section lies within Table 7.3 and Table 18.10. -/
def placeOk (p : PlaceProfile) : Bool :=
  (p.stripeMin == 0 || (decide (2 ≤ p.stripeMin) && decide (p.stripeMin ≤ 2 ^ 25))) && decide (1 ≤ p.tail) &&
    decide (p.tail ≤ 64) && decide (p.tSram ≤ 64) && decide (10 ≤ p.sramUs) && decide (p.sramUs ≤ 1000000) &&
    decide (1 ≤ p.nearMs) && decide (p.nearMs ≤ 60000) && decide (1 ≤ p.farS) && decide (p.farS ≤ 86400) &&
    decide (p.nearMs < p.farS * 1000) && [p.qNear, p.qFar, p.qHost, p.qNode].all (fun q => decide (q ≤ 2 ^ 63)) &&
    decide (p.xSize ≤ 64 * 1048576) && p.xSize % 4096 == 0

/-- Whether the class, loss and integrity sections lie within Tables 10.2 and 13.7. -/
def classOk (c : ClassProfile) : Bool :=
  [c.c0Req, c.c0Rows, c.c1Req].all (fun n => decide (1 ≤ n) && decide (n ≤ 4096)) &&
    c.weights.all (fun w => decide (1 ≤ w)) && decide (c.fMode ≤ 2) && decide (1 ≤ c.fJ) && decide (c.fJ ≤ 64) && decide (1 ≤ c.eLtolUs)

/-- Size of a parcel (R141, R170): record, sketch and frame, rounded up to 64. -/
def parcelSize (a : AttnProfile) (fmt : Nat) : Nat :=
  ceilDiv (64 + 4 * a.dk + frameSize fmt (a.nk + a.nv)) 64 * 64

/-- The parcel of a page (R141): record, sketch, frame. -/
def parcelBytes (a : AttnProfile) (tag : Nat) (p : Page) : Bytes :=
  padTo (parcelSize a p.format) (p.record tag ++ padTo (4 * a.dk) p.sketch ++ p.pebbles.flatten)

/-- The exported form of a page's parcel: TAG, TIER and FRAME read 0 (R170). -/
def exportBytes (a : AttnProfile) (p : Page) : Bytes := parcelBytes a 0 { p with tier := 0, frame := 0 }

/-- Cut a byte string into pieces of one size. -/
def cutBytes (size : Nat) : Nat → Bytes → List Bytes
  | 0, _ => []
  | n + 1, b => b.take size :: cutBytes size n (b.drop size)

/-- A page read from a parcel (R141, Table 5.4); placement fields are the node's own. -/
def pageOfParcel (a : AttnProfile) (b : Bytes) : Page :=
  let f := le b 0x0B 1
  let fl := le b 0x0D 1
  { conv := le b 0 4, index := le b 4 4, layer := le b 8 2, head := le b 0x0A 1, format := f, fill := le b 0x0C 1
    isSealed := bit fl 0, shared := bit fl 1, sketchValid := bit fl 2, poisoned := bit fl 3, demotePending := bit fl 4
    refs := le b 0x10 4, tier := le b 0x14 1, rung := le b 0x15 1, frame := le b 0x18 8, digest := slice b 0x20 32
    leaf := slice b 0x20 32, pebbles := cutBytes (pebSize f) (128 * (a.nk + a.nv)) (b.drop (64 + 4 * a.dk))
    lo := (List.range a.dk).map (fun i => BitVec.ofNat 16 (le b (64 + 2 * i) 2))
    hi := (List.range a.dk).map (fun i => BitVec.ofNat 16 (le b (64 + 2 * a.dk + 2 * i) 2)), home := 0, recHome := 0
    recSlot := 0, slot := 0, pass := 0, passFmt := 0, bad := [], rebuilt := false }

/-! ### Composition messages -/

/-- A composition map (Table 13.1). -/
def parseCompMap (b : Bytes) : CompMap where
  epoch := le b 4 2
  compId := le b 8 4
  actTime := le b 0x10 8
  kernel := slice b 0x20 64
  nodes := (List.range (le b 6 2)).map (fun s => slice b (0x80 + 96 * s) 64)
  buddies := (List.range (le b 6 2)).map (fun s => le b (0xC0 + 96 * s) 2)

/-- Whether MAGIC, ranges and reserved fields of a map are valid and COMP_ID is not 0 (R282, check 1). -/
def compMapOk (b : Bytes) : Bool :=
  let n := le b 6 2
  le b 0 4 == 0x504D4F43 && decide (1 ≤ n) && decide (n ≤ 256) && le b 8 4 != 0 && zeroAt b 0x0C 4 && zeroAt b 0x18 8 &&
    zeroAt b 0x60 32 && b.length == 128 + 96 * n &&
    (List.range n).all (fun s =>
      zeroAt b (0xC2 + 96 * s) 30 && (le b (0xC0 + 96 * s) 2 == 0xFFFF || decide (le b (0xC0 + 96 * s) 2 < n)))

/-- A SUBREQ body (Table 13.4); offsets count from the SEND header. -/
structure SubBody where
  hreq : Nat
  nc : Nat
  pos : Nat
  cls : Nat
  homeSlot : Nat
  opcode : Nat
  flags : Nat
  conv : Nat
  layer : Nat
  kvhFirst : Nat
  kvhCount : Nat
  qgroup : Nat
  qpos : Nat
  modifier : Nat
  keyFirst : Nat
  keyEnd : Nat
  queryFirst : Nat
  queryCount : Nat
  skipTheta : Nat
  block : Nat
  length : Nat
  program : Bytes
  placement : Bytes
  rows : Bytes
deriving DecidableEq, Repr

/-- The fields of a SUBREQ. -/
def parseSub (b : Bytes) : SubBody where
  hreq := le b 0x08 4
  nc := le b 0x0C 2
  pos := le b 0x0E 1
  cls := le b 0x0F 1
  homeSlot := le b 0x10 2
  opcode := le b 0x12 1
  flags := le b 0x13 1
  conv := le b 0x14 4
  layer := le b 0x18 2
  kvhFirst := le b 0x1A 1
  kvhCount := le b 0x1B 1
  qgroup := le b 0x1C 1
  qpos := le b 0x1D 1
  modifier := le b 0x1E 2
  keyFirst := le b 0x20 8
  keyEnd := le b 0x28 8
  queryFirst := le b 0x30 8
  queryCount := le b 0x38 4
  skipTheta := le b 0x3C 2
  block := le b 0x3E 2
  length := le b 0x40 8
  program := slice b 0x60 64
  placement := slice b 0xA0 64
  rows := b.drop 0xE0

/-- The bytes of a SUBREQ after its 8-byte SEND header. -/
def subBytes (s : SubBody) : Bytes :=
  leBytes 4 s.hreq ++ leBytes 2 s.nc ++ leBytes 1 s.pos ++ leBytes 1 s.cls ++ leBytes 2 s.homeSlot ++
    leBytes 1 s.opcode ++ leBytes 1 s.flags ++ leBytes 4 s.conv ++ leBytes 2 s.layer ++ leBytes 1 s.kvhFirst ++
    leBytes 1 s.kvhCount ++ leBytes 1 s.qgroup ++ leBytes 1 s.qpos ++ leBytes 2 s.modifier ++ leBytes 8 s.keyFirst ++
    leBytes 8 s.keyEnd ++ leBytes 8 s.queryFirst ++ leBytes 4 s.queryCount ++ leBytes 2 s.skipTheta ++
    leBytes 2 s.block ++ leBytes 8 s.length ++ List.replicate 24 0 ++ padTo 64 s.program ++ padTo 64 s.placement ++ s.rows

def SubBody.skip (s : SubBody) : Bool := bit s.flags 3
def SubBody.relaxed (s : SubBody) : Bool := bit s.flags 5
def SubBody.assayHold (s : SubBody) : Bool := bit s.flags 4
def SubBody.backup (s : SubBody) : Bool := bit s.flags 7

/-- A PARTIAL body (Table 13.5). -/
structure PartBody where
  hreq : Nat
  pos : Nat
  block : Nat
  status : Nat
  flags : Nat
  rows : Nat
  cairn : Bytes
  digest : Bytes
  data : Bytes
deriving DecidableEq, Repr

/-- The fields of a PARTIAL. -/
def parsePart (b : Bytes) : PartBody where
  hreq := le b 0x08 4
  pos := le b 0x0C 2
  block := le b 0x0E 2
  status := le b 0x10 1
  flags := le b 0x11 1
  rows := le b 0x14 4
  cairn := slice b 0x18 64
  digest := slice b 0x58 64
  data := b.drop 0xA0

/-- The bytes of a PARTIAL after its SEND header. -/
def partBytes (p : PartBody) : Bytes :=
  leBytes 4 p.hreq ++ leBytes 2 p.pos ++ leBytes 2 p.block ++ leBytes 1 p.status ++ leBytes 1 p.flags ++ leBytes 2 0 ++
    leBytes 4 p.rows ++ padTo 64 p.cairn ++ padTo 64 p.digest ++ List.replicate 8 0 ++ p.data

/-- A LEAF body (Table 13.3). -/
structure LeafBody where
  hreq : Nat
  homeSlot : Nat
  block : Nat
  page : Nat
  head : Nat
  status : Nat
  rows : Nat
  leaf : Bytes
  digest : Bytes
  data : Bytes
deriving DecidableEq, Repr

/-- The fields of a LEAF. -/
def parseLeaf (b : Bytes) : LeafBody where
  hreq := le b 0x08 4
  homeSlot := le b 0x0C 2
  block := le b 0x0E 2
  page := le b 0x10 4
  head := le b 0x14 1
  status := le b 0x15 1
  rows := le b 0x16 2
  leaf := slice b 0x18 32
  digest := slice b 0x38 64
  data := b.drop 0x80

/-- The bytes of a LEAF after its SEND header. -/
def leafBytes (l : LeafBody) : Bytes :=
  leBytes 4 l.hreq ++ leBytes 2 l.homeSlot ++ leBytes 2 l.block ++ leBytes 4 l.page ++ leBytes 1 l.head ++
    leBytes 1 l.status ++ leBytes 2 l.rows ++ padTo 32 l.leaf ++ padTo 64 l.digest ++ List.replicate 8 0 ++ l.data

/-- A journal entry (Table 13.6). -/
structure JEntry where
  op : Nat
  head : Nat
  layer : Nat
  conv : Nat
  page : Nat
  first : Nat
  count : Nat
  rung : Nat
  arg : Nat
  arg2 : Nat
  data : Bytes
deriving DecidableEq, Repr

/-- The bytes of a journal entry. -/
def jentryBytes (e : JEntry) : Bytes :=
  leBytes 1 e.op ++ leBytes 1 e.head ++ leBytes 2 e.layer ++ leBytes 4 e.conv ++ leBytes 4 e.page ++ leBytes 1 e.first ++
    leBytes 1 e.count ++ leBytes 1 e.rung ++ leBytes 1 0 ++ leBytes 8 e.arg ++ leBytes 4 e.arg2 ++
    leBytes 4 e.data.length ++ e.data

/-- Journal entries of a message, at most `n`. -/
def parseJEntries : Nat → Bytes → List JEntry
  | 0, _ => []
  | n + 1, b =>
    { op := le b 0 1, head := le b 1 1, layer := le b 2 2, conv := le b 4 4, page := le b 8 4, first := le b 0x0C 1
      count := le b 0x0D 1, rung := le b 0x0E 1, arg := le b 0x10 8, arg2 := le b 0x18 4
      data := slice b 0x20 (le b 0x1C 4) } :: parseJEntries n (b.drop (32 + le b 0x1C 4))

/-- A JOURNAL body after the SEND header: slot, SEQ, entries. -/
def journalBytes (slot seq : Nat) (es : List Bytes) : Bytes :=
  leBytes 2 slot ++ leBytes 2 0 ++ leBytes 4 es.length ++ leBytes 8 seq ++ es.flatten

/-- A PAGE_OP body (Table 13.3): CONV, LAYER, KVHEAD, OP, PAGE, RUNG, LENGTH, and the DIGEST of a PAGE_OP_DONE. -/
structure PageOpBody where
  conv : Nat
  layer : Nat
  head : Nat
  op : Nat
  page : Nat
  rung : Nat
  length : Nat
  digest : Bytes
deriving DecidableEq, Repr

/-- The fields of a PAGE_OP or PAGE_OP_DONE. -/
def parsePageOp (b : Bytes) : PageOpBody where
  conv := le b 0x08 4
  layer := le b 0x0C 2
  head := le b 0x0E 1
  op := le b 0x0F 1
  page := le b 0x10 4
  rung := le b 0x14 1
  length := le b 0x18 8
  digest := slice b 0x20 32

/-- The bytes of a PAGE_OP after its SEND header. -/
def pageOpBytes (o : PageOpBody) : Bytes :=
  leBytes 4 o.conv ++ leBytes 2 o.layer ++ leBytes 1 o.head ++ leBytes 1 o.op ++ leBytes 4 o.page ++ leBytes 1 o.rung ++
    List.replicate 3 0 ++ leBytes 8 o.length ++ o.digest

end Sys2Proof.Machine
end

