-- ==== Sys2Proof/Machine/Send.lean ====
section
/-! DEFINITION. Time windows and sending on Trail: links and paths, egress gates, messages, control packets
(R24, R25, 02_tick.md; R191-R195, R199, R203, R208, 09_trail.md; R225-R227, 10_classes.md). -/
namespace Sys2Proof.Machine

/-! ### Connections and contexts -/

/-- The connection in a slot, when it has an entry. -/
def State.conn? (s : State) (slot : Nat) : Option Conn := mget s.conns slot

/-- Context of a connection slot. -/
def State.connCtx (s : State) (slot : Nat) : Nat := match s.conn? slot with
  | some c => c.entry.ctx
  | none => 0

/-- Change a connection. -/
def State.modConn (s : State) (slot : Nat) (f : Conn → Conn) : State := { s with conns := mmod s.conns slot f }

/-- A context that is not listed: state 0 (Table 11.2). -/
def Ctx.free : Ctx where
  phase := .free
  hdmRead := false
  tenant := []
  issuer := []
  creation := 0
  keyLoaded := false
  profile := none
  pendingProfile := none
  slopes := []
  fixed := none
  teardownAsked := none
  teardownAt := none
  degraded := false
  geodes := []
  programs := []
  pendingProgs := []
  xmem := []
  tccRelaxed := 0
  tccBackup := 0
  meters := []
  fprev := [0, 0, 0, 0]
  convs := []
  peers := []
  pages := []
  retiring := []

/-- A context. -/
def State.ctx (s : State) (c : Nat) : Ctx := (mget s.ctxs c).getD Ctx.free

/-- Put a context. -/
def State.setCtx (s : State) (c : Nat) (x : Ctx) : State := { s with ctxs := mset s.ctxs c x }

/-- Change a context. -/
def State.modCtx (s : State) (c : Nat) (f : Ctx → Ctx) : State := s.setCtx c (f (s.ctx c))

/-- Whether a context is in service: state 2 (Table 11.2); work runs until the teardown boundary (R247). -/
def State.inService (s : State) (c : Nat) : Bool := (s.ctx c).phase == .inService

/-- Whether a context takes connections and regions: in service and not teardown-pending (R196, R247). -/
def State.takesLoads (s : State) (c : Nat) : Bool := s.inService c && (s.ctx c).teardownAsked.isNone

/-! ### Program images in use -/

/-- Whether a request or a sub-request of a context still runs under an image of a slot (R80). -/
def State.imageUsed (s : State) (ctx slot : Nat) (im : ProgImage) : Bool :=
  s.reqs.any (fun r => r.ctx == ctx && r.desc.modifier == slot && r.image == some im) ||
    s.comp.subs.any (fun q => q.ctx == ctx && (parseSub q.body).modifier == slot && q.image == some im)

/-- Retiring images whose last request has completed go (R80). -/
def State.settleRetiring (s : State) : State :=
  { s with ctxs := mall s.ctxs (fun c x =>
      { x with programs := mall x.programs (fun n p => { p with retiring := p.retiring.filter (s.imageUsed c n) }) }) }

/-! ### Windows -/

/-- Usable tick in ps: the period minus 400 ns (02_tick.md, "Class windows"). -/
def usablePs (periodUs : Nat) : Nat := (periodUs * 1000 - 400) * 1000

/-- Nominal start of class window `c` in ps from the boundary (Table 2.1). -/
def windowStart (periodUs : Nat) (shares : List Nat) (c : Nat) : Nat :=
  400000 + usablePs periodUs * lsum (shares.take c) / 256

/-- Nominal end of class window `c` in ps from the boundary. -/
def windowEnd (periodUs : Nat) (shares : List Nat) (c : Nat) : Nat := windowStart periodUs shares (c + 1)

/-- Length of class window `c` in ps. -/
def windowLen (periodUs : Nat) (shares : List Nat) (c : Nat) : Nat :=
  windowEnd periodUs shares c - windowStart periodUs shares c

/-- Whether ticks run (TICK_BARRIER.RUNNING). -/
def State.running (s : State) : Bool := s.rd F.TICK_BARRIER.RUNNING == 1

/-- Number of a class. -/
def clsNum : Cls → Nat
  | .c0 => 0 | .c1 => 1 | .c2 => 2 | .c3 => 3

/-- Class of a number. -/
def clsOfNum (n : Nat) : Cls := if n = 0 then .c0 else if n = 1 then .c1 else if n = 2 then .c2 else .c3

/-! ### Links and paths -/

/-- A link that nothing has been said of. -/
def Link.down : Link where
  up := false
  paused := false
  rxFill := 0
  router := []
  neighbors := []
  mac := []
  busy := []

/-- A link's state. -/
def State.link (s : State) (l : Nat) : Link := (mget s.links l).getD Link.down

/-- Change a link. -/
def State.modLink (s : State) (l : Nat) (f : Link → Link) : State := { s with links := mset s.links l (f (s.link l)) }

/-- The list L of R208: links that are up and allowed by LINK_MASK, ascending. -/
def State.linkList (s : State) (e : ConnEntry) : List Nat :=
  (List.range 16).filter (fun l => bit e.linkMask l && (s.link l).up)

/-- The links of L that priority flow control does not pause (R188): those a frame can leave on now. -/
def State.openLinks (s : State) (e : ConnEntry) : List Nat := (s.linkList e).filter (fun l => !(s.link l).paused)

/-- The link a path leaves on: L[p mod |L|] (R208). -/
def pathLink (ls : List Nat) (p : Nat) : Nat := if ls.isEmpty then 0 else lget ls (p % ls.length) 0

/-- Rate of a link in Gb/s: 800, or 400 for a breakout link (R184). -/
def State.linkGbps (s : State) (l : Nat) : Nat := if s.lv F.NET_PCFG.MODE (l / 2) = 2 then 400 else 800

/-- The 802.1Q tag of a link's Trail frames, as its 16-bit field: with VLAN_EN, or as a priority tag with PFC_EN (R188, Table 9.15). -/
def State.vlanTag (s : State) (l : Nat) : Option Nat :=
  let vlan := s.lv F.NET_PCFG.VLAN_EN (l / 2) == 1
  if vlan || s.lv F.NET_PCFG.PFC_EN (l / 2) == 1 then
    some (s.lv F.NET_PCFG.PCP (l / 2) * 2 ^ 13 + (if vlan then s.lv F.NET_PCFG.VID (l / 2) else 0))
  else none

/-- Frame bytes of a packet: Ethernet, VLAN tag, IP, UDP, header, payload, tag, FCS (R187). -/
def State.frameBytes (s : State) (e : ConnEntry) (l type payload : Nat) : Nat :=
  14 + (if (s.vlanTag l).isSome then 4 else 0) + (if e.ipv4 then 20 else 40) + 8 +
    (if hasExt type then 36 else 24) + payload + 16 + 4

/-- Gate cost of a frame in ps (Table 2.2): 100 ns and the frame's bits at the link rate. -/
def gateCostPs (gbps bytes : Nat) : Nat := 100000 + ceilDiv (bytes * 8 * 1000) gbps

/-- The first start from `t` on at which a frame overlaps none of a gate's frames, which come in the order of their starts. -/
def firstGap (cost : Nat) : List GateSpan → Nat → Nat
  | [], t => t
  | x :: l, t => if t + cost ≤ x.start then t else firstGap cost l (max t x.stop)

/-- Boundary of the `j`-th tick from this one, in ps. -/
def State.tickStart (s : State) (j : Nat) : Nat :=
  if j = 0 then s.tick.last * 1000 else s.tick.next * 1000 + (j - 1) * s.tick.periodUs * 1000000

/-- Where placed frames of class `c` end in the `j`-th tick: the window less the control reserve of R227. -/
def State.gateStop (s : State) (c j : Nat) : Nat :=
  s.tickStart j + windowEnd s.tick.periodUs s.tick.shares c - windowLen s.tick.periodUs s.tick.shares c / 32

/-- Where the window of class `c` opens on the gate of a link in the `j`-th tick: at its nominal start, or in the tick in progress once the
frames of earlier classes have gone, when none of them is still planned (R25). -/
def State.windowOpen (s : State) (l : Nat) (busy : List GateSpan) (c j : Nat) : Nat :=
  let nominal := s.tickStart j + windowStart s.tick.periodUs s.tick.shares c
  if j = 0 && !s.itin.gates.any (fun g => g.link == l && decide (clsNum g.cls < c)) then
    min nominal (busy.foldl (fun m x => if x.cls < c then max m x.stop else m) (s.tickStart 0 + 400000))
  else nominal

/-- The start of a frame of class `c` on the gate of a link with the frames `busy`, from the `j`-th tick on: in its window, or the same
window of a later tick (R225); a gate takes 512 frames a tick (R23). -/
def State.windowSlot (s : State) (l : Nat) (busy : List GateSpan) (c cost from_ j : Nat) : Nat → Nat
  | 0 => firstGap cost busy (max from_ (s.tickStart j + windowStart s.tick.periodUs s.tick.shares c))
  | fuel + 1 =>
    let b := s.tickStart j
    let t := firstGap cost busy (max from_ (s.windowOpen l busy c j))
    let n := (busy.filter (fun x => decide (x.cls < 4) && decide (b ≤ x.start) && decide (x.start < s.tickStart (j + 1)))).length
    if t + cost ≤ s.gateStop c j && n < 512 then t else s.windowSlot l busy c cost from_ (j + 1) fuel

/-- Whether a frame goes out at once, outside the class windows: a read of descriptors or operands (R28, R158, Tables 1.3, 2.4, 10.5), or a
ring status word, which may not wait for a later tick (R155). -/
def TxKind.atOnce : TxKind → Bool
  | .fetch _ => true
  | .operand _ _ => true
  | .ringStatus _ => true
  | _ => false

/-- The start of a data frame on the gate of a link with the frames `busy`. -/
def State.gateStart (s : State) (l : Nat) (busy : List GateSpan) (atOnce : Bool) (c cost from_ : Nat) : Nat :=
  if atOnce || !s.running then firstGap cost busy from_ else s.windowSlot l busy c cost from_ 0 64

/-- Put a frame on a gate. -/
def Link.take (k : Link) (x : GateSpan) : Link := { k with busy := lsort GateSpan.start (k.busy ++ [x]) }

/-- The end of the frame a gate is sending at a time, or that time. -/
def frameEnd (busy : List GateSpan) (t : Nat) : Nat := busy.foldl (fun t x => if x.start < t && t < x.stop then x.stop else t) t

/-- Frames that a control packet holds up until `t`, later by what each loses (R227). -/
def pushBack : Nat → List GateSpan → List GateSpan
  | _, [] => []
  | t, x :: l => { x with start := x.start + (t - x.start), stop := x.stop + (t - x.start) } :: pushBack (x.stop + (t - x.start)) l

/-- A frame that is not placed goes out between frames, from `t` on; the frames it meets start after it (R227). -/
def Link.between (k : Link) (t cost : Nat) : Nat × Link :=
  let start := frameEnd k.busy t
  let after := pushBack (start + cost) (k.busy.filter (fun x => start ≤ x.start))
  (start, { k with busy := k.busy.filter (fun x => x.start < start) ++ [⟨start, start + cost, 4, none⟩] ++ after })

/-- Remove the first element that satisfies a predicate. -/
def dropFirst {α : Type} (p : α → Bool) : List α → List α
  | [] => []
  | a :: l => if p a then l else a :: dropFirst p l

/-- A frame the planner had counted has gone out: it is placed no longer (R25, R222). -/
def State.gateSent (s : State) (l ctx cls : Nat) : State :=
  { s with itin := { s.itin with gates := dropFirst (fun g => g.link == l && g.ctx == ctx && clsNum g.cls == cls) s.itin.gates } }

/-- The link of the earliest planned end, the lowest winning a tie (R225). -/
def bestOf (cost : Nat → Nat) : List Nat → Option Nat
  | [] => none
  | l :: ls =>
    match bestOf cost ls with
    | none => some l
    | some m => if cost l ≤ cost m then some l else some m

/-- A path at connection set-up (R209). -/
def PathState.init (s : State) : PathState where
  rate := fOfNat (s.lv F.NET_CC.INIT_GBPS)
  ai := s.lv F.NET_CC.AI_GBPS
  clean := 0
  srtt := 0
  rttvar := 0
  base := []
  lastRtt := 0
  lastCut := 0
  expiries := 0
  suspendedUntil := none
  nextSend := 0
  rcvd := 0
  ce := 0

/-- State of path `p` of a connection. -/
def Conn.path (c : Conn) (p : Nat) : PathState := lget c.tx.paths p
  ⟨0, 0, 0, 0, 0, [], 0, 0, 0, none, 0, 0, 0⟩

/-- Whether a path is suspended now (R206). -/
def pathSuspended (now : Nat) (p : PathState) : Bool :=
  match p.suspendedUntil with
  | none => false
  | some u => decide (now < u)

/-- Of the paths that leave on a link, the one whose next send time is earliest, not suspended and not `avoid` if any is (R206, R208). -/
def State.pathOn (s : State) (c : Conn) (l : Nat) (avoid : Option Nat) : Nat :=
  let ls := s.linkList c.entry
  let ps := (List.range c.entry.paths).filter (fun p => pathLink ls p == l)
  let ok := ps.filter (fun p => !pathSuspended s.now (c.path p))
  let ok := if ok.isEmpty then ps else ok
  let other := ok.filter (fun p => some p != avoid)
  (bestOf (fun p => (c.path p).nextSend) (if other.isEmpty then ok else other)).getD 0

/-- The paths whose link a frame can leave on now. -/
def State.openPaths (s : State) (c : Conn) : List Nat :=
  let ls := s.linkList c.entry
  let free := s.openLinks c.entry
  (List.range c.entry.paths).filter (fun p => free.contains (pathLink ls p))

/-- Pacing time in ns of a frame at a path's rate (R209). -/
def paceNs (rate : F32) (bytes : Nat) : Nat := (fFloor (fdiv (fOfNat (bytes * 8)) rate)).toNat + 1

/-- Change a path of a connection. -/
def Conn.modPath (c : Conn) (p : Nat) (f : PathState → PathState) : Conn :=
  { c with tx := { c.tx with paths := c.tx.paths.zipIdx.map (fun x => if x.2 = p then f x.1 else x.1) } }

/-- Add to a meter of a context's newest set (R302). -/
def State.meter (s : State) (ctx idx n : Nat) : State :=
  s.modCtx ctx (fun x => match x.meters with
    | [] => x
    | m :: ms => { x with meters := { m with counts := lset m.counts idx ((lget m.counts idx 0 + n) % 2 ^ 64) } :: ms })

/-- Entries the trace buffer of 8 MiB holds (R328, Table 18.14). -/
def traceDepth : Nat := 524288

/-- A trace in progress takes an entry while it has room and ticks left (R328). -/
def State.traceAdd (s : State) (e : TraceEntry) : State :=
  if s.dbg.traceArmed && decide (s.dbg.trace.length < traceDepth) then { s with dbg := { s.dbg with trace := s.dbg.trace ++ [e] } } else s

/-- Kind this model gives an egress frame in a trace. -/
def traceFrame : Nat := 16

/-- What a frame is, as the planner sees it: whether it goes at once, TYPE, payload bytes, class. -/
structure FrameKind where
  atOnce : Bool
  type : Nat
  payload : Nat
  cls : Nat
deriving DecidableEq, Repr

/-- A link, a path and a node time in ns. -/
structure Way where
  link : Nat
  path : Nat
  at_ : Nat
deriving DecidableEq, Repr

/-- Gate cost of a frame in ps on a link. -/
def State.frameCost (s : State) (e : ConnEntry) (l : Nat) (k : FrameKind) : Nat :=
  gateCostPs (s.linkGbps l) (s.frameBytes e l k.type k.payload)

/-- Frames of a gate that the tick in progress or a later one sends. -/
def State.gateFrames (s : State) (l : Nat) : List GateSpan := (s.link l).busy.filter (fun x => decide (s.tick.last * 1000 ≤ x.stop))

/-- A frame leaves on a path of a link at `start` ps: metered, paced, traced. -/
def State.frameLeaves (s : State) (slot : Nat) (c : Conn) (l p start : Nat) (k : FrameKind) : State :=
  let n := s.frameBytes c.entry l k.type k.payload
  let e : TraceEntry :=
    ⟨traceFrame, c.entry.ctx, .gate l, k.cls, start, start / 1000, (start + s.frameCost c.entry l k) / 1000, false, false⟩
  ((s.meter c.entry.ctx 3 n).modConn slot (fun c => c.modPath p (fun q =>
    { q with nextSend := start / 1000 + paceNs q.rate n }))).traceAdd e

/-- Place a frame on the gate of a link and on a path of it (R225). -/
def State.placeOn (s : State) (slot : Nat) (c : Conn) (l p : Nat) (k : FrameKind) (resp : Option (Nat × TxWait)) : Way × State :=
  let cost := s.frameCost c.entry l k
  let start := s.gateStart l (s.gateFrames l) k.atOnce k.cls cost (max s.now (c.path p).nextSend * 1000)
  let s1 := (s.gateSent l c.entry.ctx k.cls).modLink l (fun q =>
    ({ q with busy := s.gateFrames l } : Link).take ⟨start, start + cost, if k.atOnce then 4 else k.cls, resp⟩)
  (⟨l, p, start / 1000⟩, s1.frameLeaves slot c l p start k)

/-- Place a frame on the gate where its planned end is earliest and on a path of that link (R208, R225); a retransmission keeps off the
link and the path its packet was lost on, where there are others (R206, R208). -/
def State.placeFrame (s : State) (slot : Nat) (c : Conn) (k : FrameKind) (avoid : Option (Nat × Nat)) (resp : Option (Nat × TxWait)) :
    Way × State :=
  let cand := s.openLinks c.entry
  let other := cand.filter (fun l => some l != avoid.map Prod.fst)
  let cand := if other.isEmpty then cand else other
  let end_ (l : Nat) : Nat := s.gateStart l (s.gateFrames l) k.atOnce k.cls (s.frameCost c.entry l k) (s.now * 1000) + s.frameCost c.entry l k
  let l := (bestOf end_ cand).getD 0
  s.placeOn slot c l (s.pathOn c l (avoid.map Prod.snd)) k resp

/-- Send a frame that is not placed: control packets, ATOMIC_RESP, handshakes (R208, R227). -/
def State.sendBetween (s : State) (slot : Nat) (c : Conn) (l p : Nat) (k : FrameKind) : Way × State :=
  let (start, q) := ({ s.link l with busy := s.gateFrames l } : Link).between (max s.now (c.path p).nextSend * 1000) (s.frameCost c.entry l k)
  (⟨l, p, start / 1000⟩, (s.modLink l (fun _ => q)).frameLeaves slot c l p start k)

/-! ### Packets on the wire -/

/-- The header of a packet under a connection's current key and the current epoch (Table 9.2, R215). -/
def State.txHdr (s : State) (c : Conn) (w : Way) (type msg off len : Nat) : Hdr :=
  { ver := 1, type := type, isRelease := false, retx := false, phase := c.keys.phase, dir := !c.entry.initiator, reserved := 0
    epoch := s.comp.epoch, conn := c.entry.conn, path := w.path, msg := msg % 2 ^ 32, off := off, len := len
    tx := w.at_ % 2 ^ 32, rkey := 0, addr := 0 }

/-- The MAC address a frame goes to: that of the peer where the link knows it as a neighbour, else that of the default router; over IPv4
that of the gateway (R184, Table 9.16). None: not resolved (notes/assumptions/41.md). -/
def State.dstMac (s : State) (e : ConnEntry) (l : Nat) : Option Bytes :=
  let k := s.link l
  let mac (a : Bytes) : Option Bytes := (k.neighbors.find? (fun n => n.1 == a)).map Prod.snd
  if e.ipv4 then mac (beBytes 4 (s.lv F.NET_LIP4.GATEWAY l)) else (mac e.peerAddr).orElse (fun _ => mac k.router)

/-- Hand a packet to the wire: addresses, ports, DSCP with ECT(0), tag (R184, R186, R188). -/
def State.putFrame (s : State) (e : ConnEntry) (w : Way) (p : TrailPkt) : State :=
  let l := w.link
  s.emit (.frame
    { link := l, sentAt := w.at_, srcMac := (s.link l).mac, dstMac := s.dstMac e l, tag := s.vlanTag l, ipv4 := e.ipv4
      src := if e.ipv4 then beBytes 4 (s.lv F.NET_LIP4.ADDR l) else beBytes 8 (s.lv F.NET_LIP6H.ADDR l) ++ beBytes 8 (s.lv F.NET_LIP6L.ADDR l)
      dst := if e.ipv4 then slice e.peerAddr 12 4 else e.peerAddr
      tos := s.lv F.NET_UDP.DSCP * 4 + 2, sport := s.lv F.NET_UDP.SPORT_BASE + w.path, dport := e.peerPort, pkt := p })

/-- Keep a packet until a link opens. -/
def State.awaitLink (s : State) (slot : Nat) (w : TxWait) : State :=
  s.modConn slot (fun c => { c with tx := { c.tx with waiting := c.tx.waiting ++ [w] } })

/-! ### Messages -/

/-- Packets of a message (R191). -/
def packetCount (len : Nat) : Nat := ceilDiv len 4096

/-- A message to send: TYPE, what it is for, target, length, bytes, RELEASE, class. -/
structure TxMsg where
  type : Nat
  kind : TxKind
  rkey : Nat
  addr : Nat
  len : Nat
  data : Bytes
  isRelease : Bool
  cls : Nat
deriving DecidableEq, Repr

/-- Whether a message is a control-kind SEND, or a peer-kind SEND (R203). -/
def TxKind.isControl : TxKind → Bool
  | .control _ => true
  | _ => false

def TxKind.isPeer : TxKind → Bool
  | .peer _ => true
  | _ => false

/-- Messages of a kind sent and not yet acknowledged, other than `msg`. -/
def Conn.outstanding (c : Conn) (p : TxKind → Bool) (msg : Nat) : Nat :=
  ((c.tx.pkts.filter (fun k => !k.held && p k.kind && k.msg != msg)).map TxPkt.msg).eraseDups.length

/-- Whether credits hold a message back: SEND credits for peer kinds, four outstanding control kinds (R203). -/
def Conn.creditHeld (c : Conn) (k : TxKind) (msg : Nat) : Bool :=
  (k.isPeer && decide (c.tx.credits ≤ c.outstanding TxKind.isPeer msg)) ||
    (k.isControl && decide (4 ≤ c.outstanding TxKind.isControl msg))

/-- Whether a message must wait: message window, a POLICED wait, SEND credits, no link open (R188, R199, R203, R207). -/
def State.mustHold (s : State) (c : Conn) (kind : TxKind) (msg cls : Nat) : Bool :=
  decide (1024 ≤ msg - c.tx.cum) || decide (s.now < (mget c.tx.waitUntil cls).getD 0) || c.creditHeld kind msg || (s.openLinks c.entry).isEmpty

/-- Change a packet of the transmit buffer. -/
def State.modPkt (s : State) (slot msg off : Nat) (f : TxPkt → TxPkt) : State :=
  s.modConn slot (fun c => { c with tx := { c.tx with pkts := lmod c.tx.pkts (fun k => k.msg == msg && k.off == off) f } })

/-- A packet sent once more: sealed as before under the same key, again under a new one (R194, R195, step 5). -/
def TxPkt.sent (k : TxPkt) (c : Conn) (epoch : Nat) (w : Way) : TxPkt :=
  let k1 := if k.count = 0 || k.key != c.keys.key then { k with key := c.keys.key, phase := c.keys.phase, epoch := epoch } else k
  { k1 with path := w.path, link := w.link, sentAt := w.at_, count := k.count + 1, order := c.tx.order, lost := false, passed := 0
            held := false, notBefore := 0 }

/-- The packet as it goes out: RETX from the second transmission on. -/
def TxPkt.wire (k : TxPkt) (c : Conn) : TrailPkt :=
  sealPkt k.key { ver := 1, type := k.type, isRelease := k.isRelease, retx := decide (1 < k.count), phase := k.phase
                  dir := !c.entry.initiator, reserved := 0, epoch := k.epoch, conn := c.entry.conn, path := k.path
                  msg := k.msg % 2 ^ 32, off := k.off, len := k.len, tx := k.sentAt % 2 ^ 32, rkey := k.rkey, addr := k.addr } k.data

/-- Transmit a packet of the buffer the way it has been placed. -/
def State.transmit (s : State) (slot : Nat) (c : Conn) (k : TxPkt) (w : Way) : State :=
  let q := k.sent c s.comp.epoch w
  ((s.modPkt slot k.msg k.off (fun _ => q)).modConn slot (fun c => { c with tx := { c.tx with order := c.tx.order + 1 } })).putFrame
    c.entry w (q.wire c)

/-- The frame of a packet of the buffer; class 4 is for what goes outside the class windows, such as the flush of a hold (R309). -/
def TxPkt.frame (k : TxPkt) : FrameKind := ⟨k.kind.atOnce || decide (4 ≤ k.cls), k.type, k.data.length, k.cls⟩

/-- Send the packets of a message from the `i`-th on. -/
def State.sendPackets (s : State) (slot msg : Nat) (m : TxMsg) (hold : Bool) (i : Nat) : Nat → State
  | 0 => s
  | n + 1 =>
    match s.conn? slot with
    | none => s
    | some c =>
      let off := i * 4096
      let size := if m.type = 2 then 0 else min 4096 (m.len - off)
      let pkt : TxPkt :=
        { msg := msg, off := off, type := m.type, len := m.len, isRelease := m.isRelease, kind := m.kind, path := 0
          link := 0, sentAt := s.now, count := 0, order := c.tx.order, data := slice m.data off size
          lost := false, passed := 0, cls := m.cls, rkey := m.rkey, addr := m.addr, held := true
          epoch := 0, key := 0, phase := false, notBefore := 0 }
      let s1 := s.modConn slot (fun c => { c with tx := { c.tx with pkts := c.tx.pkts ++ [pkt] } })
      let s2 := if hold then s1 else let (w, s3) := s1.placeFrame slot c pkt.frame none none
        s3.transmit slot c pkt w
      s2.sendPackets slot msg m hold (i + 1) n

/-- Send a request message on a connection: it takes the next MSG_ID; its packets go to the transmit buffer
(R191, R194, R199). Answers the MSG_ID. -/
def State.sendMsg (s : State) (slot : Nat) (m : TxMsg) : Nat × State :=
  match s.conn? slot with
  | none => (0, s)
  | some c =>
    let msg := c.tx.nextMsg
    let hold := s.mustHold c m.kind msg m.cls
    let n := if m.type = 2 then 1 else packetCount m.len
    let s1 := s.modConn slot (fun c => { c with
      tx := { c.tx with nextMsg := msg + 1
                        progressAt := if c.tx.pkts.isEmpty then s.now else c.tx.progressAt }
      keys := { c.keys with sentMsgs := c.keys.sentMsgs + 1 } })
    let s2 := s1.sendPackets slot msg m hold 0 n
    let s3 := if hold then s2 else s2.emit (.message slot m.type msg m.rkey m.addr m.len)
    (msg, s3)

/-- Send a SEND with its 8-byte body header (R203). -/
def State.sendSend (s : State) (slot : Nat) (kind : TxKind) (code : Nat) (body : Bytes) (cls : Nat) : State :=
  let b := leBytes 2 code ++ List.replicate 6 0 ++ body
  let (_, s1) := s.sendMsg slot ⟨4, kind, 0, 0, b.length, b, false, cls⟩
  s1.emit (.send slot code body)

/-- Send a control packet with a fresh control sequence number, OFFSET 0 and LENGTH its payload size (R191, R194, R227): a SACK on the
path with the lowest smoothed RTT (R205), any other on the path with the earliest next send time (R208). -/
def State.sendControl (s : State) (slot type : Nat) (body : Bytes) : State :=
  match s.conn? slot with
  | none => s
  | some c =>
    match bestOf (fun p => if type = 9 then (c.path p).srtt else (c.path p).nextSend) (s.openPaths c) with
    | none => s.awaitLink slot (.control type body)
    | some p =>
      let (w, s1) := s.sendBetween slot c (pathLink (s.linkList c.entry) p) p ⟨true, type, body.length, 4⟩
      let s2 := s1.modConn slot (fun c => { c with tx := { c.tx with nextCtl := c.tx.nextCtl + 1 }
                                                   keys := { c.keys with sentCtls := c.keys.sentCtls + 1 } })
      (s2.putFrame c.entry w (sealPkt c.keys.key (s.txHdr c w type c.tx.nextCtl 0 body.length) body)).emit (.control slot type p body)

/-- Send an ATOMIC_RESP on its path, not placed (R208, R213, R227). -/
def State.sendAtomicResp (s : State) (slot path : Nat) (p : TrailPkt) : State :=
  match s.conn? slot with
  | none => s
  | some c =>
    if (s.openPaths c).contains path then
      let (w, s1) := s.sendBetween slot c (pathLink (s.linkList c.entry) path) path ⟨true, 7, p.payload.length, 4⟩
      s1.putFrame c.entry w p
    else s.awaitLink slot (.atomicResp path p)

/-- Send one READ_RESP packet: placed like a data frame, not kept for repair (R202, R225). -/
def State.sendReadResp (s : State) (slot msg off len : Nat) (payload : Bytes) (notBefore : Nat) : State :=
  match s.conn? slot with
  | none => s
  | some c =>
    let wait (n : Nat) : TxWait := .readResp msg off len payload n
    if (s.openLinks c.entry).isEmpty || s.now < notBefore then s.awaitLink slot (wait notBefore)
    else
      let (w, s1) := s.placeFrame slot c ⟨false, 3, payload.length, c.entry.policer.defClass⟩ none (some (slot, wait 0))
      s1.putFrame c.entry w (sealPkt c.keys.key (s.txHdr c w 3 msg off len) payload)

/-- Send a handshake message: a SEND on CONN 0 without a tag (R197); its MSG_ID is free. -/
def State.sendHandshake (s : State) (slot : Nat) (b : Bytes) : State :=
  match s.conn? slot with
  | none => s
  | some c =>
    match bestOf (fun p => (c.path p).nextSend) (s.openPaths c) with
    | none => s.awaitLink slot (.handshake b)
    | some p =>
      let (w, s1) := s.sendBetween slot c (pathLink (s.linkList c.entry) p) p ⟨true, 4, b.length, 4⟩
      let h : Hdr := { s.txHdr c w 4 (Config.handshakeMsg c.entry.conn (le b 0 2)) 0 b.length with conn := 0, phase := false }
      (s1.putFrame c.entry w { sealPkt 0 h b with nonce := [], aad := [] }).emit (.handshake slot b)

/-- Send what waits on a connection for a link, in order; what still has none waits on. -/
def State.sendWaiting (s : State) (slot : Nat) : State :=
  match s.conn? slot with
  | none => s
  | some c =>
    c.tx.waiting.foldl (fun s w => match w with
      | .control type body => s.sendControl slot type body
      | .atomicResp path p => s.sendAtomicResp slot path p
      | .readResp msg off len b n => s.sendReadResp slot msg off len b n
      | .handshake b => s.sendHandshake slot b) (s.modConn slot (fun c => { c with tx := { c.tx with waiting := [] } }))

/-- Send a packet held back, when nothing holds its message any longer. -/
def State.releaseHeldOne (s : State) (slot : Nat) (k : TxPkt) : State :=
  match s.conn? slot with
  | none => s
  | some c =>
    if s.mustHold c k.kind k.msg k.cls || s.now < k.notBefore then s
    else
      let (w, s1) := s.placeFrame slot c k.frame (if k.count = 0 then none else some (k.link, k.path)) none
      let s2 := s1.transmit slot c k w
      if k.off = 0 && k.count = 0 then s2.emit (.message slot k.type k.msg k.rkey k.addr k.len) else s2

/-- Send what was held and may now go, in order. -/
def State.releaseHeld (s : State) (slot : Nat) : State :=
  match s.conn? slot with
  | none => s
  | some c => (c.tx.pkts.filter (·.held)).foldl (fun s k => s.releaseHeldOne slot k) (s.sendWaiting slot)

/-! ### Reading and writing requester memory -/

/-- Advertised regions: whether a right covers a range (R204). RIGHTS bit 0: the node may read; bit 1: write. -/
def Conn.regionCovers (c : Conn) (rkey addr len right : Nat) : Bool :=
  c.regions.any (fun r => r.rkey == rkey && bit r.rights right && decide (r.addr ≤ addr) &&
    decide (addr + len ≤ r.addr + r.len))

/-- Split a transfer into messages of at most 4 MiB (R191). -/
def chunkList (addr : Nat) (len : Nat) : List (Nat × Nat) :=
  (List.range (ceilDiv len maxMessage)).map (fun i => (addr + i * maxMessage, min maxMessage (len - i * maxMessage)))

/-- Write bytes to a requester: WRITE messages on a connection, or control-host memory over CXL (R159, R175). -/
def State.writeOut (s : State) (d : Dest) (kind : TxKind) (rkey addr cls : Nat) (data : Bytes) (rel : Bool) : State :=
  match d with
  | .host => s
  | .partner slot =>
    (chunkList addr data.length).foldl (fun s x =>
      (s.sendMsg slot ⟨1, kind, rkey, x.1, x.2, slice data (x.1 - addr) x.2, rel, cls⟩).2) s

/-- Write results, then they are on their way before any later status word (R175). -/
def State.writeResult (s : State) (d : Dest) (req rkey addr cls : Nat) (data : Bytes) : State :=
  (s.writeOut d (.result req) rkey addr cls data false).emit (.result d addr data)

/-- Path that carries a message's packet in the transmit buffer. -/
def Conn.pathOf (c : Conn) (msg : Nat) : Nat := match c.tx.pkts.find? (fun k => k.msg == msg) with
  | some k => k.path
  | none => 0

/-- Issue a read of requester memory: a READ_REQ on a connection (R202), or a CXL read. -/
def State.readIn (s : State) (d : Dest) (kind : TxKind) (rkey addr len cls : Nat) : State :=
  match d with
  | .host => s.emit (.hostRead addr len)
  | .partner slot =>
    (chunkList addr len).foldl (fun s x =>
      let (msg, s1) := s.sendMsg slot ⟨2, kind, rkey, x.1, x.2, [], false, cls⟩
      s1.modConn slot (fun c => { c with tx := { c.tx with reads := c.tx.reads ++
        [{ msg := msg, addr := x.1, rkey := rkey, len := x.2, kind := kind, base := x.1 - addr, got := [], tries := 1
           path := c.pathOf msg, lastAt := s.now }] } })) s

end Sys2Proof.Machine
end

