-- ==== Sys2Proof/Machine/Requests.lean ====
section
/-! DEFINITION. Rings and tracked requests: status words, ring status words, completion, the completion cache,
cancellation and fetching (08_rings.md, R153-R183). -/
namespace Sys2Proof.Machine

/-! ### Rings -/

/-- A ring nothing is known of: disabled (Table 8.2). -/
def RingState.off : RingState := ⟨0, 0, 0, 3, 0, 0, [], [], [], 0⟩

/-- A ring record that describes no ring. -/
def RingRec.none : RingRec := ⟨true, 0, 0, 6, 3, false, 0, 0⟩

/-- State of a ring. -/
def State.ring (s : State) : RingRef → RingState
  | .partner slot i => match s.conn? slot with
    | some c => lget c.rings i RingState.off
    | none => RingState.off
  | .localRing n => match mget s.locals n with
    | some l => l.ring
    | none => RingState.off

/-- Change a ring's state. -/
def State.modRing (s : State) (r : RingRef) (f : RingState → RingState) : State :=
  match r with
  | .partner slot i => s.modConn slot (fun c => { c with rings := lset c.rings i (f (lget c.rings i RingState.off)) })
  | .localRing n =>
    let l : LocalRing := (mget s.locals n).getD ⟨RingState.off, ⟨0, none, []⟩⟩
    { s with locals := mset s.locals n { l with ring := f l.ring } }

/-- Duplicate window of a ring's connection, or of a local ring (R179). -/
def State.dedup (s : State) : RingRef → Dedup
  | .partner slot _ => match s.conn? slot with
    | some c => c.dedup
    | none => ⟨0, none, []⟩
  | .localRing n => match mget s.locals n with
    | some l => l.dedup
    | none => ⟨0, none, []⟩

/-- Change a duplicate window. -/
def State.modDedup (s : State) (r : RingRef) (f : Dedup → Dedup) : State :=
  match r with
  | .partner slot _ => s.modConn slot (fun c => { c with dedup := f c.dedup })
  | .localRing n => { s with locals := mmod s.locals n (fun l => { l with dedup := f l.dedup }) }

/-- What a ring is configured as: base, region key, log2 of the size, class, context, enabled, status word address
and key (Table 8.1; Tables 8.13 to 8.15 for a local ring). -/
structure RingConf where
  addr : Nat
  rkey : Nat
  log2 : Nat
  cls : Nat
  ctx : Nat
  en : Bool
  rswAddr : Nat
  rswRkey : Nat
deriving DecidableEq, Repr

/-- The configuration of a ring. -/
def State.ringConf (s : State) : RingRef → RingConf
  | .partner slot i => match s.conn? slot with
    | some c =>
      let r := lget c.entry.rings i RingRec.none
      ⟨r.addr, r.rkey, r.log2, r.cls, c.entry.ctx, !r.absent && r.en, r.rswAddr, r.rswRkey⟩
    | none => ⟨0, 0, 6, 3, 0, false, 0, 0⟩
  | .localRing n =>
    ⟨s.rd F.RING_LBASE.ADDR n * 64, 0, s.rd F.RING_LCTL.LOG2_SIZE n, s.rd F.RING_LCTL.CLASS n, s.rd F.RING_LCTL.CTX n,
     s.rd F.RING_LCTL.EN n == 1, s.rd F.RING_LRSW.ADDR n * 8, 0⟩

/-- Where a ring's writes go. -/
def ringDest : RingRef → Dest
  | .partner slot _ => .partner slot
  | .localRing _ => .host

/-- Number of the ring within its connection. -/
def ringIndex : RingRef → Nat
  | .partner _ i => i
  | .localRing n => n

/-- Whether two ring references are on one connection, or both local. -/
def sameOrigin : RingRef → RingRef → Bool
  | .partner a _, .partner b _ => a == b
  | .localRing _, .localRing _ => true
  | _, _ => false

/-- The ring status word (Table 8.2). -/
def ringStatusWord (r : RingState) : Word :=
  BitVec.ofNat 64 (r.consumer % 2 ^ 32 + r.rstate * 2 ^ 32 + r.lastCode * 2 ^ 40 + min r.lastCount 4095 * 2 ^ 52)

/-- Whether the node's words may go out: not isolated (R293), and not before its connection is open. -/
def State.mayWrite (s : State) (r : RingRef) : Bool :=
  !s.comp.isolated &&
    (match r with
     | .partner slot _ => match s.conn? slot with
       | some c => c.state == 3
       | none => false
     | .localRing _ => true)

/-- Write a ring's status word (R155). -/
def State.writeRingStatus (s : State) (r : RingRef) : State :=
  let c := s.ringConf r
  if !s.mayWrite r then s
  else
    let w := ringStatusWord (s.ring r)
    (s.writeOut (ringDest r) (.ringStatus (ringIndex r)) c.rswRkey c.rswAddr c.cls (leBytes 8 w.toNat) true).emit
      (.ringStatus (ringDest r) c.rswAddr w)

/-- Put a ring into a halted or other RSTATE; the change is reported (R155). -/
def State.setRstate (s : State) (r : RingRef) (st : Nat) : State :=
  if (s.ring r).rstate = st then s
  else (s.modRing r (fun x => { x with rstate := st })).writeRingStatus r

/-- Record a descriptor or status word that got no status word (R162). -/
def State.lastCode (s : State) (r : RingRef) (code : Nat) : State :=
  (s.modRing r (fun x => { x with lastCode := code, lastCount := satAdd x.lastCount 1 4095 })).writeRingStatus r

/-! ### Requests -/

/-- Index and sequence of a tracked request as records and SUBREQs name it (Tables 12.5, 13.4). -/
def Req.hreq (r : Req) : Nat := r.id + r.seq % 65536 * 65536

/-- What an error record says of a request (Table 12.5). -/
def State.reqInfo (s : State) (r : Req) : ErrInfo :=
  { ctx := some r.ctx, opcode := r.desc.opcode, cls := clsNum r.cls, req := r.hreq
    conn := match r.ring with
      | .partner slot _ => (match s.conn? slot with | some c => c.entry.conn | none => 0)
      | .localRing _ => 0 }

/-- A tracked request by its index. -/
def State.req? (s : State) (id : Nat) : Option Req := s.reqs.find? (fun r => r.id == id)

/-- Change a tracked request. -/
def State.modReq (s : State) (id : Nat) (f : Req → Req) : State := { s with reqs := lmod s.reqs (fun r => r.id == id) f }

/-- The status word (Table 8.7). -/
def statusWord (st code tag progress : Nat) : Word :=
  BitVec.ofNat 64 (st * 2 ^ 60 + code * 2 ^ 48 + tag % 2 ^ 16 * 2 ^ 32 + progress % 2 ^ 32)

/-- Write a status word for a request (R174, R175): a release write after every result. -/
def State.status (s : State) (r : Req) (st code progress : Nat) : State :=
  if r.silent || !s.mayWrite r.ring then s
  else
    let w := statusWord st code r.desc.tag progress
    (s.writeOut (ringDest r.ring) (.status r.order code (ringIndex r.ring)) r.desc.resultRkey r.desc.statusAddr (clsNum r.cls)
      (leBytes 8 w.toNat) true).emit (.status (ringDest r.ring) r.desc.statusAddr w)

/-- Serial distance (H - t) mod 2^16 (R179). -/
def tagDelta (h t : Nat) : Nat := (h + 65536 - t % 65536) % 65536

/-- Put a final status word into the completion cache, which keeps the TAGs from H - 1,023 to H (R179). -/
def State.cacheFinal (s : State) (r : Req) (w : Word) : State :=
  s.modDedup r.ring (fun d => if r.order < d.since then d else
    { d with cache := (d.cache.filter (fun e => match d.horizon with
        | some h => decide (tagDelta h e.1 < 1024)
        | none => true)) ++ [(r.desc.tag, r.raw, w)] })

/-- The query block a task belongs to. -/
def TaskKind.block? : TaskKind → Option Nat
  | .project b _ _ _ => some b
  | .rotate b _ _ _ => some b
  | .page b _ _ _ _ _ _ => some b
  | .bound b _ _ _ _ => some b
  | .merge b _ _ _ _ _ _ _ => some b
  | .unproject b _ _ => some b
  | .output b _ => some b
  | .continuation b _ _ => some b
  | .append _ _ _ _ => none
  | .trees _ _ => none
  | .demote _ _ _ => none
  | .assay _ => none
  | .move _ => none
  | .scrub _ => none
  | .seal _ => none

/-- Key of the housekeeping work of R32, which serves no request. -/
def hkKey : Nat := 2 ^ 32

/-- Housekeeping comes up: a C3 task of a context that competes for its place at the next boundary (R32, R217). -/
def State.housekeep (s : State) (ctx : Nat) (k : TaskKind) : State :=
  let t : Task :=
    { id := s.itin.nextTask, req := some hkKey, ctx := ctx, kind := k, cls := .c3, costPs := 0, planPs := 0, cycles := 0, allowPs := 0
      carried := false, displaced := false, returned := false, reserved := false, startedAt := none, paced := 0, paceAt := none, due := 0
      state := none }
  { s with itin := { s.itin with waiting := s.itin.waiting ++ [t], nextTask := s.itin.nextTask + 1 } }

/-- Slots reserved for peers that sub-requests and forwarded leaves hold (R182). -/
def State.peerPlaces (s : State) : Nat :=
  s.comp.subs.length + lsum (s.comp.subs.map (fun q => q.leaves.length)) + lsum (s.reqs.map (fun r => r.leaves.length))

/-- Whether a housekeeping task of a kind is still to run; a node that has no ticks runs it as it comes (R32, R38). -/
def State.hkDue (s : State) (k : TaskKind) : Bool :=
  let hit (t : Task) : Bool := t.req == some hkKey && t.kind == k
  s.running && (s.itin.units.any (fun u => u.2.running.any hit || u.2.placed.any hit || u.2.carry.any hit) || s.itin.waiting.any hit)

/-- Remove a request's tasks from the itinerary and the waiting queues. -/
def State.dropTasks (s : State) (p : Task → Bool) : State :=
  { s with itin := { s.itin with
      units := s.itin.units.map (fun u => (u.1, { running := u.2.running.filter (fun t => !p t)
                                                  placed := u.2.placed.filter (fun t => !p t)
                                                  carry := u.2.carry.filter (fun t => !p t) }))
      waiting := s.itin.waiting.filter (fun t => !p t) } }

/-- Drop a request's saved engine states and query sets. -/
def State.dropEngineState (s : State) (id : Nat) : State :=
  { s with engines := mall s.engines (fun _ e => { e with querySets := e.querySets.filter (fun q => q.key != id) }) }

/-- Held assays go with what they hold (R278). -/
def State.dropHeldAssays (s : State) (key : Nat) : State :=
  { s with health := { s.health with assays := s.health.assays.filter (fun a => !(a.held && a.req == key && a.mismatch.isNone)) } }

/-- HEALTH_ASSAY.PENDING: C3 re-executions pending (R277). -/
def State.countAssays (s : State) : State :=
  s.wr F.HEALTH_ASSAY.PENDING (s.health.assays.filter (fun a => !a.held && a.mismatch.isNone)).length

/-- Whether a held re-execution on a page is still to finish (R277). -/
def State.assayOn (s : State) (ctx page : Nat) : Bool :=
  s.health.assays.any (fun a => a.held && a.ctx == ctx && a.page == page && a.mismatch.isNone)

/-- Abandon the pending C3 re-executions on a page whose pebbles change (R277). -/
def State.abandonAssays (s : State) (ctx page : Nat) : State :=
  let hit (a : Assay) : Bool := !a.held && a.ctx == ctx && a.page == page && a.mismatch.isNone
  let gone := s.health.assays.filter hit
  let s1 := s.dropTasks (fun t => match t.kind with | .assay id => gone.any (fun a => a.id == id) | _ => false)
  (({ s1 with health := { s1.health with assays := s1.health.assays.filter (fun a => !hit a) } } : State).bump
    F.HEALTH_ASSAY_STAT.ABANDONED gone.length).countAssays

/-- End a request's life: slot and place are free once the final word has been sent (R182). -/
def State.removeReq (s : State) (id : Nat) : State :=
  ((({ (s.dropTasks (fun t => t.req == some id)) with reqs := s.reqs.filter (fun r => r.id != id) }).dropEngineState id).dropHeldAssays
    id).settleRetiring

/-- The final status word of a request (R174): written, cached, slot freed. -/
def State.finish (s : State) (id st code progress : Nat) : State :=
  match s.req? id with
  | none => s
  | some r =>
    let s1 := s.status r st code progress
    let s2 := if r.silent then s1 else s1.cacheFinal r (statusWord st code r.desc.tag progress)
    s2.removeReq id

/-- Codes of Table 8.10. -/
def cReservedField : Nat := 0x001
def cOpcode : Nat := 0x002
def cContext : Nat := 0x003
def cAlign : Nat := 0x004
def cRegionKey : Nat := 0x005
def cResultBounds : Nat := 0x006
def cRegionRevoked : Nat := 0x007
def cShape : Nat := 0x010
def cPosition : Nat := 0x011
def cNormalizeSpan : Nat := 0x012
def cSkipModifier : Nat := 0x013
def cQueryValue : Nat := 0x014
def cScoreRange : Nat := 0x015
def cKvValue : Nat := 0x016
def cModifier : Nat := 0x017
def cModifierMismatch : Nat := 0x018
def cPlacementMismatch : Nat := 0x019
def cNoConv : Nat := 0x020
def cConvExists : Nat := 0x021
def cNotSealed : Nat := 0x022
def cImportFormat : Nat := 0x023
def cHintOp : Nat := 0x024
def cTagConflict : Nat := 0x025
def cQuota : Nat := 0x030
def cPinned : Nat := 0x031
def cTierFull : Nat := 0x032
def cTierUnavailable : Nat := 0x033
def cPageCorrupt : Nat := 0x040
def cUnitFault : Nat := 0x041
def cAssayMismatch : Nat := 0x042
def cTruncated : Nat := 0x050
def cPeerFailed : Nat := 0x051
def cDupExpired : Nat := 0x060
def cCancelled : Nat := 0x070
def cReleased : Nat := 0x071
def cTeardown : Nat := 0x072

/-- Head key of a layer and KV head. -/
def headKey (layer head : Nat) : Nat := layer * 128 + head

/-- Head keys a descriptor names (one layer). -/
def Desc.heads (d : Desc) : List Nat := (span d.kvhFirst (d.kvhFirst + d.kvhCount)).map (headKey d.layer)

/-- Length of a head. -/
def Conv.len (c : Conv) (hk : Nat) : Nat := (mget c.lens hk).getD 0

/-- Expected length of a head (R164). -/
def Conv.expLen (c : Conv) (hk : Nat) : Nat := (mget c.expected hk).getD (c.len hk)

/-- A conversation of a context. -/
def State.conv? (s : State) (ctx conv : Nat) : Option Conv := mget (s.ctx ctx).convs conv

/-- Change a conversation. -/
def State.modConv (s : State) (ctx conv : Nat) (f : Conv → Conv) : State :=
  s.modCtx ctx (fun x => { x with convs := mmod x.convs conv f })

/-- Whether two APPENDs name a common head. -/
def overlapHeads (a b : Desc) : Bool := a.conv == b.conv && a.heads.any (fun h => b.heads.contains h)

/-- End the requests of a list of indices with one outcome. -/
def State.finishAll (s : State) (ids : List Nat) (st code progress : Nat) : State :=
  ids.foldl (fun s i => s.finish i st code progress) s

/-- Undo the creation of a conversation whose creating request failed: it is removed with its pages, and the requests
admitted against it end with NO_CONV (R164). -/
def State.uncreate (s : State) (r : Req) : State :=
  match s.conv? r.ctx r.desc.conv with
  | none => s
  | some c =>
    if c.creator != some r.id then s
    else
      let others := (s.reqs.filter (fun q => q.ctx == r.ctx && q.desc.conv == r.desc.conv && q.admittedAt.isSome &&
        !q.effectDone && q.id != r.id)).map Req.id
      (s.modCtx r.ctx (fun x => { x with convs := mdel x.convs r.desc.conv })).finishAll others 5 cNoConv 0

/-- Whether an attention request has its positions below a length (R42, R60). -/
def Desc.positionsFit (d : Desc) (n : Nat) : Bool :=
  if d.opcode = 1 then decide (d.qpos ≤ n) else decide (d.tokenFirst + d.tokenSpan ≤ n)

/-- Whether a task reads a page that begins at or past a length. -/
def TaskKind.pastEnd (n : Nat) : TaskKind → Bool
  | .page _ _ i _ _ _ _ => decide (n ≤ 128 * i)
  | .bound _ _ i _ _ => decide (n ≤ 128 * i)
  | _ => false

/-- An admitted attention request whose N counts an APPEND that failed: N is the length without it (R42, R164); where its heads then differ
or its positions lie beyond it, the request ends with POSITION (R163). -/
def State.recount (s : State) (f : Req) (id : Nat) : State :=
  match s.req? id with
  | none => s
  | some q =>
    if !q.desc.isAttend || q.admittedAt.isNone || q.effectDone || q.ctx != f.ctx || !overlapHeads q.desc f.desc ||
        q.n < f.desc.tokenFirst + f.desc.tokenSpan then s
    else if q.desc.heads.all f.desc.heads.contains && q.desc.positionsFit f.desc.tokenFirst then
      (s.dropTasks (fun t => t.req == some id && t.kind.pastEnd f.desc.tokenFirst)).modReq id (fun q => { q with n := f.desc.tokenFirst })
    else s.finish id 5 cPosition q.progress

/-- Whether an APPEND that has not written was admitted after `f` on one of its heads, whatever its ring (R164). -/
def followsAppend (f q : Req) : Bool :=
  q.id != f.id && q.ctx == f.ctx && q.desc.opcode == 3 && !q.effectDone && overlapHeads f.desc q.desc &&
    (match f.admittedAt, q.admittedAt with
     | some a, some b => decide (a < b) || (a == b && decide (f.order < q.order))
     | _, _ => false)

/-- The APPENDs that fail with those of a list, which they follow one after the other (R164). -/
def laterAppends (reqs : List Req) : Nat → List Req → List Req
  | 0, _ => []
  | n + 1, fs =>
    let more := reqs.filter (fun q => fs.any (fun f => followsAppend f q) && !fs.any (fun f => f.id == q.id))
    if more.isEmpty then [] else more ++ laterAppends reqs n (fs ++ more)

/-- End a request with an error. An APPEND that fails leaves the expected lengths as they were before it, takes the
later admitted APPENDs of its heads with it (POSITION), and a creating request takes its conversation away (R164); attention requests
that counted any of them count them no more (R42). -/
def State.failReq (s : State) (id code progress : Nat) : State :=
  match s.req? id with
  | none => s
  | some r =>
    let s1 := s.finish id 5 code progress
    if r.admittedAt.isNone then s1
    else if r.desc.opcode != 3 then s1.uncreate r
    else
      let gone := laterAppends s1.reqs s1.reqs.length [r]
      let later := gone.map Req.id
      let s2 := s1.modConv r.ctx r.desc.conv (fun c =>
        { c with expected := (r :: gone).foldl (fun m f => f.desc.heads.foldl (fun m h =>
            mset m h (min ((mget m h).getD (c.len h)) f.desc.tokenFirst)) m) c.expected })
      let s3 := (s2.finishAll later 5 cPosition 0).uncreate r
      (r :: gone).foldl (fun s f => (s.reqs.map Req.id).foldl (fun s i => s.recount f i) s) s3

/-- Requests of a connection when it closes (R178): the admitted run on without status words, the others are
discarded without effect. -/
def State.silenceConn (s : State) (slot : Nat) : State :=
  let mine (r : Req) : Bool := match r.ring with
    | .partner a _ => a == slot
    | .localRing _ => false
  { s with reqs := (s.reqs.filter (fun r => !(mine r && r.admittedAt.isNone))).map (fun r =>
      if mine r then { r with silent := true } else r) }

/-- TEARDOWN for every tracked request of a context whose connection is open (R178, R248); PROGRESS does not fall (R174). -/
def State.teardownRequests (s : State) (ctx : Nat) : State :=
  (s.reqs.filter (fun r => r.ctx == ctx)).foldl (fun s r => s.finish r.id 6 cTeardown (max r.progress r.reported)) s

/-! ### Fetching -/

/-- Descriptors of a ring whose fetch has been issued and that have not been passed on: a fetch loses an entry as it is passed. -/
def RingState.inFlight (r : RingState) : Nat := lsum (r.fetches.map Fetch.count)

/-- All rings the node may fetch from. -/
def State.allRings (s : State) : List RingRef :=
  (s.conns.flatMap (fun c => (List.range 4).map (fun i =>
    RingRef.partner c.1 ((c.2.nextRing + i) % 4)))) ++ (List.range 16).map RingRef.localRing

/-- Whether a ring belongs to a context. -/
def State.ringOf (s : State) (ctx : Nat) (r : RingRef) : Bool := (s.ringConf r).ctx == ctx

/-- Tracked-request slots a context uses or has reserved (R158, R182). -/
def State.ctxTracked (s : State) (ctx : Nat) : Nat :=
  (s.reqs.filter (fun r => r.ctx == ctx)).length +
    lsum ((s.allRings.filter (s.ringOf ctx)).map (fun r => (s.ring r).inFlight))

/-- TRACK_MIN of a context. -/
def Ctx.trackMin (x : Ctx) : Nat := match x.profile with
  | some p => p.place.trackMin
  | none => 0

/-- Slots a context may still take: its guarantee, then the shared pool (R182). -/
def State.trackBudget (s : State) (ctx : Nat) : Nat :=
  let used := s.ctxTracked ctx
  let min_ := (s.ctx ctx).trackMin
  let pool := 57344 - lsum (s.ctxs.map (fun c => c.2.trackMin))
  let taken := lsum (s.ctxs.map (fun c => s.ctxTracked c.1 - c.2.trackMin))
  (min_ - used) + (pool - taken)

/-- Places of a connection still free of its 256 (Table 8.11). -/
def State.connBudget (s : State) (slot : Nat) : Nat :=
  let used := (s.reqs.filter (fun r => match r.ring with | .partner a _ => a == slot | .localRing _ => false)).length +
    lsum ((List.range 4).map (fun i => (s.ring (.partner slot i)).inFlight))
  let ops := match s.conn? slot with
    | some c => if c.entry.policer.mode = 0 then 256 else c.rx.otok / 1000000
    | none => 0
  min (256 - used) ops

/-- Entries the node may fetch from a ring now. -/
def State.ringBudget (s : State) (r : RingRef) : Nat :=
  match r with
  | .partner slot _ => min (s.connBudget slot) (s.trackBudget (s.ringConf r).ctx)
  | .localRing _ => s.trackBudget (s.ringConf r).ctx

/-- Whether a ring may be fetched: the node is RUNNING (R334), the ring enabled, active, on an open connection. -/
def State.fetchable (s : State) (r : RingRef) : Bool :=
  s.running && (s.ringConf r).en && (s.ring r).rstate == 0 &&
    (match r with
     | .partner slot _ => match s.conn? slot with
       | some c => c.state == 3
       | none => false
     | .localRing _ => true)

/-- Entries the next descriptor read of a ring covers: at most 32, up to the wrap point, those for which places are free (R158). -/
def State.fetchCount (s : State) (r : RingRef) : Nat :=
  let x := s.ring r
  let avail := (x.pi + 2 ^ 32 - x.issued) % 2 ^ 32
  let size := 2 ^ (s.ringConf r).log2
  if s.fetchable r then min (min 32 avail) (min (size - x.issued % size) (s.ringBudget r)) else 0

/-- Issue one descriptor read (R158). -/
def State.fetchOne (s : State) (r : RingRef) : State :=
  let c := s.ringConf r
  let x := s.ring r
  let size := 2 ^ c.log2
  let n := s.fetchCount r
  if n = 0 then s
  else
    let addr := c.addr + x.issued % size * 64
    let msg := match r with
      | .partner slot _ => match s.conn? slot with
        | some c => c.tx.nextMsg
        | none => 0
      | .localRing _ => 0
    let s1 := s.readIn (ringDest r) (.fetch (ringIndex r)) c.rkey addr (n * 64) c.cls
    let s2 := s1.modRing r (fun y => { y with issued := (x.issued + n) % 2 ^ 32, fetches := y.fetches ++ [⟨x.issued, n, msg⟩] })
    match r with
    | .partner slot i => s2.modConn slot (fun c =>
        { c with nextRing := (i + 1) % 4
                 rx := if c.entry.policer.mode = 0 then c.rx else { c.rx with otok := c.rx.otok - n * 1000000 } })
    | .localRing _ => s2

/-- Fetch from each ring in turn until nothing may be fetched. -/
def State.fetchRounds (s : State) (rs : List RingRef) : Nat → State
  | 0 => s
  | n + 1 => if rs.all (fun r => s.fetchCount r == 0) then s else (rs.foldl (fun s r => s.fetchOne r) s).fetchRounds rs n

/-- Issue the descriptor reads that may go: all those of C0 rings of the node, then the others (R158). No more than the 65,536 tracked
requests can be fetched at once (R182). -/
def State.issueFetches (s : State) : State :=
  let rs := s.allRings.filter s.fetchable
  let c0 := rs.filter (fun r => (s.ringConf r).cls == 0)
  let rest := rs.filter (fun r => (s.ringConf r).cls != 0)
  (s.fetchRounds c0 65536).fetchRounds rest 65536

/-- A BELL or doorbell on a ring (R157): stale, overrun, resync, or recorded. `mark` is a yellow packet (R231), `epoch`
the epoch it carries (R216). -/
def State.ringBell (s : State) (r : RingRef) (pi : Nat) (resync mark : Bool) (epoch : Nat) : State :=
  let x := s.ring r
  let size := 2 ^ (s.ringConf r).log2
  if x.rstate = 3 then s
  else if x.rstate != 0 then
    if resync && pi == x.consumer then
      (s.modRing r (fun y => { y with pi := x.consumer, issued := x.consumer, fetches := [], ready := [] })).setRstate r 0
    else s
  else
    let d := (pi + 2 ^ 32 - x.pi % 2 ^ 32) % 2 ^ 32
    if d = 0 || 2 ^ 31 ≤ d then s
    else if size < (pi + 2 ^ 32 - x.consumer % 2 ^ 32) % 2 ^ 32 then (s.bump F.RING_EVENTS.BAD_BELL).setRstate r 1
    else (s.modRing r (fun y => { y with pi := pi, bells := y.bells ++ [(pi, mark, epoch)] })).issueFetches

end Sys2Proof.Machine
end

