-- ==== Sys2Proof/Machine/Place.lean ====
section
/-! DEFINITION. Pages and their places: slots of the composition, stripes, page numbers and page maps, preferred
channels, target tiers, quotas, the moves of a page (07_tiers_placement.md, R121-R140). -/
namespace Sys2Proof.Machine

/-! ### Composition -/

/-- N_c of the current map; 1 before the first (R281). -/
def State.nc (s : State) : Nat := match s.comp.current with
  | some m => m.nodes.length
  | none => 1

/-- Whether this node holds a slot of a map. -/
def CompMap.holds (m : CompMap) (identity : Bytes) (slot : Nat) : Bool := lget m.nodes slot [] == identity

/-- Whether this node holds a slot of the current composition. -/
def State.ownsSlot (s : State) (slot : Nat) : Bool := match s.comp.current with
  | some m => m.holds s.sec.identity slot
  | none => slot == 0

/-- Slots this node holds, ascending. -/
def State.ownSlots (s : State) : List Nat := (List.range s.nc).filter s.ownsSlot

/-- The lowest slot this node holds: the home of the conversations it creates (notes/assumptions/20.md). -/
def State.mainSlot (s : State) : Nat := s.ownSlots.headD 0

/-- The open peer connection of a context to the node that holds a slot (R282, R284). -/
def State.peerConn (s : State) (ctx slot : Nat) : Option Nat :=
  let node := match s.comp.current with
    | some m => lget m.nodes slot []
    | none => []
  (s.conns.find? (fun c => c.2.entry.peer && c.2.entry.ctx == ctx && c.2.state == 3 && c.2.entry.peerId == node)).map Prod.fst

/-- The map a request or sub-request of an epoch runs under: its own numbering when a later map changed it (R284). -/
def State.mapOf (s : State) (epoch : Nat) : Option CompMap :=
  match s.comp.current, s.comp.previous with
  | some m, some q => if epoch == s.comp.epoch || (q.compId == m.compId && q.nodes.length == m.nodes.length) then some m else some q
  | some m, none => if epoch == s.comp.epoch then some m else none
  | none, _ => none

/-- Whether this node holds a slot in the numbering of an epoch. -/
def State.ownsAt (s : State) (epoch slot : Nat) : Bool := match s.mapOf epoch with
  | some m => m.holds s.sec.identity slot
  | none => slot == 0

/-- The open peer connection of a context to a node. -/
def State.nodeConn (s : State) (ctx : Nat) (node : Bytes) : Option Nat :=
  (s.conns.find? (fun c => c.2.entry.peer && c.2.entry.ctx == ctx && c.2.state == 3 && c.2.entry.peerId == node)).map Prod.fst

/-- The open peer connection to the node that holds a slot in the numbering of an epoch. -/
def State.connAt (s : State) (epoch ctx slot : Nat) : Option Nat := match s.mapOf epoch with
  | some m => s.nodeConn ctx (lget m.nodes slot [])
  | none => none

/-! ### Pages -/

/-- Key of a page in a page map: head key and page index (R125). -/
def pageKey (hk index : Nat) : Nat := hk * 2 ^ 25 + index

/-- Pages of a head of a given length. -/
def pagesOf (len : Nat) : Nat := ceilDiv len 128

/-- stripe_pos (R126). -/
def stripePos (p n nc : Nat) (pl : PlaceProfile) : Nat :=
  if nc = 1 || pl.stripeMin = 0 || n ≤ pl.stripeMin then 0
  else if n ≤ p + pl.tail then 0
  else p % nc

/-- Whether a conversation of n pages a head is striped. -/
def striped (n nc : Nat) (pl : PlaceProfile) : Bool := nc != 1 && pl.stripeMin != 0 && decide (pl.stripeMin < n)

/-- Member index of a stripe position: (h + s) mod N_c (R126). -/
def memberOf (home pos nc : Nat) : Nat := if nc = 0 then 0 else (home + pos) % nc

/-- A page held by a context. -/
def Ctx.page (x : Ctx) (n : Nat) : Option Page := mget x.pages n

/-- Change a page. -/
def State.modPage (s : State) (ctx n : Nat) (f : Page → Page) : State :=
  s.modCtx ctx (fun x => { x with pages := mmod x.pages n f })

/-- Lowest free page number: neither in use nor retiring (R124). -/
def Ctx.freePage (x : Ctx) : Option Nat :=
  (List.range (x.pages.length + x.retiring.length + 1)).find? (fun n => !mhas x.pages n && !x.retiring.contains n && decide (n < 2 ^ 31))

/-- The page a page-map entry names, when this node holds it. -/
def Ctx.entryPage (x : Ctx) (own : Nat → Bool) (e : PageEntry) : Option Page :=
  if own e.member then mget x.pages e.page else none

/-- Page-map entry of a page that a slot of this node holds under a local number (R125). -/
def entryOf (slot num : Nat) (pg : Page) : PageEntry := ⟨slot, num, pg.leaf, pg.poisoned, false, pg.rung, pg.format, pg.shared, false⟩

/-- Page entry of a head and index. -/
def Conv.entry (c : Conv) (hk i : Nat) : Option PageEntry := mget c.pageMap (pageKey hk i)

/-- Page entries of a head, ascending, below an index. -/
def Conv.headEntries (c : Conv) (hk n : Nat) : List (Nat × PageEntry) :=
  (c.pageMap.filter (fun e => decide (pageKey hk 0 ≤ e.1) && decide (e.1 < pageKey hk n))).map (fun e => (e.1 - pageKey hk 0, e.2))

/-- Local number of a page by what its record says: what a member that is not the home keeps (R125). -/
def Ctx.findPage (x : Ctx) (conv layer head index : Nat) : Option Nat :=
  (x.pages.find? (fun p => p.2.conv == conv && p.2.layer == layer && p.2.head == head && p.2.index == index)).map Prod.fst

/-- Where a page lies. -/
def Page.spot (p : Page) : Spot := ⟨p.tier, p.home, p.frame, p.recHome, p.recSlot⟩

/-- A page with another place. -/
def Page.put (p : Page) (x : Spot) : Page :=
  { p with tier := x.tier, home := x.home, frame := x.frame, recHome := x.recHome, recSlot := x.recSlot, rebuilt := p.rebuilt && x.tier == 2 }

/-- A conversation that this node knows, homed here or elsewhere (R125). -/
def Ctx.conv? (x : Ctx) (conv : Nat) : Option Conv := (mget x.convs conv).or (mget x.peers conv)

/-- The preferred unit of a page among `units` (R129). -/
def preferred (units conv layer head index kvheads w : Nat) : Nat :=
  (index / w * kvheads + head + (conv * 61 + layer * 29) % units) % units

/-- Note that the logical-space content of a page changed (R148). -/
def State.touch (s : State) (ctx page : Nat) : State :=
  { s with tier := { s.tier with changed := if s.tier.changed.contains (ctx, page) then s.tier.changed else s.tier.changed ++ [(ctx, page)] } }

/-- A conversation homed elsewhere, as this member first hears of it (R125). -/
def Conv.remote (home : Nat) : Conv where
  lens := []
  expected := []
  pageMap := []
  lastAttend := 0
  pinned := false
  parked := false
  truncated := none
  creator := none
  releasing := false
  unserved := none
  placed := 1
  hot := 0
  home := home

/-- Change what this member keeps of a conversation homed elsewhere (R125). -/
def State.modPeer (s : State) (ctx conv home : Nat) (f : Conv → Conv) : State :=
  s.modCtx ctx (fun x => { x with peers := mset x.peers conv (f ((mget x.peers conv).getD (Conv.remote home))) })

/-- Local number of a page of a conversation homed elsewhere (R125): its local entry, else the page whose record bears the conversation, else
the one it shares by FORK with the conversation that Config.forkOf names. -/
def Ctx.peerPage (x : Ctx) (ctx conv hk index : Nat) : Option Nat :=
  match (mget x.peers conv).bind (fun c => c.entry hk index) with
  | some e => some e.page
  | none => (x.findPage conv (hk / 128) (hk % 128) index).or
      (x.findPage (Config.forkOf ctx conv (pageKey hk index)) (hk / 128) (hk % 128) index)

/-- Local entries that name a page. -/
def Ctx.peerEntries (x : Ctx) (num : Nat) : Nat := lsum (x.peers.map (fun c => (c.2.pageMap.filter (fun e => e.2.page == num)).length))

/-- This member comes to know that a conversation homed elsewhere has a page it holds: a local entry, and for a page another conversation
wrote the reference and the SHARED mark of the FORK (R98, R125, R166). -/
def State.learnPage (s : State) (ctx conv home hk index : Nat) : State :=
  let x := s.ctx ctx
  match (mget x.peers conv).bind (fun c => c.entry hk index), x.peerPage ctx conv hk index with
  | none, some num => match mget x.pages num with
    | none => s
    | some pg =>
      let s1 := s.modPeer ctx conv home (fun c => { c with pageMap := mset c.pageMap (pageKey hk index) (entryOf pg.slot num pg) })
      if pg.conv = conv then s1
      else (s1.modPage ctx num (fun q => { q with shared := true, refs := max q.refs (1 + x.peerEntries num) })).touch ctx num
  | _, _ => s

/-- w of R129 for a head of `n` pages: N_c when the conversation is striped, else 1. -/
def State.width (s : State) (n : Nat) (pl : PlaceProfile) : Nat := if striped n s.nc pl then s.nc else 1

/-- w of R129 for a page at the present length of its conversation, as this node knows it. -/
def State.pageWidth (s : State) (ctx : Nat) (pl : PlaceProfile) (pg : Page) : Nat :=
  match (s.ctx ctx).conv? pg.conv with
  | some c => s.width (pagesOf (c.len (headKey pg.layer pg.head))) pl
  | none => 1

/-- The units of a tier from one upward, wrapping (R129). -/
def unitsFrom (n start : Nat) : List Nat := (List.range n).map (fun i => (start + i) % n)

/-! ### Pools, extents and slots (R123) -/

/-- Head dimensions of a context, as they tell pools apart (R123). -/
def AttnProfile.dims (a : AttnProfile) : Nat := a.nk * 64 + a.nv

/-- Bytes of a page's record and sketch (R92, R93). -/
def recBytes (a : AttnProfile) : Nat := 64 + 4 * a.dk

/-- Physical bytes of a page: frame, record and sketch. -/
def pagePhysical (a : AttnProfile) (p : Page) : Nat := frameSize p.format (a.nk + a.nv) + recBytes a

/-- Bytes of one slot of a pool: the frame, beside which record and sketch lie in the host tier (R13, R144). -/
def slotBytes (a : AttnProfile) (tier fmt : Nat) : Nat := frameSize fmt (a.nk + a.nv) + (if tier = 4 then recBytes a else 0)

/-- Bytes of an extent: 64 KiB in tile SRAM, else 2 MiB (R123). -/
def extentBytes (tier : Nat) : Nat := if tier = 0 then 65536 else 2097152

/-- Slots of an extent. -/
def slotsPer (tier bytes : Nat) : Nat := max 1 (extentBytes tier / max 1 bytes)

/-- Consecutive extents one slot takes: more than one for a frame of tile SRAM above 64 KiB. -/
def extentsPer (tier bytes : Nat) : Nat := max 1 (ceilDiv bytes (extentBytes tier))

/-- Capacity of one stack channel: 576 GB over 192 (Table 1.2). -/
def channelBytes : Nat := 3000000000

/-- Usable bytes of one far-tier channel: 64 GB less the reserve (Table 7.1, R122). -/
def farChannelBytes : Nat := 64000000000 - 2147483648

/-- Bytes of the host tier: TIER_HOST_SIZE, none while the link is down (R144, R152). -/
def State.hostBytes (s : State) : Nat :=
  if s.rd F.TIER_PLACE_STATUS.HOST_DOWN = 1 then 0 else s.lv F.TIER_HOST_SIZE.SIZE * 4096

/-- Whether an engine's channel has failed. -/
def State.channelDown (s : State) (ch : Nat) : Bool := match mget s.engines ch with
  | some e => e.channelFailed
  | none => false

/-- Whether a far-tier channel is disabled (R151). -/
def State.farDown (s : State) (ch : Nat) : Bool := bit (s.rd F.TIER_FAR_FAULT.CHANNEL) ch

/-- Places of the pages held here and those that moves have reserved (R130), each with the shape of its context and its format. -/
def State.spots (s : State) : List (AttnProfile × Nat × Spot) :=
  s.ctxs.flatMap (fun c => match c.2.profile with
    | none => []
    | some q => c.2.pages.map (fun p => (q.attn, p.2.format, p.2.spot))) ++
  s.tier.moves.filterMap (fun m => match (s.ctx m.ctx).profile, m.incoming.or (mget (s.ctx m.ctx).pages m.page) with
    | some q, some p => if (m.member.isNone || m.incoming.isSome) && m.phase != .freed then some (q.attn, p.format, m.dst) else none
    | _, _ => none)

/-- Frame slots of a pool in use (R92, R123). -/
def State.poolFrames (s : State) (tier fmt dims : Nat) : List Nat :=
  (s.spots.filter (fun x => x.2.2.tier == tier && x.2.1 == fmt && x.1.dims == dims)).map (fun x => x.2.2.frame)

/-- Records and sketches in a stack channel: the bytes of each and its slot (R13, R92). -/
def State.channelRecords (s : State) (ch : Nat) : List (Nat × Nat) :=
  (s.spots.filter (fun x => decide (x.2.2.tier ≤ 2) && x.2.2.recHome == ch)).map (fun x => (recBytes x.1, x.2.2.recSlot))

/-- Extents of a unit. -/
def State.unitExtents (s : State) (tier unit : Nat) : List Extent := s.tier.extents.filter (fun e => e.tier == tier && e.unit == unit)

/-- Extents a unit has room for: a tile's page area, a stack channel beside its records, a far-tier channel, the host window (R122, R123). -/
def State.unitSize (s : State) (tier unit : Nat) : Nat := match tier with
  | 0 => s.lv F.TIER_SRAM.PAGE_KIB / 64
  | 1 => (channelBytes - lsum ((s.channelRecords unit).map Prod.fst)) / extentBytes 1
  | 2 => farChannelBytes / extentBytes 2
  | _ => s.hostBytes / extentBytes 4

/-- The lowest place in a unit for an extent of `n` places. -/
def State.extentPlace (s : State) (tier unit n : Nat) : Option Nat :=
  let es := s.unitExtents tier unit
  let fits (i : Nat) : Bool := decide (i + n ≤ s.unitSize tier unit) &&
    !es.any (fun e => decide (i < e.first + e.count) && decide (e.first < i + n))
  (lsort id (0 :: es.map (fun e => e.first + e.count))).find? fits

/-- A free slot of a pool in one unit: in an extent the pool has there, else in a new extent (R123). -/
def State.slotIn (s : State) (a : AttnProfile) (fmt tier unit : Nat) : Option (Nat × Option Extent) :=
  let bytes := slotBytes a tier fmt
  let per := slotsPer tier bytes
  let used := s.poolFrames tier fmt a.dims
  let pool := s.tier.extents.filter (fun e => e.tier == tier && e.fmt == fmt && e.dims == a.dims)
  match (pool.filter (fun e => e.unit == unit)).findSome? (fun e => (span (e.index * per) ((e.index + 1) * per)).find? (fun f => !used.contains f)) with
  | some f => some (f, none)
  | none =>
    let n := extentsPer tier bytes
    let index := ((List.range (pool.length + 1)).find? (fun i => !pool.any (fun e => e.index == i))).getD 0
    (s.extentPlace tier unit n).map (fun i => (index * per, some ⟨tier, fmt, a.dims, index, unit, i, n⟩))

/-- Take a free slot of a pool in one unit; bedrock's slots lie in no extent (R123, R141). -/
def State.takeSlot (s : State) (a : AttnProfile) (fmt tier unit : Nat) : Option (Nat × State) :=
  if tier = 3 then
    let used := s.poolFrames 3 fmt a.dims
    some (((List.range (used.length + 1)).find? (fun n => !used.contains n)).getD 0, s)
  else (s.slotIn a fmt tier unit).map (fun x => (x.1, match x.2 with
    | none => s
    | some e => { s with tier := { s.tier with extents := s.tier.extents ++ [e] } }))

/-- A free slot for a record and sketch in a stack channel that has room for them (R92). -/
def State.recordSlot (s : State) (a : AttnProfile) (ch : Nat) : Option Nat :=
  let rs := s.channelRecords ch
  if s.channelDown ch || channelBytes < lsum (rs.map Prod.fst) + recBytes a + (s.unitExtents 1 ch).length * extentBytes 1 then none
  else (List.range (rs.length + 1)).find? (fun n => !rs.any (fun r => r.2 == n))

/-- Reserve a place in one unit of a tier (R130). A page in the stacks has its record in its own channel (R102); one in tile SRAM or the far
tier keeps the record slot `keep`, or gets one in the first channel from `pref` upward with room (R13, R129). -/
def State.reserve (s : State) (a : AttnProfile) (fmt tier unit : Nat) (keep : Option (Nat × Nat)) (pref : Nat) : Option (Spot × State) :=
  match s.takeSlot a fmt tier unit with
  | none => none
  | some (f, s1) =>
    if 3 ≤ tier then some (⟨tier, unit, f, 0, 0⟩, s1)
    else match keep with
      | some (h, r) =>
        if tier != 1 || h = unit then some (⟨tier, unit, f, h, r⟩, s1)
        else (s1.recordSlot a unit).map (fun r => (⟨tier, unit, f, unit, r⟩, s1))
      | none => (if tier = 1 then [unit] else unitsFrom 192 pref).findSome? (fun ch =>
          (s1.recordSlot a ch).map (fun r => (⟨tier, unit, f, ch, r⟩, s1)))

/-- Reserve a place in the first of some units that has one. -/
def State.reserveIn (s : State) (a : AttnProfile) (fmt tier : Nat) (units : List Nat) (keep : Option (Nat × Nat)) (pref : Nat) :
    Option (Spot × State) :=
  units.findSome? (fun u => s.reserve a fmt tier u keep pref)

/-- Stack channels that have not failed, from a page's preferred one upward (R129). -/
def State.channelsFrom (s : State) (pref : Nat) : List Nat := (unitsFrom 192 pref).filter (fun ch => !s.channelDown ch)

/-- Far-tier channels that are not disabled, from a free one upward (R151; which one the manual leaves to placement). -/
def State.farFrom (s : State) (x : Nat) : List Nat := (unitsFrom 16 x).filter (fun ch => !s.farDown ch)

/-- Extents that hold no frame return to free space at a boundary (R123). -/
def State.sweepExtents (s : State) : State :=
  let per (a : AttnProfile) (fmt tier : Nat) : Nat := slotsPer tier (slotBytes a tier fmt)
  let spots := s.spots
  let used (e : Extent) : Bool := spots.any (fun x => x.2.2.tier == e.tier && x.2.1 == e.fmt && x.1.dims == e.dims &&
    x.2.2.frame / per x.1 x.2.1 e.tier == e.index)
  { s with tier := { s.tier with extents := s.tier.extents.filter used } }

/-- The extent a place lies in. -/
def State.extentOf (s : State) (a : AttnProfile) (fmt : Nat) (x : Spot) : Option Extent :=
  s.tier.extents.find? (fun e => e.tier == x.tier && e.fmt == fmt && e.dims == a.dims &&
    e.index == x.frame / slotsPer x.tier (slotBytes a x.tier fmt))

/-- Byte offset of a frame in its unit: its extent's place and its slot there (R123). -/
def State.frameOffset (s : State) (a : AttnProfile) (fmt : Nat) (x : Spot) : Nat :=
  let b := slotBytes a x.tier fmt
  ((s.extentOf a fmt x).map Extent.first).getD 0 * extentBytes x.tier + x.frame % slotsPer x.tier b * b

/-- Pseudo-channel, and offset in it, of a byte of a frame in the stacks: 1 KiB units over both, starting with pseudo-channel 0 (R102). -/
def pseudoPlace (off : Nat) : Nat × Nat := (off / 1024 % 2, off / 2048 * 1024 + off % 1024)

/-- Channel-local address of a page's record, and of its sketch (R92, Table 6.2). -/
def Page.recAddr (p : Page) : Nat := Config.recordPool p.recHome + p.recSlot * 64
def Page.sketchAddr (a : AttnProfile) (p : Page) : Nat := Config.sketchPool p.recHome + p.recSlot * (4 * a.dk)

/-- Where a page's frame lies in the host tier: a control-host physical address in the window at TIER_HOST_BASE (R144). -/
def State.hostAddr (s : State) (a : AttnProfile) (fmt : Nat) (x : Spot) : Nat :=
  s.lv F.TIER_HOST_BASE.ADDR * 4096 + s.frameOffset a fmt x

/-! ### Lines of tile SRAM (R237) -/

/-- Lines of 64 bytes a place in tile SRAM takes: first and count. -/
def State.spotLines (s : State) (a : AttnProfile) (fmt : Nat) (x : Spot) : Nat × Nat :=
  (s.frameOffset a fmt x / 64, ceilDiv (slotBytes a 0 fmt) 64)

/-- Change the lines a tile has given out. -/
def State.modSram (s : State) (tile : Nat) (f : List SramRun → List SramRun) : State :=
  let t := (mget s.tiles tile).getD ⟨[], [], [], [], none⟩
  { s with tiles := mset s.tiles tile { t with sram := f t.sram } }

/-- The planner gives the lines of a place to a context: they take its tag, and their valid bits are cleared (R237). -/
def State.giveLines (s : State) (a : AttnProfile) (fmt ctx page : Nat) (x : Spot) : State :=
  let (first, n) := s.spotLines a fmt x
  s.modSram x.home (fun l =>
    l.filter (fun r => !(decide (r.first < first + n) && decide (first < r.first + r.count))) ++ [⟨first, n, ctx, page, 0⟩])

/-- A frame written to its lines sets their valid bits (R237). -/
def State.writeLines (s : State) (tile ctx page : Nat) : State :=
  s.modSram tile (fun l => l.map (fun r => if r.tag == ctx && r.page == page then { r with valid := 2 ^ r.count - 1 } else r))

/-- The lines of a page that leaves a tile go back; they are not scrubbed (R237). -/
def State.dropLines (s : State) (tile ctx page : Nat) : State :=
  s.modSram tile (fun l => l.filter (fun r => !(r.tag == ctx && r.page == page)))

/-- What a context reads of a line of a page's frame in tile SRAM: zeros while its valid bit is clear, none where the tag is another's
(R235, R237). -/
def State.readLine (s : State) (tile ctx page line : Nat) (frame : Bytes) : Option Bytes :=
  match ((mget s.tiles tile).map Tile.sram).bind (fun l => l.find? (fun r => r.tag == ctx && r.page == page && decide (line < r.count))) with
  | none => none
  | some r => some (if r.valid.testBit line then padTo 64 (slice frame (line * 64) 64) else List.replicate 64 0)

/-! ### Units in service -/

/-- A bit of a group of 64-bit registers. -/
def bitOf (rf : RegFile) (f : Field) (n : Nat) : Bool := bit (fget rf f (n / 64)) (n % 64)

/-- Set or clear a bit of a group of 64-bit registers. -/
def State.wrBit (s : State) (f : Field) (n : Nat) (v : Bool) : State :=
  let w := s.rd f (n / 64)
  s.wr f (if v then w ||| 2 ^ (n % 64) else w &&& (2 ^ 64 - 1 - 2 ^ (n % 64))) (n / 64)

/-- Whether an engine takes itinerary commands: not masked (R120), no fault bit, not hot (R315), not taken out (R371), its
channel not failed, not in self-test. -/
def State.engineOk (s : State) (n : Nat) : Bool :=
  !bitOf s.live F.TIER_SE_MASK.MASK n && !bitOf s.regs F.TIER_SE_FAULT.FAULT n && !bit (s.rd F.PWR_STACK.HOT) (stackOf n) &&
    !s.dbg.unitsOut.contains (.engine n) && !s.channelDown n && !(s.rd F.TIER_SE_TEST.BUSY == 1 && s.rd F.TIER_SE_TEST.ENGINE == n)

/-- Whether a tile takes tasks: not marked faulty (R279), not taken out (R371). -/
def State.tileOk (s : State) (n : Nat) : Bool :=
  !bitOf s.regs F.HEALTH_TILEF.FAULT n && !s.dbg.unitsOut.contains (.tile n)

/-- Merge tile of a request: the planner's own choice among the tiles in service (notes/assumptions/21.md). -/
def State.mergeTile (s : State) (key : Nat) : Nat :=
  (((List.range 1536).map (fun i => (key + i) % 1536)).find? s.tileOk).getD (key % 1536)

/-- The unit that scans a page, as an error record names it (Table 3.6). -/
def State.scanUnit (s : State) (ctx num : Nat) : ErrUnit := match mget (s.ctx ctx).pages num with
  | none => .none
  | some p => if p.tier = 1 then .engine p.home
    else if p.tier = 0 then .tile p.home
    else match (s.ctx ctx).profile with
      | some x => .tile (preferred 1536 p.conv p.layer p.head p.index x.attn.kvheads (s.pageWidth ctx x.place p))
      | none => .none

/-! ### Quotas -/

/-- Logical bytes of a context in the tiers selected (R99, R138). -/
def Ctx.logical (x : Ctx) (sel : Nat → Bool) : Nat := match x.profile with
  | none => 0
  | some p => pageLogical p.attn * (x.pages.filter (fun q => sel q.2.tier)).length

/-- Bytes of the loaded geode bodies (R259; projections lie in them, R66). -/
def Ctx.geodeBytes (x : Ctx) : Nat := lsum (x.geodes.map (fun g => g.2.bodyLen))

/-- X_SIZE of a context. -/
def Ctx.xSize (x : Ctx) : Nat := match x.profile with
  | some p => p.place.xSize
  | none => 0

/-- Node-wide logical use: pages, the exchange area and geode bodies (R99, R259; 09_trail.md "Node regions"). -/
def Ctx.logicalAll (x : Ctx) : Nat := x.logical (fun _ => true) + x.xSize + x.geodeBytes

/-- Logical use of the near tier: pages in tile SRAM and the stacks, the exchange area, geode bodies (R138, R66, R259). -/
def Ctx.logicalNear (x : Ctx) : Nat := x.logical (fun t => t ≤ 1) + x.xSize + x.geodeBytes

/-- Whether `k` more pages fit the node-wide quota, and for a pinned conversation the near quota (R99, R138). -/
def Ctx.quotaOk (x : Ctx) (pinned : Bool) (k : Nat) : Bool := match x.profile with
  | none => false
  | some p =>
    k == 0 ||
      ((p.place.qNode == 0 || decide (x.logicalAll + k * pageLogical p.attn ≤ p.place.qNode)) &&
       (!pinned || p.place.qNear == 0 || decide (x.logicalNear + k * pageLogical p.attn ≤ p.place.qNear)))

/-- Whether a context holds a C0 reservation. -/
def Ctx.c0 (x : Ctx) : Bool := match x.profile with
  | some p => p.cls.c0Unit != 0
  | none => false

/-- Pinned: by HINT, or because the context holds a C0 reservation (R133 inputs). -/
def Ctx.pinnedConv (x : Ctx) (c : Conv) : Bool := c.pinned || x.c0

/-- target (R133). -/
def targetTier (now : Nat) (x : Ctx) (c : Conv) : Nat :=
  match x.profile with
  | none => 3
  | some p =>
    if c.parked then 3
    else if x.pinnedConv c then 1
    else if now - c.lastAttend ≤ p.place.nearMs * 1000000 then 1
    else if now - c.lastAttend ≤ p.place.farS * 1000000000 then 2
    else 3

/-! ### Content changes and moves -/

/-- Abort the moves that satisfy a predicate: their destination slots are free again (Table 7.2). -/
def State.abortMoves (s : State) (hit : Move → Bool) : State :=
  let gone := s.tier.moves.filter hit
  let s1 := gone.foldl (fun s m => if m.dst.tier = 0 && m.member.isNone then s.dropLines m.dst.home m.ctx m.page else s) s
  { s1.bump F.TIER_MOVES.ABORTS gone.length with tier := { s1.tier with moves := s1.tier.moves.filter (fun m => !hit m) } }

/-- Abort the move in progress of a page (Table 7.2). -/
def State.abortMove (s : State) (ctx page : Nat) : State :=
  let hit (m : Move) : Bool := m.ctx == ctx && m.page == page && m.incoming.isNone && m.phase != .freed
  if s.tier.moves.any hit then s.abortMoves hit else s

/-- 4 KiB units of the snoop filter that hold a page's record, sketch or frame (Table 7.4, R148). -/
def pageUnits (ctx : Nat) (p : Profile) (page : Nat) : List Nat :=
  let base := ctx * 2 ^ 48
  let stride := ceilDiv (frameSize p.ladder.fresh (p.attn.nk + p.attn.nv)) 4096 * 4096
  let range (a n : Nat) : List Nat := span (a / 4096) ((a + n + 4095) / 4096)
  range (base + page * 64) 64 ++ range (base + 2 ^ 40 + page * 4 * p.attn.dk) (4 * p.attn.dk) ++
    (if page < (2 ^ 48 - 2 ^ 44) / stride then range (base + 2 ^ 44 + page * stride) stride else [])

/-- Whether the control host may hold lines of a page number: its window is open and a unit is tracked (R124, R148). -/
def State.hostHolds (s : State) (ctx page : Nat) : Bool :=
  (s.ctx ctx).hdmRead && s.rd F.TIER_HDM.EN == 1 &&
    (match (s.ctx ctx).profile with
     | some p => (pageUnits ctx p page).any (fun u => s.tier.snoop.contains u)
     | none => false)

/-- A parcel of bedrock becomes garbage: the translation map drops it (R141). -/
def State.dropParcel (s : State) (ctx page : Nat) : State :=
  { s with tier := { s.tier with parcels := s.tier.parcels.filter (fun e => !(e.ctx == ctx && e.page == page)) } }

/-- Free a page number: at once, or retiring until its lines are invalidated (R124). -/
def State.freePage (s : State) (ctx page : Nat) : State :=
  let s0 := match mget (s.ctx ctx).pages page with
    | some p => if p.tier = 0 then s.dropLines p.home ctx page else s
    | none => s
  let s1 := (s0.abortMove ctx page).dropParcel ctx page
  let s2 := s1.modCtx ctx (fun x => { x with
    pages := mdel x.pages page
    peers := (mall x.peers (fun _ c => { c with pageMap := c.pageMap.filter (fun e => e.2.page != page) })).filter (fun c => !c.2.pageMap.isEmpty) })
  if s1.hostHolds ctx page then
    (s2.modCtx ctx (fun x => { x with retiring := x.retiring ++ [page] })).touch ctx page
  else s2

/-- Take one reference from a page; it is freed at zero (R168). -/
def State.dropRef (s : State) (ctx page : Nat) : State :=
  match mget (s.ctx ctx).pages page with
  | none => s
  | some p => if p.refs ≤ 1 then s.freePage ctx page
    else (s.modPage ctx page (fun p => { p with refs := p.refs - 1 })).touch ctx page

/-- Poison a page: the record's flag and, at the home, the map's mark (R90, R118). -/
def State.poison (s : State) (ctx page : Nat) : State :=
  ((s.modPage ctx page (fun p => { p with poisoned := true })).modCtx ctx (fun x =>
    { x with convs := mall x.convs (fun _ c => { c with pageMap := mall c.pageMap (fun _ e =>
        if s.ownsSlot e.member && e.page == page then { e with poisoned := true } else e) }) })).touch ctx page

/-- Put a page's leaf into every page map that names it (R264). -/
def State.setLeaf (s : State) (ctx page : Nat) (leaf : Bytes) : State :=
  s.modCtx ctx (fun x => { x with convs := mall x.convs (fun _ c => { c with pageMap := mall c.pageMap (fun _ e =>
    if s.ownsSlot e.member && e.page == page then { e with leaf := leaf } else e) }) })

/-- Put a changed page back: its move is aborted, its lines are stale, its leaf goes to the page maps
(Table 7.2, R148, R264). -/
def State.putPage (s : State) (ctx n : Nat) (p : Page) : State :=
  (((s.abortMove ctx n).modCtx ctx (fun x => { x with pages := mset x.pages n p })).touch ctx n).setLeaf ctx n p.leaf

/-- A unit has met an uncorrectable error in a pebble: what is stored of it is not what was written (R90). -/
def State.spoil (s : State) (ctx page peb : Nat) : State :=
  s.modPage ctx page (fun p => { p with bad := if p.bad.contains peb then p.bad else p.bad ++ [peb] })

/-- Record an access to a page that is corrupt: POISONED, an error record (R90). -/
def State.corrupt (s : State) (ctx page peb : Nat) (u : ErrUnit) (i : ErrInfo) : State :=
  errRecord (s.poison ctx page) .pebbleCorrupt u { i with ctx := some ctx, location := page, detail := peb }

/-! ### Roots -/

/-- Leaves of the pages of a head below `n` whose stripe position is `pos`, ascending (R265). -/
def Conv.shareLeaves (c : Conv) (hk n nc pos : Nat) (pl : PlaceProfile) : List Bytes :=
  ((c.headEntries hk n).filter (fun e => stripePos e.1 n nc pl == pos)).map (fun e => e.2.leaf)

/-- Share root (R265); a share without pages has a root of 32 zero bytes. -/
def Conv.shareRoot (c : Conv) (hk n nc pos : Nat) (pl : PlaceProfile) : Bytes := treeHash (c.shareLeaves hk n nc pos pl)

/-- Head root (R265). -/
def Conv.headRoot (c : Conv) (hk n nc : Nat) (pl : PlaceProfile) : Bytes :=
  if n = 0 then List.replicate 32 0 else treeHash ((List.range nc).map (fun pos => c.shareRoot hk n nc pos pl))

/-- Request root (R267): over the head roots of the named heads. -/
def Conv.requestRoot (c : Conv) (d : Desc) (len nc : Nat) (pl : PlaceProfile) : Bytes :=
  treeHash (d.heads.map (fun hk => c.headRoot hk (pagesOf len) nc pl))

/-- Contribution root (R270): over the share roots of one position. -/
def Conv.contributionRoot (c : Conv) (d : Desc) (len nc pos : Nat) (pl : PlaceProfile) : Bytes :=
  treeHash (d.heads.map (fun hk => c.shareRoot hk (pagesOf len) nc pos pl))

/-! ### Key ranges and cairns -/

/-- Resolved key range of a request at length `n` (R42, R60). -/
def keyRange (d : Desc) (n : Nat) : Nat × Nat :=
  if d.opcode = 2 then (0, n)
  else if d.tokenSpan = 0 then (min d.tokenFirst n, n)
  else (min d.tokenFirst n, min (d.tokenFirst + d.tokenSpan) n)

/-- Query positions of a request. -/
def Desc.positions (d : Desc) : Nat := if d.opcode = 2 then d.tokenSpan else d.qpos

/-- Number of query blocks: one for ATTEND, ⌈TOKEN_SPAN / 64⌉ for ATTEND_CHUNK (R60). -/
def Desc.blocks (d : Desc) : Nat := if d.opcode = 2 then ceilDiv d.tokenSpan 64 else 1

/-- Positions of block `b`. -/
def Desc.blockPositions (d : Desc) (b : Nat) : Nat := if d.opcode = 2 then min 64 (d.tokenSpan - b * 64) else d.qpos

/-- Position of the first query row of block `b` (R42, R60). -/
def Desc.blockFirst (d : Desc) (b n : Nat) : Nat := if d.opcode = 2 then d.tokenFirst + b * 64 else n - d.qpos

/-- Rows of one position. -/
def Desc.rowsPerPos (d : Desc) (a : AttnProfile) : Nat := d.kvhCount * a.group

/-- The cairn preimage of Table 12.1, 400 bytes. -/
def cairnPreimage (kind pos nc : Nat) (d : Desc) (kf ke qf qc : Nat) (kernel program geode profile query root : Bytes) : Bytes :=
  leBytes 1 1 ++ leBytes 1 kind ++ leBytes 2 pos ++ leBytes 2 nc ++ leBytes 1 d.opcode ++
    leBytes 1 (b2n d.normalize + 2 * b2n d.skip + 4 * b2n d.relaxed) ++ leBytes 2 d.layer ++ leBytes 1 d.kvhFirst ++
    leBytes 1 d.kvhCount ++ leBytes 1 d.qgroup ++ leBytes 1 (if d.opcode = 1 then d.qpos else 0) ++
    leBytes 2 (if d.skip then d.skipTheta else 0) ++ leBytes 8 kf ++ leBytes 8 ke ++ leBytes 8 qf ++ leBytes 4 qc ++
    leBytes 4 0 ++ padTo 64 kernel ++ padTo 64 program ++ padTo 64 geode ++ padTo 64 profile ++ padTo 64 query ++
    padTo 32 root

/-- Geode of a context that its profile names. -/
def Ctx.geode (x : Ctx) (p : Profile) : Geode := (mget x.geodes p.attn.geode).getD ⟨0, [], []⟩

/-- The request cairn (R267), over the query bytes as read (R268). -/
def State.requestCairn (s : State) (r : Req) (p : Profile) (c : Conv) (query : Bytes) : Bytes :=
  let (kf, ke) := keyRange r.desc r.n
  sha512 (cairnPreimage 0 0 r.nc r.desc kf ke (r.desc.blockFirst 0 r.n) r.desc.positions s.sec.kernel
    (match r.image with | some i => i.digest | none => []) ((s.ctx r.ctx).geode p).digest (sha512 (p.raw.take 64))
    (sha512 query) (c.requestRoot r.desc r.n r.nc p.place))

/-- The contribution cairn of a position for a block (R270), over rotated rows. -/
def State.contributionCairn (s : State) (r : Req) (p : Profile) (root : Bytes) (pos block : Nat) (rows : Bytes) : Bytes :=
  let (kf, ke) := keyRange r.desc r.n
  sha512 (cairnPreimage 1 pos r.nc r.desc kf ke (r.desc.blockFirst block r.n) (r.desc.blockPositions block) s.sec.kernel
    (match r.image with | some i => i.digest | none => []) ((s.ctx r.ctx).geode p).digest (sha512 (p.raw.take 64))
    (sha512 rows) root)

end Sys2Proof.Machine
end

