-- ==== Sys2Proof/Machine/Bedrock.lean ====
section
/-! DEFINITION. Bedrock's translation layer: the log of program units, the translation map, garbage, wear, reads and retirement
(07_tiers_placement.md, R141-R143; 11_isolation.md, R249). -/
namespace Sys2Proof.Machine

/-! ### The log -/

/-- Bytes of a NAND program unit, and channels the log runs across (R141). -/
def unitBytes : Nat := 16384
def nandChannels : Nat := 16

/-- Program units of an erase block (Config.blockUnits: the manual prints no number). -/
def unitsPerBlock : Nat := Config.blockUnits + 1

/-- Bytes of a stripe of the log: one erase block of each channel. -/
def stripeBytes : Nat := unitsPerBlock * nandChannels * unitBytes

/-- No block: the lane of a channel that had none free. -/
def noBlock : Nat := 2 ^ 32

/-- Erase block that holds program unit `u` of the log: units go to the channels in turn (R141). -/
def State.unitBlock (s : State) (u : Nat) : Nat :=
  let per := unitsPerBlock * nandChannels
  lget (lget s.tier.stripes (u / per) []) (u % per % nandChannels) noBlock

/-- Program units a parcel lies in. -/
def Parcel.units (x : Parcel) : List Nat := span (x.pos / unitBytes) (ceilDiv (x.pos + x.len) unitBytes)

/-- Erase blocks a parcel lies in. -/
def State.parcelBlocks (s : State) (x : Parcel) : List Nat := (x.units.map s.unitBlock).eraseDups

/-- Bytes of a parcel in one program unit. -/
def Parcel.bytesIn (x : Parcel) (u : Nat) : Nat := min (x.pos + x.len) ((u + 1) * unitBytes) - max x.pos (u * unitBytes)

/-- Parcels that lie in a block, wholly or in part. -/
def State.blockParcels (s : State) (b : Nat) : List Parcel := s.tier.parcels.filter (fun x => (s.parcelBlocks x).contains b)

/-- Live bytes of a block. -/
def State.liveBytes (s : State) (b : Nat) : Nat :=
  lsum (s.tier.parcels.map (fun x => lsum ((x.units.filter (fun u => s.unitBlock u == b)).map x.bytesIn)))

/-- Bytes written to a block of stripe `k` that lies in lane `l`. -/
def State.writtenBytes (s : State) (k l : Nat) : Nat :=
  lsum ((List.range unitsPerBlock).map (fun i =>
    let u := (k * unitsPerBlock + i) * nandChannels + l
    min unitBytes (s.tier.logHead - u * unitBytes)))

/-- Bytes of garbage in a block: what was written there and is live no more (R141). -/
def State.garbageBytes (s : State) (b : Nat) (e : EraseBlock) : Nat := match e.stripe with
  | none => 0
  | some k => s.writtenBytes k (b % nandChannels) - s.liveBytes b

/-- Change an erase block. -/
def State.modBlock (s : State) (b : Nat) (f : EraseBlock → EraseBlock) : State :=
  { s with tier := { s.tier with blocks := mset s.tier.blocks b (f ((mget s.tier.blocks b).getD ⟨0, 0, none, false, []⟩)) } }

/-- A free block of a channel: the least worn, a block never used before any other; for cold parcels the most worn (R142). -/
def State.freeBlock (s : State) (worn : Bool) (ch : Nat) : Option Nat :=
  let mine := s.tier.blocks.filter (fun b => b.1 % nandChannels == ch)
  let unused := ((List.range (mine.length + 1)).map (fun i => i * nandChannels + ch)).find? (fun b =>
    !mhas s.tier.blocks b && decide (b / nandChannels ≤ Config.channelBlocks))
  let free := (lsort (fun b => b.2.erases) (mine.filter (fun b => b.2.stripe.isNone && !b.2.retired && b.2.tombs.isEmpty))).map Prod.fst
  if worn then free.getLast?.or unused else unused.or free.head?

/-- Open a stripe: a free block of every channel (R141, R142). -/
def State.openStripe (s : State) (worn : Bool) : State :=
  let lanes := (List.range nandChannels).map (fun ch => (s.freeBlock worn ch).getD noBlock)
  let k := s.tier.stripes.length
  let s1 : State := { s with tier := { s.tier with stripes := s.tier.stripes ++ [lanes] } }
  (lanes.filter (· != noBlock)).foldl (fun s b => s.modBlock b (fun e => { e with stripe := some k, reads := 0 })) s1

/-- The log goes on in a new stripe: what is left of the open one stays unwritten. -/
def State.newStripe (s : State) (worn : Bool) : State :=
  let s1 := s.openStripe worn
  { s1 with tier := { s1.tier with logHead := (s1.tier.stripes.length - 1) * stripeBytes } }

/-- Give the log room for `n` more bytes. -/
def State.logRoom (s : State) (n : Nat) : State :=
  (List.range (ceilDiv (s.tier.logHead + n) stripeBytes - s.tier.stripes.length)).foldl (fun s _ => s.openStripe false) s

/-- Write a parcel of `len` bytes at the head of the log; an older copy becomes garbage (R141). -/
def State.logParcel (s : State) (ctx page len : Nat) : State :=
  let s1 := (s.dropParcel ctx page).logRoom len
  { s1 with tier := { s1.tier with parcels := s1.tier.parcels ++ [⟨ctx, page, s1.tier.logHead, len⟩], logHead := s1.tier.logHead + len } }

/-- A page is parked: its record, sketch and frame, packed without padding (R141). -/
def State.addParcel (s : State) (ctx page : Nat) : State :=
  match mget (s.ctx ctx).pages page, (s.ctx ctx).profile with
  | some pg, some p => s.logParcel ctx page (pagePhysical p.attn pg)
  | _, _ => s

/-- Count the reads of a page's parcel, one for each program unit (R142). -/
def State.readParcel (s : State) (ctx page : Nat) : State :=
  match s.tier.parcels.find? (fun x => x.ctx == ctx && x.page == page) with
  | none => s
  | some x => (x.units.map s.unitBlock).foldl (fun s b => if b = noBlock then s else s.modBlock b (fun e => { e with reads := e.reads + 1 })) s

/-! ### Relocation -/

/-- Move the live parcels of a block to the head of the log, unchanged; a block of the open stripe closes it (R141-R143). -/
def State.relocate (s : State) (b : Nat) (worn : Bool := false) : State :=
  let open_ := (mget s.tier.blocks b).bind EraseBlock.stripe == some (s.tier.stripes.length - 1)
  let s1 := if worn || open_ then s.newStripe worn else s
  (s1.blockParcels b).foldl (fun s x => (s.readParcel x.ctx x.page).logParcel x.ctx x.page x.len) s1

/-- Erase a block that holds no live parcel; one that waits for the erasure of a torn-down context's parcels is left to it (R249). -/
def State.eraseBlock (s : State) (b : Nat) : State :=
  s.modBlock b (fun e => if e.tombs.isEmpty then { e with stripe := none, reads := 0, erases := e.erases + 1 } else e)

/-- Good blocks of closed stripes, which may be emptied. -/
def State.closedBlocks (s : State) : List (Nat × EraseBlock) :=
  s.tier.blocks.filter (fun b => !b.2.retired && b.2.stripe.isSome && b.2.stripe != some (s.tier.stripes.length - 1))

/-- The block with the most garbage, the lowest number first (R141). -/
def State.mostGarbage (s : State) : Option Nat :=
  ((lsort (fun b => 2 ^ 64 - s.garbageBytes b.1 b.2) (s.closedBlocks.filter (fun b => s.garbageBytes b.1 b.2 != 0 && b.2.tombs.isEmpty))).head?).map
    Prod.fst

/-- Wear levelling: when the counts of good blocks lie 200 cycles apart, the cold parcels of the least worn go into worn blocks (R142). -/
def State.wearLevel (s : State) : State :=
  let most := ((s.tier.blocks.filter (fun b => !b.2.retired)).map (fun b => b.2.erases)).foldl max 0
  match (lsort (fun b => b.2.erases) (s.closedBlocks.filter (fun b => b.2.tombs.isEmpty))).head? with
  | none => s
  | some b => if b.2.erases + 200 ≤ most then (s.relocate b.1 true).eraseBlock b.1 else s

/-- Time, in ns, that `n` bytes take at 10 % of the NAND interface rate of 57.6 GB/s (R141, Table 7.1). -/
def gcTime (n : Nat) : Nat := ceilDiv (n * 100) 576

/-- Reclaim the block with the most garbage, no faster than a tenth of the NAND interface carries its live bytes out and in (R141). -/
def State.reclaim (s : State) : State :=
  if s.now < s.tier.gcUntil then s
  else match s.mostGarbage with
    | none => s.wearLevel
    | some b =>
      let n := 2 * s.liveBytes b
      let s1 := ((s.relocate b).eraseBlock b).wearLevel
      { s1 with tier := { s1.tier with gcUntil := s.now + gcTime n } }

/-- A block at its read or error threshold: its live parcels move, and the event is counted (R142). -/
def State.disturb (s : State) (b : Nat) : State :=
  ((s.relocate b).modBlock b (fun e => { e with reads := 0 })).bump F.TIER_BEDROCK.DISTURB

/-- Blocks that have reached 100,000 reads since they were programmed (R142). -/
def State.disturbed (s : State) : State :=
  ((s.tier.blocks.filter (fun b => decide (100000 ≤ b.2.reads) && b.2.stripe.isSome)).map Prod.fst).foldl State.disturb s

/-- Retire a block that failed a program or an erase: its live parcels move (R143). -/
def State.retireBlock (s : State) (b : Nat) : State :=
  (s.relocate b).modBlock b (fun e => { e with retired := true, stripe := none })

/-! ### Torn-down contexts -/

/-- Parcels of a context become garbage; the blocks that hold them wait for erasure (R249). -/
def State.tombBlocks (s : State) (ctx : Nat) : State :=
  let mine := s.tier.parcels.filter (fun x => x.ctx == ctx)
  let bs := ((mine.flatMap s.parcelBlocks).filter (· != noBlock)).eraseDups
  let s1 : State := { s with tier := { s.tier with parcels := s.tier.parcels.filter (fun x => x.ctx != ctx) } }
  bs.foldl (fun s b => s.modBlock b (fun e => { e with tombs := if e.tombs.contains ctx then e.tombs else e.tombs ++ [ctx] })) s1

end Sys2Proof.Machine
end

