-- ==== Sys2Proof/Machine/Journal.lean ====
section
/-! DEFINITION. Journal streams a holder sends to the buddies of its slots (13_fabric.md, R287-R291). -/
namespace Sys2Proof.Machine

/-- BUDDY of a slot in the current map, none for 0xFFFF or before the first map (Table 13.1). -/
def State.buddyOf (s : State) (slot : Nat) : Option Nat :=
  match s.comp.current with
  | none => none
  | some m => let b := lget m.buddies slot 0xFFFF
    if b = 0xFFFF then none else some b

/-- F_MODE of a context. -/
def Ctx.fMode (x : Ctx) : Nat := match x.profile with
  | some p => p.cls.fMode
  | none => 0

/-- Whether changes to pages of a slot are journalled (R287). -/
def State.journals (s : State) (ctx slot : Nat) : Bool :=
  (s.ctx ctx).fMode != 0 && (s.buddyOf slot).isSome && !s.comp.isolated

/-- Usable bytes of bedrock: 28 TB (Table 1.2, R143). -/
def bedrockBytes : Nat := 28000000000000

/-- Bytes of journal images held as buddy (R288, NET_JOURNAL.HELD_MIB). -/
def State.journalHeld (s : State) : Nat := lsum (s.comp.journals.map Journal.bytes)

/-- Physical bytes of bedrock in use by pages and journals (R13, R289). -/
def State.bedrockUsed (s : State) : Nat :=
  s.journalHeld + lsum (s.ctxs.map (fun c => match c.2.profile with
    | none => 0
    | some q => lsum (c.2.pages.map (fun p => if p.2.tier == 3 then pagePhysical q.attn p.2 else 0))))

/-- Whether the journal area takes `n` more bytes: bedrock is writable and has room (R143, R289). -/
def State.journalTakes (s : State) (n : Nat) : Bool :=
  s.rd F.TIER_BEDROCK.READ_ONLY == 0 && decide (s.bedrockUsed + n ≤ bedrockBytes)

/-- Key of a page image, and of a length, in a journal (R288). -/
def imageKey (conv hk index : Nat) : Nat := conv * 2 ^ 44 + pageKey hk index
def lengthKey (conv hk : Nat) : Nat := conv * 2 ^ 20 + hk

/-- The journal held as buddy for a context and slot. -/
def State.journalFor (s : State) (ctx slot : Nat) : Option Journal := s.comp.journals.find? (fun j => j.ctx == ctx && j.slot == slot)

/-- The stream of a context and slot. -/
def State.stream (s : State) (ctx slot : Nat) : JournalOut :=
  (s.comp.streams.find? (fun j => j.ctx == ctx && j.slot == slot)).getD ⟨ctx, slot, 0, 0, [], [], [], false⟩

/-- Put a stream. -/
def State.setStream (s : State) (j : JournalOut) : State :=
  let rest := s.comp.streams.filter (fun i => !(i.ctx == j.ctx && i.slot == j.slot))
  { s with comp := { s.comp with streams := rest ++ [j] } }

/-- Note an entry for the stream of a slot, to be sent with the tick's entries (R287, R290). -/
def State.journal (s : State) (ctx slot : Nat) (e : JEntry) : State :=
  if !s.journals ctx slot then s
  else
    let j := s.stream ctx slot
    s.setStream { j with unsent := j.unsent ++ [jentryBytes e] }

/-- A journal entry that names a page or head and nothing more. -/
def jentry (op conv layer head page : Nat) : JEntry := ⟨op, head, layer, conv, page, 0, 0, 0, 0, 0, []⟩

/-- Entries grouped into messages no longer than a SEND may be (Table 9.4). -/
def journalGroups (es : List Bytes) : List (List Bytes) :=
  es.foldl (fun gs e => match gs.reverse with
    | [] => [[e]]
    | g :: rest => if lsum (g.map List.length) + e.length + 24 ≤ maxMessage then rest.reverse ++ [g ++ [e]] else gs ++ [[e]]) []

/-- Send the entries of a stream in JOURNAL messages of a class, one where they fit (Table 13.6); answers the connection slot and
MSG_ID of each. -/
def State.flushStream (s : State) (ctx slot cls : Nat) (extra : List Bytes) : List (Nat × Nat) × State :=
  let j := s.stream ctx slot
  match s.buddyOf slot with
  | none => ([], s.setStream { j with unsent := [] })
  | some b =>
    match s.peerConn ctx b with
    | none => ([], s)
    | some c =>
      (journalGroups (j.unsent ++ extra)).foldl (fun acc g =>
        let k := acc.2.stream ctx slot
        let msg := match acc.2.conn? c with | some x => x.tx.nextMsg | none => 0
        let s1 := acc.2.sendSend c (.peer 4) 4 (journalBytes slot k.seq g) cls
        (acc.1 ++ [(c, msg)], s1.setStream { k with seq := k.seq + 1, unsent := [] })) ([], s)

/-- Whether a message the node sent has been acknowledged whole. -/
def State.msgAcked (s : State) (m : Nat × Nat) : Bool :=
  match s.conn? m.1 with
  | some c => c.state == 3 && !c.tx.pkts.any (fun k => k.msg == m.2)
  | none => false

/-- Journal lag of a context: TICK_MARKs its buddies have not completed (R290). -/
def State.journalLag (s : State) (ctx : Nat) : Nat :=
  ((s.comp.streams.filter (fun j => j.ctx == ctx)).map JournalOut.lag).foldl max 0

/-- Largest lag of any stream, read in NET_JOURNAL.LAG_MAX. -/
def State.noteLag (s : State) : State :=
  s.wr F.NET_JOURNAL.LAG_MAX (min 65535 ((s.comp.streams.map JournalOut.lag).foldl max 0))

/-- At a boundary every stream of a protected context sends its entries and a TICK_MARK in C3 (R290); while there is no connection to
the buddy they wait, and the lag grows. -/
def State.markStreams (s : State) (time : Nat) : State :=
  (s.comp.streams.foldl (fun s j =>
    if !s.journals j.ctx j.slot then s
    else
      let mark := jentryBytes { jentry 9 0 0 0 0 with arg := time }
      let (m, s1) := s.flushStream j.ctx j.slot 3 [mark]
      match m.getLast? with
      | none =>
        let k := s1.stream j.ctx j.slot
        s1.setStream { k with unsent := k.unsent ++ [mark], lag := k.lag + 1 }
      | some x =>
        let k := s1.stream j.ctx j.slot
        s1.setStream { k with unacked := k.unacked ++ [x.2], lag := k.unacked.length + 1 }) s).noteLag

/-- After acknowledgements on a connection: the TICK_MARKs completed leave the lag (R290). -/
def State.settleLag (s : State) (conn : Nat) : State :=
  let settle (j : JournalOut) : JournalOut := match s.buddyOf j.slot with
    | none => j
    | some b =>
      if s.peerConn j.ctx b == some conn then
        let u := j.unacked.filter (fun m => !s.msgAcked (conn, m))
        { j with unacked := u, lag := u.length }
      else j
  ({ s with comp := { s.comp with streams := s.comp.streams.map settle } } : State).noteLag

end Sys2Proof.Machine
end

