-- ==== Sys2Proof/Machine/Conversation.lean ====
section
/-! DEFINITION. The operations that change a conversation: APPEND, SEAL, FORK, TRIM, RELEASE, HINT, demotions, and the
order among requests (08_rings.md, R163-R169; 05_shale.md, R85-R98; 01_node_at_a_glance.md, R17). -/
namespace Sys2Proof.Machine

/-! ### Order -/

/-- Whether an opcode names one layer (Table 8.5). -/
def namesLayer (op : Nat) : Bool := op == 1 || op == 2 || op == 3

/-- Whether two descriptors name the same conversation and a common layer (R17). -/
def sameConvLayer (a b : Desc) : Bool :=
  a.conv == b.conv && (!(namesLayer a.opcode && namesLayer b.opcode) || a.layer == b.layer)

/-- Whether FORK's source or target meets another descriptor's conversation. -/
def touchesConv (a b : Desc) : Bool :=
  sameConvLayer a b || (a.opcode == 5 && a.queryRkey == b.conv) || (b.opcode == 5 && b.queryRkey == a.conv)

/-- Whether two descriptors name a common conversation, whatever their layers. -/
def sharesConv (a b : Desc) : Bool :=
  a.conv == b.conv || (a.opcode == 5 && a.queryRkey == b.conv) || (b.opcode == 5 && b.queryRkey == a.conv)

/-- Whether request `q` takes effect before `r` under R17. -/
def orderedBefore (q r : Req) : Bool :=
  decide (q.order < r.order) && q.ctx == r.ctx &&
    ((q.ring == r.ring && touchesConv q.desc r.desc) ||
      (match r.fence with | some f => decide (q.order < f) && sameOrigin q.ring r.ring | none => false))

/-- Whether two descriptors name a common head. -/
def commonHeads (a b : Desc) : Bool :=
  a.conv == b.conv && a.layer == b.layer && decide (a.kvhFirst < b.kvhFirst + b.kvhCount) && decide (b.kvhFirst < a.kvhFirst + a.kvhCount)

/-- Whether `q` writes tokens that the attention request `r` counts in its N (R42). -/
def feeds (q r : Req) : Bool :=
  r.desc.isAttend && q.admittedAt.isSome && q.ctx == r.ctx && q.desc.conv == r.desc.conv &&
    ((q.desc.opcode == 3 && commonHeads q.desc r.desc && decide (q.desc.tokenFirst + q.desc.tokenSpan ≤ r.n)) ||
      q.desc.opcode == 5 || q.desc.opcode == 10)

/-- Whether the TRIM `r` takes away tokens that the attention request `q`, admitted no later, still reads (R42, R167). -/
def readsTrimmed (q r : Req) : Bool :=
  r.desc.opcode == 6 && q.desc.isAttend && q.ctx == r.ctx && q.desc.conv == r.desc.conv && !orderedBefore r q &&
    (match q.admittedAt, r.admittedAt with
     | some a, some b => decide (a ≤ b)
     | _, _ => false)

/-- Whether demotions that `q` has triggered still run on the conversation that `r` is to change: `r` finds the pages they leave (R95, R96). -/
def demotesFor (q r : Req) : Bool :=
  q.effectDone && !q.demotions.isEmpty && q.ctx == r.ctx && q.desc.conv == r.desc.conv && [3, 4, 6, 7, 8].contains r.desc.opcode

/-- Whether an admitted operation may take its effect: what is ordered before it has taken its own; a RELEASE waits for
every request already admitted that names its conversation, as a FORK's source too (R17, R178), an attention request for the tokens it
counts, a TRIM for those who read what it cuts (R42), and a change of the conversation for demotions in progress (R96). -/
def State.mayAct (s : State) (r : Req) : Bool :=
  r.admittedAt.isSome && !r.effectDone &&
    !s.reqs.any (fun q => q.id != r.id && (demotesFor q r || (!q.effectDone &&
      (orderedBefore q r || feeds q r || readsTrimmed q r ||
        (r.desc.opcode == 7 && q.ctx == r.ctx && sharesConv q.desc r.desc && q.admittedAt.isSome)))))

/-- The admitted request of an opcode that may act, with its profile and conversation. -/
def State.acting (s : State) (id op : Nat) : Option (Req × Profile × Conv) :=
  match s.req? id with
  | none => none
  | some r =>
    match r.profile, s.conv? r.ctx r.desc.conv with
    | some p, some c => if r.desc.opcode == op && s.mayAct r then some (r, p, c) else none
    | _, _ => none

/-! ### Completion -/

/-- Finish an operation whose effect is written, once its demotions and its journal messages are done (R96, R291). -/
def State.settleReq (s : State) (id : Nat) : State :=
  match s.req? id with
  | none => s
  | some r =>
    if r.effectDone && r.demotions.isEmpty && r.journalWait.all s.msgAcked then
      s.finish id 4 0 (if r.desc.opcode = 8 then r.demoted else r.progress)
    else s

/-- The effect of an operation is written with this PROGRESS. -/
def State.effect (s : State) (id progress : Nat) (demotions : List Nat) : State :=
  (s.modReq id (fun r => { r with effectDone := true, progress := progress, demotions := r.demotions ++ demotions })).settleReq id

/-- Finish whatever acknowledgements now allow (R291). -/
def State.settleAll (s : State) : State := (s.reqs.map Req.id).foldl (fun s i => s.settleReq i) s

/-! ### Encoding tokens -/

/-- Rotated elements of a key or value vector, none for KV_VALUE (R48, R88). -/
def rotateKv (u : List (List F32)) (raw : List F32) : Option (List F32) :=
  if raw.any fNonFinite then none
  else
    let y := rotateVec u (raw.map fFlush)
    if y.any fNonFinite then none else some y

/-- Encoded pebbles of one vector of a token (R85-R88). -/
def encodeVec (l : LadderProfile) (fmt conv token layer head : Nat) (value : Bool) (x : List F32) : Option (List Bytes) :=
  collect ((List.range (x.length / 64)).map (fun j =>
    pebEncode fmt ((x.drop (64 * j)).take 64) value false
      (if l.sr then some ⟨l.seed, conv, token, layer, head, b2n value, 0, j⟩ else none)))

/-- Key pebbles and value pebbles of one token slot. -/
abbrev SlotPebs := List Bytes × List Bytes

/-- Elements of a source token for relative head `h` (R164): keys, values. -/
def sourceVecs (a : AttnProfile) (count : Nat) (data : Bytes) (tok h : Nat) : List F32 × List F32 :=
  let n := if a.latent then a.dk else a.dk + a.dv
  let b := data.drop ((tok * count + h) * n * 2)
  (bf16s b a.dk, if a.latent then [] else bf16s (b.drop (2 * a.dk)) a.dv)

/-- One token encoded in a format; none for KV_VALUE. -/
def encodeToken (p : Profile) (g : Geode) (d : Desc) (data : Bytes) (fmt tok h : Nat) : Option SlotPebs :=
  let u := g.rotation d.layer (d.kvhFirst + h)
  let (k, v) := sourceVecs p.attn d.kvhCount data tok h
  match rotateKv u k, rotateKv u v with
  | some k, some v =>
    match encodeVec p.ladder fmt d.conv (d.tokenFirst + tok) d.layer (d.kvhFirst + h) false k,
          encodeVec p.ladder fmt d.conv (d.tokenFirst + tok) d.layer (d.kvhFirst + h) true v with
    | some ks, some vs => some (ks, vs)
    | _, _ => none
  | _, _ => none

/-! ### Writing pages -/

/-- Put a list into another from a position on. -/
def lput {α : Type} (l : List α) (i : Nat) (xs : List α) : List α := l.take i ++ xs ++ l.drop (i + xs.length)

/-- Write one token slot of a frame. -/
def writeSlot (a : AttnProfile) (pebs : List Bytes) (t : Nat) (x : SlotPebs) : List Bytes :=
  let p := lput pebs (keyPeb a t 0) x.1
  if a.latent then p else lput p (128 * a.nk + t * a.nv) x.2

/-- Write consecutive slots of a page from its FILL on; the 128th token seals it (R93, R164, R264). -/
def Page.write (a : AttnProfile) (p : Page) (xs : List SlotPebs) : Page :=
  let pebs := (xs.zipIdx).foldl (fun f x => writeSlot a f (p.fill + x.2) x.1) p.pebbles
  let q : Page := { p with pebbles := pebs, fill := p.fill + xs.length }
  if q.fill = 128 then q.sealUp a else q.relink a

/-- A page of which nothing is written yet. -/
def Page.draft (conv layer head index fmt slot : Nat) : Page where
  conv := conv
  index := index
  layer := layer
  head := head
  format := fmt
  fill := 0
  isSealed := false
  shared := false
  sketchValid := false
  poisoned := false
  demotePending := false
  refs := 1
  tier := 1
  rung := 0
  frame := 0
  recHome := 0
  recSlot := 0
  digest := List.replicate 32 0
  leaf := List.replicate 32 0
  pebbles := []
  lo := []
  hi := []
  home := 0
  slot := slot
  pass := 0
  passFmt := 0
  bad := []
  rebuilt := false

/-- A new, empty page. -/
def Page.fresh (a : AttnProfile) (conv layer head index fmt slot : Nat) : Page :=
  { Page.draft conv layer head index fmt slot with
    pebbles := emptyFrame a fmt, lo := List.replicate a.dk 0, hi := List.replicate a.dk 0 }

/-- The page a reopen writes (R163): same index, format, rung and kept pebbles, unsealed, this conversation's only. Every kept pebble is
read, and one that fails poisons the new page (R90). -/
def Page.reopened (a : AttnProfile) (p : Page) (keep : Nat) : Page :=
  let fresh := emptyFrame a p.format
  let pebs := p.pebbles.zipIdx.map (fun x => if slotOfPeb a x.2 < keep then x.1 else lget fresh x.2 [])
  let q := ({ p with pebbles := pebs, fill := keep, isSealed := false, shared := false, sketchValid := false, refs := 1
                     bad := p.bad.filter (fun i => decide (slotOfPeb a i < keep))
                     lo := List.replicate a.dk 0, hi := List.replicate a.dk 0, demotePending := false, pass := 0, passFmt := 0 } : Page).relink a
  { q with poisoned := q.badPeb.isSome }

/-- A place for a page about to be written: its preferred stack channel or the next with room, or the far tier when the stacks have none or
the conversation is placed there (R123, R129, R134, R151); which far-tier channel is free. None where neither tier has a slot. -/
def State.placeNew (s : State) (p : Profile) (c : Conv) (n : Nat) (pg : Page) : Option (Spot × State) :=
  let pref := preferred 192 pg.conv pg.layer pg.head pg.index p.attn.kvheads (s.width n p.place)
  match (if c.placed = 1 then s.reserveIn p.attn pg.format 1 (s.channelsFrom pref) none pref else none) with
  | some x => some x
  | none => let (x, s1) := s.draw
    s1.reserveIn p.attn pg.format 2 (s1.farFrom x) none pref

/-- Store a page under the lowest free number (R92, R124); none without a number or a place. -/
def State.newPage (s : State) (ctx : Nat) (p : Profile) (c : Conv) (n : Nat) (pg : Page) : Option (Nat × State) :=
  match (s.ctx ctx).freePage, s.placeNew p c n pg with
  | some num, some (x, s1) => some (num, s1.putPage ctx num (pg.put x))
  | _, _ => none

/-- Page numbers a context may still allocate; retiring ones do not count (R124). -/
def Ctx.freeNumbers (x : Ctx) : Nat := 2 ^ 31 - x.pages.length - x.retiring.length

/-- The lines of tile SRAM that a page's frame has taken at its present place are written (R237). -/
def State.lineUp (s : State) (ctx num : Nat) (a : AttnProfile) : State :=
  match mget (s.ctx ctx).pages num with
  | some pg => if pg.tier = 0 then ((s.dropLines pg.home ctx num).giveLines a pg.format ctx num pg.spot).writeLines pg.home ctx num else s
  | none => s

/-- A page that a seal has completed gets its sketch and page-root maintenance in C3 (R32). -/
def State.sealWork (s : State) (ctx num : Nat) (pg : Page) : State := if pg.isSealed then s.housekeep ctx (.seal num) else s

/-- Journal that a conversation drops its reference to a page held here (R287). -/
def State.journalDrop (s : State) (ctx conv num : Nat) : State := match mget (s.ctx ctx).pages num with
  | some pg => s.journal ctx pg.slot (jentry 5 conv pg.layer pg.head pg.index)
  | none => s

/-- Put a page-map entry. -/
def State.setEntry (s : State) (ctx conv hk index : Nat) (e : PageEntry) : State :=
  s.modConv ctx conv (fun c => { c with pageMap := mset c.pageMap (pageKey hk index) e })

/-- Journal the pebbles of slots `first .. first + count - 1` of a page (R287, Table 13.6). -/
def State.journalPebbles (s : State) (ctx : Nat) (a : AttnProfile) (pg : Page) (first count : Nat) : State :=
  let keys := (span (first * a.nk) ((first + count) * a.nk)).map (fun i => lget pg.pebbles i [])
  let vals := (span (128 * a.nk + first * a.nv) (128 * a.nk + (first + count) * a.nv)).map (fun i => lget pg.pebbles i [])
  s.journal ctx pg.slot { jentry 1 pg.conv pg.layer pg.head pg.index with
    first := first, count := count, rung := pg.rung, data := (keys ++ vals).flatten }

/-- What an APPEND writes to one page: index, the page it continues with its number, the slots. -/
structure PagePlan where
  index : Nat
  old : Option (Nat × Page)
  slots : List SlotPebs
deriving DecidableEq, Repr

/-- Pages an APPEND touches on one head, from token `first` on. -/
def pagePlans (tail : Option (Nat × Page)) (first : Nat) : Nat → List SlotPebs → List PagePlan
  | 0, _ => []
  | fuel + 1, xs =>
    if xs.isEmpty then []
    else
      let room := 128 - first % 128
      ⟨first / 128, if first % 128 = 0 then none else tail, xs.take room⟩ ::
        pagePlans none (first + room) fuel (xs.drop room)

/-- Whether a plan takes a new page that counts towards the quota: a new page, or a reopened page that others keep. -/
def PagePlan.starts (x : PagePlan) : Bool := match x.old with
  | none => true
  | some (_, p) => p.isSealed && decide (1 < p.refs)

/-- Whether a plan needs a page number: a new page or a reopened one (R124). -/
def PagePlan.numbers (x : PagePlan) : Bool := match x.old with
  | none => true
  | some (_, p) => p.isSealed

/-- The tail page of a head that an APPEND continues: none if it starts one. -/
def State.tailPage (s : State) (ctx : Nat) (c : Conv) (hk first : Nat) : Option (PageEntry × Option Page) :=
  if first % 128 = 0 then none
  else match c.entry hk (first / 128) with
    | none => none
    | some e => some (e, (s.ctx ctx).entryPage s.ownsSlot e)

/-- Write one planned page; none when no tier has a slot for it. -/
def State.applyPlan (s : State) (ctx : Nat) (p : Profile) (d : Desc) (hk n : Nat) (x : PagePlan) : Option State :=
  match s.conv? ctx d.conv with
  | none => some s
  | some c =>
    let head := hk - d.layer * 128
    match x.old with
    | none =>
      let pg := (Page.fresh p.attn d.conv d.layer head x.index p.ladder.fresh c.home).write p.attn x.slots
      (s.newPage ctx p c n pg).map (fun y =>
        ((y.2.setEntry ctx d.conv hk x.index (entryOf c.home y.1 pg)).sealWork ctx y.1 pg).journalPebbles ctx p.attn pg 0 x.slots.length)
    | some (num, old) =>
      if old.isSealed then
        let pg := { (old.reopened p.attn old.fill).write p.attn x.slots with conv := d.conv }
        (s.newPage ctx p c n pg).map (fun y =>
          (((y.2.setEntry ctx d.conv hk x.index (entryOf old.slot y.1 pg)).dropRef ctx num).sealWork ctx y.1 pg).journalPebbles
            ctx p.attn pg 0 pg.fill)
      else
        let pg := old.write p.attn x.slots
        some (((s.putPage ctx num pg).sealWork ctx num pg).journalPebbles ctx p.attn pg old.fill x.slots.length)

/-! ### Demotion -/

/-- Send a PAGE_OP to the member that holds a page (Table 13.3); answers whether it went. -/
def State.sendPageOp (s : State) (ctx cls : Nat) (e : PageEntry) (o : PageOpBody) : Bool × State :=
  match s.peerConn ctx e.member with
  | none => (false, s)
  | some c => (true, s.sendSend c (.peer 8) 8 (pageOpBytes o) cls)

/-- Start a demotion of a page held here to rung `k` in format `fmt`, the one the ladder in force gives (R94, R16), or only set its RUNG when
the format is not tighter (R95, R96). Answers whether a demotion runs. -/
def State.startDemotion (s : State) (ctx num k fmt : Nat) (pg : Page) : Bool × State :=
  if fmt < pg.format then
    (true, (((s.abandonAssays ctx num).abortMove ctx num).modPage ctx num (fun q =>
      { q with demotePending := true, pass := k, passFmt := fmt })).touch ctx num)
  else
    (false, (s.modPage ctx num (fun q => { q with rung := k })).touch ctx num)

/-- Drop a conversation's reference to a page of a peer: PAGE_OP 3 (R167, R168, Table 13.3). -/
def State.dropRemote (s : State) (ctx conv cls : Nat) (e : Nat × PageEntry) : State :=
  (s.sendPageOp ctx cls e.2 ⟨conv, e.1 / 2 ^ 25 / 128, e.1 / 2 ^ 25 % 128, 3, e.1 % 2 ^ 25, 0, 0, []⟩).2

/-- Ask the holder of a page to cut it to `len` tokens of its head, which reopens a sealed one (R163, R167): PAGE_OP 2. The entry waits for
the reopened page, which comes back to the home as a tail page. -/
def State.reopenRemote (s : State) (ctx conv cls : Nat) (e : Nat × PageEntry) (len : Nat) : Bool × State :=
  let (sent, s1) := s.sendPageOp ctx cls e.2 ⟨conv, e.1 / 2 ^ 25 / 128, e.1 / 2 ^ 25 % 128, 2, e.1 % 2 ^ 25, 0, len, []⟩
  if sent then (true, s1.setEntry ctx conv (e.1 / 2 ^ 25) (e.1 % 2 ^ 25) { e.2 with shared := false, asked := true }) else (false, s1)

/-- Key under which a request waits for a demotion on a peer. -/
def remoteKey (hk index : Nat) : Nat := 2 ^ 40 + pageKey hk index

/-- The rung a page a peer holds has reached, from what its map entry says of it (R95). -/
def PageEntry.reached (l : LadderProfile) (t index : Nat) (e : PageEntry) : Option Nat :=
  if e.shared || e.poisoned || e.lost || e.asked then none
  else [3, 2, 1].find? (fun k =>
    let age := lget l.ages (k - 1) 0
    age != 0 && decide (index + age ≤ t) && decide (e.rung < k))

/-- Ask a holder to demote a page to rung `k` (Table 13.3); the entry follows. Answers whether the request went. -/
def State.demoteRemote (s : State) (ctx conv cls : Nat) (e : Nat × PageEntry) (k fmt : Nat) : Bool × State :=
  let (sent, s1) := s.sendPageOp ctx cls e.2 ⟨conv, e.1 / 2 ^ 25 / 128, e.1 / 2 ^ 25 % 128, 1, e.1 % 2 ^ 25, k, 0, []⟩
  if sent then
    (true, s1.setEntry ctx conv (e.1 / 2 ^ 25) (e.1 % 2 ^ 25) { e.2 with rung := k, fmt := min fmt e.2.fmt })
  else (false, s1)

/-- Apply the ladder to the pages of a head after an operation that left its tail index at `t` (R95); answers the demotions that must
complete. -/
def State.climb (s : State) (ctx : Nat) (p : Profile) (cls : Nat) (conv hk t : Nat) : List Nat × State :=
  match s.conv? ctx conv with
  | none => ([], s)
  | some c =>
    (c.headEntries hk (t + 1)).foldl (fun acc e =>
      let (ds, s) := acc
      if s.ownsSlot e.2.member then
        match mget (s.ctx ctx).pages e.2.page with
        | none => acc
        | some pg => match rungReached p.ladder t pg with
          | none => acc
          | some k =>
            let (runs, s1) := s.startDemotion ctx e.2.page k (p.ladder.fmt k) pg
            (if runs then ds ++ [e.2.page] else ds, s1)
      else
        match e.2.reached p.ladder t e.1 with
        | none => acc
        | some k =>
          let (sent, s1) := s.demoteRemote ctx conv cls (pageKey hk e.1, e.2) k (p.ladder.fmt k)
          (if sent then ds ++ [remoteKey hk e.1] else ds, s1)) ([], s)

/-- A slot in the pool of a page's new format (R92, R123): in its own unit, else in another of its tier; its old slot where none is free. -/
def State.respot (s : State) (p : Profile) (pg : Page) (fmt : Nat) : Spot × State :=
  let others := if pg.tier = 1 then s.channelsFrom pg.home else if pg.tier = 2 then s.farFrom pg.home else []
  (s.reserveIn p.attn fmt pg.tier (pg.home :: others) (some (pg.recHome, pg.recSlot)) pg.recHome).getD (pg.spot, s)

/-- A demotion that ends: the page takes its new form, or is poisoned at pebble `bad`, which a unit has met (R96, R90). -/
def State.demoteNow (s : State) (ctx num : Nat) (bad : Option Nat) (u : ErrUnit) : State :=
  match mget (s.ctx ctx).pages num, (s.ctx ctx).profile with
  | some pg, some p =>
    if !pg.demotePending then s
    else
      let (q, found) : Page × Option Nat := match bad with
        | some i => ({ pg with poisoned := true, demotePending := false, bad := pg.bad ++ [i] }, some i)
        | none => pg.demote p.attn p.ladder pg.passFmt pg.pass pg.pass
      match found with
      | some i => (s.putPage ctx num { q with pass := 0, passFmt := 0 }).corrupt ctx num i u {}
      | none =>
        let (x, s1) := s.respot p pg q.format
        ((s1.putPage ctx num { q.put x with pass := 0, passFmt := 0 }).lineUp ctx num p.attn).journal ctx q.slot
          { jentry 6 q.conv q.layer q.head q.index with rung := q.rung }
  | _, _ => s

/-- PAGE_OP_DONE for a page: the operation's fields and the page's leaf (Table 13.3). -/
def State.pageOpDone (s : State) (conn : Nat) (op leaf : Bytes) : State := s.sendSend conn (.peer 9) 9 (op ++ leaf) 3

/-- OP and RUNG of a PAGE_OP, from its fields (Table 13.3). -/
def opOf (raw : Bytes) : Nat := le raw 7 1
def opRung (raw : Bytes) : Nat := le raw 0x0C 1

/-- Answer the PAGE_OPs that asked for a demotion that has ended; one that names a higher rung demotes the page again (Table 13.3, R95). -/
def State.answerPageOps (s : State) (ctx key : Nat) : State :=
  match mget (s.ctx ctx).pages key, (s.ctx ctx).profile with
  | some pg, some p =>
    let mine (o : Nat × Nat × Nat × Bytes) : Bool := o.1 == ctx && o.2.1 == key && opOf o.2.2.2 == 1
    let more (o : Nat × Nat × Nat × Bytes) : Bool := decide (pg.rung < opRung o.2.2.2) && !pg.poisoned
    let due := s.comp.pageOps.filter mine
    let again := due.filter more
    let k := (again.map (fun o => opRung o.2.2.2)).foldl max 0
    let (runs, s1) := if again.isEmpty then (false, s) else s.startDemotion ctx key k (if k = 4 then p.ladder.floor else p.ladder.fmt k) pg
    let done (o : Nat × Nat × Nat × Bytes) : Bool := mine o && (!runs || !more o)
    let s2 : State := { s1 with comp := { s1.comp with pageOps := s1.comp.pageOps.filter (fun o => !done o) } }
    (due.filter done).foldl (fun s o => s.pageOpDone o.2.2.1 o.2.2.2 pg.leaf) s2
  | _, _ => { s with comp := { s.comp with pageOps := s.comp.pageOps.filter (fun o => !(o.1 == ctx && o.2.1 == key)) } }

/-- A demotion has ended: the requests that waited for it may complete; one that went well is counted (R96, R169). -/
def State.demotionOver (s : State) (ctx key : Nat) (ok : Bool) : State :=
  let reqs := lmod s.reqs (fun r => r.ctx == ctx && r.demotions.contains key)
    (fun r => { r with demotions := r.demotions.filter (· != key), demoted := r.demoted + b2n ok })
  (({ s with reqs := reqs } : State).answerPageOps ctx key).settleAll

/-- Whether a page's demotion has failed: the page is poisoned. -/
def State.pagePoisoned (s : State) (ctx num : Nat) : Bool := match mget (s.ctx ctx).pages num with
  | some p => p.poisoned
  | none => true

/-- Whether a page lies where a unit can scan it: one in bedrock is promoted first (Table 7.1). -/
def State.scannable (s : State) (ctx num : Nat) : Bool := match mget (s.ctx ctx).pages num with
  | some p => p.tier != 3
  | none => false

/-- DEMOTION_COMPLETE: a page's demotion tasks finish (R96). -/
def execDemotionComplete (t ctx page : Nat) (bad : Option Nat) (s : State) : Host.Outcome State Fault Refusal :=
  if s.assayOn ctx page || !s.scannable ctx page then .next (s.at_ t) else
  let s1 := (s.at_ t).demoteNow ctx page bad (s.scanUnit ctx page)
  .next (s1.demotionOver ctx page (!s1.pagePoisoned ctx page))

/-! ### APPEND -/

/-- What an APPEND finds on one head before anything is written: `away` while the tail page is not where an APPEND can write it, `none` for
one that lies here and comes up from bedrock or the host tier, else the entry of one a peer holds (R135, R163). -/
inductive HeadPlan where
  | ok (hk : Nat) (plans : List PagePlan)
  | away (entry : Option (Nat × PageEntry))
  | fails (code : Nat) (poisoned : Option (Nat × Nat))
deriving DecidableEq, Repr

/-- Encode and check one head of an APPEND (R88, R90, R163). -/
def State.planHead (s : State) (r : Req) (p : Profile) (c : Conv) (data : Bytes) (h : Nat) : HeadPlan :=
  let d := r.desc
  let hk := headKey d.layer (d.kvhFirst + h)
  let x := s.ctx r.ctx
  let g := x.geode p
  let go (fmt : Nat) (tail : Option (Nat × Page)) : HeadPlan :=
    match collect ((List.range (128 - d.tokenFirst % 128)).map (fun t =>
        if t < d.tokenSpan then (encodeToken p g d data (if tail.isSome then fmt else p.ladder.fresh) t h).map some else some none)),
      collect ((span (128 - d.tokenFirst % 128) d.tokenSpan).map (fun t => encodeToken p g d data p.ladder.fresh t h)) with
    | some a, some b => .ok hk (pagePlans tail d.tokenFirst (d.tokenSpan / 128 + 2) (a.filterMap id ++ b))
    | _, _ => .fails cKvValue none
  match s.tailPage r.ctx c hk d.tokenFirst with
  | none => go p.ladder.fresh none
  | some (e, none) => if e.poisoned || e.lost then .fails cPageCorrupt none else .away (some (pageKey hk (d.tokenFirst / 128), e))
  | some (e, some pg) =>
    if pg.poisoned || e.poisoned || e.lost then .fails cPageCorrupt none
    else if 3 ≤ pg.tier then .away none
    else if pg.isSealed && (pg.reopened p.attn pg.fill).poisoned then .fails cPageCorrupt (some (e.page, pg.badPeb.getD 0))
    else go pg.format (some (e.page, pg))

/-- The first failure of the heads of an APPEND. -/
def firstFail (l : List HeadPlan) : Option (Nat × Option (Nat × Nat)) :=
  l.findSome? (fun x => match x with | .fails c q => some (c, q) | _ => none)

/-- Plans of the heads. -/
def okPlans (l : List HeadPlan) : List (Nat × List PagePlan) :=
  l.filterMap (fun x => match x with | .ok hk ps => some (hk, ps) | _ => none)

/-- Write the planned pages of an APPEND, one after the other; none when a page finds no slot. -/
def State.applyPlans (s : State) (r : Req) (p : Profile) (plans : List (Nat × List PagePlan)) : Option State :=
  let n := pagesOf (r.desc.tokenFirst + r.desc.tokenSpan)
  plans.foldl (fun acc hp => hp.2.foldl (fun acc x => acc.bind (fun s => s.applyPlan r.ctx p r.desc hp.1 n x)) acc) (some s)

/-- The lengths after an APPEND, and what the ladder asks (R163, R164, R95). -/
def State.appended (s : State) (r : Req) (p : Profile) (plans : List (Nat × List PagePlan)) : State :=
  let d := r.desc
  let s2 := s.modConv r.ctx d.conv (fun c =>
    { c with lens := plans.foldl (fun m hp => mset m hp.1 (d.tokenFirst + d.tokenSpan)) c.lens
             creator := if c.creator == some r.id then none else c.creator })
  let (ds, s3) := plans.foldl (fun (acc : List Nat × State) hp =>
    let (ds, s4) := acc.2.climb r.ctx p (clsNum r.cls) d.conv hp.1 ((d.tokenFirst + d.tokenSpan - 1) / 128)
    (acc.1 ++ ds, s4)) ([], s2)
  s3.modReq r.id (fun q => { q with demotions := q.demotions ++ ds })

/-- Tail pages that peers hold are asked back, once (R163). -/
def State.askBack (s : State) (r : Req) (heads : List HeadPlan) : State :=
  heads.foldl (fun s h => match h with
    | .away (some e) => if e.2.asked then s else (s.reopenRemote r.ctx r.desc.conv (clsNum r.cls) e r.desc.tokenFirst).2
    | _ => s) s

/-- In exact mode the APPEND's entries go out at once, in its class (R291); in bounded mode with the tick (R290). -/
def State.flushAppend (s : State) (r : Req) : State :=
  if (s.ctx r.ctx).fMode != 2 then s
  else
    s.ownSlots.foldl (fun s slot =>
      let (m, s1) := s.flushStream r.ctx slot (clsNum r.cls) []
      s1.modReq r.id (fun q => { q with journalWait := q.journalWait ++ m })) s

/-- Whether every source byte of an APPEND has landed. -/
def Desc.sourceBytes (d : Desc) (a : AttnProfile) : Nat :=
  if a.latent then d.tokenSpan * a.dk * 2 else d.tokenSpan * d.kvhCount * (a.dk + a.dv) * 2

/-- Source size of an APPEND request. -/
def Req.sourceBytes (r : Req) (a : AttnProfile) : Nat := r.desc.sourceBytes a

/-- Take the effect of an admitted APPEND (R164): all of it or none. It waits for its source, for a tail page that is away, and for room in the
tiers. -/
def State.appendReq (s : State) (r : Req) (p : Profile) (c : Conv) : State :=
  let data := (mget r.operands 0).getD []
  if data.length < r.sourceBytes p.attn then s
  else
    let heads := (List.range r.desc.kvhCount).map (s.planHead r p c data)
    match firstFail heads with
    | some (code, bad) =>
      let s1 := match bad with
        | none => s
        | some (page, i) => s.corrupt r.ctx page i (.tile (s.mergeTile r.id)) (s.reqInfo r)
      s1.failReq r.id code 0
    | none =>
      let x := s.ctx r.ctx
      let plans := okPlans heads
      let all := plans.flatMap (·.2)
      if heads.any (fun h => match h with | .away _ => true | _ => false) then s.askBack r heads
      else if !x.quotaOk (x.pinnedConv c) (all.filter PagePlan.starts).length ||
          x.freeNumbers < (all.filter PagePlan.numbers).length then s.failReq r.id cQuota 0
      else match s.applyPlans r p plans with
        | none => s
        | some s1 => ((s1.appended r p plans).flushAppend r).effect r.id r.desc.tokenSpan []

/-- APPEND: write tokens' rotated and compressed keys and values (R164). -/
def execAppend (t req : Nat) (s : State) : Host.Outcome State Fault Refusal :=
  let s := s.at_ t
  match s.acting req 3 with
  | some (r, p, c) => .next (s.appendReq r p c)
  | none => .next s

/-! ### SEAL, FORK, TRIM, RELEASE, HINT -/

/-- Tail pages SEAL seals: entries of local, unpoisoned, unsealed pages with FILL 1 to 127 (R165). -/
def State.sealable (s : State) (ctx : Nat) (c : Conv) : List (Nat × Nat × Page) :=
  c.pageMap.filterMap (fun e => match (s.ctx ctx).entryPage s.ownsSlot e.2 with
    | none => none
    | some pg =>
      if !pg.isSealed && !pg.poisoned && !e.2.poisoned && decide (1 ≤ pg.fill) && decide (pg.fill ≤ 127) then
        some (e.1 / 2 ^ 25, e.2.page, pg)
      else none)

/-- SEAL: seal every unpoisoned partly filled tail page (R165). It waits for a reopened page that a peer still holds (R163). -/
def execSeal (t req : Nat) (s : State) : Host.Outcome State Fault Refusal :=
  let s := s.at_ t
  match s.acting req 4 with
  | none => .next s
  | some (r, p, c) =>
    if c.pageMap.any (fun e => e.2.asked && !e.2.poisoned && !e.2.lost) then .next s
    else
    let l := s.sealable r.ctx c
    let s1 := l.foldl (fun s x =>
      ((s.putPage r.ctx x.2.1 (x.2.2.sealUp p.attn)).housekeep r.ctx (.seal x.2.1)).journal r.ctx x.2.2.slot
        (jentry 2 x.2.2.conv x.2.2.layer x.2.2.head x.2.2.index)) s
    let (ds, s2) := l.foldl (fun (acc : List Nat × State) x =>
      let (ds, s3) := acc.2.climb r.ctx p (clsNum r.cls) r.desc.conv x.1 x.2.2.index
      (acc.1 ++ ds, s3)) ([], s1)
    .next (s2.effect r.id l.length ds)

/-- Head keys of a profile's shape. -/
def allHeads (a : AttnProfile) : List Nat := (List.range a.layers).flatMap (fun l => (List.range a.kvheads).map (headKey l))

/-- Length a FORK shares: TOKEN_SPAN, or the shortest length of the source (R166). -/
def forkSpan (a : AttnProfile) (d : Desc) (src : Conv) : Nat :=
  if d.tokenSpan != 0 then d.tokenSpan
  else match (allHeads a).map src.len with
    | [] => 0
    | n :: ns => ns.foldl min n

/-- Whether the page of an entry is sealed as FORK needs it: sealed, the last one with FILL = S mod 128. A page a peer
holds is sealed, with FILL 128 below the source's length (only sealed pages leave the home, R132). -/
def State.forkable (s : State) (ctx : Nat) (src : Conv) (hk i span : Nat) : Bool :=
  match src.entry hk i with
  | none => false
  | some e => match (s.ctx ctx).entryPage s.ownsSlot e with
    | some pg => pg.isSealed && (decide (128 * (i + 1) ≤ span) || pg.fill == span % 128)
    | none => !e.asked && (decide (128 * (i + 1) ≤ span) || (span % 128 == src.len hk % 128 && span == src.len hk))

/-- The first check FORK fails (R166). -/
def State.forkCode (s : State) (ctx : Nat) (a : AttnProfile) (src : Conv) (span : Nat) : Option Nat :=
  let hs := allHeads a
  if hs.any (fun hk => src.len hk < span) then some cPosition
  else if hs.any (fun hk => (List.range (pagesOf span)).any (fun i => !s.forkable ctx src hk i span)) then some cNotSealed
  else none

/-- Entries a FORK references. -/
def forkEntries (a : AttnProfile) (src : Conv) (span : Nat) : Map PageEntry :=
  src.pageMap.filter (fun e => decide (e.1 % 2 ^ 25 < pagesOf span) && (allHeads a).contains (e.1 / 2 ^ 25))

/-- FORK: reference sealed pages of a source conversation (R166, R98). -/
def execFork (t req : Nat) (s : State) : Host.Outcome State Fault Refusal :=
  let s := s.at_ t
  match s.acting req 5 with
  | none => .next s
  | some (r, p, _) =>
    match s.conv? r.ctx r.desc.queryRkey with
    | none => .next (s.failReq r.id cNoConv 0)
    | some src =>
      let span := forkSpan p.attn r.desc src
      match s.forkCode r.ctx p.attn src span with
      | some code => .next (s.failReq r.id code 0)
      | none =>
        let es := forkEntries p.attn src span
        let s1 := es.foldl (fun s e =>
          if s.ownsSlot e.2.member then
            (s.modPage r.ctx e.2.page (fun q => { q with refs := q.refs + 1, shared := true })).touch r.ctx e.2.page
          else s) s
        let mark (m : Map PageEntry) : Map PageEntry := mall m (fun key e => if mhas es key then { e with shared := true } else e)
        let s2 := (s1.modConv r.ctx r.desc.queryRkey (fun c => { c with pageMap := mark c.pageMap })).modConv r.ctx r.desc.conv (fun c =>
          { c with pageMap := mark es, creator := none
                   lens := (allHeads p.attn).foldl (fun m hk => mset m hk span) c.lens
                   expected := (allHeads p.attn).foldl (fun m hk => mset m hk span) c.expected })
        let s3 := s2.ownSlots.foldl (fun s slot => s.journal r.ctx slot
          { jentry 4 r.desc.conv 0 0 0 with arg := span, arg2 := r.desc.queryRkey }) s2
        .next (s3.effect r.id es.length [])

/-- Cut a page in place (R167): FILL reduced, the cut slots absent. -/
def Page.cut (a : AttnProfile) (p : Page) (keep : Nat) : Page :=
  let fresh := emptyFrame a p.format
  ({ p with fill := keep
            pebbles := p.pebbles.zipIdx.map (fun x => if slotOfPeb a x.2 < keep then x.1 else lget fresh x.2 []) } : Page).relink a

/-- A page cut where it lies; a parcel in bedrock is written anew (R167, R141). -/
def State.cutPage (s : State) (ctx num : Nat) (a : AttnProfile) (pg : Page) (keep : Nat) : State :=
  let s1 := s.putPage ctx num (pg.cut a keep)
  if pg.tier = 3 then s1.addParcel ctx num else s1

/-- TRIM one page-map entry to length `len` of its head (R167); none when a reopened page finds no number or slot. -/
def State.trimEntry (s : State) (r : Req) (p : Profile) (len : Nat) (e : Nat × PageEntry) : Option State :=
  let hk := e.1 / 2 ^ 25
  let i := e.1 % 2 ^ 25
  let conv := r.desc.conv
  let gone (s : State) : State := s.modConv r.ctx conv (fun c => { c with pageMap := mdel c.pageMap e.1 })
  if !s.ownsSlot e.2.member then
    if len ≤ 128 * i then some (gone (s.dropRemote r.ctx conv (clsNum r.cls) e))
    else
      let (sent, s1) := s.reopenRemote r.ctx conv (clsNum r.cls) e len
      some (if sent then s1.modReq r.id (fun q => { q with demotions := q.demotions ++ [remoteKey hk i] }) else s1)
  else
    match mget (s.ctx r.ctx).pages e.2.page with
    | none => some s
    | some pg =>
      if len ≤ 128 * i then some (gone (s.dropRef r.ctx e.2.page))
      else
        let keep := len - 128 * i
        if !pg.isSealed && !pg.shared && !pg.poisoned then some (s.cutPage r.ctx e.2.page p.attn pg keep)
        else
          match s.conv? r.ctx conv with
          | none => some s
          | some c =>
            let q := { pg.reopened p.attn keep with conv := conv }
            ((if pg.tier = 3 then s.readParcel r.ctx e.2.page else s).newPage r.ctx p c (pagesOf len) q).map (fun y =>
              let s2 := (y.2.setEntry r.ctx conv hk i (entryOf e.2.member y.1 q)).dropRef r.ctx e.2.page
              let s3 := match q.badPeb with
                | some b => s2.corrupt r.ctx y.1 b (.tile (s.mergeTile r.id)) (s.reqInfo r)
                | none => s2
              s3.journalPebbles r.ctx p.attn q 0 keep)

/-- Entries a TRIM to `len` drops, cuts or reopens: every page that reaches beyond it. -/
def trimmed (c : Conv) (len : Nat) : List (Nat × PageEntry) :=
  c.pageMap.filter (fun e => decide (len < c.len (e.1 / 2 ^ 25)) &&
    decide (len < min (128 * (e.1 % 2 ^ 25 + 1)) (c.len (e.1 / 2 ^ 25))))

/-- Of those, the ones dropped or reopened, which PROGRESS counts; a cut in place is neither. -/
def State.trimCount (s : State) (ctx : Nat) (len : Nat) (es : List (Nat × PageEntry)) : Nat :=
  (es.filter (fun e => decide (len ≤ 128 * (e.1 % 2 ^ 25)) ||
    (match (s.ctx ctx).entryPage s.ownsSlot e.2 with
     | some pg => pg.isSealed || pg.shared || pg.poisoned
     | none => true))).length

/-- TRIM: shorten every layer and head to TOKEN_FIRST (R167). -/
def execTrim (t req : Nat) (s : State) : Host.Outcome State Fault Refusal :=
  let s := s.at_ t
  match s.acting req 6 with
  | none => .next s
  | some (r, p, c) =>
    let len := r.desc.tokenFirst
    let es := trimmed c len
    let cuts := es.filterMap (fun e => match (s.ctx r.ctx).entryPage s.ownsSlot e.2 with
      | some pg => if 128 * (e.1 % 2 ^ 25) < len && !pg.isSealed && !pg.shared then some e.2.page else none
      | none => none)
    if cuts.any (fun n => s.assayOn r.ctx n) then .next s
    else
    let s := cuts.foldl (fun s n => s.abandonAssays r.ctx n) s
    let s0 := s.ownSlots.foldl (fun s slot => (c.lens.filter (fun e => decide (len < e.2))).foldl (fun s e =>
      s.journal r.ctx slot { jentry 3 r.desc.conv (e.1 / 128) (e.1 % 128) 0 with arg := len }) s) s
    match es.foldl (fun acc e => acc.bind (fun s => s.trimEntry r p len e)) (some s0) with
    | none => .next s
    | some s1 =>
      let s2 := s1.modConv r.ctx r.desc.conv (fun c =>
        { c with lens := mall c.lens (fun _ n => min n len), expected := mall c.expected (fun _ n => min n len) })
      .next (s2.effect r.id (s.trimCount r.ctx len es) [])

/-- RELEASE: drop a reference from every page and end the conversation (R168). -/
def execRelease (t req : Nat) (s : State) : Host.Outcome State Fault Refusal :=
  let s := s.at_ t
  match s.acting req 7 with
  | none => .next s
  | some (r, _, c) =>
    let s1 := c.pageMap.foldl (fun s e =>
      if s.ownsSlot e.2.member then (s.journalDrop r.ctx r.desc.conv e.2.page).dropRef r.ctx e.2.page
      else s.dropRemote r.ctx r.desc.conv (clsNum r.cls) e) s
    let s2 := s1.modCtx r.ctx (fun x => { x with convs := mdel x.convs r.desc.conv })
    .next ((s2.effect r.id c.pageMap.length []).settleAll)

/-- Pages a park demotes: sealed, unshared, unpoisoned, above S_FLOOR (R95). -/
def parkable (floor : Nat) (pg : Page) : Bool :=
  pg.isSealed && !pg.shared && !pg.poisoned && decide (floor < pg.format)

/-- Start the demotions of a park. -/
def State.parkPages (s : State) (r : Req) (p : Profile) (c : Conv) : List Nat × State :=
  c.pageMap.foldl (fun (acc : List Nat × State) e =>
    if acc.2.ownsSlot e.2.member then
      match mget (acc.2.ctx r.ctx).pages e.2.page with
      | some pg => if parkable p.ladder.floor pg then
          (acc.1 ++ [e.2.page], (acc.2.startDemotion r.ctx e.2.page 4 p.ladder.floor pg).2) else acc
      | none => acc
    else if e.2.shared || e.2.poisoned || e.2.lost || e.2.asked || e.2.fmt ≤ p.ladder.floor then acc
    else
      let (sent, s1) := acc.2.demoteRemote r.ctx r.desc.conv (clsNum r.cls) e 4 p.ladder.floor
      (if sent then acc.1 ++ [remoteKey (e.1 / 2 ^ 25) (e.1 % 2 ^ 25)] else acc.1, s1)) ([], s)

/-- The park record of a conversation that is not striped, written beside the sealed map (R338). -/
def State.parkRecord (s : State) (r : Req) (p : Profile) : State :=
  match s.conv? r.ctx r.desc.conv with
  | none => s
  | some c =>
    if striped (pagesOf ((c.lens.map Prod.snd).foldl max 0)) s.nc p.place then s
    else
      let id := match s.comp.current with
        | some m => m.compId
        | none => 0
      let rest := s.nv.parks.filter (fun k => !(k.ctx == r.ctx && k.conv == r.desc.conv))
      { s with nv := { s.nv with parks := rest ++ [⟨r.ctx, r.desc.conv, c, [], id, c.home⟩] } }

/-- Whether a park is refused (R140, R143), and its CODE. -/
def State.parkCode (s : State) (ctx : Nat) : Nat :=
  if (s.ctx ctx).c0 then cPinned else if s.rd F.TIER_BEDROCK.READ_ONLY = 1 then cTierFull else 0

/-- HINT: pin, unpin or park (R169, R95, R338). Placement recorded the new input at the admission, in ring order with what clears it (R17,
R133), where a park that R140 or R143 forbids was refused. -/
def execHint (t req : Nat) (s : State) : Host.Outcome State Fault Refusal :=
  let s := s.at_ t
  match s.acting req 8 with
  | none => .next s
  | some (r, p, c) =>
    match r.desc.qgroup with
    | 1 => .next (s.effect r.id 0 [])
    | 2 => .next (s.effect r.id 0 [])
    | 3 =>
      let (ds, s1) := (s.parkRecord r p).parkPages r p c
      .next (s1.effect r.id ds.length ds)
    | _ => .next (s.failReq r.id cHintOp 0)

end Sys2Proof.Machine
end

