-- ==== Sys2Proof/Machine/Copy.lean ====
section
/-! DEFINITION. The opcodes that copy pages and the fences: EXPORT, IMPORT, PROBE, FENCE (08_rings.md, R170-R173, R177). -/
namespace Sys2Proof.Machine

/-! ### Naming layers and heads -/

/-- Whether a descriptor of EXPORT or PROBE obeys R173. -/
def namesOk (a : AttnProfile) (d : Desc) : Bool :=
  (d.layer == 0xFFFF || decide (d.layer < a.layers)) &&
    (if d.kvhCount = 0 then d.kvhFirst == 0 else decide (d.kvhFirst + d.kvhCount ≤ a.kvheads))

/-- Head keys a descriptor of EXPORT or PROBE names, in [layer][head] order (R173). -/
def namedHeads (a : AttnProfile) (d : Desc) : List Nat :=
  let ls := if d.layer = 0xFFFF then List.range a.layers else [d.layer]
  let hs := if d.kvhCount = 0 then List.range a.kvheads else span d.kvhFirst (d.kvhFirst + d.kvhCount)
  ls.flatMap (fun l => hs.map (headKey l))

/-! ### EXPORT -/

/-- Page-map entries an EXPORT names: pages of the named heads that overlap its token range (R170). -/
def exportEntries (a : AttnProfile) (d : Desc) (c : Conv) : List (Nat × PageEntry) :=
  (namedHeads a d).flatMap (fun hk =>
    let n := c.len hk
    let last := if d.tokenSpan = 0 then n else min n (d.tokenFirst + d.tokenSpan)
    (c.headEntries hk (pagesOf n)).filter (fun e => decide (e.1 * 128 < last) && decide (d.tokenFirst < (e.1 + 1) * 128)))

/-- Bytes the parcels of an EXPORT take at the formats the pages hold (R170); the page map has the format of one a peer holds. -/
def State.exportSize (s : State) (ctx : Nat) (a : AttnProfile) (es : List (Nat × PageEntry)) : Nat :=
  lsum (es.map (fun e => match (s.ctx ctx).entryPage s.ownsSlot e.2 with
    | some pg => parcelSize a pg.format
    | none => parcelSize a e.2.fmt))

/-- The exported bytes of a page, or the pebble that fails its check. A page a peer holds: the manual gives no message
that fetches it, so its parcel's bytes are free (notes/assumptions/4.md). -/
def State.exportOne (s : State) (ctx : Nat) (p : Profile) (e : PageEntry) : (Bytes ⊕ Nat) × State :=
  match (s.ctx ctx).entryPage s.ownsSlot e with
  | some pg =>
    if pg.poisoned then (.inr (pg.badPeb.getD 0), s)
    else match pg.badPeb with
      | some i => (.inr i, s)
      | none => (.inl (exportBytes p.attn pg), if pg.tier = 3 then s.readParcel ctx e.page else s)
  | none =>
    let n := parcelSize p.attn e.fmt
    (.inl ((List.range n).map (fun i => Config.freeByte (s.free + i))), { s with free := s.free + n })

/-- Write parcels from a position on; stops at a corrupt page (R90, R170). -/
def State.exportFrom (s : State) (r : Req) (p : Profile) (addr : Nat) : Nat → List (Nat × PageEntry) → State
  | done, [] => s.effect r.id done []
  | done, e :: es =>
    let (b, s1) := s.exportOne r.ctx p e.2
    match b with
    | .inr i => ((s1.corrupt r.ctx e.2.page i .mover (s1.reqInfo r))).failReq r.id
        cPageCorrupt done
    | .inl data =>
      (s1.writeResult (ringDest r.ring) r.order r.desc.resultRkey addr (clsNum r.cls) data).exportFrom r p (addr + data.length)
        (done + 1) es

/-- EXPORT: decrypted parcels of the named pages (R170). -/
def execExportPages (t req : Nat) (s : State) : Host.Outcome State Fault Refusal :=
  let s := s.at_ t
  match s.acting req 9 with
  | none => .next s
  | some (r, p, c) => .next (s.exportFrom r p r.desc.resultAddr 0 (exportEntries p.attn r.desc c))

/-! ### IMPORT -/

/-- Head key and page index of the k-th parcel (R171). -/
def importPlace (a : AttnProfile) (len k : Nat) : Nat × Nat :=
  let n := pagesOf len
  (headKey (k / n / a.kvheads) (k / n % a.kvheads), k % n)

/-- Parcels an IMPORT reads (R171). -/
def importCount (a : AttnProfile) (len : Nat) : Nat := a.layers * a.kvheads * pagesOf len

/-- FILL a page of an IMPORT must have. -/
def importFill (len i : Nat) : Nat := min 128 (len - 128 * i)

/-- The checks of R171 on one parcel. -/
def parcelOk (p : Profile) (len k : Nat) (b : Bytes) : Bool :=
  let pg := pageOfParcel p.attn b
  let (hk, i) := importPlace p.attn len k
  fmtValid pg.format && b.length == parcelSize p.attn pg.format && headKey pg.layer pg.head == hk && pg.index == i &&
    pg.fill == importFill len i && decide (p.ladder.floor ≤ pg.format) && !pg.poisoned && !pg.demotePending &&
    (firstBad pg.format pg.pebbles).isNone &&
    (!pg.isSealed || pg.digest == pageChain p.attn pg.layer pg.head pg.index pg.format pg.fill pg.pebbles)

/-- Free the pages of a conversation that is being taken back. -/
def State.dropPages (s : State) (ctx conv : Nat) : State :=
  match s.conv? ctx conv with
  | none => s
  | some c => (c.pageMap.foldl (fun s e => if s.ownsSlot e.2.member then (s.journalDrop ctx conv e.2.page).dropRef ctx e.2.page else s) s).modConv ctx conv
      (fun c => { c with pageMap := [] })

/-- Take one good parcel in (R171): the node writes CONV, TAG, REFS, TIER, FRAME and SHARED itself. None when no tier has room. -/
def State.importOne (s : State) (r : Req) (p : Profile) (c : Conv) (b : Bytes) (k : Nat) : Option State :=
  let (hk, i) := importPlace p.attn r.desc.tokenSpan k
  let pg := (({ pageOfParcel p.attn b with conv := r.desc.conv, refs := 1, shared := false, slot := c.home } : Page)).relink p.attn
  (s.newPage r.ctx p c (pagesOf r.desc.tokenSpan) pg).map (fun y =>
    (y.2.setEntry r.ctx r.desc.conv hk i (entryOf c.home y.1 pg)).journal r.ctx c.home
      { jentry 7 r.desc.conv pg.layer pg.head pg.index with data := parcelBytes p.attn r.ctx pg })

/-- Take parcels in until one fails, or until the tiers have no room for the next, which then waits. -/
def State.importFrom (s : State) (r : Req) (p : Profile) (c : Conv) : Nat → List Bytes → Option Nat × Nat × State
  | k, [] => (none, k, s)
  | k, b :: bs =>
    if importCount p.attn r.desc.tokenSpan ≤ k then (none, k, s)
    else if parcelOk p r.desc.tokenSpan k b then match s.importOne r p c b k with
      | some s1 => s1.importFrom r p c (k + 1) bs
      | none => (none, k, s)
    else (some k, k, s)

/-- STATE 3 for EXPORT, IMPORT and chunks: with PARTIAL_OK, at most once a tick (R61, R174). -/
def State.partialWord (s : State) (id progress : Nat) : State :=
  match s.req? id with
  | none => s
  | some r =>
    let now_ := max r.progress progress
    if r.desc.partialOk && r.state3At != some s.tick.count && r.reported < now_ then
      (s.status r 3 0 now_).modReq id (fun q => { q with progress := now_, reported := now_, state3At := some s.tick.count })
    else s.modReq id (fun q => { q with progress := now_ })

/-- STATE 3 words that the limit of one a tick held back go out at the next boundary with the PROGRESS reached by then (R61;
notes/assumptions/32.md). -/
def State.owedProgress (s : State) : State :=
  (s.reqs.filter (fun r => r.admittedAt.isSome && r.desc.partialOk && [2, 9, 10].contains r.desc.opcode && decide (r.reported < r.progress) &&
    decide (r.progress < (if r.desc.opcode = 2 then r.desc.blocks else 2 ^ 32)))).foldl (fun s r => s.partialWord r.id r.progress) s

/-- IMPORT: a conversation from checked parcels (R171). -/
def execImportPages (t req : Nat) (parcels : List Bytes) (s : State) : Host.Outcome State Fault Refusal :=
  let s := s.at_ t
  match s.acting req 10 with
  | none => .next s
  | some (r, p, c) =>
    let total := importCount p.attn r.desc.tokenSpan
    let x := s.ctx r.ctx
    if r.progress = 0 && (!x.quotaOk (x.pinnedConv c) total || decide (x.freeNumbers < total)) then .next (s.failReq r.id cQuota 0)
    else
      let (bad, k, s1) := s.importFrom r p c r.progress parcels
      match bad with
      | some n => .next ((s1.dropPages r.ctx r.desc.conv).failReq r.id cImportFormat n)
      | none =>
        if k < total then .next (s1.partialWord r.id k)
        else
          let s2 := s1.modConv r.ctx r.desc.conv (fun c =>
            { c with creator := none
                     lens := (allHeads p.attn).foldl (fun m hk => mset m hk r.desc.tokenSpan) c.lens
                     expected := (allHeads p.attn).foldl (fun m hk => mset m hk r.desc.tokenSpan) c.expected })
          let s3 := (allHeads p.attn).foldl (fun s hk =>
            s.journal r.ctx c.home { jentry 3 r.desc.conv (hk / 128) (hk % 128) 0 with arg := r.desc.tokenSpan }) s2
          .next (s3.effect r.id total [])

/-! ### PROBE -/

/-- Whether a conversation is striped at its longest head. -/
def State.convStriped (s : State) (p : Profile) (c : Conv) : Bool :=
  striped (pagesOf ((c.lens.map Prod.snd).foldl max 0)) s.nc p.place

/-- Pages of a head in a tier on this node. -/
def State.tierPages (s : State) (ctx : Nat) (c : Conv) (hk tier : Nat) : Nat :=
  ((c.headEntries hk (2 ^ 25)).filter (fun e => match (s.ctx ctx).entryPage s.ownsSlot e.2 with
    | some pg => pg.tier == tier
    | none => false)).length

/-- Logical bytes of a conversation (R99). -/
def convLogical (a : AttnProfile) (c : Conv) : Nat := pageLogical a * c.pageMap.length

/-- The PROBE report (Table 8.6). -/
def State.probeReport (s : State) (ctx : Nat) (p : Profile) (d : Desc) (c : Conv) : Bytes :=
  let x := s.ctx ctx
  let hs := namedHeads p.attn d
  let bad (e : PageEntry) : Bool := e.poisoned || (match x.entryPage s.ownsSlot e with | some pg => pg.poisoned | none => false)
  let flags := b2n (x.pinnedConv c) + 2 * b2n c.parked + 4 * b2n (s.convStriped p c) + 8 * b2n (c.pageMap.any (fun e => bad e.2))
  leBytes 4 d.conv ++ leBytes 1 flags ++ leBytes 1 (targetTier s.now x c) ++ leBytes 2 c.home ++ leBytes 8 c.lastAttend ++
    leBytes 8 (convLogical p.attn c) ++ leBytes 4 hs.length ++
    leBytes 2 (if p.cls.fMode = 1 then min 65535 (s.journalLag ctx) else 0) ++ List.replicate 34 0 ++
    hs.flatMap (fun hk =>
      let es := c.headEntries hk (2 ^ 25)
      leBytes 4 (c.len hk) ++ (List.range 5).flatMap (fun i => leBytes 4 (s.tierPages ctx c hk i)) ++
        leBytes 4 ((es.filter (fun e => !s.ownsSlot e.2.member)).length) ++ leBytes 4 ((es.filter (fun e => bad e.2)).length))

/-- PROBE: write the report taken at the admitting boundary (R173). -/
def execProbe (t req : Nat) (s : State) : Host.Outcome State Fault Refusal :=
  let s := s.at_ t
  match s.acting req 12 with
  | none => .next s
  | some (r, p, c) =>
    let data := (mget r.operands 0).getD (s.probeReport r.ctx p r.desc c)
    .next ((s.writeResult (ringDest r.ring) r.order r.desc.resultRkey r.desc.resultAddr (clsNum r.cls) data).effect r.id
      (namedHeads p.attn r.desc).length [])

/-! ### FENCE -/

/-- Requests a FENCE's scope holds that were fetched before it (R172, R177). -/
def State.fencedBefore (s : State) (r : Req) : List Req :=
  s.reqs.filter (fun q => decide (q.order < r.order) && sameOrigin q.ring r.ring && q.ctx == r.ctx)

/-- Complete a mode-0 FENCE when nothing fetched before it is left (R172). -/
def State.fenceDone (s : State) (id : Nat) : State :=
  match s.req? id with
  | none => s
  | some r =>
    if r.desc.opcode == 11 && r.desc.qgroup == 0 && r.admittedAt.isSome && (s.fencedBefore r).isEmpty then s.finish id 4 0 0
    else s

/-- Whether the node admits work at this boundary: running and not re-armed (R38, R39), not isolated (R293), no hold (R309), not in or
on the way out of a deep power state (R304). -/
def State.admitting (s : State) : Bool :=
  s.running && !s.tick.rearmed && !s.comp.isolated && !s.power.hold && decide (s.rd F.PWR_STATE.CURRENT ≤ 1) && !s.power.exiting

/-- Whether a descriptor fetched at a time is eligible for the tick in progress: at least 400 ns before its boundary (R27). -/
def State.eligible (s : State) (fetched : Nat) : Bool := decide (fetched + 400 ≤ s.tick.last)

/-- Whether an unadmitted FENCE is eligible (R27). -/
def State.fenceReady (s : State) (r : Req) : Bool := r.desc.opcode == 11 && r.admittedAt.isNone && s.eligible r.fetchedAt

/-- FENCE: a mode-0 FENCE that is eligible begins to order its ring (R172, R27, R38); it completes at once when nothing is before it. -/
def execFence (t req : Nat) (s : State) : Host.Outcome State Fault Refusal :=
  let s := s.at_ t
  match s.req? req with
  | none => .next s
  | some r =>
    if r.desc.opcode == 11 && r.desc.qgroup == 0 && (r.admittedAt.isSome || s.fenceReady r && s.admitting) then
      .next ((s.modReq req (fun q => { q with admittedAt := some (q.admittedAt.getD s.now) })).fenceDone req)
    else .next s

/-- FENCE_COMPLETE: everything fetched before the FENCE has completed (R172). -/
def execFenceComplete (t req : Nat) (s : State) : Host.Outcome State Fault Refusal := .next ((s.at_ t).fenceDone req)

/-- Finish a cancelling FENCE once no request it stops still runs (R177). -/
def State.fenceSettle (s : State) (id : Nat) : State :=
  match s.req? id with
  | none => s
  | some r => if s.reqs.any (fun q => q.cancelledBy == some id) then s else s.finish id 4 0 r.progress

/-- End a request that a FENCE cancels, and count it at the FENCE (R177). -/
def State.cancelled (s : State) (id fence code progress : Nat) : State :=
  (s.finish id 6 code progress).modReq fence (fun f => { f with progress := f.progress + 1 })

/-- A chunk that a FENCE stops ends once its running blocks are published (R177). -/
def State.stopChunk (s : State) (id fence : Nat) : State :=
  match s.req? id with
  | none => s
  | some r => if r.startedBlocks.all (fun b => r.doneBlocks.contains b || decide (b < r.progress)) then
      s.cancelled id fence cCancelled r.progress else s

/-- A block of a chunk is over: a chunk that is being stopped may end with it, and the FENCE that stops it when it was the last (R177). -/
def State.stopIfDone (s : State) (id : Nat) : State :=
  match (s.req? id).bind Req.cancelledBy with
  | none => s
  | some f => (s.stopChunk id f).fenceSettle f

/-- What a cancelling FENCE does to one request (R177). -/
def State.cancelOne (s : State) (fence : Nat) (q : Req) : State :=
  if q.admittedAt.isNone then s.cancelled q.id fence cCancelled 0
  else if q.desc.opcode = 2 then
    let s1 := s.dropTasks (fun t => t.req == some q.id && t.kind.block?.any (fun b => !q.startedBlocks.contains b))
    (s1.modReq q.id (fun r => { r with cancelledBy := some fence })).stopChunk q.id fence
  else if q.desc.opcode = 9 then s.cancelled q.id fence cCancelled q.progress
  else if q.desc.opcode = 10 then
    let s1 := (s.dropPages q.ctx q.desc.conv).cancelled q.id fence cCancelled 0
    s1.uncreate q
  else s

/-- FENCE_CANCEL: a mode 1 or 2 FENCE cancels what was fetched before it (R177). -/
def State.fenceCancel (s : State) (r : Req) : State :=
  let hit := (s.fencedBefore r).filter (fun q => r.desc.qgroup == 1 || q.desc.conv == r.desc.conv)
  let s1 := s.modReq r.id (fun q => { q with admittedAt := some s.now })
  (hit.foldl (fun s q => s.cancelOne r.id q) s1).fenceSettle r.id

/-- FENCE_CANCEL: at the first boundary at which it is eligible (R177). -/
def execFenceCancel (t req : Nat) (s : State) : Host.Outcome State Fault Refusal :=
  let s := s.at_ t
  match s.req? req with
  | none => .next s
  | some r =>
    if (r.desc.qgroup == 1 || r.desc.qgroup == 2) && s.fenceReady r && s.admitting then .next (s.fenceCancel r) else .next s

end Sys2Proof.Machine
end

