-- ==== Sys2Proof/Machine/Share.lean ====
section
/-! DEFINITION. Shares of a request, at the home and at its peers, and the publishing of query blocks
(03_attention.md, R42, R52-R68; 07_tiers_placement.md, R126, R128; 12_integrity.md, R267-R274). -/
namespace Sys2Proof.Machine

/-! ### Shares -/

/-- One share of one query block. -/
structure ShareJob where
  env : ScoreEnv
  rows : List QRow
  conv : Nat
  n : Nat
  nc : Nat
  pos : Nat
  block : Nat
  theta : Option Nat
  relaxed : Bool
  place : PlaceProfile
  leaves : List Leaf
deriving DecidableEq, Repr

/-- What a node finds of a page of a share. -/
inductive PageFind where
  /-- Held here. -/
  | here (num : Nat) (p : Page)
  /-- Held by another member: its leaf is needed (R128). -/
  | away
  /-- Lost in a failure, with the code of the requests that read it (R297). -/
  | lost (code : Nat)
  /-- In bedrock: not scanned before it is promoted (Table 3.6). -/
  | parked
  /-- In the host tier while the host link is down (R152). -/
  | noHost
deriving DecidableEq, Repr

/-- What a share comes to. -/
inductive ShareOut where
  | rows (l : List Partial)
  | wait
  | fails (code : Nat) (page : Option (Nat × Nat))
deriving DecidableEq, Repr

/-- Page indices of the key range that belong to the share (R53, R126). -/
def ShareJob.indices (j : ShareJob) : List Nat :=
  if j.env.kfirst < j.env.kend then
    (span (j.env.kfirst / 128) (pagesOf j.env.kend)).filter (fun i => stripePos i (pagesOf j.n) j.nc j.place == j.pos)
  else []

/-- Completion order of the pages of a head, for RELAXED_MERGE (R55): those reported complete first, in order. -/
def ShareJob.order (j : ShareJob) (head : Nat) : List Nat :=
  let is := j.indices
  if !j.relaxed then is
  else
    let seen := (j.leaves.filter (fun l => l.block == j.block && l.head == head && is.contains l.page)).map Leaf.page
    seen.eraseDups ++ is.filter (fun i => !seen.contains i)

/-- Rows of a forwarded leaf of a page, if one has come. -/
def ShareJob.leafRows (j : ShareJob) (head page : Nat) : Option (List Partial) :=
  (j.leaves.find? (fun l => l.block == j.block && l.head == head && l.page == page && !l.rows.isEmpty)).map Leaf.rows

/-- Place of a row among the rows of its head. -/
def rowRank (rows : List QRow) (i : Nat) : Nat :=
  ((rows.take i).filter (fun r => some r.kvh == ((rows[i]?).map QRow.kvh))).length

/-- A page whose reading fails its checks (R90). -/
def pageBad (p : Page) : Bool := p.poisoned || p.badPeb.isSome

/-- Whether the mask allows a row any token of a page of the share (R44, R54). -/
def ShareJob.touches (j : ShareJob) (r : QRow) (idx : Nat) : Bool := spanAllowed j.env r.pos (128 * idx) (min 128 (j.n - 128 * idx))

/-- The sources of one row, or what stops it: pages, then the bad ones among them with their numbers. A page that the mask excludes
entirely is not read, wherever it lies: its partial is empty (R54). -/
def ShareJob.sources (j : ShareJob) (find : Nat → Nat → PageFind) (i : Nat) (r : QRow) : Option ShareOut × List PageSrc × List (Nat × Nat) :=
  (j.order r.kvh).foldl (fun acc idx =>
    let (stop, srcs, bad) := acc
    if !j.touches r idx then (stop, srcs ++ [.masked idx], bad) else
    match find (headKey j.env.layer r.kvh) idx with
    | .here num p => (stop, srcs ++ [.here p], if pageBad p then bad ++ [(idx, num)] else bad)
    | .away => match j.leafRows r.kvh idx with
      | some l => (stop, srcs ++ [.got idx (lget l (rowRank j.rows i) (emptyPartial j.env.attn.dv))], bad)
      | none => (stop.or (some .wait), srcs, bad)
    | .lost code => (stop.or (some (.fails code none)), srcs, bad)
    | .parked => (stop.or (some .wait), srcs, bad)
    | .noHost => (stop.or (some (.fails cTierUnavailable none)), srcs, bad)) (none, [], [])

/-- Whether a row reads a page: touched by the mask and not skipped (R54, R62, R90). -/
def ShareJob.readsPage (j : ShareJob) (r : QRow) (srcs : List PageSrc) (idx : Nat) : Bool :=
  let pages := srcs.filterMap PageSrc.page?
  let skips := match j.theta with
    | none => []
    | some t => (rowSkips j.env r t pages).getD []
  pages.any (fun p => p.index == idx && pageTouched j.env r p) && !skips.any (fun x => x.1 == idx)

/-- One row of a share. -/
def ShareJob.row (j : ShareJob) (find : Nat → Nat → PageFind) (i : Nat) (r : QRow) : ShareOut :=
  let (stop, srcs, bad) := j.sources find i r
  match stop with
  | some o => o
  | none =>
    match bad.find? (fun b => j.readsPage r srcs b.1) with
    | some b => .fails cPageCorrupt (some b)
    | none => match shareRow j.env r j.theta j.relaxed srcs with
      | some p => .rows [p]
      | none => .fails cScoreRange none

/-- All rows of a share; the first row that stops decides. -/
def ShareJob.run (j : ShareJob) (find : Nat → Nat → PageFind) : ShareOut :=
  (j.rows.zipIdx).foldl (fun acc x =>
    match acc with
    | .rows l => match j.row find x.2 x.1 with
      | .rows p => .rows (l ++ p)
      | o => o
    | o => o) (.rows [])

/-- Rotated rows as a SUBREQ carries them (Table 13.4). -/
def rowsBytes (rows : List QRow) : Bytes := rows.flatMap (fun r => r.q.flatMap (fun x => leBytes 2 (toBf16 x).toNat))

/-- Rows as a PARTIAL carries them (Table 13.5). -/
def partialsBytes (skip : Bool) (l : List Partial) : Bytes := l.flatMap (Partial.bytes skip)

/-- How a page held here is found, by its record: one in bedrock, or whose demotion runs, is waited for (R150, R96). -/
def State.findHeld (s : State) (num : Nat) (p : Page) : PageFind :=
  if p.tier = 3 || p.demotePending then .parked
  else if p.tier = 4 && s.rd F.TIER_PLACE_STATUS.HOST_DOWN = 1 then .noHost
  else .here num p

/-- How the home finds a page: by its page map (R125); one not yet written is waited for (R42), as is one not yet rebuilt (R294). -/
def State.findHome (s : State) (ctx : Nat) (c : Conv) (hk idx : Nat) : PageFind :=
  match c.entry hk idx with
  | none => .parked
  | some e =>
    if e.lost then .lost (if s.comp.rebuilds.any (fun b => b.slot == e.member) then cPeerFailed else cPageCorrupt)
    else if s.ownsSlot e.member then
      match mget (s.ctx ctx).pages e.page with
      | some p => s.findHeld e.page (if e.poisoned then { p with poisoned := true } else p)
      | none => .parked
    else .away

/-- How a peer finds a page: by its local entries (R125). -/
def State.findPeer (s : State) (ctx conv : Nat) (hk idx : Nat) : PageFind :=
  match (s.ctx ctx).peerPage ctx conv hk idx with
  | none =>
    if s.comp.rebuilds.any (fun b => b.ctx == ctx && b.key == imageKey conv hk idx) then .parked
    else if s.comp.cut.contains (ctx, imageKey conv hk idx) then .lost cTruncated
    else .away
  | some num => match mget (s.ctx ctx).pages num with
    | some p => s.findHeld num p
    | none => .away

/-! ### The home's request -/

/-- The scoring environment of a request. -/
def Req.env (r : Req) (p : Profile) : ScoreEnv :=
  let (kf, ke) := keyRange r.desc r.n
  { attn := p.attn, scale := p.attn.effScale, slopes := p.attn.biasSlopes, prog := r.image, layer := r.desc.layer
    kfirst := kf, kend := ke, causal := r.desc.opcode == 2 || p.attn.causal }

/-- Rotated rows of a block from its operand bytes; none while they have not landed. -/
def State.blockRows (s : State) (r : Req) (p : Profile) (b : Nat) : Option (List QRow) :=
  match mget r.operands b with
  | none => none
  | some data => queryRows p.attn ((s.ctx r.ctx).geode p) r.desc.layer r.desc.kvhFirst r.desc.kvhCount
      (r.desc.blockPositions b) (r.desc.blockFirst b r.n) data

/-- Bytes of the operands of block `b` (R45). -/
def Req.blockBytes (r : Req) (a : AttnProfile) (b : Nat) : Nat := r.desc.blockPositions b * r.desc.rowsPerPos a * a.din * 2

/-- The share of a stripe position of one block. -/
def Req.job (r : Req) (p : Profile) (rows : List QRow) (pos block : Nat) : ShareJob where
  env := r.env p
  rows := rows
  conv := r.desc.conv
  n := r.n
  nc := r.nc
  pos := pos
  block := block
  theta := if r.desc.skip then some r.desc.skipTheta else none
  relaxed := r.desc.relaxed
  place := p.place
  leaves := r.leaves

/-- Stripe positions whose share of the key range is not empty; position 0 always takes part (R54). -/
def Req.positions (r : Req) (p : Profile) : List Nat :=
  let (kf, ke) := keyRange r.desc r.n
  (List.range r.nc).filter (fun pos => pos == 0 ||
    (decide (kf < ke) && (span (kf / 128) (pagesOf ke)).any (fun i => stripePos i (pagesOf r.n) r.nc p.place == pos)))

/-- A conversation's page map with the leaves its pages had at length `n`: the tail page's chain over its first slots
(R263, R267). -/
def State.convAt (s : State) (ctx : Nat) (p : Profile) (c : Conv) (n : Nat) : Conv :=
  { c with pageMap := mall c.pageMap (fun k e =>
      let i := k % 2 ^ 25
      if n % 128 != 0 && i == n / 128 then
        match (s.ctx ctx).entryPage s.ownsSlot e with
        | some pg => if n - 128 * i < pg.fill then
            { e with leaf := pageChain p.attn pg.layer pg.head pg.index pg.format (n - 128 * i) pg.pebbles } else e
        | none => e
      else e) }

/-- The contribution cairn the home expects of a position (R270, R271). -/
def State.expectCairn (s : State) (r : Req) (p : Profile) (c : Conv) (pos block : Nat) (rows : List QRow) : Bytes :=
  s.contributionCairn r p ((s.convAt r.ctx p c r.n).contributionRoot r.desc r.n r.nc pos p.place) pos block (rowsBytes rows)

/-- A share entry of a request that nothing has come for. -/
def PeerShare.waiting (block pos member : Nat) : PeerShare := ⟨block, pos, member, false, false, false, none, [], []⟩

/-- Make sure a block has an entry for each of its positions. -/
def State.openShares (s : State) (r : Req) (p : Profile) (b : Nat) : State :=
  s.modReq r.id (fun q => (r.positions p).foldl (fun q pos =>
    if q.shares.any (fun x => x.block == b && x.pos == pos) then q
    else { q with shares := q.shares ++ [PeerShare.waiting b pos (memberOf r.home pos r.nc)] }) q)

/-- A share has its rows: it goes behind those that completed before it (R55). -/
def State.fillShare (s : State) (id block pos : Nat) (rows : List Partial) (cairn digest : Bytes) (backup : Bool) : State :=
  s.modReq id (fun q =>
    let hit (x : PeerShare) : Bool := x.block == block && x.pos == pos
    { q with shares := q.shares.filter (fun x => !hit x) ++
        (q.shares.filter hit).map (fun x => { x with rows := some rows, cairn := cairn, digest := digest, backup := backup }) })

/-- The pebble a reader of a corrupt page fails on, 0 where the page is poisoned for another reason. -/
def State.badPebOf (s : State) (ctx num : Nat) : Nat := ((mget (s.ctx ctx).pages num).bind Page.badPeb).getD 0

/-- Compute the shares this node owes a block of its own request; false when the request ended or must wait. -/
def State.homeShares (s : State) (r : Req) (p : Profile) (c : Conv) (b : Nat) (rows : List QRow) : Bool × State :=
  ((r.positions p).filter (fun pos => s.ownsAt r.epoch (memberOf r.home pos r.nc))).foldl (fun (acc : Bool × State) pos =>
    if !acc.1 then acc
    else match acc.2.req? r.id with
      | none => (false, acc.2)
      | some q =>
        if q.shares.any (fun x => x.block == b && x.pos == pos && x.rows.isSome) then acc
        else match (q.job p rows pos b).run (acc.2.findHome r.ctx c) with
          | .wait => (false, acc.2)
          | .fails code page =>
            let s1 := match page with
              | some x => acc.2.corrupt r.ctx x.2 (acc.2.badPebOf r.ctx x.2) (acc.2.scanUnit r.ctx x.2) (acc.2.reqInfo r)
              | none => acc.2
            (false, s1.failReq r.id code r.progress)
          | .rows l =>
            let bytes := partialsBytes r.desc.skip l
            (true, acc.2.fillShare r.id b pos l (acc.2.expectCairn r p c pos b rows) (sha512 bytes) false)) (true, s)

/-- Node partials of a block in merge order: all N_c stripe positions in ascending order, a position with no share giving the empty partial
(R54, R14), or those that came in completion order under RELAXED_MERGE (R55). -/
def Req.nodePartials (r : Req) (b : Nat) : List (List Partial) :=
  let l := r.shares.filter (fun x => x.block == b)
  if r.desc.relaxed then l.map (fun x => x.rows.getD [])
  else (List.range (max 1 r.nc)).map (fun pos => ((l.find? (fun x => x.pos == pos)).bind PeerShare.rows).getD [])

/-- Result records of a block: final merge and output steps (R49, R53-R55, R68). -/
def State.blockRecords (s : State) (r : Req) (p : Profile) (b : Nat) (rows : List QRow) : Bytes :=
  let parts := r.nodePartials b
  let dv := p.attn.dv
  (rows.zipIdx).flatMap (fun x =>
    let ps := parts.map (fun l => lget l x.2 (emptyPartial dv))
    let m := if r.desc.relaxed then foldMerge dv ps else treeMerge dv ps
    resultRecord p.attn ((s.ctx r.ctx).geode p) r.desc.layer r.desc.normalize r.desc.skip x.1 m)

/-- Offset of a block's records from RESULT_ADDR (R46, R60). -/
def Req.blockOffset (r : Req) (a : AttnProfile) (b : Nat) : Nat := b * 64 * r.desc.rowsPerPos a * recordSize a r.desc.skip

/-- Bytes of all records (R46). -/
def Req.recordBytes (r : Req) (a : AttnProfile) : Nat := r.desc.positions * r.desc.rowsPerPos a * recordSize a r.desc.skip

/-- The 64 bytes of the written cairn (R269). -/
def cairnSlot (short : Bool) (c : Bytes) : Bytes := if short then padTo 64 (c.take 32) else c

/-- The trail: one entry a stripe position; a position with no partial has free bytes (R271). -/
def State.trail (s : State) (r : Req) : Bytes × State :=
  ((List.range r.nc).flatMap (fun pos => match r.shares.find? (fun x => x.block == 0 && x.pos == pos && x.rows.isSome) with
    | some x => padTo 64 x.cairn ++ padTo 64 x.digest
    | none => (List.range 128).map (fun i => Config.freeByte (s.free + pos * 128 + i))), { s with free := s.free + 128 * r.nc })

/-- The request's cairn, over the query bytes as read (R267, R268). -/
def State.cairnOf (s : State) (r : Req) (p : Profile) (c : Conv) : Bytes :=
  s.requestCairn r p (s.convAt r.ctx p c r.n) ((List.range r.desc.blocks).flatMap (fun b => (mget r.operands b).getD []))

/-- The assays of a request that completes keep its cairn prefix (R278, Table 12.5). -/
def State.stampAssays (s : State) (r : Req) (p : Profile) (c : Conv) : State :=
  let hit (a : Assay) : Bool := a.hreq == r.hreq
  if s.health.assays.any hit then
    { s with health := { s.health with assays := lmod s.health.assays hit (fun a => { a with cairn := (s.cairnOf r p c).take 8 }) } }
  else s

/-- Write the cairn and the trail (R47, R267, R269, R271). -/
def State.writeCairn (s : State) (r : Req) (p : Profile) (c : Conv) : State :=
  if !r.desc.cairn then s
  else
    let addr := ceilDiv (r.desc.resultAddr + r.recordBytes p.attn) 64 * 64
    let (tr, s1) := if p.cls.trail && r.desc.opcode == 1 && decide (1 < r.nc) then s.trail r else ([], s)
    s1.writeResult (ringDest r.ring) r.order r.desc.resultRkey addr (clsNum r.cls) (cairnSlot p.cls.cairn32 (s.cairnOf r p c) ++ tr)

/-- Complete an attention request: every block published (R61, R174, R274). -/
def State.completeAttend (s : State) (id : Nat) : State :=
  match s.req? id with
  | none => s
  | some r =>
    match r.profile, s.conv? r.ctx r.desc.conv with
    | some p, some c =>
      if r.progress < r.desc.blocks then s
      else
        let s1 := (s.writeCairn r p c).stampAssays r p c
        let s2 := if r.desc.relaxed then s1.modCtx r.ctx (fun x => { x with tccRelaxed := satAdd x.tccRelaxed 1 (2 ^ 32 - 1) }) else s1
        (s2.finish id 4 0 r.desc.blocks).settleAll
    | _, _ => s

/-- Records of a complete block wait under this key of `operands` until the blocks before it are published. -/
def recordKey (b : Nat) : Nat := 2 ^ 20 + b

/-- Whether a held assay of a block has not compared equal yet (R278). -/
def State.assayHeld (s : State) (key block : Nat) : Bool :=
  s.health.assays.any (fun a => a.held && a.req == key && a.block == block && a.mismatch.isNone)

/-- Write the records of the leading complete blocks whose held assays are over, in order (R61, R278). -/
def State.publishRecords (s : State) (id : Nat) : Nat → State
  | 0 => s
  | n + 1 =>
    match s.req? id with
    | none => s
    | some r =>
      match r.profile, mget r.operands (recordKey r.progress) with
      | some p, some data =>
        if s.assayHeld id r.progress then s
        else
        let s1 := s.writeResult (ringDest r.ring) r.order r.desc.resultRkey (r.desc.resultAddr + r.blockOffset p.attn r.progress)
          (clsNum r.cls) data
        let s2 := s1.modReq id (fun q => { q with operands := mdel q.operands (recordKey r.progress) })
        (s2.modReq id (fun q => { q with progress := r.progress + 1 })).publishRecords id n
      | _, _ => s

/-- Publish the leading complete blocks: records first, then one status word with the PROGRESS they give (R61). -/
def State.publish (s : State) (id n : Nat) : State :=
  let s1 := s.publishRecords id n
  match s.req? id, s1.req? id with
  | some r, some q => if q.desc.opcode == 2 && decide (r.progress < q.progress) && decide (q.progress < q.desc.blocks) then
      s1.partialWord id q.progress else s1
  | _, _ => s1

/-- Complete a block whose shares have all come: merge, output, publish (R33, R49, R61). -/
def State.finishBlock (s : State) (id b : Nat) (rows : List QRow) : State :=
  match s.req? id with
  | none => s
  | some r =>
    match r.profile with
    | none => s
    | some p =>
      let mine := r.shares.filter (fun x => x.block == b)
      if mine.isEmpty || mine.any (fun x => x.rows.isNone) || r.doneBlocks.contains b then s
      else
        let recs := s.blockRecords r p b rows
        let s1 := s.modReq id (fun q => { q with doneBlocks := q.doneBlocks ++ [b], operands := mset q.operands (recordKey b) recs })
        let s2 := s1.dropTasks (fun t => t.req == some id && t.kind.block? == some b)
        ((s2.publish id r.desc.blocks).completeAttend id).stopIfDone id

/-- Whether the landed operands of a block fail the checks of R45: a non-finite element, or one that becomes infinite. -/
def State.queryBad (s : State) (r : Req) (b : Nat) : Bool :=
  match r.profile.or (s.ctx r.ctx).profile with
  | some p => mhas r.operands b && (s.blockRows r p b).isNone
  | none => false

/-- Operand read of block `b` (R60): issued when the descriptor is fetched for blocks 0 to 3, and for b + 4 when the first
task of block b starts. -/
def State.readBlock (s : State) (r : Req) (a : AttnProfile) (b : Nat) : State :=
  if b < r.desc.blocks then
    s.readIn (ringDest r.ring) (.operand r.order b) r.desc.queryRkey (r.desc.queryAddr + b * 64 * r.desc.rowsPerPos a * a.din * 2)
      (r.blockBytes a b) (clsNum r.cls)
  else s

/-- The first task of a block starts: block b + 4 is read (R60, R177). -/
def State.startBlock (s : State) (id b : Nat) : State :=
  match s.req? id with
  | none => s
  | some r =>
    if r.startedBlocks.contains b then s
    else
      let s1 := s.modReq id (fun q => { q with startedBlocks := q.startedBlocks ++ [b] })
      match r.profile with
      | some p => if r.desc.opcode = 2 then s1.readBlock r p.attn (b + 4) else s1
      | none => s1

/-- Run one block of an admitted attention request as far as it can go: the home's shares, and the final merge when every
share has come (R42, R60). -/
def State.runBlock (s : State) (id b : Nat) : State :=
  match s.req? id with
  | none => s
  | some r =>
    match r.profile, s.conv? r.ctx r.desc.conv with
    | some p, some c =>
      if !r.desc.isAttend || !s.mayAct r || r.desc.blocks ≤ b || r.doneBlocks.contains b ||
          (r.cancelledBy.isSome && !r.startedBlocks.contains b) then s
      else match s.blockRows r p b with
        | none => if mhas r.operands b then s.failReq id cQueryValue r.progress else s
        | some rows =>
          let s1 := (s.openShares r p b).startBlock id b
          let (ok, s2) := s1.homeShares r p c b rows
          if ok then s2.finishBlock id b rows else s2
    | _, _ => s

end Sys2Proof.Machine
end

