-- ==== Sys2Proof/Machine/Plan.lean ====
section
/-! DEFINITION. Placing tasks: usable units, worst-case costs, splitting, refresh slots, planned starts, gates
(02_tick.md, R23-R33, R372, Table 2.2; 03_attention.md, R59, R65, R67, R373, R374; 06_stratum_engines.md, R103-R109, R115; 11_isolation.md, R238). -/
namespace Sys2Proof.Machine

/-! ### Units -/

/-- The list of a unit for the tick. -/
def State.plan (s : State) (u : UnitId) : UnitPlan :=
  ((s.itin.units.find? (fun x => x.1 == u)).map Prod.snd).getD ⟨none, [], []⟩

/-- Put the list of a unit. -/
def State.setPlan (s : State) (u : UnitId) (p : UnitPlan) : State :=
  let units := if s.itin.units.any (fun x => x.1 == u) then s.itin.units.map (fun x => if x.1 == u then (u, p) else x)
    else s.itin.units ++ [(u, p)]
  { s with itin := { s.itin with units := units } }

/-- Frequency of a unit in MHz: a tile's half-column (R372), an engine's 1.2 GHz (Table 6.1). -/
def State.mhz (s : State) : UnitId → Nat
  | .tile n => s.rd F.PWR_HC.FREQ_MHZ (halfColumn n)
  | _ => 1200

/-- Cycles as ps, rounded up to a whole picosecond (R372). -/
def cyclesPs (cycles mhz : Nat) : Nat := ceilDiv (cycles * 1000000) mhz

/-- Allowance of the host tier in ps at the width and rate of the link (R145). -/
def State.hostAllowance (s : State) : Nat :=
  if s.tier.cxlWidth = 0 || s.tier.cxlRate = 0 then 2500000 else ceilDiv (2500000 * 1024) (s.tier.cxlWidth * s.tier.cxlRate)

/-- Tier allowance of Table 2.2 in ps. -/
def State.allowance (s : State) (tier : Nat) : Nat :=
  if tier = 1 then 300000 else if tier = 2 then 900000 else if tier = 4 then s.hostAllowance else 0

/-- An engine that nothing has been said of. -/
def Engine.idle : Engine := ⟨[], [], 0, [], [], [], false⟩

/-! ### Refresh -/

/-- Spacing of the refresh grid of an engine in ps (R31, R111: in force at the boundary). -/
def State.refreshStep (s : State) (engine : Nat) : Nat := if s.power.hotGrid.contains (stackOf engine) then 1950000 else 3900000

/-- Refresh slots of an engine in this tick, start and end in ps from the boundary, with the makeup slot of R109. -/
def refreshSlots (step periodUs : Nat) : List (Nat × Nat) :=
  let p := periodUs * 1000000
  let n := ceilDiv (p - 400000) step
  let slots := (List.range n).map (fun i => (400000 + i * step, 400000 + i * step + 160000))
  let last := 400000 + (n - 1) * step
  if step < p + 400000 - last then slots ++ [(p - 160000, p)] else slots

/-- The earliest start from `t` on at which a command crosses no slot (R108). -/
def pastSlots (cost : Nat) : List (Nat × Nat) → Nat → Nat
  | [], t => t
  | (a, b) :: l, t => pastSlots cost l (if t < b && a < t + cost then b else t)

/-! ### Costs -/

/-- Worst-case tile cycles of a page-task over `prod` pebble products of each row, `n` pebbles of `size` bytes (Table 2.2). -/
def tilePageCycles (q prod n size weight : Nat) : Nat :=
  64 + max (ceilDiv (q * prod * 64) 1024) (max (ceilDiv n 4) (ceilDiv (n * size) 128)) + 2 * q * weight

/-- Worst-case stratum cycles of a page-task (Table 2.2). -/
def enginePageCycles (q prod n size : Nat) : Nat := 48 + max (ceilDiv (q * prod * 64) 1024) (ceilDiv (3 * n * size) 416)

/-- Number of merge levels of `n` partials. -/
def mergeLevels (n : Nat) : Nat := if n ≤ 1 then 0 else Nat.log2 (n - 1) + 1

/-- What the planner knows of a request or sub-request whose tasks it places. -/
structure Work where
  key : Nat
  ctx : Nat
  cls : Cls
  p : Profile
  weight : Nat
  layer : Nat
  heads : List Nat
  skip : Bool
  home : Bool
deriving DecidableEq, Repr

/-- The work under which housekeeping tasks of a context are placed (R217, R32). -/
def hkWork (ctx : Nat) (p : Profile) : Work := ⟨hkKey, ctx, .c3, p, 0, 0, [], false, false⟩

/-- A profile that says nothing, for housekeeping of a context that has none any more. -/
def Profile.blank : Profile :=
  ⟨⟨0, 0, 0, 0, 0, false, false, false, false, 0, 0, 0, 0, 0, 0, 0, 0, 0⟩, ⟨0, [], 0, false, [], 0⟩, ⟨0, 0, 0, 0, 0, 0, 0, 0, 0, 0, 0, 0⟩,
   ⟨0, 0, 0, 0, 0, [], 0, 0, false, false, 0⟩, []⟩

/-- The work of a tracked request. -/
def Req.work (r : Req) (p : Profile) : Work where
  key := r.id
  ctx := r.ctx
  cls := r.cls
  p := p
  weight := match r.image with | some i => progWeight i | none => 0
  layer := r.desc.layer
  heads := span r.desc.kvhFirst (r.desc.kvhFirst + r.desc.kvhCount)
  skip := r.desc.skip
  home := true

/-- The program image in force that a sub-request names: its digest is the one the home sent (R81). -/
def State.subImage (s : State) (ctx : Nat) (b : SubBody) : Option ProgImage :=
  match mget (s.ctx ctx).programs b.modifier with
  | some sl => if (sl.image.map ProgImage.digest) == some b.program then sl.image else none
  | none => none

/-- Profile a sub-request runs under: the one its admission bound, before that the one in force (R16). -/
def State.subProfile (s : State) (q : SubReq) : Option Profile := q.profile.or (s.ctx q.ctx).profile

/-- The work of a sub-request. -/
def State.subWork (s : State) (q : SubReq) (p : Profile) : Work :=
  let b := parseSub q.body
  { key := q.id, ctx := q.ctx, cls := clsOfNum b.cls, p := p
    weight := match q.image with | some i => progWeight i | none => 0
    layer := b.layer, heads := span b.kvhFirst (b.kvhFirst + b.kvhCount), skip := b.skip, home := false }

/-- A sub-request by its number. -/
def State.sub? (s : State) (id : Nat) : Option SubReq := s.comp.subs.find? (fun q => q.id == id)

/-- The work a task serves. -/
def State.workOf (s : State) (key : Nat) : Option Work :=
  match s.req? key with
  | some r => r.profile.map r.work
  | none => match s.sub? key with
    | some q => (s.subProfile q).map (s.subWork q)
    | none => none

/-- Query rows of one head in a block. -/
def State.headRows (s : State) (key block : Nat) : Nat :=
  match s.req? key with
  | some r => r.desc.blockPositions block * (match r.profile with | some p => p.attn.group | none => 0)
  | none => match s.sub? key with
    | some q => (parseSub q.body).queryCount * (parseSub q.body).qgroup
    | none => 0

/-- How a sub-request finds a page: by the records held here, or a backup by the journal images of the slot it stands in for, which tiles
scan with the allowance of the far tier (R125, R300). -/
def State.findSub (s : State) (q : SubReq) (hk idx : Nat) : PageFind :=
  let b := parseSub q.body
  if b.backup then
    match (s.journalFor q.ctx (memberOf b.homeSlot b.pos b.nc)).bind (fun j => mget j.pages (imageKey b.conv hk idx)) with
    | some p => .here (2 ^ 31) { p with tier := 2, home := 0 }
    | none => .away
  else s.findPeer q.ctx b.conv hk idx

/-- How a work finds a page. -/
def State.pageFind (s : State) (w : Work) (head index : Nat) : PageFind := match s.req? w.key with
  | some r => match s.conv? r.ctx r.desc.conv with
    | some c => s.findHome r.ctx c (headKey w.layer head) index
    | none => .away
  | none => match s.sub? w.key with
    | some q => s.findSub q (headKey w.layer head) index
    | none => .away

/-- Preferred tile of a page (R129): the first of its candidates under the stripe in force. -/
def State.pageTile (s : State) (w : Work) (p : Page) : Nat :=
  preferred 1536 p.conv p.layer p.head p.index w.p.attn.kvheads (s.pageWidth w.ctx w.p.place p)

/-- Tile of a page-task: the tile that holds the page, else the preferred one. -/
def State.scanTile (s : State) (w : Work) (p : Page) : Nat := if p.tier = 0 then p.home else s.pageTile w p

/-! ### Specifications -/

/-- How a task may be placed: the engine that could run it, the first tile to try and whether only that one, cycles on
each, and the tier allowance on a tile. -/
structure Spec where
  engine : Option Nat
  tile : Nat
  fixed : Bool
  cycles : Nat
  ecycles : Nat
  allow : Nat
deriving DecidableEq, Repr

/-- Cost in ps of a specification on a unit (R372). -/
def State.costOn (s : State) (sp : Spec) : UnitId → Nat
  | .engine _ => cyclesPs sp.ecycles 1200
  | .tile n => cyclesPs sp.cycles (s.mhz (.tile n)) + sp.allow
  | .gate _ => 0

/-- A task on the merge tile. -/
def State.mergeSpec (s : State) (key cycles allow : Nat) : Spec := ⟨none, s.mergeTile key, true, cycles, 0, allow⟩

/-- A page-task of `rc` rows over `pc` pebbles of a page, 0 for the whole frame (Tables 2.2 and 3.6, R67). -/
def State.scanSpec (s : State) (w : Work) (p : Page) (rc pc : Nat) : Spec :=
  let a := w.p.attn
  let n := if pc = 0 then 128 * (a.nk + a.nv) else pc
  let prod := if pc = 0 then 128 * (a.nk + a.dv / 64) else pc
  ⟨if p.tier = 1 && w.weight = 0 && s.engineOk p.home then some p.home else none, s.scanTile w p, p.tier == 0 && s.tileOk p.home,
    tilePageCycles rc prod n (pebSize p.format) w.weight, enginePageCycles rc prod n (pebSize p.format), s.allowance p.tier⟩

/-- Whether a page-task on a host-tier page would exceed the limit of R29, 4 µs or its class window, so that the page is promoted first
(R145). -/
def State.hostSlow (s : State) (c : Nat) (sp : Spec) : Bool :=
  decide (min 4000000 (windowLen s.tick.periodUs s.tick.shares c) < s.costOn sp (.tile sp.tile))

/-- Whether a request of the context that scans a host-tier page could not place its smallest part within the limit of R29, so that
placement promotes the page first (R145). -/
def State.hostPageSlow (s : State) (ctx : Nat) (pg : Page) : Bool :=
  s.reqs.any (fun r => r.ctx == ctx && r.desc.isAttend && r.admittedAt.isSome && r.desc.layer == pg.layer && (match r.profile with
    | some p => s.hostSlow (clsNum r.cls) (s.scanSpec (r.work p) pg 1 16)
    | none => false)) ||
  s.comp.subs.any (fun q => q.ctx == ctx && q.admittedAt.isSome && (parseSub q.body).layer == pg.layer && (match s.subProfile q with
    | some p => s.hostSlow ((parseSub q.body).cls % 4) (s.scanSpec (s.subWork q p) pg 1 16)
    | none => false))

/-- The page a task reads, where this node holds it and may scan it where it lies. -/
def State.taskPage (s : State) (w : Work) (head index : Nat) : Option (Nat × Page) :=
  match s.pageFind w head index with
  | .here n p =>
    if p.tier = 4 && s.hostSlow (clsNum w.cls) (s.scanSpec w p 1 16) then none else some (n, p)
  | _ => none

/-- Whether an operation that a request counts in its N (R42) is still to write tokens of a page: the tasks that read the page consume its
output (R28). -/
def State.unwritten (s : State) (w : Work) (head index : Nat) : Bool := match s.req? w.key with
  | none => false
  | some r => s.reqs.any (fun q => q.id != r.id && !q.effectDone && feeds q r && (q.desc.opcode != 3 ||
      (q.desc.heads.contains (headKey w.layer head) && decide (q.desc.tokenFirst < 128 * (index + 1)) &&
        decide (128 * index < q.desc.tokenFirst + q.desc.tokenSpan))))

/-- A page that is still to be written, as the planner expects it: in the format of fresh pages, in the stacks or the far tier as its
conversation is placed (R94, R134; notes/assumptions/87.md). -/
def State.comingPage (s : State) (w : Work) (head index : Nat) : Option Page := match s.req? w.key with
  | none => none
  | some r =>
    let c := s.conv? r.ctx r.desc.conv
    if !s.unwritten w head index || (c.bind (fun c => c.entry (headKey w.layer head) index)).isSome then none
    else some { Page.draft r.desc.conv w.layer head index w.p.ladder.fresh 0 with tier := if c.any (fun c => c.placed != 1) then 2 else 1 }

/-- Tile of a page that is still to be written: the preferred one at the length the request sees (R129). -/
def State.comingTile (s : State) (w : Work) (p : Page) : Nat :=
  preferred 1536 p.conv p.layer p.head p.index w.p.attn.kvheads
    (s.width (pagesOf (match s.req? w.key with | some r => r.n | none => 0)) w.p.place)

/-- Specification of a page-task: on the unit where the page lies, or on a tile for a page still to be written (R59; notes/assumptions/87.md);
none while the page cannot be scanned here. -/
def State.pageSpec (s : State) (w : Work) (head index rc pc : Nat) : Option Spec := match s.taskPage w head index with
  | some x => some (s.scanSpec w x.2 rc pc)
  | none => (s.comingPage w head index).map (fun p => { s.scanSpec w p rc pc with engine := none, tile := s.comingTile w p, fixed := false })

/-- Specification of a bound pass over a page's sketch, which lies in the stacks or the host tier (R65, R13). -/
def State.boundSpec (s : State) (w : Work) (head index rc : Nat) : Option Spec :=
  let on (tile tier : Nat) : Spec :=
    ⟨none, tile, false, 64 + max (ceilDiv (rc * 2 * w.p.attn.dk) 1024) (ceilDiv (4 * w.p.attn.dk) 128), 0,
      if tier = 4 then s.hostAllowance else 300000⟩
  match s.taskPage w head index with
  | some x => some (on (s.scanTile w x.2) x.2.tier)
  | none => (s.comingPage w head index).map (fun p => on (s.comingTile w p) p.tier)

/-- Cycles of `levels` merge steps over `rc` rows (Table 2.2). -/
def mergeCycles (a : AttnProfile) (rc levels : Nat) : Nat := levels * rc * (ceilDiv a.dv 64 + 4)

/-- Cycles of the output steps of `rc` rows, 8 rows a step (Table 2.2). -/
def outputCycles (a : AttnProfile) (rc : Nat) : Nat := ceilDiv rc 8 * (64 + 32 * ceilDiv a.dv 64)

/-- Cycles of an output projection of `rc` rows; none where the profile has none (R67). -/
def unprojectCycles (a : AttnProfile) (rc : Nat) : Nat := if a.oprojDout = 0 then 0 else 64 + ceilDiv (rc * a.dv * a.oprojDout) 1024

/-- Stack allowance of an output projection. -/
def unprojectAllow (a : AttnProfile) : Nat := if a.oprojDout = 0 then 0 else 300000

/-- A unit in another half-column: the same place, the next half-column (Table 12.3). -/
def otherTile (n : Nat) : Nat := (n + 16) % 1536

/-- Unit of the re-execution (Table 12.3). -/
def rerunUnit (w : Work) (p : Page) (tile : Nat) : UnitId → UnitId
  | .engine _ => .tile tile
  | .tile n => if p.tier = 1 && w.weight = 0 then .engine p.home else .tile (otherTile n)
  | .gate n => .gate n

/-- The re-execution of an assay (R277, Table 12.3): on the engine of the channel its page lies in now (R101), on the tile chosen at the
sampling, or on another tile where that unit takes no tasks. -/
def State.assaySpec (s : State) (w : Work) (a : Assay) : Spec :=
  let page := mget (s.ctx w.ctx).pages a.page
  let allow := match page with | some p => s.allowance p.tier | none => 0
  let onTile (n : Nat) : Spec := ⟨none, n, s.tileOk n, a.cycles, 0, allow⟩
  match a.third.getD a.second, page with
  | .engine _, some p => if p.tier = 1 && s.engineOk p.home then ⟨some p.home, 0, true, a.cycles, a.ecycles, allow⟩
      else (match a.first with | .tile n => onTile (otherTile n) | _ => onTile 0)
  | .tile n, _ => onTile n
  | _, _ => onTile 0

/-- Where a task goes and what it costs (Tables 2.2 and 3.6, R48, R65, R67, R374, R96, R32); none while its page cannot be scanned
here, so that it waits. -/
def State.specOf (s : State) (w : Work) (k : TaskKind) : Option Spec :=
  let a := w.p.attn
  match k with
  | .project _ _ _ rc => some (s.mergeSpec w.key (64 + ceilDiv (rc * a.qprojDin * a.dk) 1024) 300000)
  | .rotate _ _ _ rc => some (s.mergeSpec w.key (64 + 4 * rc * a.nk) 0)
  | .page _ head index _ rc _ pc => s.pageSpec w head index rc pc
  | .bound _ head index _ rc => s.boundSpec w head index rc
  | .merge _ _ _ rc first _ levels final =>
    if final then some (s.mergeSpec w.key (mergeCycles a rc levels) 0)
    else some ⟨none, (s.mergeTile w.key + 1 + first / 16) % 1536, false, mergeCycles a rc levels, 0, 0⟩
  | .unproject _ _ rc => some (s.mergeSpec w.key (unprojectCycles a rc) (unprojectAllow a))
  | .output _ _ => some (s.mergeSpec w.key (outputCycles a 8) 0)
  | .continuation _ _ rc => some (s.mergeSpec w.key (mergeCycles a rc (mergeLevels s.nc) +
      (if w.home then outputCycles a rc + unprojectCycles a rc else 0)) (if w.home then unprojectAllow a else 0))
  | .append _ hc _ tc => some (s.mergeSpec w.key (64 + tc * hc * ceilDiv a.dk 64 * 8) 0)
  | .trees hf hc => some (s.mergeSpec w.key (Config.treeCycles w.key hf hc) 0)
  | .demote page _ count => (mget (s.ctx w.ctx).pages page).bind (fun p => if p.tier = 3 then none else
      some ⟨none, s.scanTile w p, false, 64 + count, 0, 2 * s.allowance p.tier⟩)
  | .assay id => (s.health.assays.find? (fun x => x.id == id)).map (s.assaySpec w)
  | .move id => some ⟨none, id % 1536, false, Config.hkCycles 0 id, 0, 0⟩
  | .scrub context => some ⟨none, context % 1536, false, Config.hkCycles 1 context, 0, 0⟩
  | .seal page => (mget (s.ctx w.ctx).pages page).map (fun p =>
      ⟨none, s.scanTile w p, false, Config.hkCycles 2 page, 0, s.allowance p.tier⟩)

/-! ### Gates -/

/-- Every task of the itinerary. -/
def State.allTasks (s : State) : List Task :=
  s.itin.units.flatMap (fun u => u.2.running.toList ++ u.2.placed ++ u.2.carry) ++ s.itin.waiting

/-- Whether any task of a key that satisfies a predicate is still in the itinerary. -/
def State.anyTask (s : State) (key : Nat) (p : TaskKind → Bool) : Bool := s.allTasks.any (fun t => t.req == some key && p t.kind)

/-- Whether the operands of a block have landed: a sub-request brings its rows with it. -/
def State.landed (s : State) (key block : Nat) : Bool := match s.req? key with
  | some r => mhas r.operands block
  | none => true

/-- Scoring environment of a sub-request. -/
def State.subEnv (_s : State) (q : SubReq) (p : Profile) : ScoreEnv :=
  let b := parseSub q.body
  { attn := p.attn, scale := p.attn.effScale, slopes := p.attn.biasSlopes, prog := q.image, layer := b.layer
    kfirst := b.keyFirst, kend := b.keyEnd, causal := b.opcode == 2 || p.attn.causal }

/-- Query rows a sub-request carries, already rotated (Table 13.4). -/
def subRows (b : SubBody) (a : AttnProfile) : List QRow :=
  ((Sys2Proof.Machine.blockRows a b.kvhFirst b.kvhCount b.queryCount).zipIdx).map (fun x =>
    { q := bf16s (b.rows.drop (x.2 * a.dk * 2)) a.dk, pos := b.queryFirst + x.1.1, gh := x.1.2.2, kvh := x.1.2.1 })

/-- Scoring environment of a work. -/
def State.workEnv (s : State) (key : Nat) : Option ScoreEnv :=
  match s.req? key with
  | some r => r.profile.map r.env
  | none => (s.sub? key).bind (fun q => (s.subProfile q).map (s.subEnv q))

/-- First query position and number of positions of a block. -/
def State.blockSpan (s : State) (key block : Nat) : Nat × Nat :=
  match s.req? key with
  | some r => (r.desc.blockFirst block r.n, r.desc.blockPositions block)
  | none => match s.sub? key with
    | some q => ((parseSub q.body).queryFirst, (parseSub q.body).queryCount)
    | none => (0, 0)

/-- Scoring environment and rows of a block; none while its rows are not known. -/
def State.workRows (s : State) (key block : Nat) : Option (ScoreEnv × List QRow) :=
  match s.workEnv key with
  | none => none
  | some e => match s.req? key with
    | some r => match r.profile with
      | some p => (s.blockRows r p block).map (fun rows => (e, rows))
      | none => none
    | none => (s.sub? key).map (fun q => (e, subRows (parseSub q.body) e.attn))

/-- Rows `first` to `first + count - 1` of a head in a block. -/
def headRun (rows : List QRow) (head first count : Nat) : List QRow :=
  ((rows.filter (fun r => r.kvh == head)).drop first).take count

/-- Whether the mask leaves a page some token for some position of a block (R54). -/
def State.pageLive (s : State) (key block index : Nat) : Bool :=
  match s.workEnv key with
  | none => true
  | some e =>
    let (first, count) := s.blockSpan key block
    (List.range count).any (fun k => spanAllowed e (first + k) (128 * index) 128)

/-- Pages of a head in a key range that this node can scan for a work. -/
def State.rangePages (s : State) (w : Work) (head : Nat) (e : ScoreEnv) : List Page :=
  if e.kfirst < e.kend then
    (span (e.kfirst / 128) (pagesOf e.kend)).filterMap (fun i => (s.taskPage w head i).map Prod.snd)
  else []

/-- Whether a page is in the anchor set of a row of a task (R62, R373). -/
def State.anchorPage (s : State) (w : Work) (block head rowFirst rowCount : Nat) (p : Page) : Bool :=
  !p.isSealed ||
    (match s.workRows w.key block with
     | none => false
     | some (e, rows) =>
       let pages := s.rangePages w head e
       (headRun rows head rowFirst rowCount).any (fun r => isAnchor e r (bestBound (rowBounds e r pages)) p))

/-- Whether the skip masks of a block are formed (R373). -/
def State.skipReady (s : State) (key block : Nat) : Bool := match s.req? key with
  | some r => r.skipBlocks.contains block
  | none => match s.sub? key with
    | some q => q.skipReady
    | none => true

/-- Whether a bound pass of a head in a block is still to end (R373). -/
def State.boundsRun (s : State) (key block head : Nat) : Bool :=
  s.anyTask key (fun k => match k with | .bound b h _ _ _ => b == block && h == head | _ => false)

/-- Whether SKIP_VALID is still required for a page-task of a request with bounded skip: its page waits for the bound passes when it is in
the anchor set, for the skip masks when it is not (R104, R373). -/
def State.skipWaits (s : State) (w : Work) (block head rowFirst rowCount : Nat) (p : Page) : Bool :=
  w.skip && !s.skipReady w.key block &&
    (s.boundsRun w.key block head || !s.anchorPage w block head rowFirst rowCount p)

/-- Rows of a page-task that skip its page (R62): bit r of SKIP for row r (Table 6.2). No row skips before the masks are formed. -/
def State.skipRows (s : State) (w : Work) (block head index rowFirst rowCount : Nat) : List Bool :=
  let theta : Option Nat := match s.req? w.key with
    | some r => if r.desc.skip then some r.desc.skipTheta else none
    | none => (s.sub? w.key).bind (fun q => if (parseSub q.body).skip then some (parseSub q.body).skipTheta else none)
  match theta, s.workRows w.key block with
  | some th, some (e, rows) =>
    let pages := s.rangePages w head e
    (headRun rows head rowFirst rowCount).map (fun r => s.skipReady w.key block &&
      ((rowSkips e r th pages).getD []).any (fun x => x.1 == index))
  | _, _ => List.replicate rowCount false

/-- Whether an earlier pebble range of the same rows and page is still in the itinerary: it hands its state on (R29). -/
def State.earlierRange (s : State) (key b h i rf pf : Nat) : Bool :=
  pf != 0 && s.anyTask key (fun k => match k with | .page x y z r _ f _ => x == b && y == h && z == i && r == rf && decide (f < pf) | _ => false)

/-- Whether a page-task waits: for a demotion of its page (R96), for the anchor scan (R373, R104), or for the range before it. -/
def State.pageGate (s : State) (w : Work) (block head index rowFirst rowCount pf : Nat) : Bool :=
  match s.taskPage w head index with
  | none => true
  | some (_, p) => p.demotePending || s.skipWaits w block head rowFirst rowCount p || s.earlierRange w.key block head index rowFirst pf

/-- Whether the query rows of a head are still to be projected or rotated (R48, R67). -/
def State.rotating (s : State) (key block head : Nat) : Bool :=
  s.anyTask key (fun k => match k with
    | .rotate b h _ _ => b == block && h == head
    | .project b h _ _ => b == block && h == head
    | _ => false)

/-- Whether two row ranges meet. -/
def rowsMeet (f1 c1 f2 c2 : Nat) : Bool := decide (f1 < f2 + c2) && decide (f2 < f1 + c1)

/-- Whether a page-task whose partial a merge takes is still to end: a page of `first .. last`, the same head, rows it merges (R374). -/
def State.mergeInputs (s : State) (key block head rf rc first last : Nat) : Bool :=
  s.anyTask key (fun k => match k with
    | .page b h i f c _ _ => b == block && h == head && decide (first ≤ i) && decide (i ≤ last) && rowsMeet rf rc f c
    | _ => false)

/-- Whether level results that the last merge of a head takes are still to come (R374). -/
def State.levelInputs (s : State) (key block head rf rc : Nat) : Bool :=
  s.anyTask key (fun k => match k with
    | .merge b h f c _ _ _ final => b == block && h == head && !final && rowsMeet rf rc f c
    | _ => false)

/-- Slot of the composition whose share a page belongs to (R126). -/
def shareSlot (home nc n : Nat) (pl : PlaceProfile) (i : Nat) : Nat := memberOf home (stripePos i (pagesOf n) nc pl) nc

/-- Pages of a block's share here whose leaves other nodes forward (R128): head and index. -/
def State.awaitedLeaves (s : State) (w : Work) (block : Nat) : List (Nat × Nat) :=
  match s.workEnv w.key with
  | none => []
  | some e =>
    if e.kend ≤ e.kfirst then []
    else
      let mine (i : Nat) : Bool := match s.req? w.key with
        | some r => s.ownsAt r.epoch (shareSlot r.home r.nc r.n w.p.place i)
        | none => match s.sub? w.key with
          | some q =>
            let b := parseSub q.body
            stripePos i (pagesOf b.length) b.nc w.p.place == b.pos
          | none => false
      (span (e.kfirst / 128) (pagesOf e.kend)).flatMap (fun i =>
        if !mine i || !s.pageLive w.key block i then []
        else (w.heads.filter (fun h => s.pageFind w h i == .away)).map (fun h => (h, i)))

/-- Whether a forwarded leaf of a work has landed. -/
def State.leafLanded (s : State) (key block head page : Nat) : Bool :=
  let hit (l : Leaf) : Bool := l.block == block && l.head == head && l.page == page && !l.rows.isEmpty
  match s.req? key with
  | some r => r.leaves.any hit
  | none => match s.sub? key with
    | some q => q.leaves.any hit
    | none => true

/-- Whether leaves a merge of a head takes are still on their way (R128, R374). -/
def State.leavesMissing (s : State) (w : Work) (block head first last : Nat) : Bool :=
  (s.awaitedLeaves w block).any (fun x => x.1 == head && decide (first ≤ x.2) && decide (x.2 ≤ last) && !s.leafLanded w.key block x.1 x.2)

/-- Whether a continuation still waits: for a peer partial, for a forwarded leaf, or for a merge of its own block (R33, R128). -/
def State.continuationWaits (s : State) (w : Work) (block : Nat) : Bool :=
  (s.awaitedLeaves w block).any (fun x => !s.leafLanded w.key block x.1 x.2) ||
    s.anyTask w.key (fun k => match k with | .continuation _ _ _ => false | .append _ _ _ _ => false | .trees _ _ => false | _ => k.block? == some block) ||
    (match s.req? w.key with
     | some r => (r.positions w.p).any (fun pos => !s.ownsAt r.epoch (memberOf r.home pos r.nc) &&
         !r.shares.any (fun x => x.block == block && x.pos == pos && x.rows.isSome))
     | none => false)

/-- Whether an assay's re-execution waits for the rows its page-task needs (R28, R277). -/
def State.assayWaits (s : State) (id : Nat) : Bool :=
  match s.health.assays.find? (fun a => a.id == id) with
  | none => false
  | some a => match s.workOf a.req with
    | none => false
    | some _ => !s.landed a.req a.block || s.anyTask a.req (fun k => match k with
        | .rotate b _ _ _ => b == a.block
        | .project b _ _ _ => b == a.block
        | _ => false)

/-- Whether a condition other than time holds a task of a work back (R28, R96, R104, R373, R374). -/
def State.gatedBy (s : State) (w : Work) (k : TaskKind) : Bool :=
  match k with
  | .project b _ _ _ => !s.landed w.key b
  | .rotate b h rf rc => !s.landed w.key b || s.anyTask w.key (fun k => match k with
      | .project x y f c => x == b && y == h && rowsMeet rf rc f c
      | _ => false)
  | .page b h i rf rc pf _ => !s.landed w.key b || s.rotating w.key b h || s.unwritten w h i || s.pageGate w b h i rf rc pf
  | .bound b h i _ _ => !s.landed w.key b || s.rotating w.key b h || s.unwritten w h i || (s.taskPage w h i).isNone
  | .merge b h rf rc first last _ final => s.mergeInputs w.key b h rf rc first last || s.leavesMissing w b h first last ||
      (final && s.levelInputs w.key b h rf rc)
  | .unproject b _ _ => s.anyTask w.key (fun k => match k with
      | .merge x _ _ _ _ _ _ _ => x == b
      | .page x _ _ _ _ _ _ => x == b
      | _ => false)
  | .output b _ => s.anyTask w.key (fun k => match k with
      | .merge x _ _ _ _ _ _ _ => x == b
      | .page x _ _ _ _ _ _ => x == b
      | .unproject x _ _ => x == b
      | _ => false)
  | .continuation b _ _ => s.continuationWaits w b
  | .append _ _ _ _ => !s.landed w.key 0
  | .trees _ _ => s.anyTask w.key (fun k => match k with | .append _ _ _ _ => true | _ => false)
  | .demote _ _ _ => false
  | .assay _ => false
  | .move _ => false
  | .scrub _ => false
  | .seal _ => false

/-- Whether a condition other than time holds a task back. -/
def State.gated (s : State) (t : Task) : Bool :=
  match t.kind with
  | .assay id => s.assayWaits id
  | k => match t.req.bind s.workOf with
    | none => false
    | some w => s.gatedBy w k

/-! ### Query sets (R105) -/

/-- Row ranges after repeated halving until a part fits the limit, or has one row (R29). -/
def halveRows (fits : Nat → Bool) : Nat → Nat → Nat → List (Nat × Nat)
  | 0, first, count => [(first, count)]
  | fuel + 1, first, count =>
    if fits count || count ≤ 1 then [(first, count)]
    else
      let h := (count + 1) / 2
      halveRows fits fuel first h ++ halveRows fits fuel (first + h) (count - h)

/-- The run of at most 64 rows of a head, out of `rows`, whose query set holds a row (R105): the parts of R29's halving. -/
def setRun (rows row : Nat) : Nat × Nat :=
  ((halveRows (fun n => decide (n ≤ 64)) 17 0 rows).find? (fun x => decide (x.1 ≤ row) && decide (row < x.1 + x.2))).getD (0, min rows 64)

/-- Bytes of a query set of `rows` rows, rounded up to 64 (R105). -/
def setSize (rows dk : Nat) : Nat := ceilDiv (32 + rows * (8 + 2 * dk)) 64 * 64

/-- Row headers and rows of a query set: position and slope, then the BF16 elements (R105). -/
def setData (e : ScoreEnv) (rows : List QRow) : Bytes :=
  rows.flatMap (fun r => leBytes 4 r.pos ++ leBytes 4 (lget e.slopes r.gh 0).toNat ++ rowsBytes [r])

/-- The query set that rows of a head need, at the start of the buffer; its rows are in it once they are rotated (R105). -/
def State.querySet (s : State) (w : Work) (key block head row : Nat) : QuerySet :=
  let (first, count) := setRun (s.headRows key block) row
  let a := w.p.attn
  let e := s.workEnv key
  { key := key, block := block, head := head, rowFirst := first, rowCount := count, off := 0, size := setSize count a.dk, ctx := w.ctx
    scale := a.effScale, softcap := a.softcap, window := a.window, sinks := a.sinks
    causal := (e.map ScoreEnv.causal).getD a.causal, dk := a.dk, dv := a.dv, latent := a.latent
    keyFirst := (e.map ScoreEnv.kfirst).getD 0, keyEnd := (e.map ScoreEnv.kend).getD 0
    data := if s.rotating key block head then [] else match s.workRows key block with
      | some (e, rows) => setData e (headRun rows head first count)
      | none => [] }

/-- The query set a task needs on an engine. -/
def State.setOf (s : State) (w : Work) (k : TaskKind) : Option QuerySet :=
  match k with
  | .page b h _ rf _ _ _ => some (s.querySet w w.key b h rf)
  | .assay id => (s.health.assays.find? (fun a => a.id == id)).map (fun a =>
      s.querySet w a.req a.block (match mget (s.ctx w.ctx).pages a.page with | some p => p.head | none => 0) a.rowFirst)
  | _ => none

/-- Whether two query sets hold the same rows. -/
def QuerySet.same (a b : QuerySet) : Bool := a.key == b.key && a.block == b.block && a.head == b.head && a.rowFirst == b.rowFirst

/-- The lowest place in the 512 KiB query buffer where a set fits (R105). -/
def QuerySet.place (sets : List QuerySet) (q : QuerySet) : Option Nat :=
  (lsort id (0 :: sets.map (fun x => x.off + x.size))).find? (fun o => decide (o + q.size ≤ 524288) &&
    sets.all (fun x => decide (o + q.size ≤ x.off) || decide (x.off + x.size ≤ o)))

/-- Change the engine record of an engine. -/
def State.modEngine (s : State) (n : Nat) (f : Engine → Engine) : State :=
  { s with engines := mset s.engines n (f ((mget s.engines n).getD Engine.idle)) }

/-- Query sets an engine holds. -/
def State.setsOn (s : State) (engine : Nat) : List QuerySet := match mget s.engines engine with
  | some e => e.querySets
  | none => []

/-- Whether an engine holds or can take a query set (R105). -/
def State.setFits (s : State) (engine : Nat) : Option QuerySet → Bool
  | none => true
  | some q => (s.setsOn engine).any q.same || (QuerySet.place (s.setsOn engine) q).isSome

/-- Push a query set into an engine that does not hold it (R105). -/
def State.pushSet (s : State) (engine : Nat) (q : QuerySet) : State :=
  if (s.setsOn engine).any q.same then s
  else match QuerySet.place (s.setsOn engine) q with
    | none => s
    | some o => s.modEngine engine (fun e => { e with querySets := e.querySets ++ [{ q with off := o }] })

/-- The rows of a head are rotated: the merge tile sends them to every engine that holds a set of them (R105, R48). -/
def State.sendRows (s : State) (key block head : Nat) : State :=
  match s.workRows key block with
  | none => s
  | some (e, rows) =>
    let hit (q : QuerySet) : Bool := q.key == key && q.block == block && q.head == head
    let fill (q : QuerySet) : QuerySet := { q with data := setData e (headRun rows head q.rowFirst q.rowCount) }
    { s with engines := mall s.engines (fun _ x => { x with querySets := lmod x.querySets hit fill }) }

/-! ### Placing -/

/-- End of what is planned on a unit, in ps: publication when nothing is (R22, R25). -/
def State.cursor (s : State) (u : UnitId) : Nat :=
  let p := s.plan u
  let base := s.tick.last * 1000 + 400000
  let r := match p.running with
    | some t => max base (t.planPs + t.costPs)
    | none => base
  p.placed.foldl (fun m t => max m (t.planPs + t.costPs)) r

/-- Planned start after what is planned on a unit, past the refresh slots of an engine (R25, R31, R108). -/
def State.planStart (s : State) (u : UnitId) (cost : Nat) : Nat :=
  let base := s.tick.last * 1000
  match u with
  | .engine e => base + pastSlots cost (refreshSlots (s.refreshStep e) s.tick.periodUs) (s.cursor u - base)
  | _ => s.cursor u

/-- Planned start of a task on a unit, when it fits its class window, the unit's list and the query buffer (R23, R25, R31,
R105). -/
def State.fitOn (s : State) (u : UnitId) (c cost : Nat) (set : Option QuerySet) : Option Nat :=
  let p := s.plan u
  let n := p.placed.length + p.running.toList.length
  let t := s.planStart u cost
  let room := match u with
    | .engine e => decide (n < 32) && s.setFits e set
    | _ => decide (n < 64)
  if room && t + cost ≤ s.tick.last * 1000 + windowEnd s.tick.periodUs s.tick.shares c then some t else none

/-- A place for a task: unit, planned start and cost in ps. -/
structure TaskSlot where
  unit : UnitId
  start : Nat
  cost : Nat
deriving DecidableEq, Repr

/-- A place on one unit, when the task fits there. -/
def State.slotOn (s : State) (w : Work) (sp : Spec) (set : Option QuerySet) (u : UnitId) : Option TaskSlot :=
  (s.fitOn u (clsNum w.cls) (s.costOn sp u) set).map (fun t => ⟨u, t, s.costOn sp u⟩)

/-- The place chosen for a specification: its engine, else the first tile from the preferred one upward (R59, R29). -/
def State.choose (s : State) (w : Work) (sp : Spec) (set : Option QuerySet) : Option TaskSlot :=
  let onTile (n : Nat) : Option TaskSlot := if s.tileOk n then s.slotOn w sp none (.tile n) else none
  match sp.engine with
  | some e => s.slotOn w sp set (.engine e)
  | none => if sp.fixed then onTile sp.tile else (List.range 1536).findSome? (fun i => onTile ((sp.tile + i) % 1536))

/-- The unit on which an earlier pebble range of the same rows and page is placed: the next range goes there too (R29). -/
def State.rangeUnit (s : State) (key : Nat) (k : TaskKind) : Option UnitId :=
  match k with
  | .page b h i rf _ pf _ =>
    if pf = 0 then none
    else
      let hit (t : Task) : Bool := t.req == some key && (match t.kind with
        | .page x y z r _ f _ => x == b && y == h && z == i && r == rf && decide (f < pf)
        | _ => false)
      (s.itin.units.find? (fun u => u.2.running.any hit || u.2.placed.any hit || u.2.carry.any hit)).map Prod.fst
  | _ => none

/-- A specification narrowed to the unit of the range before it. -/
def Spec.onUnit (sp : Spec) : Option UnitId → Spec
  | some (.tile n) => { sp with engine := none, tile := n, fixed := true }
  | _ => sp

/-- Append a task to a unit's list; an engine also receives the query set it needs (R105). -/
def State.putTask (s : State) (u : UnitId) (t : Task) (set : Option QuerySet) : State :=
  let p := s.plan u
  let s1 := s.setPlan u { p with placed := p.placed ++ [t] }
  match u, set with
  | .engine e, some q => s1.pushSet e q
  | _, _ => s1

/-- Whether a block awaits something from peers: node partials, or forwarded leaves (R33, R128). -/
def State.awaits (s : State) (w : Work) (block : Nat) : Bool :=
  !(s.awaitedLeaves w block).isEmpty || (match s.req? w.key with
    | some r => (r.positions w.p).any (fun pos => !s.ownsAt r.epoch (memberOf r.home pos r.nc))
    | none => false)

/-- A new task of a work. -/
def State.newTask (s : State) (w : Work) (k : TaskKind) (reserved : Bool) : Task where
  id := s.itin.nextTask
  req := some w.key
  ctx := w.ctx
  kind := k
  cls := w.cls
  costPs := 0
  planPs := 0
  cycles := 0
  allowPs := 0
  carried := false
  displaced := false
  returned := false
  reserved := reserved
  startedAt := none
  paced := 0
  paceAt := none
  due := 0
  state := none

/-- Count a task number as used. -/
def State.tookTask (s : State) : State := { s with itin := { s.itin with nextTask := s.itin.nextTask + 1 } }

/-- A task waits for a later tick, at the end of its class's queue (R23). -/
def State.wait (s : State) (t : Task) : State := { s with itin := { s.itin with waiting := s.itin.waiting ++ [t] } }

/-- Cycles of a specification on a kind of unit. -/
def Spec.cyclesOn (sp : Spec) : UnitId → Nat
  | .engine _ => sp.ecycles
  | _ => sp.cycles

/-- Tier allowance on a kind of unit. -/
def Spec.allowOn (sp : Spec) : UnitId → Nat
  | .engine _ => 0
  | _ => sp.allow

/-- Place a task by a specification, or let it wait. -/
def State.placeBy (s : State) (w : Work) (t : Task) (sp : Spec) : Bool × State :=
  let set := s.setOf w t.kind
  match s.choose w sp set with
  | some x => (true, s.putTask x.unit
      { t with planPs := x.start, costPs := x.cost, cycles := sp.cyclesOn x.unit, allowPs := sp.allowOn x.unit } set)
  | none => (false, s.wait t)

/-- Place a task of a work, or let it wait. -/
def State.placeTask (s : State) (w : Work) (t : Task) : Bool × State :=
  match s.specOf w t.kind with
  | none => (false, s.wait t)
  | some sp => s.placeBy w t (sp.onUnit (s.rangeUnit w.key t.kind))

/-! ### Splitting -/

/-- Pebble ranges after repeated halving: the first 16 * ⌈n / 32⌉ pebbles and the rest (R29). -/
def halvePebbles (fits : Nat → Bool) : Nat → Nat → Nat → List (Nat × Nat)
  | 0, first, count => [(first, count)]
  | fuel + 1, first, count =>
    if fits count || count ≤ 16 then [(first, count)]
    else
      let h := 16 * ceilDiv count 32
      halvePebbles fits fuel first h ++ halvePebbles fits fuel (first + h) (count - h)

/-- Largest cost a task of a class may have, in ps: 4 µs or its window, and on an engine the space between refresh slots
(R29, R108). -/
def State.costLimit (s : State) (c : Nat) (engine : Option Nat) : Nat :=
  let l := min 4000000 (windowLen s.tick.periodUs s.tick.shares c)
  match engine with
  | none => l
  | some e => min l (s.refreshStep e - 160000)

/-- The unit a specification prefers. -/
def Spec.unit (sp : Spec) : UnitId := match sp.engine with
  | some e => .engine e
  | none => .tile sp.tile

/-- Cost of a part on the unit it would go to first. -/
def State.partCost (s : State) (w : Work) (k : TaskKind) : Nat := match s.specOf w k with
  | none => 0
  | some sp => s.costOn sp sp.unit

/-- Whether a part obeys the limit of R29 and R108; a command names at most 64 rows (Table 6.2). -/
def State.partFits (s : State) (w : Work) (k : TaskKind) : Bool := match s.specOf w k with
  | none => true
  | some sp => decide (s.costOn sp sp.unit ≤ s.costLimit (clsNum w.cls) sp.engine) &&
      (match k with | .page _ _ _ _ rc _ _ => sp.engine.isNone || decide (rc ≤ 64) | _ => true)

/-- Split work by rows (R29). -/
def State.splitRows (s : State) (w : Work) (part : Nat → Nat → TaskKind) (first count : Nat) : List TaskKind :=
  (halveRows (fun n => s.partFits w (part first n)) 22 first count).map (fun x => part x.1 x.2)

/-- Split a page-task over rows and a pebble range into parts that fit (R29, R108). -/
def State.splitPage (s : State) (w : Work) (b head index rf rc pf pc : Nat) : List TaskKind :=
  let np := 128 * (w.p.attn.nk + w.p.attn.nv)
  let part (f c : Nat) : TaskKind := .page b head index f c pf pc
  (s.splitRows w part rf rc).flatMap (fun k => match k with
    | .page _ _ _ f 1 _ _ =>
      if s.partFits w (part f 1) then [k]
      else (halvePebbles (fun n => s.partFits w (.page b head index f 1 pf n)) 12 pf (if pc = 0 then np else pc)).map
        (fun y => .page b head index f 1 y.1 y.2)
    | _ => [k])

/-- Split an APPEND: not at all where it fits, else by halving its heads, then the tokens of one head (R29). -/
def State.splitAppend (s : State) (w : Work) (tokens : Nat) : List TaskKind :=
  (halveRows (fun n => s.partFits w (.append 0 n 0 tokens)) 8 0 w.heads.length).flatMap (fun x =>
    if x.2 = 1 && !s.partFits w (.append x.1 1 0 tokens) then
      (halveRows (fun n => s.partFits w (.append x.1 1 0 n)) 17 0 tokens).map (fun y => .append x.1 1 y.1 y.2)
    else [.append x.1 x.2 0 tokens])

/-- Split the rebuilding of share trees by heads (R29, R266). -/
def State.splitTrees (s : State) (w : Work) (hf hc : Nat) : List TaskKind :=
  (halveRows (fun n => s.partFits w (.trees hf n)) 8 hf hc).map (fun x => .trees x.1 x.2)

/-- Split a demotion by pebble ranges (R29, R96). -/
def State.splitDemote (s : State) (w : Work) (page pf pc : Nat) : List TaskKind :=
  (halvePebbles (fun n => s.partFits w (.demote page pf n)) 12 pf pc).map (fun y => .demote page y.1 y.2)

/-- The parts of a task that no longer fits the limits of the tick in which it is placed (R29, R108); a task that fits is not split. -/
def State.resplit (s : State) (w : Work) (k : TaskKind) : List TaskKind :=
  if s.partFits w k then [k]
  else match k with
    | .page b h i rf rc pf pc => s.splitPage w b h i rf rc pf pc
    | .bound b h i rf rc => s.splitRows w (fun f c => .bound b h i f c) rf rc
    | .project b h rf rc => s.splitRows w (fun f c => .project b h f c) rf rc
    | .rotate b h rf rc => s.splitRows w (fun f c => .rotate b h f c) rf rc
    | .merge b h rf rc first last lv final => s.splitRows w (fun f c => .merge b h f c first last lv final) rf rc
    | .unproject b rf rc => s.splitRows w (fun f c => .unproject b f c) rf rc
    | .continuation b rf rc => s.splitRows w (fun f c => .continuation b f c) rf rc
    | .trees hf hc => s.splitTrees w hf hc
    | .append hf hc tf tc =>
      if hc ≤ 1 then (halveRows (fun n => s.partFits w (.append hf hc tf n)) 17 tf tc).map (fun y => .append hf hc y.1 y.2)
      else (halveRows (fun n => s.partFits w (.append hf n tf tc)) 8 hf hc).map (fun y => .append y.1 y.2 tf tc)
    | .demote page pf pc => s.splitDemote w page pf (if pc = 0 then 128 * (w.p.attn.nk + w.p.attn.nv) else pc)
    | .output _ _ => [k]
    | .assay _ => [k]
    | .move _ => [k]
    | .scrub _ => [k]
    | .seal _ => [k]

/-! ### The tasks of a block -/

/-- Whether this node scans a page for a work, now or once placement has promoted it (Table 3.6, R145, R150). -/
def State.scansPage (s : State) (w : Work) (head index : Nat) : Bool := match s.pageFind w head index with
  | .here _ _ => true
  | .parked => true
  | _ => false

/-- Pages of a block that this node scans, by head and index; a page the mask excludes for every row has no task (R54). -/
def State.workPages (s : State) (w : Work) (block : Nat) (indices : List Nat) : List (Nat × Nat) :=
  let live := indices.filter (s.pageLive w.key block)
  w.heads.flatMap (fun h => (live.filter (s.scansPage w h)).map (fun i => (h, i)))

/-- Whether a page of a work has a bound pass: it is sealed (R373), as a page in bedrock is; one still to be written will be when the request
sees it full. -/
def State.boundDue (s : State) (w : Work) (head index : Nat) : Bool :=
  if s.unwritten w head index then (s.req? w.key).any (fun r => decide (128 * (index + 1) ≤ r.n)) else match s.pageFind w head index with
  | .here _ p => p.isSealed
  | .parked => true
  | _ => false

/-- Page indices of the share a work owes: those of its stripe position (R53, R126). -/
def State.shareIndices (s : State) (w : Work) (indices : List Nat) : List Nat :=
  indices.filter (fun i => match s.req? w.key with
    | some r => s.ownsAt r.epoch (shareSlot r.home r.nc r.n w.p.place i)
    | none => match s.sub? w.key with
      | some q => stripePos i (pagesOf (parseSub q.body).length) (parseSub q.body).nc w.p.place == (parseSub q.body).pos
      | none => false)

/-- Consecutive runs of at most 16 leaves. -/
def leafRuns (l : List Nat) : List (List Nat) := (List.range (ceilDiv l.length 16)).map (fun i => (l.drop (16 * i)).take 16)

/-- Merge tasks of a head: runs of 16 leaves on intermediate tiles, four levels each, and the rest on the merge tile (R374); the runs are
the planner's choice (notes/assumptions/21.md). -/
def State.mergeKinds (s : State) (w : Work) (b head rows : Nat) (leaves : List Nat) : List TaskKind :=
  let first := leaves.headD 0
  let last := leaves.getLastD 0
  let runs := leafRuns leaves
  if leaves.length ≤ 1 then []
  else if runs.length ≤ 1 then s.splitRows w (fun f c => .merge b head f c first last (mergeLevels leaves.length) true) 0 rows
  else
    (runs.filter (fun r => decide (2 ≤ r.length))).flatMap (fun r =>
      s.splitRows w (fun f c => .merge b head f c (r.headD 0) (r.getLastD 0) (mergeLevels r.length) false) 0 rows) ++
      s.splitRows w (fun f c => .merge b head f c first last (mergeLevels runs.length) true) 0 rows

/-- The last steps of a block whose shares all lie here: the output projection by rows, then the output steps of at most 8 rows
(R49, R67, R374). -/
def State.outputKinds (s : State) (w : Work) (b rows : Nat) : List TaskKind :=
  (if w.p.attn.oprojDout = 0 then [] else s.splitRows w (fun f c => .unproject b f c) 0 rows) ++
    (List.range (ceilDiv rows 8)).map (fun i => .output b (8 * i))

/-- Tasks of one block of an attention work over pages (R48, R59, R65, R67, R374). A home that awaits nothing from peers also places the
output steps; else they belong to the continuation (R33). -/
def State.attendKinds (s : State) (w : Work) (b : Nat) (indices : List Nat) (outputs : Bool) : List TaskKind :=
  let rows := s.headRows w.key b
  let pages := s.workPages w b indices
  (if w.home && w.p.attn.qprojDin != 0 then w.heads.flatMap (fun h => s.splitRows w (fun f c => .project b h f c) 0 rows) else []) ++
    (if w.home then w.heads.flatMap (fun h => s.splitRows w (fun f c => .rotate b h f c) 0 rows) else []) ++
    (if w.skip then (pages.filter (fun x => s.boundDue w x.1 x.2)).flatMap (fun x =>
      s.splitRows w (fun f c => .bound b x.1 x.2 f c) 0 rows) else []) ++
    pages.flatMap (fun x => s.splitPage w b x.1 x.2 0 rows 0 0) ++
    w.heads.flatMap (fun h => s.mergeKinds w b h rows (s.shareIndices w indices)) ++
    (if outputs then s.outputKinds w b (rows * w.heads.length) else [])

/-- Place a list of tasks in order. -/
def State.placeAll (s : State) (w : Work) (reserved : Bool) (ks : List TaskKind) : State :=
  ks.foldl (fun s k => ((s.tookTask).placeTask w (s.newTask w k reserved)).2) s

/-- The unit a placed page-task of an assay stands on, when it is among the tick's. -/
def State.assayFirst (s : State) (w : Work) (a : Assay) : Option UnitId :=
  let hit (t : Task) : Bool := t.req == some a.req && (match t.kind with
    | .page b h i rf _ _ _ => b == a.block && rf == a.rowFirst && (s.taskPage w h i).any (fun x => x.1 == a.page)
    | _ => false)
  (s.itin.units.find? (fun u => u.2.placed.any hit)).map Prod.fst

/-- The re-execution of a page-task follows the unit the planner has given the task (Table 12.3). -/
def State.fixAssays (s : State) (w : Work) : State :=
  { s with health := { s.health with assays := s.health.assays.map (fun a =>
      if a.req != w.key || a.mismatch.isSome then a
      else match s.assayFirst w a, mget (s.ctx w.ctx).pages a.page with
        | some u, some p => { a with first := u, second := rerunUnit w p (s.scanTile w p) u }
        | _, _ => a) } }

/-- Whether a task is the re-execution of an assay. -/
def TaskKind.isAssay : TaskKind → Bool
  | .assay _ => true
  | _ => false

/-- Time a request's tasks take over tiles and engines, in ps (R222). -/
def State.workCost (s : State) (w : Work) (ks : List TaskKind) : Nat := lsum (ks.map (s.partCost w))

/-! ### Tiles: threads and delivered partials -/

/-- A tile that nothing has been said of. -/
def Tile.idle : Tile := ⟨[], [], [], [], none⟩

/-- A tile's own state. -/
def State.tile (s : State) (n : Nat) : Tile := (mget s.tiles n).getD Tile.idle

/-- Change a tile's own state. -/
def State.modTile (s : State) (n : Nat) (f : Tile → Tile) : State := { s with tiles := mset s.tiles n (f (s.tile n)) }

/-- The thread of a tile that runs a task: the planner's choice among the sixteen (notes/assumptions/33.md). -/
def threadOf (t : Task) : Nat := t.id % 16

/-- A thread starts a task: one of another context than its last finds registers, predicates, pending loads and the contents of the matrix
and vector units invalidated (R238). -/
def Tile.switch (k : Tile) (thread ctx : Nat) : Tile :=
  let old := (mget k.threads thread).getD ⟨none, none, []⟩
  if old.ctx = some ctx then k
  else { k with threads := mset k.threads thread ⟨some ctx, none, []⟩, units := none }

/-- A register of a thread as its task reads it: zero once invalidated, else part of a content nobody can know (R238). -/
def Tile.readReg (k : Tile) (thread reg : Nat) : Nat := match (mget k.threads thread).bind Thread.content with
  | none => 0
  | some n => Config.threadReg n reg

/-- A task starts on a tile: the thread switches, and its page is a pending load. -/
def State.threadStart (s : State) (u : UnitId) (t : Task) : State :=
  match u with
  | .tile n => s.modTile n (fun k =>
      let k1 := k.switch (threadOf t) t.ctx
      { k1 with threads := mmod k1.threads (threadOf t) (fun x => { x with loads := [t.id] }) })
  | _ => s

/-- A task has run on a tile: what it leaves in the thread's registers and the units is a free content. -/
def State.threadEnd (s : State) (u : UnitId) (t : Task) : State :=
  match u with
  | .tile n =>
    let s1 := s.modTile n (fun k => { k with
      threads := mmod k.threads (threadOf t) (fun x => { x with content := some s.free, loads := [] }), units := some s.free })
    { s1 with free := s.free + 1 }
  | _ => s

/-- Partial slot of a task in the merge tile (Table 6.2): the planner's choice (notes/assumptions/33.md). -/
def destSlot (t : Task) : Nat := t.id % 65536

/-- Page partials of a task's rows, which the engine sends when its scan ends (R106). -/
def State.taskPartials (s : State) (t : Task) : List Partial :=
  match t.kind, t.req with
  | .page b h i rf rc _ _, some key =>
    match s.workOf key, s.workRows key b with
    | some w, some (e, rows) => match s.taskPage w h i with
      | some (_, p) => (headRun rows h rf rc).map (fun r =>
          if pageTouched e r p then (pagePartial e r p).getD (emptyPartial e.attn.dv) else emptyPartial e.attn.dv)
      | none => []
    | _, _ => []
  | _, _ => []

/-- REQ of a command: index and sequence of its request, or of the home's request a sub-request serves (Table 6.2). -/
def State.commandReq (s : State) (t : Task) : Nat := match t.req with
  | none => 0
  | some key => match s.req? key with
    | some r => r.id % 65536 + r.seq % 65536 * 65536
    | none => ((s.sub? key).map SubReq.hreq).getD 0

/-- Block, head, page and rows of a page-task. -/
def Task.scan (t : Task) : Nat × Nat × Nat × Nat × Nat := match t.kind with
  | .page b h i rf rc _ _ => (b, h, i, rf, rc)
  | _ => (0, 0, 0, 0, 0)

/-- An engine sends the partials of a finished page-task to the merge tile, and its completion entry once the tile has acknowledged every
byte (R106); the entry of another outcome delivers no partial (Table 6.3). -/
def State.deliver (s : State) (u : UnitId) (t : Task) (outcome : Nat) : State :=
  match u, t.kind with
  | .engine _, .page b h i rf rc _ _ =>
    let key := t.req.getD 0
    let slot : PartialSlot := { tag := t.ctx, req := s.commandReq t, block := b, head := h, page := i, rowFirst := rf, rows := s.taskPartials t }
    let entry : Completion := { tag := t.ctx, req := s.commandReq t, rowFirst := rf, rowCount := rc, outcome := outcome }
    s.modTile (s.mergeTile key) (fun k => { k with
      slots := if outcome = 0 then mset k.slots (destSlot t) slot else k.slots
      completions := k.completions ++ [entry] })
  | _, _ => s

/-- A merge starts on the merge tile: its thread first consumes the completion entries of the request (R115). -/
def State.consume (s : State) (u : UnitId) (t : Task) : State :=
  match u, t.kind with
  | .tile n, .merge _ _ _ _ _ _ _ _ => s.modTile n (fun k => { k with completions := k.completions.filter (fun c => c.req != s.commandReq t) })
  | _, _ => s

/-- A merge has run: the partial slots of the pages it merged are free again. -/
def State.freeSlots (s : State) (t : Task) : State :=
  match t.kind, t.req with
  | .merge b h _ _ first last _ _, some key => s.modTile (s.mergeTile key) (fun k => { k with
      slots := k.slots.filter (fun x => !(x.2.req == s.commandReq t && x.2.block == b && x.2.head == h && decide (first ≤ x.2.page) &&
        decide (x.2.page ≤ last))) })
  | _, _ => s

/-! ### Leases -/

/-- The stack channel a task reads: its engine's own, or that of the frame or the sketch a tile task reads (06_stratum_engines.md, "Bank
leases"). -/
def State.leaseChannel (s : State) (u : UnitId) (t : Task) : Option Nat :=
  match u with
  | .engine e => some e
  | .gate _ => none
  | .tile _ =>
    let page : Option Page := match t.kind with
      | .page _ h i _ _ _ _ => ((t.req.bind s.workOf).bind (fun w => s.taskPage w h i)).map Prod.snd
      | .bound _ h i _ _ => ((t.req.bind s.workOf).bind (fun w => s.taskPage w h i)).map Prod.snd
      | .demote n _ _ => mget (s.ctx t.ctx).pages n
      | .seal n => mget (s.ctx t.ctx).pages n
      | .assay id => (s.health.assays.find? (fun a => a.id == id)).bind (fun a => mget (s.ctx t.ctx).pages a.page)
      | .move id => (s.tier.moves.find? (fun m => m.id == id)).bind (fun m => mget (s.ctx m.ctx).pages m.page)
      | _ => none
    page.bind (fun p => if p.tier = 1 then some p.home else none)

/-- The leases of one task: a chain of at most 2 µs each, in ns. -/
def leaseChain (start stop : Nat) : List (Nat × Nat) :=
  (List.range (ceilDiv (stop - start) 2000)).map (fun i => (start + 2000 * i, min stop (start + 2000 * (i + 1))))

/-- A task that starts holds the leases of its channel until its planned end; leases that are over are forgotten. -/
def State.takeLease (s : State) (u : UnitId) (t : Task) : State :=
  match s.leaseChannel u t with
  | none => s
  | some ch => s.modEngine ch (fun e => { e with
      leases := lsort Prod.fst (e.leases.filter (fun l => decide (s.now < l.2) || !e.waiters.isEmpty) ++ leaseChain s.now (s.now + ceilDiv t.costPs 1000)) })

/-- Whether a channel is held under lease now (R112). -/
def State.leased (s : State) (ch : Nat) : Bool := match mget s.engines ch with
  | some e => e.leases.any (fun l => decide (l.1 ≤ s.now) && decide (s.now < l.2))
  | none => false

/-- A task that ends early gives up the rest of its leases. -/
def State.dropLease (s : State) (u : UnitId) (t : Task) : State :=
  match s.leaseChannel u t with
  | none => s
  | some ch =>
    let busy := s.itin.units.any (fun x => x.2.running.any (fun y => s.leaseChannel x.1 y == some ch))
    if busy then s else s.modEngine ch (fun e => { e with leases := [] })

/-! ### Running tasks -/

/-- The page a task reads: its local number. -/
def State.taskPageNum (s : State) (t : Task) : Nat :=
  let held (h i : Nat) : Nat := (((t.req.bind s.workOf).bind (fun w => s.taskPage w h i)).map Prod.fst).getD 0
  match t.kind with
  | .page _ h i _ _ _ _ => held h i
  | .bound _ h i _ _ => held h i
  | .demote page _ _ => page
  | .seal page => page
  | .assay id => ((s.health.assays.find? (fun a => a.id == id)).map Assay.page).getD 0
  | _ => 0

/-- A task that scans a page in the host tier reads its frame over CXL.cache (R144). -/
def State.hostFrame (s : State) (t : Task) : State := match t.kind with
  | .page _ _ _ _ _ _ _ => match mget (s.ctx t.ctx).pages (s.taskPageNum t), (s.ctx t.ctx).profile with
    | some pg, some p =>
      if pg.tier = 4 then s.emit (.cacheAccess false (s.hostAddr p.attn pg.format pg.spot) (frameSize pg.format (p.attn.nk + p.attn.nv))) else s
    | _, _ => s
  | _ => s

/-- What the start of a task does beyond the unit: its block has started (R60, R177), its thread switches (R238), its lease begins. -/
def State.taskStarted (s : State) (u : UnitId) (t : Task) : State :=
  let s1 := (((s.threadStart u t).consume u t).takeLease u t).hostFrame t
  match t.kind.block?, t.req with
  | some b, some key => s1.startBlock key b
  | _, _ => s1

/-- Whether the planned start of a task has passed where that holds it: stratum commands wait for it (R104). -/
def State.planPassed (s : State) (u : UnitId) (t : Task) : Bool := match u with
  | .engine _ => decide (t.planPs ≤ s.now * 1000)
  | _ => true

/-- Start the next task of a unit that runs none: the first placed one, if nothing but time held it (R25, R28, R104). -/
def State.startNext (s : State) (u : UnitId) : State :=
  let p := s.plan u
  match p.running, p.placed with
  | none, t :: rest =>
    if s.gated t || !s.tick.published || !s.planPassed u t then s
    else
      let t1 := { t with startedAt := some (max s.now (s.tick.last + 400)) }
      (s.setPlan u { p with running := some t1, placed := rest }).taskStarted u t1
  | _, _ => s

/-- Start what can start on every unit. -/
def State.startAll (s : State) : State := (s.itin.units.map Prod.fst).foldl (fun s u => s.startNext u) s

/-- Number this model gives a task kind in a trace. -/
def TaskKind.traceCode : TaskKind → Nat
  | .rotate _ _ _ _ => 0
  | .page _ _ _ _ _ _ _ => 1
  | .bound _ _ _ _ _ => 2
  | .merge _ _ _ _ _ _ _ _ => 3
  | .output _ _ => 4
  | .append _ _ _ _ => 5
  | .demote _ _ _ => 6
  | .continuation _ _ _ => 7
  | .assay _ => 8
  | .project _ _ _ _ => 9
  | .unproject _ _ _ => 10
  | .move _ => 11
  | .scrub _ => 12
  | .seal _ => 13
  | .trees _ _ => 14

/-- A task has run, to its end or to a cut: its time is accounted, tiles in meter 1 and engines in meter 2 (R302), and a trace takes it
(R328). -/
def State.meterTask (s : State) (u : UnitId) (t : Task) (cut : Bool) : State :=
  let start := t.startedAt.getD s.now
  let s1 := s.traceAdd ⟨t.kind.traceCode, t.ctx, u, clsNum t.cls, t.planPs, start, s.now, cut, t.displaced⟩
  match u with
  | .tile _ => s1.meter t.ctx 1 (s.now - start)
  | .engine _ => s1.meter t.ctx 2 (s.now - start)
  | .gate _ => s1

end Sys2Proof.Machine
end

