-- ==== Sys2Proof/Machine/Budget.lean ====
section
/-! DEFINITION. The admission tests of reservations: the timing inequalities, the striped budget, the placement test, and
marking contexts degraded (10_classes.md, R218-R221; 07_tiers_placement.md, R139). -/
namespace Sys2Proof.Machine

/-! ### Timing -/

/-- Unit kinds of R219. -/
inductive UnitKind where
  | tile | engine | gate
deriving DecidableEq, Repr

/-- Refresh slots of the 1.95 µs grid that meet a window, whatever the temperature (R219). -/
def slotsIn (periodUs start stop : Nat) : Nat :=
  ((List.range (ceilDiv (periodUs * 1000 - 400) 1950)).filter (fun n =>
    decide (400000 + n * 1950000 < stop) && decide (start < 400000 + n * 1950000 + 160000))).length

/-- S_u in ps: what a unit kind cannot use of class window `c` (R219). -/
def unitLoss (k : UnitKind) (periodUs : Nat) (shares : List Nat) (c : Nat) : Nat :=
  match k with
  | .tile => 0
  | .engine => 160000 * slotsIn periodUs (windowStart periodUs shares c) (windowEnd periodUs shares c)
  | .gate => windowLen periodUs shares c / 32

/-- Gate cost in ps of `bytes` of SEND payload over IPv6 at 800 Gb/s (Table 2.2, R187). -/
def sendGatePs (bytes : Nat) : Nat :=
  let frames := packetCount bytes
  frames * 100000 + (bytes + 106 * frames) * 10

/-- Smallest number of links that LINK_MASK allows over a context's peer connections; 1 when it has none (R220). -/
def State.peerLinks (s : State) (ctx : Nat) : Nat :=
  match (s.conns.filter (fun c => c.2.entry.peer && c.2.entry.ctx == ctx)).map
      (fun c => ((List.range 16).filter (fun l => bit c.2.entry.linkMask l)).length) with
  | [] => 1
  | n :: ns => max 1 (ns.foldl min n)

/-- T_cont in ps at a clock in MHz (R220). -/
def contPs (dv nc mhz : Nat) : Nat :=
  cyclesPs (64 + 8 * (ceilDiv dv 64 + 4) * mergeLevels nc + 32 * ceilDiv dv 64) mhz

/-- What the inequalities take as given: period, shares, M, HOP_NS, LIMIT_NS, N_c, tile clock. -/
structure TimingSet where
  periodUs : Nat
  shares : List Nat
  margin : Nat
  hop : Nat
  limit : Nat
  nc : Nat
  mhz : Nat
deriving DecidableEq, Repr

/-- Whether a context counts in inequality 3: a C0 reservation and striping (R219). -/
def Profile.stripedC0 (p : Profile) : Bool := p.cls.c0Unit != 0 && p.place.stripeMin != 0

/-- G_part in ps: full frames of a node partial over the links (R220). -/
def partGatePs (p : Profile) (links : Nat) : Nat :=
  ceilDiv (packetCount (p.cls.c0Rows * (8 + 4 * p.attn.dv))) links * sendGatePs 4096

/-- Whether inequality 3 and the period condition of R220 hold for one striped context, given Σ C0_UNIT + M + S_u in ps. -/
def stripedOk (t : TimingSet) (links used : Nat) (p : Profile) : Bool :=
  decide (used + (400 + t.hop + 2 * t.limit + 102) * 1000 + partGatePs p links + contPs p.attn.dv t.nc t.mhz ≤ 3000000) &&
    decide ((400 + t.hop + 400 + t.limit) * 1000 + sendGatePs (0xE0 + p.cls.c0Rows * p.attn.dk * 2) ≤ t.periodUs * 1000000)

/-- The inequalities of R219 for one unit kind. -/
def unitTimingOk (t : TimingSet) (ps : List (Nat × Profile)) (k : UnitKind) : Bool :=
  let c0 := lsum (ps.map (fun p => p.2.cls.c0Unit)) * 1000
  let c1 := lsum (ps.map (fun p => p.2.cls.c1Unit)) * 1000
  let used := c0 + t.margin * 1000 + unitLoss k t.periodUs t.shares 0
  decide (used ≤ windowLen t.periodUs t.shares 0) &&
    decide (c1 + unitLoss k t.periodUs t.shares 1 ≤ windowLen t.periodUs t.shares 1) &&
    ps.all (fun p => !p.2.stripedC0 || stripedOk t p.1 used p.2)

/-- The test of R219 over profiles, each beside the links of its context. -/
def timingOk (t : TimingSet) (ps : List (Nat × Profile)) : Bool :=
  [UnitKind.tile, .engine, .gate].all (unitTimingOk t ps)

/-- Profiles that hold reservations: of contexts in state 1 or 2; `newest` takes an accepted profile not yet in effect. -/
def State.reserving (s : State) (newest : Bool) : List (Nat × Profile) :=
  s.ctxs.filterMap (fun c =>
    if c.2.phase != .created && c.2.phase != .inService then none
    else match (if newest then (c.2.pendingProfile.map Prod.snd).or c.2.profile else c.2.profile) with
      | some p => some (c.1, p)
      | none => none)

/-- Profiles of reserving contexts beside their peer links. -/
def State.withLinks (s : State) (l : List (Nat × Profile)) : List (Nat × Profile) := l.map (fun c => (s.peerLinks c.1, c.2))

/-- Shares that will be in force: staged, else in force. -/
def TickState.nextShares (t : TickState) : List Nat := t.stagedShares.getD t.shares

/-- Period that will be in force. -/
def TickState.nextPeriod (t : TickState) : Nat := t.stagedPeriod.getD t.periodUs

/-- The timing set of given period, shares, margin and hop. -/
def State.timingSet (s : State) (periodUs : Nat) (shares : List Nat) (margin hop : Nat) : TimingSet where
  periodUs := periodUs
  shares := shares
  margin := margin
  hop := hop
  limit := s.lv F.TICK_OFFSET.LIMIT_NS
  nc := s.nc
  mhz := 1800

/-- The test at a write: against the period and shares in force and staged (R219). -/
def State.timingAtWrite (s : State) (ps : List (Nat × Profile)) (margin hop : Nat) : Bool :=
  timingOk (s.timingSet s.tick.periodUs s.tick.shares margin hop) (s.withLinks ps) &&
    timingOk (s.timingSet s.tick.nextPeriod s.tick.nextShares margin hop) (s.withLinks ps)

/-- The larger of the margin in force and the accepted one. -/
def State.worstMargin (s : State) : Nat := max (s.lv F.CTX_CLASS.C0_MARGIN_NS) (s.rd F.CTX_CLASS.C0_MARGIN_NS)

/-- The larger of HOP_NS in force and accepted. -/
def State.worstHop (s : State) : Nat := max (s.lv F.TICK_ALIGN.HOP_NS) (s.rd F.TICK_ALIGN.HOP_NS)

/-! ### Placement -/

/-- Stack bytes the C0 contexts may fill (R139). -/
def c0Bytes (ps : List (Nat × Profile)) : Nat :=
  lsum ((ps.filter (fun p => p.2.cls.c0Unit != 0)).map (fun p =>
    ceilDiv p.2.place.qNear (pageLogical p.2.attn) * (frameSize p.2.ladder.fresh (p.2.attn.nk + p.2.attn.nv) + 64 + 4 * p.2.attn.dk)))

/-- The inequality of R139 for a stack capacity. -/
def placementOk (capacity : Nat) (ps : List (Nat × Profile)) : Bool := decide (c0Bytes ps ≤ capacity)

/-- Stack capacity left: the channels that have not failed and whose engine works (R139, R221). -/
def State.stackCapacity (s : State) : Nat :=
  ((List.range 192).filter (fun n => !s.channelDown n && !bitOf s.regs F.TIER_SE_FAULT.FAULT n && !bitOf s.live F.TIER_SE_MASK.MASK n &&
    !s.dbg.unitsOut.contains (.engine n))).length * channelBytes

/-- Slowest tile clock: the lowest frequency of the half-columns that a thermal limit holds below their reset value, those of an
emergency in this tick apart, which has not lasted one (R221, R371). -/
def State.slowMhz (s : State) : Nat :=
  (((List.range 96).filter (fun n => !mhas s.power.emergencies n && decide (s.rd F.PWR_HC.FREQ_MHZ n < s.rd F.PWR_HC.MAX_MHZ n))).map
    (fun n => s.rd F.PWR_HC.FREQ_MHZ n)).foldl min 1800

/-! ### Degraded contexts -/

/-- Both tests at the capacity there is, over a set of contexts (R221). -/
def State.capacityOk (s : State) (ps : List (Nat × Profile)) : Bool :=
  let t := s.timingSet s.tick.periodUs s.tick.shares (s.lv F.CTX_CLASS.C0_MARGIN_NS) (s.lv F.TICK_ALIGN.HOP_NS)
  timingOk { t with mhz := s.slowMhz } (s.withLinks ps) && placementOk s.stackCapacity ps

/-- C0 contexts to mark degraded: the highest numbers, as few as let the rest pass; the list is highest first. -/
def State.degradeFrom (s : State) (rest : List (Nat × Profile)) : List (Nat × Profile) → List Nat
  | [] => []
  | c :: cs =>
    if s.capacityOk ((c :: cs).reverse ++ rest) then []
    else c.1 :: s.degradeFrom rest cs

/-- Contexts that must be degraded now (R221). -/
def State.toDegrade (s : State) : List Nat :=
  let ps := s.reserving false
  s.degradeFrom (ps.filter (fun p => p.2.cls.c0Unit == 0)) (ps.filter (fun p => p.2.cls.c0Unit != 0)).reverse

/-- Count the degraded contexts in CTX_CLASS_STATUS. -/
def State.countDegraded (s : State) : State :=
  let n := (s.ctxs.filter (fun c => c.2.degraded)).length
  (s.wr F.CTX_CLASS_STATUS.C0_DEGRADED (b2n (n != 0))).wr F.CTX_CLASS_STATUS.DEGRADED_COUNT n

/-- Mark one context; a new mark sends an error record. -/
def State.degrade (s : State) (ctx : Nat) : State :=
  if (s.ctx ctx).degraded then s
  else
    let s1 := s.modCtx ctx (fun x => { x with degraded := true })
    errRecord s1 .c0Degraded .planner { ctx := some ctx, detail := (s1.ctxs.filter (fun c => c.2.degraded)).length }

/-- The test of R221 when capacity falls: marks what must be marked. -/
def State.degradeMark (s : State) : State := (s.toDegrade.foldl State.degrade s).countDegraded

/-- The test of R221 at a boundary: marks what must be marked; clears, lowest number first, what passes again. -/
def State.degradeTest (s : State) : State :=
  let bad := s.toDegrade
  let s1 := bad.foldl State.degrade s
  ({ s1 with ctxs := mall s1.ctxs (fun n x => if x.degraded && !bad.contains n then { x with degraded := false } else x) }).countDegraded

end Sys2Proof.Machine
end

