-- ==== Sys2Proof/Machine/Contexts.lean ====
section
/-! DEFINITION. Contexts: creation, profiles, geodes, programs, teardown (11_isolation.md, R244-R259; 18_registers.md,
R365-R369; 04_score_modifiers.md, R77-R80; 10_classes.md, R219). -/
namespace Sys2Proof.Machine

/-! ### Registers with an OP field -/

/-- What a control-host write does to the plain fields of an OP register (Table 0.4): RW fields take the value, RW1C bits
clear; OP acts apart. The write is a wake event (R304). -/
def State.ctlWrite (s : State) (off : Nat) (ctl : Word) : State :=
  (s.writeNow off (regWritten false off (getReg s.regs off) ctl)).wakeUp

/-- Fields of an OP register that report how the operation ended. -/
structure OpFields where
  done : Field
  error : Field
  code : Field
deriving DecidableEq, Repr

/-- CTX_CTL (Table 11.10). -/
def opCtx : OpFields := ⟨F.CTX_CTL.DONE, F.CTX_CTL.ERROR, F.CTX_CTL.ERRCODE⟩
/-- CTX_GEODE_CTL (Table 11.13). -/
def opGeode : OpFields := ⟨F.CTX_GEODE_CTL.DONE, F.CTX_GEODE_CTL.ERROR, F.CTX_GEODE_CTL.ERRCODE⟩
/-- CTX_PROG_CTL (Table 4.6). -/
def opProg : OpFields := ⟨F.CTX_PROG_CTL.DONE, F.CTX_PROG_CTL.ERROR, F.CTX_PROG_CTL.ERRCODE⟩
/-- NET_CONN_CTL (Table 9.20). -/
def opConn : OpFields := ⟨F.NET_CONN_CTL.DONE, F.NET_CONN_CTL.ERROR, F.NET_CONN_CTL.ERRCODE⟩
/-- NET_REGION_CTL (Table 9.21). -/
def opRegion : OpFields := ⟨F.NET_REGION_CTL.DONE, F.NET_REGION_CTL.ERROR, F.NET_REGION_CTL.ERRCODE⟩
/-- NET_COMP_CTL (Table 13.9). -/
def opComp : OpFields := ⟨F.NET_COMP_CTL.DONE, F.NET_COMP_CTL.ERROR, F.NET_COMP_CTL.ERRCODE⟩

/-- An operation ends: DONE with ERRCODE 0, or ERROR with its code. -/
def State.opEnd (s : State) (f : OpFields) (code : Nat) : State :=
  if code = 0 then (s.wr f.code 0).wr f.done 1 else (s.wr f.code code).wr f.error 1

/-! ### Creation -/

/-- Whether a context has a teardown asked for that has not begun (R247). -/
def Ctx.tearing (x : Ctx) : Bool := x.teardownAsked.isSome

/-- State code of Table 11.2. -/
def Ctx.code (x : Ctx) : Nat := match x.phase with
  | .free => 0
  | .created => 1
  | .inService => 2
  | .draining => 3
  | .scrubbing => 4

/-- Whether loads are accepted: state 1 or 2 and not teardown-pending (R246, R247). -/
def Ctx.loadable (x : Ctx) : Bool := (x.phase == .created || x.phase == .inService) && !x.tearing

/-- Whether a creation record is within Table 11.3 for a context. -/
def creationOk (ctx : Nat) (b : Bytes) : Bool :=
  b.length == 128 && le b 0 2 == ctx && decide (le b 2 2 ≤ 1) && zeroAt b 4 4 && zeroAt b 0x18 8 && zeroAt b 0x60 32

/-- ERRCODE of a creation (Table 11.10, R365, R366). -/
def State.createCode (s : State) (ctx : Nat) (mem : Option Bytes) : Nat :=
  if s.rd F.SEC_LOCK.LOCK = 0 then 3
  else if (s.ctx ctx).phase != .free then 1
  else match mem with
    | none => 5
    | some b =>
      if !creationOk ctx b then 2
      else if !s.sec.keysDerived || !s.sec.drbgOk then 7
      else 0

/-- The key-store counts of SEC_KEYSTORE (Table 18.8). -/
def State.countKeys (s : State) : State :=
  let es := s.nv.keyStore
  let pending := (List.range 512).filter (fun c => (match mget es c with | some e => e.tombstone | none => false) ||
    s.tier.blocks.any (fun b => b.2.tombs.contains c))
  (s.wr F.SEC_KEYSTORE.SEALED (es.filter (fun e => !e.2.tombstone)).length).wr F.SEC_KEYSTORE.TOMBSTONES pending.length

/-- Create a context: generate and seal its key, load the key tables, state 1 (R244, R245). -/
def State.createCtx (s : State) (ctx : Nat) (b : Bytes) : State :=
  let n := s.nv.creations + 1
  let e : KeyEntry := { tombstone := false, marks := [false, false, false, false], creation := n, hdmRead := bit (le b 2 2) 0
                        tenant := slice b 8 16, issuer := slice b 0x20 64, fixed := none }
  let x : Ctx := { Ctx.free with phase := .created, hdmRead := bit (le b 2 2) 0, tenant := slice b 8 16
                                 issuer := slice b 0x20 64, creation := n, keyLoaded := true }
  (({ s with nv := { s.nv with keyStore := mset s.nv.keyStore ctx e, creations := n }, free := s.free + 1 } : State).setCtx
    ctx x).countKeys

/-- CTX_CREATE: CTX_CTL.OP = 1 (R245). -/
def execCtxCreate (t : Nat) (ctl : Word) (mem : Option Bytes) (s : State) : Host.Outcome State Fault Refusal :=
  if !s.ready then .next (s.at_ t) else
  let s := (s.at_ t).ctlWrite F.CTX_CTL.CTX.off ctl
  let ctx := fieldOf F.CTX_CTL.CTX ctl
  let code := s.createCode ctx mem
  let s1 := if code = 0 then s.createCtx ctx (mem.getD []) else s
  .next (s1.opEnd opCtx code)

/-! ### Profiles -/

/-- Whether a profile differs from another in a parameter fixed while the context holds a conversation (R41, R94, R127, R287). -/
def fixedChanged (p q : Profile) : Bool :=
  let a := p.attn
  let b := q.attn
  !(a.layers == b.layers && a.kvheads == b.kvheads && a.dk == b.dk && a.dv == b.dv && a.group == b.group && a.latent == b.latent &&
    a.qprojDin == b.qprojDin && a.oprojDout == b.oprojDout && a.geode == b.geode && p.ladder.floor == q.ladder.floor &&
    p.ladder.sr == q.ladder.sr && p.ladder.seed == q.ladder.seed && p.place.stripeMin == q.place.stripeMin &&
    p.place.tail == q.place.tail && p.cls.fMode == q.cls.fMode)

/-- Whether a value of a profile lies in range and its reserved bytes are zero: ERRCODE 2 (R367). -/
def profileInRange (b : Bytes) : Bool :=
  let p := parseProfile b
  b.length == 256 && profileReservedOk b && attnOk p.attn && ladderRangeOk p.ladder && placeOk p.place && classOk p.cls

/-- Whether a geode has every section a profile needs, at its length (R246, Table 11.7): ERRCODE 6. -/
def geodeFits (g : Geode) (a : AttnProfile) : Bool :=
  let has (kind layer head len : Nat) : Bool := (g.section? kind layer head).map List.length == some len
  (List.range a.layers).all (fun l =>
    (List.range a.kvheads).all (fun h => has 1 l h 16384) &&
      (a.qprojDin == 0 || (List.range (a.kvheads * a.group)).all (fun h => has 2 l h (4 * a.dk * a.qprojDin))) &&
      (a.oprojDout == 0 || (List.range (a.kvheads * a.group)).all (fun h => has 3 l h (4 * a.oprojDout * a.dv))))

/-- Whether the ladder keeps the geode's quantisation limits (R259). -/
def geodeLimitsOk (g : Geode) (l : LadderProfile) : Bool := match g.section? 4 0 0 with
  | none => true
  | some b => decide (le b 0 1 ≤ l.floor) && (le b 1 1 == 0 || l.sr)

/-- The profile whose fixed parameters bind a context: in force, or recorded for a restored one (R336). -/
def Ctx.boundProfile (x : Ctx) : Option Profile := x.profile.or x.fixed

/-- The accepted profile of a context, in force or waiting. -/
def Ctx.newestProfile (x : Ctx) : Option Profile := (x.pendingProfile.map Prod.snd).or x.profile

/-- Whether a profile changes a fixed parameter while the context holds a conversation. -/
def Ctx.fixedRefused (x : Ctx) (p : Profile) : Bool :=
  !x.convs.isEmpty && (match x.boundProfile with | some q => fixedChanged q p | none => false)

/-- Whether a profile changes X_SIZE while the context has a registered region (R367). -/
def State.xSizeRefused (s : State) (ctx : Nat) (p : Profile) : Bool :=
  s.regions.any (fun r => r.2.valid && r.2.ctx == ctx) && (s.ctx ctx).xSize != p.place.xSize

/-- Whether the placement test applies and fails (R139). -/
def State.placementRefused (s : State) (ctx : Nat) (p : Profile) (ps : List (Nat × Profile)) : Bool :=
  if p.cls.c0Unit = 0 then false
  else if p.place.qNear = 0 then true
  else
    let asks := match (s.ctx ctx).newestProfile with
      | none => true
      | some q => q.cls.c0Unit == 0 || decide (q.place.qNear < p.place.qNear) || decide (q.ladder.fresh < p.ladder.fresh)
    asks && !placementOk 576000000000 ps

/-- Whether a profile changes a value the inequalities of R219 use. -/
def timingAsked (old : Option Profile) (p : Profile) : Bool := match old with
  | none => true
  | some q => q.cls.c0Unit != p.cls.c0Unit || q.cls.c1Unit != p.cls.c1Unit || q.cls.c0Rows != p.cls.c0Rows ||
      q.place.stripeMin != p.place.stripeMin || q.attn.dv != p.attn.dv || q.attn.dk != p.attn.dk

/-- How a profile load ends: ERRCODE, and whether C0_REFUSED and TIMING_REFUSED are set (R367, R139, R219). -/
def State.profileCode (s : State) (ctx : Nat) (mem : Option Bytes) : Nat × Bool × Bool :=
  let x := s.ctx ctx
  if s.rd F.SEC_LOCK.LOCK = 0 || !x.loadable then (3, false, false)
  else match mem with
    | none => (5, false, false)
    | some b =>
      if !profileInRange b then (2, false, false)
      else
        let p := parseProfile b
        match mget x.geodes p.attn.geode with
        | none => (6, false, false)
        | some g =>
          let ps := (s.reserving true).filter (fun c => c.1 != ctx) ++ [(ctx, p)]
          if !geodeFits g p.attn then (6, false, false)
          else if x.fixedRefused p || s.xSizeRefused ctx p || !ladderOk p.ladder || !geodeLimitsOk g p.ladder then (4, false, false)
          else if 57344 < lsum (ps.map (fun c => c.2.place.trackMin)) then (4, false, false)
          else if s.placementRefused ctx p ps then (4, true, false)
          else if timingAsked x.newestProfile p && !s.timingAtWrite ps s.worstMargin s.worstHop then (4, false, true)
          else (0, false, false)

/-- CTX_LOAD_PROFILE: CTX_CTL.OP = 2 (R246, R367). An accepted profile waits for its boundary. -/
def execCtxLoadProfile (t : Nat) (ctl : Word) (mem : Option Bytes) (s : State) : Host.Outcome State Fault Refusal :=
  if !s.ready then .next (s.at_ t) else
  let s := (s.at_ t).ctlWrite F.CTX_CTL.CTX.off ctl
  let ctx := fieldOf F.CTX_CTL.CTX ctl
  let (code, c0, timing) := s.profileCode ctx mem
  let s1 := if c0 then s.wr F.TIER_PLACE_STATUS.C0_REFUSED 1 else s
  let s2 := if timing then s1.wr F.CTX_CLASS_STATUS.TIMING_REFUSED 1 else s1
  let s3 := if code = 0 then s2.modCtx ctx (fun x => { x with pendingProfile := some (s.now, parseProfile (mem.getD [])) }) else s2
  .next (s3.opEnd opCtx code)

/-- A profile takes effect (R246, R367, R41): slopes computed, a context in state 1 enters state 2, its fixed parameters are
recorded for a restore (R336). -/
def State.profileInForce (s : State) (ctx : Nat) (p : Profile) : State :=
  let s1 := s.modCtx ctx (fun x => { x with
    profile := some p
    pendingProfile := none
    slopes := p.attn.biasSlopes
    phase := if x.phase == .created then .inService else x.phase })
  { s1 with nv := { s1.nv with keyStore := mmod s1.nv.keyStore ctx (fun e => { e with fixed := some p }) } }

/-- Accepted profiles old enough for a boundary take effect. -/
def State.takeProfiles (s : State) (time : Nat) : State :=
  s.ctxs.foldl (fun s c => match c.2.pendingProfile with
    | some (w, p) => if w + 400 ≤ time then s.profileInForce c.1 p else s
    | none => s) s

/-! ### Geodes -/

/-- Whether a section header is one of Table 11.7. -/
def sectionOk (kind layer head len : Nat) (data : Bytes) : Bool :=
  let dims := (List.range 9).map (fun i => 64 * (i + 1))
  let product (n : Nat) : Bool := dims.any (fun a => dims.any (fun b => n == 4 * a * b))
  match kind with
  | 1 => len == 16384
  | 2 => product len
  | 3 => product len
  | 4 => len == 8 && layer == 0 && head == 0 && fmtValid (le data 0 1) && decide (le data 1 1 ≤ 1) && zeroAt data 2 6
  | _ => false

/-- Order of sections: KIND, LAYER, HEAD. -/
def sectionKey (kind layer head : Nat) : Nat := (kind * 65536 + layer) * 65536 + head

/-- Sections of a body in strictly ascending order after a key; none when a header, the order, a length or a reserved field is
wrong (R258, check 8). -/
def parseSections : Nat → Nat → Bytes → Option (List GeodeSection)
  | 0, _, _ => none
  | fuel + 1, last, b =>
    if b.isEmpty then some []
    else
      let kind := le b 0 2
      let layer := le b 2 2
      let head := le b 4 2
      let len := le b 8 4
      let data := slice b 16 len
      if b.length < 16 + len || !zeroAt b 6 2 || !zeroAt b 12 4 || sectionKey kind layer head ≤ last ||
          !sectionOk kind layer head len data then none
      else match parseSections fuel (sectionKey kind layer head) (b.drop (16 + len)) with
        | none => none
        | some l => some (⟨kind, layer, head, data⟩ :: l)

/-- The checks of R258 in order, as the ERRCODE of Table 11.13. -/
def State.geodeCode (s : State) (x : Ctx) (g : GeodeInput) : Nat :=
  let h := g.header
  if h.length != 256 || le h 0 4 != 0x44454F47 || le h 4 2 != 1 || le h 6 2 = 0 || 1024 < le h 6 2 || g.devices.length != le h 6 2 ||
      le h 8 8 < 16 || 2 ^ 30 < le h 8 8 || g.body.length != le h 8 8 || !zeroAt h 0x9C 100 || !g.recipReservedOk then 1
  else if sha512 g.issuerKey != slice h 0x10 64 || slice h 0x10 64 != x.issuer then 2
  else if !g.sigOk then 3
  else if !g.devices.contains s.sec.identity then 4
  else if !g.wrapOk || !g.tagOk || sha512 g.body != slice h 0x50 64 then 5
  else if (parseSections (g.body.length + 1) 0 g.body).isNone then 6
  else 0

/-- Whether a geode body fits the quotas (R259). -/
def Ctx.geodeQuotaOk (x : Ctx) (len : Nat) : Bool := match x.profile with
  | none => true
  | some p => (p.place.qNode == 0 || decide (x.logicalAll + len ≤ p.place.qNode)) &&
      (p.place.qNear == 0 || decide (x.logicalNear + len ≤ p.place.qNear))

/-- ERRCODE of a geode load. -/
def State.geodeLoadCode (s : State) (ctx slot : Nat) (mem : Option GeodeInput) : Nat :=
  let x := s.ctx ctx
  if !x.loadable then 8
  else if mhas x.geodes slot then 7
  else match mem with
    | none => 10
    | some g =>
      let code := s.geodeCode x g
      if code != 0 then code
      else if !x.geodeQuotaOk g.body.length then 9
      else 0

/-- The geode a good load stores. -/
def geodeOf (g : GeodeInput) : Geode where
  bodyLen := g.body.length
  digest := slice g.header 0x50 64
  sections := (parseSections (g.body.length + 1) 0 g.body).getD []

/-- GEODE_LOAD: CTX_GEODE_CTL.OP = 1 (R258, R259). -/
def execGeodeLoad (t : Nat) (ctl : Word) (mem : Option GeodeInput) (s : State) : Host.Outcome State Fault Refusal :=
  if !s.ready then .next (s.at_ t) else
  let s := (s.at_ t).ctlWrite F.CTX_GEODE_CTL.CTX.off ctl
  let ctx := fieldOf F.CTX_GEODE_CTL.CTX ctl
  let slot := fieldOf F.CTX_GEODE_CTL.SLOT ctl
  let code := s.geodeLoadCode ctx slot mem
  let s1 := match code, mem with
    | 0, some g => s.modCtx ctx (fun x => { x with geodes := mset x.geodes slot (geodeOf g) })
    | _, _ => s
  .next (s1.opEnd opGeode code)

/-- Whether a slot is named by the profile in force or by one accepted (R259). -/
def Ctx.geodeInUse (x : Ctx) (slot : Nat) : Bool :=
  (match x.profile with | some p => p.attn.geode == slot | none => false) ||
    (match x.pendingProfile with | some p => p.2.attn.geode == slot | none => false)

/-- GEODE_UNLOAD: CTX_GEODE_CTL.OP = 2 (R259). -/
def execGeodeUnload (t : Nat) (ctl : Word) (s : State) : Host.Outcome State Fault Refusal :=
  if !s.ready then .next (s.at_ t) else
  let s := (s.at_ t).ctlWrite F.CTX_GEODE_CTL.CTX.off ctl
  let ctx := fieldOf F.CTX_GEODE_CTL.CTX ctl
  let slot := fieldOf F.CTX_GEODE_CTL.SLOT ctl
  let x := s.ctx ctx
  if x.phase != .created && x.phase != .inService then .next (s.opEnd opGeode 8)
  else if x.geodeInUse slot then .next (s.opEnd opGeode 7)
  else .next ((s.modCtx ctx (fun x => { x with geodes := mdel x.geodes slot })).opEnd opGeode 0)

/-! ### Programs -/

/-- A program slot. -/
def Ctx.prog (x : Ctx) (slot : Nat) : ProgSlot := (mget x.programs slot).getD ⟨none, none⟩

/-- Whether a slot's retiring image is still in use. -/
def State.retiringUsed (s : State) (ctx slot : Nat) : Bool := match ((s.ctx ctx).prog slot).retiring with
  | some im => s.imageUsed ctx slot im
  | none => false

/-- ERRCODE of a load or unload that would retire an image while another still retires (R80). Any image in force counts as one that would
retire, bound to a request or not (DESIGN CHOICE, notes/assumptions/42.md). -/
def State.retireCode (s : State) (ctx slot : Nat) : Nat :=
  if ((s.ctx ctx).prog slot).image.isSome && s.retiringUsed ctx slot then 6 else 0

/-- ERRCODE of a program load (Table 4.6). The manual orders the image checks (R77); the model takes the context's state before them and the
retiring image after them (DESIGN CHOICE, notes/assumptions/43.md). -/
def State.progLoadCode (s : State) (ctx slot : Nat) (mem : Option Bytes) : Nat :=
  if !(s.ctx ctx).loadable then 5
  else match mem with
    | none => 7
    | some b =>
      if b.length != progImageBytes then 7
      else
        let code := progCheck b
        if code != 0 then code else s.retireCode ctx slot

/-- A load or unload of a slot waits for its boundary; only the last of several takes effect (R80, R362). -/
def State.stageProg (s : State) (ctx slot : Nat) (im : Option ProgImage) : State :=
  s.modCtx ctx (fun x => { x with pendingProgs := x.pendingProgs.filter (fun q => q.slot != slot) ++ [⟨s.now, slot, im⟩] })

/-- CTX_PROG_DIGEST after a load (Table 4.7). -/
def State.showProgDigest (s : State) (d : Bytes) : State :=
  (List.range 8).foldl (fun s n => s.wr F.CTX_PROG_DIGEST.DIGEST (le d (8 * n) 8) n) s

/-- PROG_LOAD: CTX_PROG_CTL.OP = 1 (R77, R78, R80). -/
def execProgLoad (t : Nat) (ctl : Word) (mem : Option Bytes) (s : State) : Host.Outcome State Fault Refusal :=
  if !s.ready then .next (s.at_ t) else
  let s := (s.at_ t).ctlWrite F.CTX_PROG_CTL.CTX.off ctl
  let ctx := fieldOf F.CTX_PROG_CTL.CTX ctl
  let slot := fieldOf F.CTX_PROG_CTL.SLOT ctl
  let code := s.progLoadCode ctx slot mem
  let s1 := match code, mem with
    | 0, some b =>
      let d := sha512 b
      (s.stageProg ctx slot (some (progOfImage d b s.now))).showProgDigest d
    | _, _ => s
  .next (s1.opEnd opProg code)

/-- PROG_UNLOAD: CTX_PROG_CTL.OP = 2 (R80). R247 names loads: an unload is refused with ERRCODE 5 outside states 1 and 2, and accepted for a
teardown-pending context (DESIGN CHOICE, notes/assumptions/44.md). -/
def execProgUnload (t : Nat) (ctl : Word) (s : State) : Host.Outcome State Fault Refusal :=
  if !s.ready then .next (s.at_ t) else
  let s := (s.at_ t).ctlWrite F.CTX_PROG_CTL.CTX.off ctl
  let ctx := fieldOf F.CTX_PROG_CTL.CTX ctl
  let slot := fieldOf F.CTX_PROG_CTL.SLOT ctl
  let x := s.ctx ctx
  if x.phase != .created && x.phase != .inService then .next (s.opEnd opProg 5)
  else if (x.prog slot).image.isNone && !x.pendingProgs.any (fun q => q.slot == slot) then .next (s.opEnd opProg 0)
  else
    let code := s.retireCode ctx slot
    let s1 := if code = 0 then s.stageProg ctx slot none else s
    .next (s1.opEnd opProg code)

/-- One load or unload takes effect: the image in force retires while requests use it (R80). -/
def State.takeProg (s : State) (ctx : Nat) (q : PendingProg) : State :=
  let sl := (s.ctx ctx).prog q.slot
  let keep : Option ProgImage := match sl.retiring with
    | some im => if s.imageUsed ctx q.slot im then some im else none
    | none => none
  let retiring : Option ProgImage := match sl.image with
    | some im => if s.imageUsed ctx q.slot im then some im else keep
    | none => keep
  s.modCtx ctx (fun x => { x with programs := mset x.programs q.slot ⟨q.image, retiring⟩ })

/-- Loads and unloads old enough for a boundary take effect. -/
def State.takeProgs (s : State) (time : Nat) : State :=
  s.ctxs.foldl (fun s c =>
    let due := c.2.pendingProgs.filter (fun q => decide (q.time + 400 ≤ time))
    (due.foldl (fun s q => s.takeProg c.1 q) s).modCtx c.1 (fun x =>
      { x with pendingProgs := x.pendingProgs.filter (fun q => decide (time < q.time + 400)) })) s

/-! ### Teardown -/

/-- CTX_TEARDOWN: CTX_CTL.OP = 3 (R247, R368). -/
def execCtxTeardown (t : Nat) (ctl : Word) (s : State) : Host.Outcome State Fault Refusal :=
  if !s.ready then .next (s.at_ t) else
  let s := (s.at_ t).ctlWrite F.CTX_CTL.CTX.off ctl
  let ctx := fieldOf F.CTX_CTL.CTX ctl
  if (s.ctx ctx).loadable then
    .next ((s.modCtx ctx (fun x => { x with teardownAsked := some s.now, pendingProfile := none })).opEnd opCtx 0)
  else .next (s.opEnd opCtx 3)

/-- A region whose generation is revoked: the next one, 255 wrapping to 1 (R210, R212). -/
def Region.revoke (r : Region) : Region :=
  if r.valid then { r with valid := false, gen := if r.gen = 255 then 1 else r.gen + 1, revoked := true } else r

/-- Messages bound to a context's regions are abandoned with the teardown (R248, step 1). -/
def State.abandonBound (s : State) (ctx : Nat) : State :=
  { s with conns := mall s.conns (fun _ c =>
      if c.entry.ctx == ctx then
        { c with rx := { c.rx with msgs := lmod c.rx.msgs (fun m => [1, 2, 5, 6].contains m.type) (fun m => { m with abandoned := true }) } }
      else c) }

/-- The running and placed work of a context ends without its state being kept (R248, step 2). -/
def State.discardWork (s : State) (ctx : Nat) : State :=
  let s1 := s.dropTasks (fun t => t.ctx == ctx)
  let mine := s1.tier.moves.filter (fun m => m.ctx == ctx)
  let s2 := s1.bump F.TIER_MOVES.ABORTS mine.length
  let s3 : State := { s2 with tier := { s2.tier with moves := s2.tier.moves.filter (fun m => m.ctx != ctx) } }
  (s3.modCtx ctx (fun x => { x with pages := mall x.pages (fun _ p => { p with demotePending := false, pass := 0 }) }))

/-- Steps 1 and 2 of R248 at the teardown boundary. -/
def State.teardownBoundary (s : State) (ctx : Nat) : State :=
  let keys := mmod s.nv.keyStore ctx (fun e => { e with marks := [true, true, true, true] })
  let s2 := ({ s with nv := { s.nv with keyStore := keys } } : State).teardownRequests ctx
  let regions := mall s2.regions (fun _ r => if r.ctx == ctx && (r.valid || r.fenceAt.isSome) then { r.revoke with fenceAt := none } else r)
  let s3 : State := { s2 with regions := regions }
  let s4 := (s3.abandonBound ctx).discardWork ctx
  let s5 : State := { s4 with
    comp := { s4.comp with subs := s4.comp.subs.filter (fun q => q.ctx != ctx), pageOps := s4.comp.pageOps.filter (fun q => q.1 != ctx)
                           rebuilds := s4.comp.rebuilds.filter (fun q => q.ctx != ctx) }
    health := { s4.health with assays := s4.health.assays.filter (fun a => a.ctx != ctx) } }
  (s5.countAssays.modCtx ctx (fun x => { x with
    phase := .draining, teardownAsked := none, teardownAt := some s.now, pendingProgs := [], degraded := false })).countDegraded

/-- Teardowns old enough for a boundary begin. -/
def State.takeTeardowns (s : State) (time : Nat) : State :=
  s.ctxs.foldl (fun s c => match c.2.teardownAsked with
    | some w => if w + 400 ≤ time then s.teardownBoundary c.1 else s
    | none => s) s

/-- Empty a connection slot (R196, R198). -/
def State.emptySlot (s : State) (slot : Nat) : State :=
  ({ s with conns := mdel s.conns slot, comp := { s.comp with subs := s.comp.subs.filter (fun q => q.slot != some slot) } } : State).settleRetiring

/-- Whether a connection still waits for a status word's acknowledgement. -/
def Conn.statusPending (c : Conn) : Bool := c.tx.pkts.any (fun k => match k.kind with
  | .status _ _ _ => true
  | _ => false)

/-- Send CLOSE with a reason (Table 9.12). -/
def State.sendClose (s : State) (slot reason : Nat) : State := s.sendSend slot (.control 0x0102) 0x0102 (leBytes 4 reason) 3

/-- Close one connection of a context that is being torn down (R248, step 3). -/
def State.teardownConn (s : State) (slot : Nat) : State :=
  match s.conn? slot with
  | none => s
  | some c =>
    let s1 := if c.state = 3 then s.sendClose slot 1 else s
    s1.emptySlot slot

/-- TEARDOWN_CLOSE: connections whose TEARDOWN words are acknowledged, or all after 10 ms (R248, step 3). -/
def execTeardownClose (t ctx : Nat) (s : State) : Host.Outcome State Fault Refusal :=
  let s := s.at_ t
  let x := s.ctx ctx
  match x.phase, x.teardownAt with
  | .draining, some at_ =>
    let due := s.conns.filter (fun c => c.2.entry.ctx == ctx && (!c.2.statusPending || decide (at_ + 10000000 ≤ s.now)))
    .next ((due.map Prod.fst).foldl State.teardownConn s)
  | _, _ => .next s

/-- Whether no task, message or mover transfer of a context remains (R248, step 4). -/
def State.drained (s : State) (ctx : Nat) : Bool :=
  !s.conns.any (fun c => c.2.entry.ctx == ctx) && !s.tier.moves.any (fun m => m.ctx == ctx) &&
    !s.itin.waiting.any (fun t => t.ctx == ctx) &&
    !s.itin.units.any (fun u => (match u.2.running with | some t => t.ctx == ctx | none => false) ||
      u.2.placed.any (fun t => t.ctx == ctx) || u.2.carry.any (fun t => t.ctx == ctx))

/-- KEY_ZEROISE: the memory key goes, a tombstone takes its place, at the first boundary at which nothing of the context remains: before that
boundary's itinerary is published (R248, step 4). -/
def execKeyZeroise (t ctx : Nat) (s : State) : Host.Outcome State Fault Refusal :=
  let s := s.at_ t
  if (s.ctx ctx).phase == .draining && s.drained ctx && !s.tick.published then
    let s1 := s.modCtx ctx (fun x => { x with keyLoaded := false })
    let keys := mmod s1.nv.keyStore ctx (fun e => { e with tombstone := true })
    let s2 : State := { s1 with nv := { s1.nv with keyStore := keys, parks := s1.nv.parks.filter (fun k => k.ctx != ctx) } }
    .next s2.countKeys
  else .next s

/-- A context's scrub begins: a random key is drawn, and its writes compete in C3 (R248, R249, R32). -/
def State.beginScrub (s : State) (ctx : Nat) : State :=
  ({ s with sec := { s.sec with scrubs := s.sec.scrubs ++ [ctx] }, free := s.free + 1 } : State).housekeep ctx (.scrub ctx)

/-- TOMBSTONE_DURABLE: the context enters state 4 and its scrub begins, unless there is no random key for it (R248, R249, R366). -/
def execTombstoneDurable (t ctx : Nat) (s : State) : Host.Outcome State Fault Refusal :=
  let s := s.at_ t
  let tomb := match mget s.nv.keyStore ctx with
    | some e => e.tombstone
    | none => false
  if (s.ctx ctx).phase == .draining && tomb then
    let s1 := (s.modCtx ctx (fun x => { x with phase := .scrubbing })).tombBlocks ctx
    let s2 : State := { s1 with comp := { s1.comp with journals := s1.comp.journals.filter (fun j => j.ctx != ctx)
                                                       streams := s1.comp.streams.filter (fun j => j.ctx != ctx) } }
    .next (if s2.sec.drbgOk then s2.beginScrub ctx else s2).countKeys
  else .next s

/-- The tombstone goes when no block waits for erasure and the scrub is over (R249). -/
def State.dropTombstone (s : State) (ctx : Nat) : State :=
  let tomb := match mget s.nv.keyStore ctx with
    | some e => e.tombstone
    | none => false
  if tomb && (s.ctx ctx).phase == .free && !s.tier.blocks.any (fun b => b.2.tombs.contains ctx) then
    ({ s with nv := { s.nv with keyStore := mdel s.nv.keyStore ctx } } : State).countKeys
  else s.countKeys

/-- SCRUB_COMPLETE: the stacks and the far tier are scrubbed, and the scrub's C3 part has run; state 0 (R248, step 6). -/
def execScrubComplete (t ctx : Nat) (s : State) : Host.Outcome State Fault Refusal :=
  let s := s.at_ t
  if (s.ctx ctx).phase == .scrubbing && s.sec.scrubs.contains ctx && !s.hkDue (.scrub ctx) then
    let s1 : State := { s with ctxs := mdel s.ctxs ctx, sec := { s.sec with scrubs := s.sec.scrubs.filter (· != ctx) } }
    .next (s1.dropTombstone ctx)
  else .next s

/-! ### CTX_CLASS -/

/-- CTX_CLASS_WRITE: margin tested at the write, both fields taking effect under R16 (Table 10.6, R219). -/
def execCtxClassWrite (t : Nat) (v : Word) (s : State) : Host.Outcome State Fault Refusal :=
  if !s.ready then .next (s.at_ t) else
  let s := (s.at_ t).wakeUp
  let off := F.CTX_CLASS.C0_MARGIN_NS.off
  let new := regWritten false off (getReg s.regs off) v
  if s.timingAtWrite (s.reserving true) (fieldOf F.CTX_CLASS.C0_MARGIN_NS v) s.worstHop then .next (s.writeStaged off new)
  else
    let kept := withField F.CTX_CLASS.C0_MARGIN_NS new (s.rd F.CTX_CLASS.C0_MARGIN_NS)
    .next ((s.writeStaged off kept).wr F.CTX_CLASS_STATUS.TIMING_REFUSED 1)

end Sys2Proof.Machine
end

