-- ==== Sys2Proof/Machine/Ops.lean ====
section
/-! DEFINITION. The exchange area of a context (09_trail.md, "Node regions"): a memory of bytes that reads as zero where
nothing is listed, in one canonical form. -/
namespace Sys2Proof.Machine

/-- The canonical form: addresses strictly rising, no entry equal to 0, what an unlisted address reads as. -/
def Memory.wf (m : List Host.Cell) : Bool := mwf m && m.all (fun c => c.2 != 0#8)

/-- The byte at an address. -/
def Memory.read (m : List Host.Cell) (a : Nat) : Byte := (mget m a).getD 0

/-- Store a byte; a zero byte removes the entry. -/
def Memory.write (m : List Host.Cell) (a : Nat) (b : Byte) : List Host.Cell := if b = 0#8 then mdel m a else mset m a b

/-- `n` bytes from an address on. -/
def Memory.readN (m : List Host.Cell) (a n : Nat) : Bytes := (List.range n).map (fun i => Memory.read m (a + i))

/-- Store bytes from an address on. -/
def Memory.writeN (m : List Host.Cell) (a : Nat) : Bytes → List Host.Cell
  | [] => m
  | b :: bs => Memory.writeN (Memory.write m a b) (a + 1) bs

end Sys2Proof.Machine
end

