-- ==== Sys2Proof/Machine/Trail.lean ====
section
/-! DEFINITION. Receiving on Trail: the checks of Table 9.5, policing, the message window, acknowledgement, node regions and
atomics (09_trail.md, R189-R205, R210-R216; 10_classes.md, R228-R232). -/
namespace Sys2Proof.Machine

/-! ### Checks 1 to 5 -/

/-- The connection slot a packet's CONN names, in state 3 or 4 (Table 9.5, check 3). -/
def State.connNamed (s : State) (conn : Nat) : Option Nat :=
  (s.conns.find? (fun c => c.2.entry.conn == conn && (c.2.state == 3 || c.2.state == 4))).map Prod.fst

/-- What the key phase of a packet says of its key (R194, R195). -/
inductive KeyUse where
  | current
  | next
  | previous
  | none
deriving DecidableEq, Repr

/-- Whether the previous key is still accepted (R194). -/
def ConnKeys.prevAlive (k : ConnKeys) (now : Nat) : Bool := k.prev != 0 && (match k.prevUntil with
  | some u => decide (now < u)
  | none => true)

/-- The key under which a packet's tag verifies (Table 9.5, check 4; notes/assumptions/6.md). -/
def ConnKeys.use (k : ConnKeys) (now : Nat) (p : Pkt) (phase : Bool) : KeyUse :=
  if !pktClean p || p.key = 0 then .none
  else if phase = k.phase then (if p.key = k.key then .current else .none)
  else if p.key = k.next then .next
  else if p.key = k.prev && k.prevAlive now then .previous
  else .none

/-- The answering side goes over to the next key with its first packet (R195, step 4); a starter's first packet under the
current key begins the last millisecond of the previous one (R194). -/
def ConnKeys.after (k : ConnKeys) (now : Nat) : KeyUse → ConnKeys
  | .current => if k.prev != 0 && k.prevUntil.isNone then { k with prevUntil := some (now + 1000000) } else k
  | .next =>
    { k with prev := k.key, key := k.next, next := 0, phase := !k.phase, prevUntil := some (now + 1000000), sentMsgs := 0
             sentCtls := 0, rekeyStarted := false, rekeyAnswered := false }
  | .previous => k
  | .none => k

/-- Discard a packet whose tag fails; more than 1,000 within a second make an error record (R194). -/
def State.authDrop (s : State) (slot : Nat) : State :=
  let s1 := s.bump F.NET_DROPS.AUTH
  match s1.conn? slot with
  | none => s1
  | some c =>
    let l := c.rx.authDrops.filter (fun t => decide (s.now < t + 1000000000)) ++ [s.now]
    let flood := decide (1000 < l.length)
    let s2 := s1.modConn slot (fun c => { c with rx := { c.rx with authDrops := if flood then [] else l } })
    if flood then errRecord s2 .authFlood .trail { ctx := some c.entry.ctx, conn := c.entry.conn, detail := l.length } else s2

/-- Discard a packet at check 1, 2, 3 or 5. -/
def State.headerDrop (s : State) : State := s.bump F.NET_DROPS.HEADER

/-- A link's receive buffer as a packet finds it: at 75 % full the node sends priority flow control for PCP, with PFC_EN (R188). -/
def State.noteFill (s : State) (l fill : Nat) : State :=
  let s1 := s.modLink l (fun k => { k with rxFill := fill })
  if 75 ≤ fill && s.lv F.NET_PCFG.PFC_EN (l / 2) = 1 then s1.emit (.pfc (l / 2) (s.lv F.NET_PCFG.PCP (l / 2))) else s1

/-- Checks 1 and 2 of Table 9.5, and R185. -/
def State.portOk (s : State) (link dport size : Nat) (unsupported : Bool) (h : Hdr) (types : List Nat) : Bool :=
  !unsupported && dport == s.lv F.NET_UDP.DPORT && decide (size ≤ s.lv F.NET_PCFG.MTU (link / 2)) && h.ver == 1 && types.contains h.type

/-- A packet that has passed checks 1 to 5, and what policing said of it. -/
structure RxPkt where
  slot : Nat
  h : Hdr
  p : Pkt
  marked : Bool
deriving DecidableEq, Repr

/-- Checks 1 to 5 of Table 9.5 on a packet of one of the types in `types`. -/
def State.checks (s : State) (p : Pkt) (types : List Nat) : Option RxPkt × State :=
  let h := parseHdr p.hdr
  let s := s.noteFill p.link p.fill
  if !s.portOk p.link p.dport p.size p.unsupported h types then (none, s.headerDrop)
  else match s.connNamed h.conn with
    | none => (none, s.headerDrop)
    | some slot =>
      match s.conn? slot with
      | none => (none, s.headerDrop)
      | some c =>
        let use := c.keys.use s.now p h.phase
        if use = .none || h.dir != c.entry.initiator then (none, s.authDrop slot)
        else
          let s1 := { s.modConn slot (fun c => { c with keys := c.keys.after s.now use, rx := { c.rx with lastHeard := s.now } })
            with comp := { s.comp with heard := if c.entry.peer then s.now else s.comp.heard } }
          if !hdrConsistent h p.payload.length || !payloadReservedOk h p.payload then (none, s1.headerDrop)
          else
            let s2 := s1.modConn slot (fun c => c.modPath h.path (fun q => { q with rcvd := q.rcvd + 1, ce := q.ce + b2n p.ce }))
            (some ⟨slot, h, p, false⟩, s2)

/-! ### Policing -/

/-- Refill the buckets up to now (R228): bytes in 1/8000, operations in 1e-6. -/
def Conn.refill (c : Conn) (now : Nat) : Conn :=
  let p := c.entry.policer
  let d := now - c.rx.refillAt
  { c with rx := { c.rx with
      btok := min (p.bBurst * 8000) (c.rx.btok + p.bRate * d)
      btok2 := min (p.bBurst2 * 8000) (c.rx.btok2 + p.bRate2 * d)
      otok := min (p.opBurst * 1000000) (c.rx.otok + p.opRate * d)
      refillAt := now } }

/-- Colours of the byte meter (R231). -/
inductive Colour where
  | green | yellow | red
deriving DecidableEq, Repr

/-- The byte meter of a mode over `n` bytes in 1/8000, with what it takes from the two buckets (R229, R231). -/
def meterColour (mode : Nat) (preYellow : Bool) (tc tp n : Nat) : Colour × Nat × Nat :=
  let pre := preYellow && (mode == 3 || mode == 5)
  if mode = 1 then (if n ≤ tc then (.green, n, 0) else (.red, 0, 0))
  else if mode = 2 || mode = 3 then
    if tp < n then (.red, 0, 0)
    else if pre || tc < n then (.yellow, 0, n)
    else (.green, n, n)
  else if !pre && n ≤ tc then (.green, n, 0)
  else if n ≤ tp then (.yellow, 0, n)
  else (.red, 0, 0)

/-- Time a bucket needs for `lack` units at `rate` units per ns, at most 10 ms (R230). -/
def policeWait (lack rate : Nat) : Nat := if rate = 0 then 10000000 else min 10000000 (ceilDiv lack rate)

/-- Class of a policed packet: that of the ring a BELL names, else DEF_CLASS (R228). -/
def RxPkt.policeClass (x : RxPkt) (c : Conn) : Nat :=
  if x.h.type = 8 then (lget c.entry.rings (parseBell x.p.payload).ring RingRec.none).cls else c.entry.policer.defClass

/-- Drop a policed packet; a notice goes out at most every 100 µs (R230). -/
def State.policeDrop (s : State) (x : RxPkt) (cls bucket wait : Nat) : State :=
  match s.conn? x.slot with
  | none => s
  | some c =>
    let s1 := s.modConn x.slot (fun c => { c with rx := { c.rx with policeDrops := c.rx.policeDrops + 1 } })
    let due := match c.rx.policedAt with
      | none => true
      | some a => decide (a + 100000 ≤ s.now)
    if due then
      (s1.modConn x.slot (fun c => { c with rx := { c.rx with policedAt := some s.now } })).sendControl x.slot 11
        (policedBytes cls bucket x.h.msg wait)
    else s1

/-- Check 6: ingress policing of request packets on partner connections (R228-R232). -/
def State.police (s : State) (x : RxPkt) : Option RxPkt × State :=
  match s.conn? x.slot with
  | none => (none, s)
  | some c0 =>
    let pol := c0.entry.policer
    if c0.entry.peer || pol.mode = 0 then (some x, s)
    else
      let c := c0.refill s.now
      let s1 := s.modConn x.slot (fun c => c.refill s.now)
      let ops := if x.h.off = 0 then 1000000 else 0
      let n := x.p.payload.length * 8000
      let yellowIn := x.p.dscp == pol.yellow
      let (col, a, b) := meterColour pol.mode yellowIn c.rx.btok c.rx.btok2 n
      let cls := x.policeClass c
      let full := col == .yellow && decide (75 < (s.link x.p.link).rxFill)
      if col = .red then
        let wait := if pol.mode = 1 then policeWait (n - c.rx.btok) pol.bRate else policeWait (n - c.rx.btok2) pol.bRate2
        (none, s1.policeDrop x cls 0 wait)
      else if full then (none, s1.policeDrop x cls 0 (policeWait (n - c.rx.btok) pol.bRate))
      else if c.rx.otok < ops then (none, s1.policeDrop x cls 1 (policeWait (ops - c.rx.otok) pol.opRate))
      else
        (some { x with marked := col == .yellow }, s1.modConn x.slot (fun c =>
          { c with rx := { c.rx with btok := c.rx.btok - a, btok2 := c.rx.btok2 - b, otok := c.rx.otok - ops } }))

/-! ### The message window -/

/-- Distance of a message ID from another, modulo 2^32. -/
def msgDist (a b : Nat) : Nat := (a + 2 ^ 32 - b % 2 ^ 32) % 2 ^ 32

/-- The message being received with an ID. -/
def Conn.rxMsg? (c : Conn) (id : Nat) : Option RxMsg := c.rx.msgs.find? (fun m => m.id == id)

/-- Change the message being received with an ID. -/
def State.modRx (s : State) (slot id : Nat) (f : RxMsg → RxMsg) : State :=
  s.modConn slot (fun c => { c with rx := { c.rx with msgs := lmod c.rx.msgs (fun m => m.id == id) f } })

/-- Move C past every message whose outcome is final (R199). -/
def advanceCum (o : Map RxOutcome) (cum : Nat) : Nat → Nat
  | 0 => cum
  | n + 1 => if mhas o cum then advanceCum o ((cum + 1) % 2 ^ 32) n else cum

/-- A message is complete: its outcome is kept until C has passed it by 1,024 (R199). -/
def State.msgDone (s : State) (slot id : Nat) (o : RxOutcome) : State :=
  s.modConn slot (fun c =>
    let os := mset c.rx.outcomes id o
    let cum := advanceCum os c.rx.cum 2048
    { c with rx := { c.rx with
        msgs := c.rx.msgs.filter (fun m => m.id != id)
        outcomes := os.filter (fun e => decide (msgDist e.1 cum < 1024) || decide (msgDist cum e.1 ≤ 1024))
        cum := cum } })

/-- Answer a message with a NAK, which completes it (R199). -/
def State.answerNak (s : State) (x : RxPkt) (code : Nat) (newEpoch : Nat := 0) (hintPort : Nat := 0) (hint : Bytes := []) : State :=
  let body := nakBytes code newEpoch x.h.msg x.h.off hintPort hint
  let s1 := (s.bump F.NET_EVENTS.NAK_SENT).sendControl x.slot 10 body
  match s1.conn? x.slot with
  | none => s1
  | some c => if msgDist x.h.msg c.rx.cum < 1024 && !mhas c.rx.outcomes x.h.msg then s1.msgDone x.slot x.h.msg (.nak body) else s1

/-! ### Acknowledgement -/

/-- SEND credits the node can give on a connection (R203): fewer while the places reserved for peers are in use (R182), none
while the journal area takes nothing more (R289). -/
def State.sendCredits (s : State) (c : Conn) : Nat :=
  if c.entry.peer && !s.journalTakes 1 then 0
  else min (s.lv F.NET_ACK.SEND_CREDITS) (8192 - s.peerPlaces)

/-- Message entries of a SACK (Table 9.9): held and complete messages beyond C, and the packets of the others. -/
def sackEntries (c : Conn) : List (Nat × Nat × Nat) :=
  let done := (c.rx.outcomes.filter (fun e => decide (msgDist e.1 c.rx.cum < 1024))).map (fun e => (e.1, 0xFFFF, 0))
  let parts := c.rx.msgs.flatMap (fun m =>
    if m.held then [(m.id, 0xFFFF, 0)]
    else ((List.range (ceilDiv (packetCount m.len) 32)).map (fun i =>
      (m.id, 32 * i, lsum ((m.got.filter (fun k => k / 32 == i)).map (fun k => 2 ^ (k % 32)))))).filter (fun e => e.2.2 != 0))
  (lsort (fun e => msgDist e.1 c.rx.cum) (done ++ parts)).take 32

/-- Path reports of a SACK (Table 9.9). -/
def sackPaths (c : Conn) : List (Nat × Nat × Nat) :=
  (((List.range c.tx.paths.length).filter (fun p => (c.path p).rcvd != 0)).take 8).map (fun p =>
    (p, min 255 (c.path p).ce, min 65535 (c.path p).rcvd))

/-- Send a SACK now (R205). -/
def State.sendSack (s : State) (slot : Nat) : State :=
  match s.conn? slot with
  | none => s
  | some c =>
    let g := s.sendCredits c
    let ps := sackPaths c
    let body : SackBody :=
      { cum := c.rx.cum, credits := g, echoTime := c.rx.echoTime, holdNs := min 65535 (s.now - c.rx.echoAt)
        echoPath := c.rx.echoPath, paths := ps, msgs := sackEntries c }
    let s1 := s.modConn slot (fun c => { c with
      rx := { c.rx with sincePkts := 0, sinceAt := none, grants := g }
      tx := { c.tx with paths := c.tx.paths.zipIdx.map (fun q =>
        if ps.any (fun r => r.1 == q.2) then { q.1 with rcvd := 0, ce := 0 } else q.1) } })
    s1.sendControl slot 9 (sackBytes body)

/-- Count a request packet toward the next SACK, which goes out after SACK_PKTS of them (R205); its echo is that of the packet
that starts the wait, or of the packet that ends it. -/
def State.noteArrival (s : State) (x : RxPkt) (now_ : Bool) : State :=
  match s.conn? x.slot with
  | none => s
  | some c =>
    let n := c.rx.sincePkts + 1
    let fire := now_ || decide (s.lv F.NET_ACK.SACK_PKTS ≤ n)
    let s1 := s.modConn x.slot (fun c => { c with rx := { c.rx with
      sincePkts := n
      sinceAt := some (c.rx.sinceAt.getD s.now)
      echoTime := if fire || c.rx.sinceAt.isNone then x.h.tx else c.rx.echoTime
      echoPath := if fire || c.rx.sinceAt.isNone then x.h.path else c.rx.echoPath
      echoAt := if fire || c.rx.sinceAt.isNone then s.now else c.rx.echoAt } })
    if fire then s1.sendSack x.slot else s1

/-- SACK_DELAY_EXPIRY: SACK_NS after the first unacknowledged packet (R205). -/
def execSackDelayExpiry (t slot : Nat) (s : State) : Host.Outcome State Fault Refusal :=
  let s := s.at_ t
  match (s.conn? slot).bind (fun c => c.rx.sinceAt) with
  | some a => .next (if a + s.lv F.NET_ACK.SACK_NS ≤ s.now then s.sendSack slot else s)
  | none => .next s

/-! ### Epochs -/

/-- Kind of the SEND a packet carries, when its first packet is at hand. -/
def RxPkt.sendKind (x : RxPkt) : Option Nat := if x.h.type = 4 && x.h.off = 0 then some (le x.p.payload 0 2) else none

/-- Whether a packet's epoch is checked: BELLs and SENDs of peer kinds (R215). Only peer kinds are longer than a packet. -/
def RxPkt.epochChecked (x : RxPkt) : Bool :=
  x.h.type == 8 || (x.h.type == 4 && (decide (4096 < x.h.len) || (match x.sendKind with
    | some k => decide (1 ≤ k) && decide (k ≤ 0xFF)
    | none => false)))

/-- What R216 says of an epoch. -/
inductive EpochUse where
  | ok | early | moved
deriving DecidableEq, Repr

/-- R216: E and E - 1 are accepted; E + 1 waits while it is staged; an isolated node accepts none (R293). -/
def State.epochUse (s : State) (e : Nat) : EpochUse :=
  let cur := s.comp.epoch
  if s.comp.isolated then .moved
  else if e = cur || (e + 1) % 2 ^ 16 = cur then .ok
  else if e = (cur + 1) % 2 ^ 16 && (match s.comp.staged with | some m => m.2.epoch == e | none => false) then .early
  else .moved

/-- The slot of the composition a refused message concerns, when it names one (R216). -/
def State.hintSlot (s : State) (x : RxPkt) : Option Nat :=
  match x.sendKind with
  | some 1 => let b := parseSub x.p.payload
    some (memberOf b.homeSlot b.pos s.nc)
  | some 3 => some (parseLeaf x.p.payload).homeSlot
  | some 4 => some (le x.p.payload 8 2)
  | _ => none

/-- Port and address of the redirect hint: those of the peer connection to the holder of the slot, where there is one. -/
def State.hintOf (s : State) (x : RxPkt) : Nat × Bytes :=
  match (s.hintSlot x).bind (fun slot => s.peerConn (s.connCtx x.slot) slot) with
  | none => (0, [])
  | some c => match s.conn? c with
    | some k => (k.entry.peerPort, k.entry.peerAddr)
    | none => (0, [])

/-! ### Checks 6 to 8 and the packets of a message -/

/-- Answer a duplicate of a complete message (R199): a SACK, the same NAK, or the same ATOMIC_RESP. -/
def State.answerDup (s : State) (x : RxPkt) : State :=
  match (s.conn? x.slot).bind (fun c => mget c.rx.outcomes x.h.msg) with
  | some (.nak body) => (s.bump F.NET_EVENTS.NAK_SENT).sendControl x.slot 10 body
  | some (.atomic old path resp) => (s.sendAtomicResp x.slot path resp).emit (.atomicResp x.slot x.h.msg old)
  | _ => s.noteArrival x true

/-- A packet outside the window or of a complete message; false when check 8 lets the packet through (R199). -/
def State.window (s : State) (x : RxPkt) : Bool × State :=
  match s.conn? x.slot with
  | none => (false, s)
  | some c =>
    let ahead := msgDist x.h.msg c.rx.cum
    let behind := msgDist c.rx.cum x.h.msg
    if ahead < 1024 then (if mhas c.rx.outcomes x.h.msg then (false, s.answerDup x) else (true, s))
    else if behind ≤ 1024 then (false, s.answerDup x)
    else if behind ≤ 2 ^ 31 then
      if x.h.type = 5 || x.h.type = 6 then (false, s.answerNak x 7) else (false, s.bump F.NET_DROPS.WINDOW)
    else (false, (s.answerNak x 6).bump F.NET_DROPS.WINDOW)

/-- Whether a packet of a message still incomplete has come before: a duplicate, which a SACK answers at once (R200, R205). -/
def State.hasPacket (s : State) (x : RxPkt) : Bool := match (s.conn? x.slot).bind (fun c => c.rxMsg? x.h.msg) with
  | some m => m.got.contains (x.h.off / 4096)
  | none => false

/-- Receive a request packet: checks 1 to 8, then `deliver` applies check 9 and places or executes it; the packet counts toward
the next SACK. -/
def State.receive (s : State) (p : Pkt) (types : List Nat) (deliver : State → RxPkt → State) : State :=
  match s.checks p types with
  | (none, s) => s
  | (some x0, s) =>
    match s.police x0 with
    | (none, s) => s
    | (some x, s) =>
      match if x.epochChecked then s.epochUse x.h.epoch else EpochUse.ok with
      | .early => s.bump F.NET_DROPS.EPOCH
      | .moved =>
        let (port, addr) := s.hintOf x
        s.answerNak x 0x0B s.comp.epoch port addr
      | .ok =>
        match s.window x with
        | (false, s) => s
        | (true, s) => (deliver s x).noteArrival x (s.hasPacket x)

/-- Start or find the message a packet belongs to. -/
def State.openMsg (s : State) (x : RxPkt) : RxMsg × State :=
  match (s.conn? x.slot).bind (fun c => c.rxMsg? x.h.msg) with
  | some m => (m, s)
  | none =>
    let m : RxMsg := { id := x.h.msg, type := x.h.type, len := x.h.len, got := [], buf := [], rkey := x.h.rkey, addr := x.h.addr
                       held := false, marked := x.marked, abandoned := false, epoch := x.h.epoch }
    (m, s.modConn x.slot (fun c => { c with rx := { c.rx with msgs := c.rx.msgs ++ [m] } }))

/-- Whether a RELEASE message must be held: a request message with a lower ID is incomplete (R201). -/
def Conn.mustWait (c : Conn) (id : Nat) : Bool := c.rx.cum != id % 2 ^ 32

/-- Number of release messages held (R201). -/
def Conn.heldCount (c : Conn) : Nat := (c.rx.msgs.filter RxMsg.held).length

/-- Hold a release message with its payload (R201): counted as received, not complete. The node holds 256 of them; a further one
is not acknowledged, so that its retransmission finds room. -/
def State.holdMsg (s : State) (x : RxPkt) : State :=
  match s.conn? x.slot with
  | none => s
  | some c =>
    if 256 ≤ c.heldCount && (c.rxMsg? x.h.msg).isNone then s
    else
      let (_, s1) := s.openMsg x
      s1.modRx x.slot x.h.msg (fun m => { m with held := true, got := [0], buf := [(0, x.p.payload)] })

/-! ### Node regions -/

/-- The generation before one (R210). -/
def prevGen (g : Nat) : Nat := if g ≤ 1 then 255 else g - 1

/-- The region checks of check 9 (R210-R212, Table 9.13): the NAK code, 0 for none. The addresses of a region are the offsets
of the exchange area it covers. -/
def State.regionCode (s : State) (ctx : Nat) (type rkey addr len : Nat) : Nat :=
  match mget s.regions (rkey / 256) with
  | none => 1
  | some r =>
    let gen := rkey % 256
    let size := if type = 5 || type = 6 then 8 else len
    if 65536 ≤ rkey / 256 || r.ctx != ctx then 1
    else if r.valid && gen = r.gen then
      if !(if type = 1 then r.wr else if type = 2 then r.rd else r.at_) then 2
      else if addr < r.off || r.off + r.len < addr + size then 3
      else if (type == 5 || type == 6) && addr % 8 != 0 then 5
      else if !s.inService ctx then 0x0A
      else 0
    else if r.revoked && gen = prevGen r.gen then 4
    else 1

/-- The exchange area of a context. -/
def State.xmem (s : State) (ctx : Nat) : List Host.Cell := (s.ctx ctx).xmem

/-- Store bytes in the exchange area. -/
def State.xwrite (s : State) (ctx addr : Nat) (b : Bytes) : State :=
  s.modCtx ctx (fun x => { x with xmem := Memory.writeN x.xmem addr b })

/-- Place the packet of a WRITE (R200); the message completes when every bit is set. -/
def State.placeWrite (s : State) (x : RxPkt) : State :=
  let ctx := s.connCtx x.slot
  let (m, s1) := s.openMsg x
  if m.abandoned then s1.answerNak x 4
  else
    let k := x.h.off / 4096
    let s2 := s1.xwrite ctx (m.addr + x.h.off) x.p.payload
    let got := if m.got.contains k then m.got else m.got ++ [k]
    let s3 := s2.modRx x.slot x.h.msg (fun m => { m with got := got })
    if packetCount m.len ≤ got.length then s3.msgDone x.slot x.h.msg .ok else s3

/-- Check 9 and placing of a WRITE: the key is checked at the first packet to arrive (R211); a release WRITE waits (R201). -/
def State.deliverWrite (s : State) (x : RxPkt) : State :=
  match s.conn? x.slot with
  | none => s
  | some c =>
    match c.rxMsg? x.h.msg with
    | some m => if m.held then s else if m.abandoned then s.answerNak x 4 else s.placeWrite x
    | none =>
      let code := s.regionCode c.entry.ctx 1 x.h.rkey x.h.addr x.h.len
      if code != 0 then s.answerNak x code
      else if x.h.isRelease && c.mustWait x.h.msg then s.holdMsg x
      else s.placeWrite x

/-- WRITE received (R200, R210-R212). -/
def execWrite (t : Nat) (p : Pkt) (s : State) : Host.Outcome State Fault Refusal :=
  .next ((s.at_ t).receive p [1] State.deliverWrite)

/-- The READ_RESP packets of a read from the `i`-th on (R191, R202). -/
def State.respFrames (s : State) (slot msg : Nat) (data : Bytes) (i : Nat) : Nat → State
  | 0 => s
  | n + 1 => (s.sendReadResp slot msg (i * 4096) data.length (slice data (i * 4096) 4096) 0).respFrames slot msg data (i + 1) n

/-- Serve a READ_REQ once (R202): its data in READ_RESP packets. -/
def State.serveRead (s : State) (slot msg addr len : Nat) : State :=
  match s.conn? slot with
  | none => s
  | some c =>
    let data := Memory.readN (s.xmem c.entry.ctx) addr len
    ((s.respFrames slot msg data 0 (packetCount len)).emit (.readResp slot msg data)).msgDone slot msg .ok

/-- Check 9 and serving of a READ_REQ. -/
def State.deliverRead (s : State) (x : RxPkt) : State :=
  match s.conn? x.slot with
  | none => s
  | some c =>
    if (c.rxMsg? x.h.msg).isSome then s
    else
      let code := s.regionCode c.entry.ctx 2 x.h.rkey x.h.addr x.h.len
      if code != 0 then s.answerNak x code
      else if x.h.isRelease && c.mustWait x.h.msg then s.holdMsg x
      else s.serveRead x.slot x.h.msg x.h.addr x.h.len

/-- READ_REQ received (R202). -/
def execReadReq (t : Nat) (p : Pkt) (s : State) : Host.Outcome State Fault Refusal :=
  .next ((s.at_ t).receive p [2] State.deliverRead)

/-- The ATOMIC_RESP of an atomic with the path it goes on, formed once: a duplicate gets it byte for byte (R208, R214). -/
def State.atomicPkt (s : State) (slot msg old : Nat) : Nat × TrailPkt :=
  match s.conn? slot with
  | none => (0, ⟨[], 0, [], [], []⟩)
  | some c =>
    let next (p : Nat) : Nat := (c.path p).nextSend
    let open_ := s.openPaths c
    let p := (bestOf next (if open_.isEmpty then List.range c.entry.paths else open_)).getD 0
    (p, sealPkt c.keys.key (s.txHdr c ⟨0, p, max s.now (next p)⟩ 7 msg 0 8) (leBytes 8 old))

/-- Execute an atomic on the exchange area (R213): the old value goes back, and is kept for duplicates (R214). -/
def State.runAtomic (s : State) (slot msg type addr : Nat) (payload : Bytes) : State :=
  let ctx := s.connCtx slot
  let old := le (Memory.readN (s.xmem ctx) addr 8) 0 8
  let new := if type = 5 then (old + le payload 0 8) % 2 ^ 64 else if old = le payload 0 8 then le payload 8 8 else old
  let s1 := s.xwrite ctx addr (leBytes 8 new)
  let (path, resp) := s.atomicPkt slot msg old
  ((s1.sendAtomicResp slot path resp).emit (.atomicResp slot msg (BitVec.ofNat 64 old))).msgDone slot msg
    (.atomic (BitVec.ofNat 64 old) path resp)

/-- Check 9 and execution of an atomic; with RELEASE it waits (R213). -/
def State.deliverAtomic (s : State) (x : RxPkt) : State :=
  match s.conn? x.slot with
  | none => s
  | some c =>
    if (c.rxMsg? x.h.msg).isSome then s
    else
      let code := s.regionCode c.entry.ctx x.h.type x.h.rkey x.h.addr x.h.len
      if code != 0 then s.answerNak x code
      else if x.h.isRelease && c.mustWait x.h.msg then s.holdMsg x
      else s.runAtomic x.slot x.h.msg x.h.type x.h.addr x.p.payload

/-- ATOMIC_ADD received (R213). -/
def execAtomicAdd (t : Nat) (p : Pkt) (s : State) : Host.Outcome State Fault Refusal :=
  .next ((s.at_ t).receive p [5] State.deliverAtomic)

/-- ATOMIC_CAS received (R213). -/
def execAtomicCas (t : Nat) (p : Pkt) (s : State) : Host.Outcome State Fault Refusal :=
  .next ((s.at_ t).receive p [6] State.deliverAtomic)

/-! ### Registering and revoking regions -/

/-- ERRCODE of a registration (Table 9.21). -/
def State.registerCode (s : State) (ctx idx off len : Nat) : Nat :=
  let x := s.ctx ctx
  if off % 8 != 0 || len % 8 != 0 || len < 8 || x.xSize < off + len then 1
  else if (match mget s.regions idx with | some r => r.valid || r.fenceAt.isSome | none => false) then 2
  else if !s.takesLoads ctx then 4
  else 0

/-- Whether a revocation is in progress: NET_REGION_CTL.BUSY (R212). -/
def State.regionBusy (s : State) : Bool := s.regions.any (fun r => r.2.fenceAt.isSome)

/-- REGION_REGISTER: NET_REGION_CTL.OP = 1 (R210). OP is ignored while BUSY. -/
def execRegionRegister (t : Nat) (ctl : Word) (s : State) : Host.Outcome State Fault Refusal :=
  if !s.ready then .next (s.at_ t) else
  let s := (s.at_ t).ctlWrite F.NET_REGION_CTL.INDEX.off ctl
  if s.regionBusy then .next s
  else
    let idx := fieldOf F.NET_REGION_CTL.INDEX ctl
    let ctx := fieldOf F.NET_REGION_CTL.CTX ctl
    let off := s.rd F.NET_REGION_ADDR.OFFSET
    let len := s.rd F.NET_REGION_ADDR.LENGTH
    let code := s.registerCode ctx idx off len
    if code != 0 then .next (s.opEnd opRegion code)
    else
      let old : Option Region := mget s.regions idx
      let r : Region :=
        { valid := true, gen := (old.map Region.gen).getD 1, ctx := ctx, off := off, len := len
          rd := fieldOf F.NET_REGION_CTL.RD ctl == 1, wr := fieldOf F.NET_REGION_CTL.WR ctl == 1
          at_ := fieldOf F.NET_REGION_CTL.AT ctl == 1, fenceAt := none, revoked := (old.map Region.revoked).getD false }
      .next (({ s with regions := mset s.regions idx r } : State).opEnd opRegion 0)

/-- Bound messages of a region index (R211, R212): received in part or held, under a generation of it. -/
def State.boundTo (s : State) (idx : Nat) : List (Nat × Nat) :=
  s.conns.flatMap (fun c => (c.2.rx.msgs.filter (fun m => [1, 2, 5, 6].contains m.type && m.rkey / 256 == idx && !m.abandoned)).map
    (fun m => (c.1, m.id)))

/-- A revocation completes when no bound message remains (R212). -/
def State.settleRevocation (s : State) (idx : Nat) : State :=
  match mget s.regions idx with
  | some r =>
    if r.fenceAt.isSome && (s.boundTo idx).isEmpty then
      ({ s with regions := mset s.regions idx { r with fenceAt := none } } : State).opEnd opRegion 0
    else s
  | none => s

/-- REGION_REVOKE: NET_REGION_CTL.OP = 2, the revocation fence (R212). -/
def execRegionRevoke (t : Nat) (ctl : Word) (s : State) : Host.Outcome State Fault Refusal :=
  if !s.ready then .next (s.at_ t) else
  let s := (s.at_ t).ctlWrite F.NET_REGION_CTL.INDEX.off ctl
  if s.regionBusy then .next s
  else
    let idx := fieldOf F.NET_REGION_CTL.INDEX ctl
    match mget s.regions idx with
    | some r =>
      if r.valid then .next (({ s with regions := mset s.regions idx { r.revoke with fenceAt := some s.now } } : State).settleRevocation idx)
      else .next (s.opEnd opRegion 3)
    | none => .next (s.opEnd opRegion 3)

/-- Abandon a bound message: its later packets get NAK REGION_REVOKED; a held one, of which none can come, gets it now (R212). -/
def State.abandonMsg (s : State) (slot id : Nat) : State :=
  match (s.conn? slot).bind (fun c => c.rxMsg? id) with
  | none => s
  | some m =>
    if m.held then
      let body := nakBytes 4 0 id 0 0 []
      ((s.bump F.NET_EVENTS.NAK_SENT).sendControl slot 10 body).msgDone slot id (.nak body)
    else s.modRx slot id (fun x => { x with abandoned := true })

/-- REVOCATION_ABANDON: bound messages 100 ms after the fence are abandoned (R212). -/
def execRevocationAbandon (t index : Nat) (s : State) : Host.Outcome State Fault Refusal :=
  let s := s.at_ t
  match (mget s.regions index).bind Region.fenceAt with
  | some a =>
    if a + 100000000 ≤ s.now then
      .next (((s.boundTo index).foldl (fun s m => s.abandonMsg m.1 m.2) s).settleRevocation index)
    else .next s
  | none => .next s

/-- REVOCATION_COMPLETE: no bound message remains (R212). -/
def execRevocationComplete (t index : Nat) (s : State) : Host.Outcome State Fault Refusal := .next ((s.at_ t).settleRevocation index)

end Sys2Proof.Machine
end

