-- ==== Sys2Proof/Machine/Repair.lean ====
section
/-! DEFINITION. The sending side of Trail: acknowledgements, loss repair, congestion, refusals, failure of a connection
(09_trail.md, R198, R202, R206-R209, R216, Table 9.19). -/
namespace Sys2Proof.Machine

/-! ### Journals and shares of a lost connection -/

/-- Whole bodies of the unacknowledged JOURNAL messages of a connection: MSG_ID and body. -/
def Conn.journalMsgs (c : Conn) : List (Nat × Bytes) :=
  let ks := c.tx.pkts.filter (fun k => k.kind == .peer 4)
  ((ks.map TxPkt.msg).eraseDups).map (fun m =>
    (m, ((lsort TxPkt.off (ks.filter (fun k => k.msg == m))).flatMap TxPkt.data).drop 8))

/-- JOURNAL messages a connection loses are kept with their streams (R289: nothing is dropped). -/
def State.keepJournals (s : State) (slot : Nat) (msgs : List (Nat × Bytes)) : State :=
  let ctx := s.connCtx slot
  { s with comp := { s.comp with streams := s.comp.streams.map (fun j =>
      if j.ctx == ctx then
        { j with again := j.again ++ (msgs.filter (fun m => le m.2 0 2 == j.slot)).map (fun m => (slot, m.1, m.2)) }
      else j) } }

/-- Send one kept JOURNAL message again, and let its lag and its APPEND wait for the new message. -/
def State.resendJournal (s : State) (slot : Nat) (a : Nat × Nat × Bytes) : State :=
  let msg := match s.conn? slot with
    | some c => c.tx.nextMsg
    | none => 0
  let s1 := s.sendSend slot (.peer 4) 4 a.2.2 3
  let swap (j : JournalOut) : JournalOut :=
    { j with again := j.again.filter (· != a), unacked := j.unacked.map (fun m => if j.again.contains a && m = a.2.1 then msg else m) }
  { s1 with
    comp := { s1.comp with streams := s1.comp.streams.map swap }
    reqs := s1.reqs.map (fun r => { r with journalWait := r.journalWait.map (fun w => if w = (a.1, a.2.1) then (slot, msg) else w) }) }

/-- Send what the streams toward a connection's peer have kept. -/
def State.resendJournals (s : State) (slot : Nat) : State :=
  let ctx := s.connCtx slot
  let mine := s.comp.streams.filter (fun j => j.ctx == ctx && (s.buddyOf j.slot).bind (s.peerConn ctx) == some slot)
  (mine.flatMap JournalOut.again).foldl (fun s a => s.resendJournal slot a) s

/-- Sub-requests whose answer can no longer come on a connection go out again (R284). -/
def State.unsendShares (s : State) (slot : Nat) : State :=
  match s.conn? slot with
  | none => s
  | some c =>
    if !c.entry.peer then s
    else
      let away (m : Nat) : Bool := match s.comp.current with
        | some map_ => lget map_.nodes m [] == c.entry.peerId
        | none => false
      { s with reqs := s.reqs.map (fun r => if r.ctx == c.entry.ctx then
          { r with shares := r.shares.map (fun x => if x.rows.isNone && away x.member then { x with sent := false } else x) }
          else r) }

/-- What the loss of a connection leaves behind: unacknowledged journals, sub-requests without an answer, the sub-requests its
peer had sent (R284, R286, R289). -/
def State.loseConn (s : State) (slot : Nat) : State :=
  match s.conn? slot with
  | none => s
  | some c =>
    let s1 := (s.keepJournals slot c.journalMsgs).unsendShares slot
    ({ s1 with comp := { s1.comp with subs := s1.comp.subs.filter (fun q => q.slot != some slot) } } : State).settleRetiring

/-! ### Failure -/

/-- Keys of a connection without any (R198, R243). -/
def ConnKeys.empty : ConnKeys := ⟨0, false, 0, none, 0, 0, 0, false, false, [], [], none, none⟩

/-- Receive side of a new connection. -/
def ConnRx.empty : ConnRx := ⟨0, [], [], 0, none, 0, 0, 0, 0, [], 0, 0, 0, 0, none, 0, 0⟩

/-- Send side of a new connection. -/
def ConnTx.empty : ConnTx := ⟨0, 0, 0, [], [], 0, 0, 0, [], [], []⟩

/-- Rings in RSTATE 2, without their status words: the connection cannot carry them. -/
def Conn.haltRings (c : Conn) : Conn :=
  { c with rings := c.rings.map (fun r => if r.rstate = 3 then r else { r with rstate := 2, fetches := [], ready := [] }) }

/-- A connection fails (R198): record with its cause, 0 RETX_MAX or 1 DEAD_MS (Table 12.6), rings in RSTATE 2, R178, state 5. -/
def State.connFail (s : State) (slot : Nat) (cause : Nat := 0) : State :=
  match s.conn? slot with
  | none => s
  | some c =>
    if c.state = 5 || c.state ≤ 1 then s
    else
      let s1 := errRecord (s.bump F.NET_EVENTS.CONN_FAILED) .connFailed .trail { ctx := some c.entry.ctx, conn := c.entry.conn, detail := cause }
      let s2 := (s1.loseConn slot).silenceConn slot
      s2.modConn slot (fun c => { c.haltRings with
        state := 5
        keys := ConnKeys.empty
        rx := ConnRx.empty
        tx := ConnTx.empty
        dedup := ⟨0, none, []⟩
        failedAt := some s.now })

/-! ### Retransmission -/

/-- Timeout of a path in ns (R206): it doubles with each consecutive expiry, up to 1 ms. -/
def State.rto (s : State) (p : PathState) : Nat :=
  let base := max (s.lv F.NET_RETX.RTO_MIN_NS) (p.srtt + 4 * p.rttvar)
  max base (min 1000000 (base * 2 ^ p.expiries))

/-- Whether a POLICED notice, or the want of an open link, keeps a packet of a class from going out again (R188, R207). -/
def State.classHeld (s : State) (c : Conn) (cls : Nat) : Bool :=
  decide (s.now < (mget c.tx.waitUntil cls).getD 0) || (s.openLinks c.entry).isEmpty

/-- A packet goes out again (R206): counted, under the same key byte-identical but for PATH, RETX and TX_TIME (R194). -/
def State.resend (s : State) (slot : Nat) (c : Conn) (k : TxPkt) (w : Way) : State :=
  ((s.transmit slot c k w).bump F.NET_EVENTS.RETX).emit (.retransmit slot (k.msg % 2 ^ 32) k.off w.link w.path)

/-- Retransmit a packet presumed lost (R206, R208, R226): on the gate of another link and on another path where there is one; after
RETX_MAX transmissions the connection fails (R198). What may not go out now stays lost for the time. -/
def State.retransmit (s : State) (slot : Nat) (k : TxPkt) : State :=
  match s.conn? slot with
  | none => s
  | some c =>
    if !c.tx.pkts.any (fun q => q.msg == k.msg && q.off == k.off) then s
    else if s.lv F.NET_RETX.RETX_MAX ≤ k.count then s.connFail slot
    else if s.classHeld c k.cls then s.modPkt slot k.msg k.off (fun q => { q with lost := true })
    else
      let (w, s1) := s.placeFrame slot c k.frame (some (k.link, k.path)) none
      s1.resend slot c k w

/-- Retransmit a list of packets of one connection. -/
def State.retransmitAll (s : State) (slot : Nat) (ks : List TxPkt) : State := ks.foldl (fun s k => s.retransmit slot k) s

/-- Send what a notice or a credit held back, when nothing holds it any longer. -/
def State.flushConn (s : State) (slot : Nat) : State :=
  match s.conn? slot with
  | none => s
  | some c => (s.retransmitAll slot (c.tx.pkts.filter (fun k => k.lost && !s.classHeld c k.cls))).releaseHeld slot

/-- Whether a packet passed by three acknowledged ones is presumed lost: REO_NS since it was sent (R206). -/
def State.reordered (s : State) (k : TxPkt) : Bool :=
  !k.held && !k.lost && decide (3 ≤ k.passed) && decide (k.sentAt + s.lv F.NET_RETX.REO_NS ≤ s.now)

/-- REORDER_ALLOWANCE_EXPIRY: REO_NS has passed for a packet already passed by three (R206). -/
def execReorderAllowanceExpiry (t slot msg offset : Nat) (s : State) : Host.Outcome State Fault Refusal :=
  let s := s.at_ t
  match s.conn? slot with
  | none => .next s
  | some c => .next (s.retransmitAll slot (c.tx.pkts.filter (fun k => k.msg == msg && k.off == offset && s.reordered k)))

/-- RTO_EXPIRY: the timeout of a path has run out for its oldest packet (R206). -/
def execRtoExpiry (t slot path : Nat) (s : State) : Host.Outcome State Fault Refusal :=
  let s := s.at_ t
  match s.conn? slot with
  | none => .next s
  | some c =>
    let p := c.path path
    let due := c.tx.pkts.filter (fun k => !k.held && !k.lost && k.path == path && decide (k.sentAt + s.rto p ≤ s.now))
    if due.isEmpty then .next s
    else
      let n := p.expiries + 1
      let s1 := (s.bump F.NET_EVENTS.RTO).modConn slot (fun c => c.modPath path (fun q =>
        { q with expiries := n, suspendedUntil := if 3 ≤ n then some (s.now + 1000000) else q.suspendedUntil }))
      .next (s1.retransmitAll slot due)

/-- DEAD_TIMER: packets outstanding and no progress for DEAD_MS (R198). -/
def execDeadTimer (t slot : Nat) (s : State) : Host.Outcome State Fault Refusal :=
  let s := s.at_ t
  match s.conn? slot with
  | none => .next s
  | some c =>
    if c.tx.pkts.any (fun k => !k.held) && c.tx.progressAt + s.lv F.NET_RETX.DEAD_MS * 1000000 ≤ s.now then .next (s.connFail slot 1)
    else .next s

/-- PATH_PROBE: a suspended path is tried with one packet after its millisecond (R206). -/
def execPathProbe (t slot path : Nat) (s : State) : Host.Outcome State Fault Refusal :=
  let s := s.at_ t
  match s.conn? slot with
  | none => .next s
  | some c =>
    match (c.path path).suspendedUntil with
    | none => .next s
    | some u =>
      if s.now < u then .next s
      else
        let s1 := s.modConn slot (fun c => c.modPath path (fun q => { q with suspendedUntil := none }))
        let l := pathLink (s1.linkList c.entry) path
        let cand := c.tx.pkts.filter (fun k => !k.held && (s1.openLinks c.entry).contains l && !s.classHeld c k.cls)
        match lsort TxPkt.order (if cand.any TxPkt.lost then cand.filter TxPkt.lost else cand) with
        | [] => .next s1
        | k :: _ =>
          let (w, s2) := s1.placeOn slot c l path k.frame none
          .next (s2.resend slot c k w)

/-! ### Acknowledgements -/

/-- cc_update of one path (R209). -/
def State.ccUpdate (s : State) (c : Conn) (i : Nat) (b : SackBody) (ce rcvd : Nat) (p : PathState) : PathState :=
  let now := s.now
  let p1 : PathState := if b.echoPath = i then
      let rtt := (now + 2 ^ 33 - b.echoTime - b.holdNs) % 2 ^ 32
      let first := p.srtt == 0
      let dev := if p.srtt ≤ rtt then rtt - p.srtt else p.srtt - rtt
      { p with base := (p.base.filter (fun e => decide (now < e.1 + 10000000000))) ++ [(now, rtt)]
               srtt := if first then rtt else (7 * p.srtt + rtt) / 8
               rttvar := if first then rtt / 2 else (3 * p.rttvar + dev) / 4
               lastRtt := rtt }
    else p
  let base := (p1.base.map Prod.snd).foldl min (2 ^ 32)
  let target := s.lv F.NET_CC.TARGET_NS
  let mayCut := decide (p1.srtt ≤ now - p1.lastCut)
  let minR := fOfNat (s.lv F.NET_CC.MIN_GBPS)
  let one := fOfNat 1
  let part (k : Nat) : F32 := fdiv (fOfNat k) (fOfNat 256)
  let cutBy (x : F32) : PathState := if mayCut then
      { p1 with rate := fmax minR (fmul p1.rate (fsub one x)), lastCut := now, ai := s.lv F.NET_CC.AI_GBPS, clean := 0 }
    else p1
  if ce != 0 then cutBy (fdiv (fmul (part (s.lv F.NET_CC.BETA)) (fOfNat ce)) (fOfNat rcvd))
  else if !p1.base.isEmpty && base + target < p1.lastRtt then
    cutBy (fmul (part (s.lv F.NET_CC.GAMMA)) (fdiv (fOfNat (p1.lastRtt - base - target)) (fOfNat p1.lastRtt)))
  else
    let link := pathLink (s.linkList c.entry) i
    let n := p1.clean + 1
    { p1 with rate := fmin (fOfNat (s.linkGbps link)) (fadd p1.rate (fOfNat p1.ai)), clean := n
              ai := if n % 8 = 0 then min (s.lv F.NET_CC.AI_MAX_GBPS) (2 * p1.ai) else p1.ai }

/-- Whether a SACK acknowledges a packet (Table 9.9), below the new point or in a message entry. -/
def sackCovers (cum : Nat) (b : SackBody) (k : TxPkt) : Bool :=
  decide (k.msg < cum) || b.msgs.any (fun e => e.1 == k.msg % 2 ^ 32 && (e.2.1 == 0xFFFF ||
    (decide (e.2.1 ≤ k.off / 4096) && decide (k.off / 4096 < e.2.1 + 32) && bit e.2.2 (k.off / 4096 - e.2.1))))

/-- Take a SACK in (R199, R203, R205, R206, R209). -/
def State.onSack (s : State) (slot : Nat) (b : SackBody) : State :=
  match s.conn? slot with
  | none => s
  | some c =>
    let d := msgDist b.cum c.tx.cum
    let cum := if d ≤ c.tx.nextMsg - c.tx.cum then c.tx.cum + d else c.tx.cum
    let hit (k : TxPkt) : Bool := !k.held && sackCovers cum b k
    let acked := c.tx.pkts.filter hit
    let left := (c.tx.pkts.filter (fun k => !hit k)).map (fun k =>
      if k.held then k else { k with passed := k.passed + (acked.filter (fun a => decide (k.order < a.order))).length })
    let s1 := s.modConn slot (fun c => { c with tx := { c.tx with
      cum := cum
      credits := b.credits
      pkts := left
      progressAt := if acked.isEmpty then c.tx.progressAt else s.now
      paths := c.tx.paths.zipIdx.map (fun x =>
        let p := if acked.any (fun k => k.path == x.2) then { x.1 with expiries := 0 } else x.1
        match b.paths.find? (fun r => r.1 == x.2) with
        | some r => s.ccUpdate c x.2 b r.2.1 r.2.2 p
        | none => p) } })
    let s2 := s1.retransmitAll slot (left.filter s1.reordered)
    ((s2.settleLag slot).settleAll).flushConn slot

/-- SACK received (R205, R206). -/
def execSack (t : Nat) (p : Pkt) (s : State) : Host.Outcome State Fault Refusal :=
  match (s.at_ t).checks p [9] with
  | (none, s) => .next s
  | (some x, s) => .next (s.onSack x.slot (parseSack p.payload))

/-! ### Refusals -/

/-- What a refused message was for (R207). -/
def Conn.sentKind (c : Conn) (msg : Nat) : Option TxKind :=
  match c.tx.pkts.find? (fun k => k.msg % 2 ^ 32 == msg) with
  | some k => some k.kind
  | none => (c.tx.reads.find? (fun r => r.msg % 2 ^ 32 == msg)).map ReadOut.kind

/-- A refused message is complete: its packets and its read go. -/
def State.dropSent (s : State) (slot msg : Nat) : State :=
  s.modConn slot (fun c => { c with tx := { c.tx with
    pkts := c.tx.pkts.filter (fun k => k.msg % 2 ^ 32 != msg)
    reads := c.tx.reads.filter (fun r => r.msg % 2 ^ 32 != msg) } })

/-- A fetch fails: it and those issued after it return their reservations; those before it go on (R155, R158). -/
def RingState.failFetch (r : RingState) (msg : Nat) : RingState :=
  let keep := if r.fetches.any (fun f => f.msg % 2 ^ 32 == msg) then r.fetches.takeWhile (fun f => f.msg % 2 ^ 32 != msg) else []
  { r with fetches := keep, ready := r.ready.filter (fun e => keep.any (fun f => decide ((e.1 + 2 ^ 32 - f.first) % 2 ^ 32 < f.count))) }

/-- The request of a fetch order, still live, ends with REGION_REVOKED (R207). -/
def State.failOrder (s : State) (order : Nat) : State :=
  match s.reqs.find? (fun r => r.order == order) with
  | some r => s.failReq r.id cRegionRevoked r.progress
  | none => s

/-- NAK 0x01 to 0x04 on a message the node has sent (R207, R162). -/
def State.onRegionNak (s : State) (slot msg : Nat) (kind : TxKind) : State :=
  match kind with
  | .fetch ring => (s.modRing (.partner slot ring) (fun r => r.failFetch msg)).setRstate (.partner slot ring) 2
  | .status req code ring => 
    let s1 := s.lastCode (.partner slot ring) code
    { s1 with reqs := lmod s1.reqs (fun r => r.order == req) (fun r => { r with silent := true }) }
  | .operand order _ => s.failOrder order
  | .result order => s.failOrder order
  | _ => s

/-- EPOCH_MOVED on a peer SEND (R216, R284): a JOURNAL is sent again under the present epoch; a sub-request goes to the node the
current map gives. -/
def State.onEpochMoved (s : State) (slot msg : Nat) (c : Conn) : State :=
  match c.sentKind msg with
  | some (.peer 4) =>
    let ms := c.journalMsgs.filter (fun m => m.1 % 2 ^ 32 == msg)
    ((s.keepJournals slot ms).dropSent slot msg).resendJournals slot
  | some (.peer 1) =>
    match c.tx.pkts.find? (fun k => k.msg % 2 ^ 32 == msg && k.off == 0) with
    | none => s.dropSent slot msg
    | some k =>
      let b := parseSub k.data
      (s.dropSent slot msg).modReq (b.hreq % 65536) (fun r => { r with shares := r.shares.map (fun x =>
        if x.block == b.block && x.pos == b.pos && x.rows.isNone then { x with sent := false } else x) })
  | _ => s.dropSent slot msg

/-- NAK received (R207, R216). -/
def State.onNak (s : State) (slot code msg : Nat) : State :=
  match s.conn? slot with
  | none => s
  | some c =>
    match c.sentKind msg with
    | none => s
    | some kind =>
      if 5 ≤ code && code ≤ 0x0A then s.connFail slot
      else if code = 0x0B then (s.onEpochMoved slot msg c).flushConn slot
      else if 1 ≤ code && code ≤ 4 then (((s.dropSent slot msg).onRegionNak slot msg kind).settleAll).flushConn slot
      else s

/-- NAK received (R207). -/
def execNak (t : Nat) (p : Pkt) (s : State) : Host.Outcome State Fault Refusal :=
  match (s.at_ t).checks p [10] with
  | (none, s) => .next s
  | (some x, s) => .next (s.onNak x.slot (be p.payload 0 1) (be p.payload 4 4))

/-- POLICED received: nothing of the class goes out for WAIT_NS (R207). -/
def execPoliced (t : Nat) (p : Pkt) (s : State) : Host.Outcome State Fault Refusal :=
  match (s.at_ t).checks p [11] with
  | (none, s) => .next s
  | (some x, s) => .next (s.modConn x.slot (fun c => { c with tx := { c.tx with
      waitUntil := mset c.tx.waitUntil (be p.payload 0 1) (s.now + be p.payload 8 4) } }))

/-! ### Read responses -/

/-- READ_RESP received (R200, R202): its bit is set; the read is over when every packet has come. Responses are not
acknowledged. -/
def State.onReadResp (s : State) (x : RxPkt) : State :=
  s.modConn x.slot (fun c =>
    let reads := c.tx.reads.map (fun r =>
      if r.msg % 2 ^ 32 = x.h.msg && r.len = x.h.len then
        { r with lastAt := s.now, got := if r.got.any (fun g => g.1 == x.h.off) then r.got else r.got ++ [(x.h.off, x.p.payload)] }
      else r)
    { c with tx := { c.tx with reads := reads.filter (fun r => decide (r.got.length < packetCount r.len)) } })

/-- READ_RESP received (R202). -/
def execReadResp (t : Nat) (p : Pkt) (s : State) : Host.Outcome State Fault Refusal :=
  match (s.at_ t).checks p [3] with
  | (none, s) => .next s
  | (some x, s) => .next (s.onReadResp x)

/-- Missing ranges of a read, as offset and length: neighbouring missing packets are one range. -/
def missingRanges (got : List Nat) (len : Nat) : List (Nat × Nat) :=
  (List.range (packetCount len)).foldl (fun acc i =>
    if got.contains (i * 4096) then acc
    else
      let n := min 4096 (len - i * 4096)
      match acc.reverse with
      | (o, l) :: rest => if o + l = i * 4096 then (rest.reverse ++ [(o, l + n)]) else acc ++ [(i * 4096, n)]
      | [] => [(i * 4096, n)]) []

/-- Class of a read: that of its ring or of its request (R217). -/
def State.readClass (s : State) (slot : Nat) : TxKind → Nat
  | .fetch ring => (s.ringConf (.partner slot ring)).cls
  | .operand order _ => match s.reqs.find? (fun r => r.order == order) with
    | some r => clsNum r.cls
    | none => 3
  | _ => 3

/-- Ask again for what a read misses (R202). -/
def State.rereadOne (s : State) (slot : Nat) (r : ReadOut) (x : Nat × Nat) : State :=
  let (msg, s1) := s.sendMsg slot ⟨2, r.kind, r.rkey, r.addr + x.1, x.2, [], false, s.readClass slot r.kind⟩
  s1.modConn slot (fun c => { c with tx := { c.tx with reads := c.tx.reads ++
    [{ msg := msg, addr := r.addr + x.1, rkey := r.rkey, len := x.2, kind := r.kind, base := r.base + x.1, got := []
       tries := r.tries + 1, path := c.pathOf msg, lastAt := s.now }] } })

/-- READ_RESP_REREQUEST: missing packets after REO_NS since later ones, or after the path's RTO (R202). -/
def execReadRespRerequest (t slot msg : Nat) (s : State) : Host.Outcome State Fault Refusal :=
  let s := s.at_ t
  match s.conn? slot with
  | none => .next s
  | some c =>
    match c.tx.reads.find? (fun r => r.msg == msg) with
    | none => .next s
    | some r =>
      let miss := missingRanges (r.got.map Prod.fst) r.len
      let later := r.got.any (fun g => match miss with | m :: _ => decide (m.1 < g.1) | [] => false)
      let wait := if later then s.lv F.NET_RETX.REO_NS else s.rto (c.path r.path)
      if s.now < r.lastAt + wait then .next s
      else if s.lv F.NET_RETX.RETX_MAX ≤ r.tries then .next (s.connFail slot)
      else
        let s1 := s.modConn slot (fun c => { c with tx := { c.tx with reads := c.tx.reads.filter (fun q => q.msg != msg) } })
        .next (miss.foldl (fun s x => s.rereadOne slot r x) s1)

/-! ### Links -/

/-- What becomes of the packets planned on a lost link's gate and not yet gone: held until the next tick (R208). -/
def Conn.unplace (c : Conn) (link now until_ : Nat) : Conn :=
  { c with tx := { c.tx with pkts := c.tx.pkts.map (fun k => if !k.held && k.link == link && decide (now < k.sentAt)
      then { k with held := true, count := k.count - 1, notBefore := until_ } else k) } }

/-- READ_RESP frames planned on a gate wait for the next tick likewise. -/
def State.unplaceResps (s : State) (l : List GateSpan) (until_ : Nat) : State :=
  l.foldl (fun s x => match x.resp with
    | some (slot, .readResp msg off len b _) => if s.now * 1000 < x.start then s.awaitLink slot (.readResp msg off len b until_) else s
    | _ => s) s

/-- LINK_DOWN: the lists of links are rebuilt at once; frames placed on its gate are placed again in the next tick (R208). -/
def execLinkDown (t link : Nat) (s : State) : Host.Outcome State Fault Refusal :=
  let s := s.at_ t
  if 16 ≤ link then .next s else
  let bit_ := s.rd F.NET_PCFG.LINK_UP (link / 2) &&& (3 - 2 ^ (link % 2))
  let until_ := if s.running then s.tick.next else s.now
  let s1 : State := { s with conns := s.conns.map (fun c => (c.1, c.2.unplace link s.now until_)) }
  .next (((s1.unplaceResps (s.link link).busy until_).modLink link (fun l => { l with up := false, busy := [] })).wr
    F.NET_PCFG.LINK_UP bit_ (link / 2))

/-- A link has opened: what waited for one goes out. -/
def State.linksOpened (s : State) : State := (s.conns.map Prod.fst).foldl State.flushConn s

/-- Whether a link exists in the port's mode: sub-link 1 only in breakout (R184). -/
def State.linkExists (s : State) (link : Nat) : Bool :=
  decide (link < 16) && (match s.lv F.NET_PCFG.MODE (link / 2) with | 1 => link % 2 == 0 | 2 => true | _ => false)

/-- LINK_UP: the link joins the lists of links (R208). -/
def execLinkUp (t link : Nat) (s : State) : Host.Outcome State Fault Refusal :=
  let s := s.at_ t
  if s.linkExists link then
    let bit_ := s.rd F.NET_PCFG.LINK_UP (link / 2) ||| 2 ^ (link % 2)
    .next ((s.modLink link (fun l => { l with up := true })).wr F.NET_PCFG.LINK_UP bit_ (link / 2)).linksOpened
  else .next s

/-- PFC_FRAME: priority flow control received (R184, R188): honoured for PCP while PFC_EN is set. -/
def execPfcFrame (t port priority : Nat) (pause : Bool) (s : State) : Host.Outcome State Fault Refusal :=
  let s := s.at_ t
  if port < 8 && s.lv F.NET_PCFG.PFC_EN port = 1 && s.lv F.NET_PCFG.PCP port = priority then
    let s1 := (s.modLink (2 * port) (fun l => { l with paused := pause })).modLink (2 * port + 1) (fun l => { l with paused := pause })
    .next (if pause then s1 else s1.linksOpened)
  else .next s

/-- Keep one entry a key in a neighbour table. -/
def putNeighbor (l : List (Bytes × Bytes)) (a m : Bytes) : List (Bytes × Bytes) := l.filter (fun e => e.1 != a) ++ [(a, m)]

/-- NEIGHBOR_DISCOVERY_FRAME: neighbour addresses and the default router (R184); any other frame that is neither Trail nor PTP is
discarded and counted (R185). -/
def execNeighborDiscoveryFrame (t link : Nat) (f : NdFrame) (s : State) : Host.Outcome State Fault Refusal :=
  let s := s.at_ t
  if 16 ≤ link then .next s else
  match f with
  | .neighbor a m => .next (s.modLink link (fun l => { l with neighbors := putNeighbor l.neighbors a m }))
  | .routerAdvert r => .next (s.modLink link (fun l => { l with router := r }))
  | .arp a m => .next (s.modLink link (fun l => { l with neighbors := putNeighbor l.neighbors a m }))
  | .other => .next s.headerDrop

/-- OPERATION_BUCKET_REFILL: the operation bucket holds a token again, and waiting fetches go on (R228). -/
def execOperationBucketRefill (t slot : Nat) (s : State) : Host.Outcome State Fault Refusal :=
  let s := s.at_ t
  match s.conn? slot with
  | none => .next s
  | some c =>
    if c.entry.policer.mode = 0 then .next s else .next ((s.modConn slot (fun c => c.refill s.now)).issueFetches)

end Sys2Proof.Machine
end

