-- ==== Sys2Proof/Machine/Handshake.lean ====
section
/-! DEFINITION. Opening, keying and closing connections, and advertised regions (09_trail.md, R192, R195-R198, R203, R204). -/
namespace Sys2Proof.Machine

/-! ### Handshake messages -/

/-- `n` fresh free bytes: what the generator of R240 supplies (11_isolation.md). -/
def State.drawBytes (s : State) (n : Nat) : Bytes × State :=
  ((List.range n).map (fun i => Config.freeByte (s.free + i)), { s with free := s.free + n })

/-- A handshake message before its signature (Table 9.8). -/
def handshakeHead (kind epoch conn : Nat) (nonce eph ident : Bytes) : Bytes :=
  leBytes 2 kind ++ leBytes 2 epoch ++ leBytes 4 conn ++ padTo 32 nonce ++ padTo 133 eph ++ padTo 133 ident

/-- Sign and complete a handshake message: SIG over SHA-512 of `before` and the head. -/
def State.signed (s : State) (before head : Bytes) : Bytes × State :=
  (head ++ padTo 132 ((Config.identitySignature s.free (sha512 (before ++ head))).take 132) ++ [0, 0], { s with free := s.free + 1 })

/-- A fresh symbolic key (notes/assumptions/6.md). -/
def State.newKey (s : State) : Nat × State := (s.sec.nextKey, { s with sec := { s.sec with nextKey := s.sec.nextKey + 1 } })

/-- Whether a handshake message passes checks 1, 2, 3 and 5 (R192) and has the form of Table 9.8 for its KIND. -/
def State.handshakeForm (s : State) (h : Handshake) (kind : Nat) : Bool :=
  let b := h.bytes
  let x := parseHdr h.hdr
  s.portOk h.link h.dport h.size h.unsupported x [4] && x.conn == 0 && hdrConsistent x b.length && b.length == 440 && le b 0 2 == kind &&
    zeroAt b 0x1B6 2 && (kind != 0x0202 || zeroAt b 8 298)

/-- The slot whose entry has a CONN. -/
def State.slotOf (s : State) (conn : Nat) : Option Nat := (s.conns.find? (fun c => c.2.entry.conn == conn)).map Prod.fst

/-- Whether the identity key in a handshake message is the one the entry names (R197). -/
def peerIdOk (c : Conn) (b : Bytes) : Bool := sha512 (slice b 0xAD 133) == c.entry.peerId

/-- Whether the node can take part in a handshake: identity keys and generator (R240, R366). -/
def State.canHandshake (s : State) : Bool := s.sec.keysDerived && s.sec.drbgOk

/-- A peer whose handshake names an epoch other than E, E - 1 or E + 1 has been through a reset: the streams toward it count it as a
new buddy at the next map (R298). -/
def State.noteReset (s : State) (slot : Nat) : State :=
  match s.conn? slot, s.comp.current with
  | some c, some m =>
    let e := le (if c.entry.initiator then c.keys.acceptBytes else c.keys.helloBytes) 2 2
    if !c.entry.peer || e = s.comp.epoch || (e + 1) % 65536 = s.comp.epoch || (s.comp.epoch + 1) % 65536 = e then s
    else
      { s with comp := { s.comp with streams := s.comp.streams.map (fun j =>
          if j.ctx == c.entry.ctx && (s.buddyOf j.slot).any (fun b => lget m.nodes b [] == c.entry.peerId) then { j with renew := true } else j) } }
  | _, _ => s

/-- The connection opens: fresh key, message IDs, credits, paths and full buckets (R195, R197, R203, R209, R228). Credits to
send are the node's own SEND_CREDITS until the first SACK says otherwise. -/
def State.openConn (s : State) (slot : Nat) : State :=
  let (k, s1) := s.newKey
  let g := s1.lv F.NET_ACK.SEND_CREDITS
  ((s1.modConn slot (fun c =>
    let p := c.entry.policer
    { c with
      state := 3
      keys := { ConnKeys.empty with key := k, helloBytes := c.keys.helloBytes, acceptBytes := c.keys.acceptBytes }
      rx := { ConnRx.empty with grants := g, btok := p.bBurst * 8000, btok2 := p.bBurst2 * 8000, otok := p.opBurst * 1000000
                                refillAt := s.now, lastHeard := s.now }
      tx := { ConnTx.empty with credits := g, progressAt := s.now, paths := List.replicate 64 (PathState.init s1) }
      dedup := ⟨s.nextOrder, none, []⟩
      closedAt := none
      failedAt := none })).noteReset slot).resendJournals slot

/-- Send HELLO and begin a handshake as initiator (R197). -/
def State.startHandshake (s : State) (slot : Nat) : State :=
  match s.conn? slot with
  | none => s
  | some c =>
    if !s.canHandshake then s
    else
      let (nonce, s1) := s.drawBytes 32
      let (eph, s2) := s1.drawBytes 133
      let (b, s3) := s2.signed [] (handshakeHead 0x0200 s.comp.epoch c.entry.conn nonce eph s.sec.publicKey)
      (s3.modConn slot (fun c => { c with
        state := 2
        keys := { ConnKeys.empty with helloBytes := b, helloFirstAt := some s.now, helloLastAt := some s.now }
        closedAt := none
        failedAt := none })).sendHandshake slot b

/-- Answer a HELLO with ACCEPT (R197, step 2). -/
def State.sendAccept (s : State) (slot : Nat) (hello : Bytes) : State :=
  match s.conn? slot with
  | none => s
  | some c =>
    let (nonce, s1) := s.drawBytes 32
    let (eph, s2) := s1.drawBytes 133
    let (b, s3) := s2.signed hello (handshakeHead 0x0201 s.comp.epoch c.entry.conn nonce eph s.sec.publicKey)
    (s3.modConn slot (fun c => { c with
      state := 2
      keys := { ConnKeys.empty with helloBytes := hello, acceptBytes := b } })).sendHandshake slot b

/-- A connection's keys, message IDs, duplicate window and paths go; its rings stand in RSTATE 2 (R198). -/
def State.resetConn (s : State) (slot : Nat) : State :=
  s.modConn slot (fun c => { c.haltRings with
    keys := ConnKeys.empty
    rx := ConnRx.empty
    tx := ConnTx.empty
    dedup := ⟨0, none, []⟩ })

/-- HELLO received (R192, R197). -/
def execHello (t : Nat) (h : Handshake) (s : State) : Host.Outcome State Fault Refusal :=
  let s := s.at_ t
  let b := h.bytes
  if !s.handshakeForm h 0x0200 then .next s.headerDrop
  else match s.slotOf (le b 4 4) with
    | none => .next s.headerDrop
    | some slot => match s.conn? slot with
      | none => .next s.headerDrop
      | some c =>
        if (c.state = 2 || c.state = 3) && !c.entry.initiator && c.keys.helloBytes == b then
          .next (s.sendHandshake slot c.keys.acceptBytes)
        else if !(c.state == 1 || c.state == 3) || c.entry.initiator || !peerIdOk c b || !h.sigOk then .next s.headerDrop
        else if !s.canHandshake then .next s
        else if c.state = 3 then
          let s1 := s.sendClose slot 2
          .next ((((s1.silenceConn slot).loseConn slot).resetConn slot).sendAccept slot b)
        else .next (s.sendAccept slot b)

/-- ACCEPT received by the initiator (R197, step 3): FINISH goes out and the connection opens. -/
def execAccept (t : Nat) (h : Handshake) (s : State) : Host.Outcome State Fault Refusal :=
  let s := s.at_ t
  let b := h.bytes
  if !s.handshakeForm h 0x0201 then .next s.headerDrop
  else match s.slotOf (le b 4 4) with
    | none => .next s.headerDrop
    | some slot => match s.conn? slot with
      | none => .next s.headerDrop
      | some c =>
        if c.state != 2 || !c.entry.initiator || !peerIdOk c b || !h.sigOk then .next s.headerDrop
        else
          let (f, s1) := s.signed (c.keys.helloBytes ++ b) (handshakeHead 0x0202 s.comp.epoch c.entry.conn [] [] [])
          .next (((s1.modConn slot (fun c => { c with keys := { c.keys with acceptBytes := b } })).openConn slot).sendHandshake slot f)

/-- FINISH received by the responder (R197, step 4): the connection opens. -/
def execFinish (t : Nat) (h : Handshake) (s : State) : Host.Outcome State Fault Refusal :=
  let s := s.at_ t
  let b := h.bytes
  if !s.handshakeForm h 0x0202 then .next s.headerDrop
  else match s.slotOf (le b 4 4) with
    | none => .next s.headerDrop
    | some slot => match s.conn? slot with
      | none => .next s.headerDrop
      | some c =>
        if c.state != 2 || c.entry.initiator || !h.sigOk then .next s.headerDrop
        else .next (s.openConn slot)

/-- HELLO_RESEND: every 1 ms until ACCEPT arrives, for at most 1 s; a closed initiator's handshake starts 10 ms after its close
(R197, R198). -/
def execHelloResend (t slot : Nat) (s : State) : Host.Outcome State Fault Refusal :=
  let s := s.at_ t
  match s.conn? slot with
  | none => .next s
  | some c =>
    if !c.entry.initiator then .next s
    else if c.state = 1 then
      let due := match c.closedAt with
        | some a => decide (a + 10000000 ≤ s.now)
        | none => true
      .next (if due then s.startHandshake slot else s)
    else if c.state = 2 then
      match c.keys.helloFirstAt, c.keys.helloLastAt with
      | some f, some l =>
        if l + 1000000 ≤ s.now && s.now < f + 1000000000 then
          .next ((s.modConn slot (fun c => { c with keys := { c.keys with helloLastAt := some s.now } })).sendHandshake
            slot c.keys.helloBytes)
        else .next s
      | _, _ => .next s
    else .next s

/-- FAILED_SLOT_RECOVER: a responder slot after 1 ms, an initiator slot after 10 ms (R198). -/
def execFailedSlotRecover (t slot : Nat) (s : State) : Host.Outcome State Fault Refusal :=
  let s := s.at_ t
  match s.conn? slot with
  | none => .next s
  | some c =>
    match c.state, c.failedAt with
    | 5, some a =>
      if c.entry.initiator then
        (if a + 10000000 ≤ s.now then .next ((s.modConn slot (fun c => { c with state := 1 })).startHandshake slot) else .next s)
      else if a + 1000000 ≤ s.now then .next (s.modConn slot (fun c => { c with state := 1, failedAt := none }))
      else .next s
    | _, _ => .next s

/-! ### Key updates -/

/-- KEY_UPDATE_TRIGGER: the node starts a key update (R195, step 1). -/
def execKeyUpdateTrigger (t slot : Nat) (s : State) : Host.Outcome State Fault Refusal :=
  let s := s.at_ t
  match s.conn? slot with
  | none => .next s
  | some c =>
    if c.state != 3 || c.keys.rekeyStarted || c.keys.rekeyAnswered || !s.sec.drbgOk then .next s
    else
      let (eph, s1) := s.drawBytes 133
      .next ((s1.modConn slot (fun c => { c with keys := { c.keys with rekeyStarted := true } })).sendSend slot (.control 0x0100) 0x0100
        eph 3)

/-- REKEY delivered (R195, step 2): answered with REKEY_ACK; of two at once the initiator's proceeds. -/
def State.onRekey (s : State) (slot : Nat) : State :=
  match s.conn? slot with
  | none => s
  | some c =>
    if c.keys.rekeyStarted && c.entry.initiator || c.keys.rekeyAnswered || !s.sec.drbgOk then s
    else
      let (eph, s1) := s.drawBytes 133
      let (k, s2) := s1.newKey
      (s2.modConn slot (fun c => { c with keys := { c.keys with next := k, rekeyAnswered := true, rekeyStarted := false } })).sendSend slot
        (.control 0x0101) 0x0101 eph 3

/-- REKEY_ACK delivered (R195, step 4): the starter goes over to the new key. -/
def State.onRekeyAck (s : State) (slot : Nat) : State :=
  match s.conn? slot with
  | none => s
  | some c =>
    if !c.keys.rekeyStarted then s
    else
      let (k, s1) := s.newKey
      s1.modConn slot (fun c => { c with keys :=
        { c.keys with prev := c.keys.key, key := k, phase := !c.keys.phase, prevUntil := none, rekeyStarted := false
                      rekeyAnswered := false, sentMsgs := 0, sentCtls := 0 } })

/-- PREVIOUS_KEY_EXPIRY: the previous key is destroyed when it is no longer accepted (R194, R195, step 6). -/
def execPreviousKeyExpiry (t slot : Nat) (s : State) : Host.Outcome State Fault Refusal :=
  let s := s.at_ t
  match s.conn? slot with
  | none => .next s
  | some c =>
    match c.keys.prevUntil with
    | some u => .next (if u ≤ s.now then s.modConn slot (fun c => { c with keys := { c.keys with prev := 0, prevUntil := none } }) else s)
    | none => .next s

/-! ### Closing -/

/-- Step 1 of a close by CLOSE (R198): state 4, R178, no fetch goes on. -/
def State.enterClosing (s : State) (slot : Nat) : State :=
  (s.silenceConn slot).modConn slot (fun c => { c with
    state := 4
    closedAt := some s.now
    rings := c.rings.map (fun r => { r with fetches := [], ready := [] })
    tx := { c.tx with reads := c.tx.reads.filter (fun r => match r.kind with | .fetch _ => false | _ => true) } })

/-- The node closes an open connection: CLOSE with a reason, then R198. -/
def State.closeByNode (s : State) (slot reason : Nat) : State :=
  match s.conn? slot with
  | none => s
  | some c => if c.state = 3 then (s.sendClose slot reason).enterClosing slot else s

/-- CLOSE delivered (R198). -/
def State.onClose (s : State) (slot : Nat) : State :=
  match s.conn? slot with
  | none => s
  | some c => if c.state = 3 then s.enterClosing slot else s

/-- CLOSE_WAIT_END: everything sent is acknowledged, or 1 ms has passed (R198, steps 2 to 5). -/
def execCloseWaitEnd (t slot : Nat) (s : State) : Host.Outcome State Fault Refusal :=
  let s := s.at_ t
  match s.conn? slot with
  | none => .next s
  | some c =>
    match c.state, c.closedAt with
    | 4, some a =>
      if c.tx.pkts.any (fun k => !k.held) && s.now < a + 1000000 then .next s
      else .next (((s.loseConn slot).resetConn slot).modConn slot (fun c => { c with
        state := 1
        closedAt := if c.entry.initiator then some s.now else none }))
    | _, _ => .next s

/-! ### Loading and removing entries -/

/-- Whether a ring record may take the place of another on an open connection: only while EN is 0 or with a change of EN (R196). -/
def ringChangeOk (old new : RingRec) : Bool := new == old || !old.en || new.en != old.en

/-- Whether only POLICER and ring records change, and those as R196 allows. -/
def entryChangeOk (old new : ConnEntry) : Bool :=
  ({ new with policer := old.policer, rings := old.rings } : ConnEntry) == old &&
    (List.zipWith ringChangeOk old.rings new.rings).all id

/-- Whether a connection counts as open for R196: state 3 or 4. -/
def Conn.isOpen (c : Conn) : Bool := c.state == 3 || c.state == 4

/-- ERRCODE of a load (Table 9.20). -/
def State.connLoadCode (s : State) (slot : Nat) (mem : Option Bytes) : Nat :=
  match mem with
  | none => 5
  | some b =>
    if b.length != 384 || !connEntryOk b then 1
    else
      let e := parseConnEntry b
      if s.conns.any (fun c => c.1 != slot && c.2.entry.conn == e.conn) then 2
      else if !s.takesLoads e.ctx then 3
      else match s.conn? slot with
        | some c => if c.isOpen && !entryChangeOk c.entry e then 4 else 0
        | none => 0

/-- State of a ring whose record has just been loaded: enabled and empty, or disabled. -/
def freshRing (r : RingRec) : RingState := if r.absent || !r.en then RingState.off else { RingState.off with rstate := 0 }

/-- A connection of a newly loaded entry, waiting for its handshake. -/
def Conn.fresh (e : ConnEntry) : Conn where
  entry := e
  state := 1
  keys := ConnKeys.empty
  rx := ConnRx.empty
  tx := ConnTx.empty
  rings := e.rings.map freshRing
  dedup := ⟨0, none, []⟩
  nextRing := 0
  regions := []
  withdrawn := []
  closedAt := none
  failedAt := none

/-- Put new ring records and a new policer into an open connection (R196); a ring whose EN changes starts anew, and its status
word goes out (R155). -/
def State.updateEntry (s : State) (slot : Nat) (c : Conn) (e : ConnEntry) : State :=
  let s1 := s.modConn slot (fun c => { c with
    entry := e
    rings := (List.range 4).map (fun i =>
      let old := lget c.entry.rings i RingRec.none
      let new := lget e.rings i RingRec.none
      if new = old then lget c.rings i RingState.off else freshRing new)
    rx := { c.rx with btok := min c.rx.btok (e.policer.bBurst * 8000), btok2 := min c.rx.btok2 (e.policer.bBurst2 * 8000)
                      otok := min c.rx.otok (e.policer.opBurst * 1000000) } })
  ((List.range 4).filter (fun i => (lget c.entry.rings i RingRec.none).en != (lget e.rings i RingRec.none).en)).foldl
    (fun s i => s.writeRingStatus (.partner slot i)) s1

/-- CONN_LOAD: NET_CONN_CTL.OP = 1 (R196). -/
def execConnLoad (t : Nat) (ctl : Word) (mem : Option Bytes) (s : State) : Host.Outcome State Fault Refusal :=
  if !s.ready then .next (s.at_ t) else
  let s := (s.at_ t).ctlWrite F.NET_CONN_CTL.SLOT.off ctl
  let slot := fieldOf F.NET_CONN_CTL.SLOT ctl
  let code := s.connLoadCode slot mem
  let s1 := match code, mem with
    | 0, some b =>
      let e := parseConnEntry b
      match s.conn? slot with
      | some c =>
        if c.isOpen then s.updateEntry slot c e
        else
          let s2 : State := { (s.silenceConn slot).loseConn slot with conns := mset s.conns slot (Conn.fresh e) }
          if e.initiator then s2.startHandshake slot else s2
      | none =>
        let s2 : State := { s with conns := mset s.conns slot (Conn.fresh e) }
        if e.initiator then s2.startHandshake slot else s2
    | _, _ => s
  .next (s1.opEnd opConn code)

/-- CONN_REMOVE: NET_CONN_CTL.OP = 2: closes under R178, CLOSE if open, and empties the slot (R196). -/
def execConnRemove (t : Nat) (ctl : Word) (s : State) : Host.Outcome State Fault Refusal :=
  if !s.ready then .next (s.at_ t) else
  let s := (s.at_ t).ctlWrite F.NET_CONN_CTL.SLOT.off ctl
  let slot := fieldOf F.NET_CONN_CTL.SLOT ctl
  let s1 := match s.conn? slot with
    | some c => if c.state = 3 then s.sendClose slot 0 else s
    | none => s
  .next ((((s1.silenceConn slot).loseConn slot).emptySlot slot).opEnd opConn 0)

/-! ### Advertised regions -/

/-- Entries of a REGION_ADV body (Table 9.12). -/
def advEntries (b : Bytes) : List AdvRegion :=
  (List.range ((b.length - 8) / 24)).map (fun i =>
    let o := 8 + 24 * i
    { rkey := le b o 4, rights := le b (o + 4) 4, addr := le b (o + 8) 8, len := le b (o + 16) 8 })

/-- Take one advertised region in: it replaces one of the same key; beyond 256 it is counted and not stored (R204). -/
def State.advertise (s : State) (slot : Nat) (a : AdvRegion) : State :=
  match s.conn? slot with
  | none => s
  | some c =>
    if c.regions.any (fun r => r.rkey == a.rkey) then
      s.modConn slot (fun c => { c with regions := lmod c.regions (fun r => r.rkey == a.rkey) (fun _ => a) })
    else if 256 ≤ c.regions.length then s.headerDrop
    else s.modConn slot (fun c => { c with regions := c.regions ++ [a] })

/-- REGION_ADV delivered (R204). -/
def State.onRegionAdv (s : State) (slot : Nat) (b : Bytes) : State := (advEntries b).foldl (fun s a => s.advertise slot a) s

/-- Whether a request can still access a region of its connection: it names the key. -/
def Req.usesKey (r : Req) (slot rkey : Nat) : Bool :=
  (match r.ring with | .partner a _ => a == slot | .localRing _ => false) && r.admittedAt.isSome &&
    (r.desc.queryRkey == rkey || r.desc.resultRkey == rkey)

/-- Whether anything still accesses a withdrawn region: an admitted request, or a message not acknowledged (R204). -/
def State.regionInUse (s : State) (slot rkey : Nat) : Bool :=
  s.reqs.any (fun r => r.usesKey slot rkey) || (match s.conn? slot with
    | some c => c.tx.pkts.any (fun k => k.rkey == rkey && hasExt k.type) || c.tx.reads.any (fun r => r.rkey == rkey)
    | none => false)

/-- Send REGION_WD_DONE for a withdrawn key nothing accesses any longer (R204). -/
def State.settleWithdrawn (s : State) (slot rkey : Nat) : State :=
  match s.conn? slot with
  | none => s
  | some c =>
    if c.withdrawn.contains rkey && c.state == 3 && !s.regionInUse slot rkey then
      (s.modConn slot (fun c => { c with withdrawn := c.withdrawn.filter (· != rkey) })).sendSend slot (.control 0x0112) 0x0112
        (leBytes 4 rkey) 3
    else s

/-- REGION_WD delivered: the entry goes at once (R204). -/
def State.onRegionWd (s : State) (slot : Nat) (b : Bytes) : State :=
  let rkey := le b 8 4
  (s.modConn slot (fun c => { c with
    regions := c.regions.filter (fun r => r.rkey != rkey)
    withdrawn := if c.withdrawn.contains rkey then c.withdrawn else c.withdrawn ++ [rkey] })).settleWithdrawn slot rkey

/-- REGION_WD_DONE: the last access is over (R204). -/
def execRegionWdDone (t slot rkey : Nat) (s : State) : Host.Outcome State Fault Refusal := .next ((s.at_ t).settleWithdrawn slot rkey)

end Sys2Proof.Machine
end

