-- ==== Sys2Proof/Machine/Rings.lean ====
section
/-! DEFINITION. BELLs, doorbells, fetched descriptors: validation, duplicates, tracked requests (08_rings.md, R153-R162, R179,
R180, R182). -/
namespace Sys2Proof.Machine

/-! ### BELLs and local rings -/

/-- Execute a BELL (R157): in state 4 it is acknowledged and not recorded (R198). -/
def State.runBell (s : State) (slot msg epoch : Nat) (marked : Bool) (payload : Bytes) : State :=
  let b := parseBell payload
  let s1 := (s.msgDone slot msg .ok).wakeUp
  match s1.conn? slot with
  | none => s1
  | some c => if c.state = 3 then s1.ringBell (.partner slot b.ring) b.pi b.resync marked epoch else s1

/-- Check 9 and execution of a BELL; a release BELL waits (R201, R246). -/
def State.deliverBell (s : State) (x : RxPkt) : State :=
  match s.conn? x.slot with
  | none => s
  | some c =>
    if (c.rxMsg? x.h.msg).isSome then s
    else if !s.inService c.entry.ctx then s.answerNak x 0x0A
    else if x.h.isRelease && c.mustWait x.h.msg then s.holdMsg x
    else s.runBell x.slot x.h.msg x.h.epoch x.marked x.p.payload

/-- BELL received (R156, R157). -/
def execBell (t : Nat) (p : Pkt) (s : State) : Host.Outcome State Fault Refusal :=
  .next ((s.at_ t).receive p [8] State.deliverBell)

/-- RING_DB_WRITE: a doorbell of a local ring is a BELL (R159). -/
def execRingDbWrite (t n : Nat) (v : Word) (s : State) : Host.Outcome State Fault Refusal :=
  if !s.ready then .next (s.at_ t) else
  let s := (s.at_ t).wakeUp
  .next (s.ringBell (.localRing n) (fieldOf F.RING_DB.PI v) false false s.comp.epoch)

/-- Write the plain fields of RING_LCTL, which ignore writes while EN is 1 (Table 8.14), and EN. -/
def State.writeLctl (s : State) (n : Nat) (v : Word) (en : Nat) : State :=
  let off := F.RING_LCTL.EN.at_ n
  let old := getReg s.regs off
  let new := if s.rd F.RING_LCTL.EN n = 1 then old else regWritten false off old v
  s.writeNow off (withField F.RING_LCTL.EN new en)

/-- RING_ENABLE: writing EN = 1 while EN is 0 starts the ring anew; while EN is 1 it has no effect (Table 8.14). -/
def execRingEnable (t n : Nat) (v : Word) (s : State) : Host.Outcome State Fault Refusal :=
  if !s.ready || 16 ≤ n then .next (s.at_ t) else
  let s := (s.at_ t).wakeUp
  if s.rd F.RING_LCTL.EN n = 1 then .next s
  else
    let fresh : LocalRing := ⟨{ RingState.off with rstate := 0 }, ⟨s.nextOrder, none, []⟩⟩
    let s1 := s.writeLctl n v 1
    .next (({ s1 with locals := mset s1.locals n fresh } : State).writeRingStatus (.localRing n))

/-- RING_DISABLE: writing EN = 0 stops fetching (Table 8.14). -/
def execRingDisable (t n : Nat) (v : Word) (s : State) : Host.Outcome State Fault Refusal :=
  if !s.ready || 16 ≤ n then .next (s.at_ t) else
  let s := (s.at_ t).wakeUp
  if s.rd F.RING_LCTL.EN n = 0 then .next (s.writeLctl n v 0)
  else
    let s1 := (s.writeLctl n v 0).modRing (.localRing n) (fun r => { r with fetches := [], ready := [] })
    .next (s1.setRstate (.localRing n) 3)

/-! ### Validation -/

/-- Whether a connection's advertised regions hold a key with a right (R204). -/
def Conn.hasKey (c : Conn) (rkey right : Nat) : Bool := c.regions.any (fun r => r.rkey == rkey && bit r.rights right)

/-- Bytes a descriptor reads from QUERY_ADDR (R45, R164, R171): of an IMPORT's parcels, whose sizes lie in them, what they take at least, in
the tightest format R171 admits. -/
def Desc.queryBytes (d : Desc) (p : Profile) : Nat :=
  match d.opcode with
  | 1 => d.qpos * d.rowsPerPos p.attn * p.attn.din * 2
  | 2 => d.tokenSpan * d.rowsPerPos p.attn * p.attn.din * 2
  | 3 => d.sourceBytes p.attn
  | 10 => importCount p.attn d.tokenSpan * parcelSize p.attn p.ladder.floor
  | _ => 0

/-- Bytes a descriptor writes from RESULT_ADDR on: records, cairn and trail, parcels, report (R46, R47, R170, R173, R271). -/
def State.resultBytes (s : State) (ctx : Nat) (d : Desc) (p : Profile) : Nat :=
  match d.opcode with
  | 9 => match s.conv? ctx d.conv with
    | some c => s.exportSize ctx p.attn (exportEntries p.attn d c)
    | none => 0
  | 12 => 64 + 32 * (namedHeads p.attn d).length
  | _ =>
    if d.isAttend then
      let rec_ := d.positions * d.rowsPerPos p.attn * recordSize p.attn d.skip
      if d.cairn then
        ceilDiv (d.resultAddr + rec_) 64 * 64 - d.resultAddr + 64 +
          (if p.cls.trail && d.opcode == 1 && decide (1 < s.nc) then 128 * s.nc else 0)
      else rec_
    else 0

/-- Whether a status word can be written for a descriptor (R162). -/
def State.statusReachable (s : State) (ring : RingRef) (d : Desc) : Bool :=
  d.statusAddr % 8 == 0 && (match ring with
    | .localRing _ => true
    | .partner slot _ => match s.conn? slot with
      | some c => c.regionCovers d.resultRkey d.statusAddr 8 1
      | none => false)

/-- Whether an opcode uses QUERY_ADDR, or RESULT_ADDR (Table 8.5). -/
def usesQuery (op : Nat) : Bool := [1, 2, 3, 10].contains op
def usesResult (op : Nat) : Bool := [1, 2, 9, 12].contains op

/-- Step 4 of R161: alignment, keys, rights and bounds. -/
def State.bufferCode (s : State) (ring : RingRef) (ctx : Nat) (p : Profile) (d : Desc) : Nat :=
  if (usesQuery d.opcode && d.queryAddr % 64 != 0) || (usesResult d.opcode && d.resultAddr % 64 != 0) || d.statusAddr % 8 != 0 then cAlign
  else match ring with
    | .localRing _ => if (d.opcode != 5 && d.queryRkey != 0) || d.resultRkey != 0 then cRegionKey else 0
    | .partner slot _ => match s.conn? slot with
      | none => cRegionKey
      | some c =>
        let q := d.queryBytes p
        if !c.hasKey d.resultRkey 1 then cRegionKey
        else if usesQuery d.opcode && (!c.hasKey d.queryRkey 0 || !c.regionCovers d.queryRkey d.queryAddr q 0) then cRegionKey
        else if usesResult d.opcode && !c.regionCovers d.resultRkey d.resultAddr (s.resultBytes ctx d p) 1 then cResultBounds
        else if !c.regionCovers d.resultRkey d.statusAddr 8 1 then cResultBounds
        else 0

/-- Step 5 of R161: the shape limits of Table 3.7, R164 and R173. -/
def shapeCode (a : AttnProfile) (d : Desc) : Nat :=
  let heads := decide (a.layers ≤ d.layer) || d.kvhCount == 0 || decide (a.kvheads < d.kvhFirst + d.kvhCount)
  let bad := match d.opcode with
    | 1 => heads || d.qgroup != a.group || d.qpos == 0 || decide (64 < d.qpos)
    | 2 => heads || d.qgroup != a.group
    | 3 => heads || (a.latent && d.kvhCount != 1)
    | 9 => !namesOk a d
    | 12 => !namesOk a d
    | _ => false
  if bad then cShape else 0

/-- Step 6 of R161: the program slot (R79). -/
def State.modifierCode (s : State) (ctx : Nat) (d : Desc) : Nat :=
  if !d.isAttend || d.modifier = 0xFFFF then 0
  else if 64 ≤ d.modifier || ((s.ctx ctx).prog d.modifier).image.isNone then cModifier
  else 0

/-- Step 8 of R161 (R50, R65), as far as it needs no conversation, and the HINT_OP values (R169). -/
def flagCode (d : Desc) : Nat :=
  if d.opcode = 1 && d.normalize && d.tokenFirst != 0 then cNormalizeSpan
  else if d.isAttend && d.skip && d.modifier != 0xFFFF then cSkipModifier
  else if d.opcode = 8 && !(1 ≤ d.qgroup && d.qgroup ≤ 3) then cHintOp
  else 0

/-- The first non-zero code of a list. -/
def firstCode : List Nat → Nat
  | [] => 0
  | c :: cs => if c = 0 then firstCode cs else c

/-- Steps 1 to 6 and 8 of R161, made when a descriptor is fetched. -/
def State.fetchCode (s : State) (ring : RingRef) (ctx : Nat) (d : Desc) : Nat :=
  if descReserved d || (d.opcode == 11 && decide (2 < d.qgroup)) then cReservedField
  else if d.opcode = 0 || 12 < d.opcode then cOpcode
  else match s.inService ctx, (s.ctx ctx).profile with
    | true, some p => firstCode [s.bufferCode ring ctx p d, shapeCode p.attn d, s.modifierCode ctx d, flagCode d]
    | _, _ => cContext

/-! ### Duplicates -/

/-- Whether two rings share a duplicate window (R179): one connection, or one local ring. -/
def sameWindow : RingRef → RingRef → Bool
  | .partner a _, .partner b _ => a == b
  | .localRing a, .localRing b => a == b
  | _, _ => false

/-- Whether a retry of a descriptor may not run again (R180). -/
def nonIdempotent (d : Desc) : Bool := [3, 5, 6, 7, 10].contains d.opcode || (d.opcode == 11 && d.qgroup != 0)

/-- What R179 says of a fetched descriptor. -/
inductive DupUse where
  | fresh (horizon : Bool)
  | joins (id : Nat)
  | replays (w : Word)
  | conflict
  | expired
deriving DecidableEq, Repr

/-- R179 and R180. -/
def State.dupUse (s : State) (ring : RingRef) (d : Desc) (raw : Bytes) : DupUse :=
  let w := s.dedup ring
  match w.horizon with
  | none => .fresh true
  | some h =>
    let δ := tagDelta h d.tag
    if 32768 ≤ δ then .fresh true
    else if δ < 1024 then
      match s.reqs.find? (fun r => sameWindow r.ring ring && decide (w.since ≤ r.order) && r.desc.tag == d.tag) with
      | some r => if r.raw = raw then .joins r.id else .conflict
      | none => match w.cache.find? (fun e => e.1 == d.tag) with
        | some e => if e.2.1 = raw then .replays e.2.2 else .conflict
        | none => .fresh false
    else if nonIdempotent d then .expired
    else .fresh false

/-! ### Tracked requests -/

/-- Tracked-request slots in use (R182, RING_TRACK). -/
def State.trackUsed (s : State) : Nat := s.reqs.length + s.peerPlaces

/-- Lowest free tracked-request index. -/
def State.freeReqId (s : State) : Nat :=
  ((List.range (s.reqs.length + 1)).find? (fun i => !s.reqs.any (fun r => r.id == i))).getD s.reqs.length

/-- Class one lower, of a marked request (R232). -/
def lowerClass : Cls → Cls
  | .c0 => .c1 | .c1 => .c2 | .c2 => .c3 | .c3 => .c3

/-- Whether FENCE_BEFORE is set on a descriptor that may carry it (Table 8.5). -/
def Desc.fencesBefore (d : Desc) : Bool := d.fenceBefore && d.opcode != 11

/-- The fetch order below which requests must be over (R172): the last mode-0 FENCE or FENCE_BEFORE of the ring, its own among them. -/
def State.fenceOf (s : State) (ring : RingRef) (d : Desc) : Option Nat :=
  let f := if d.fencesBefore then s.nextOrder else (s.ring ring).fence
  if f = 0 then none else some f

/-- What a descriptor leaves for those that follow it in its ring (R172). -/
def State.noteFence (s : State) (r : Req) (code : Nat) : State :=
  if code = 0 && r.desc.opcode = 11 && r.desc.qgroup = 0 then s.modRing r.ring (fun x => { x with fence := r.order + 1 })
  else if r.desc.fencesBefore then s.modRing r.ring (fun x => { x with fence := r.order })
  else s

/-- A tracked request of a fetched descriptor. -/
def State.newReq (s : State) (ring : RingRef) (d : Desc) (raw : Bytes) (marked : Bool) (epoch : Nat) : Req :=
  let c := s.ringConf ring
  { id := s.freeReqId, seq := s.nextSeq % 65536, ctx := c.ctx, home := 0, ring := ring, order := s.nextOrder, desc := d, raw := raw
    fetchedAt := s.now, cls := if marked then lowerClass (clsOfNum c.cls) else clsOfNum c.cls, marked := marked, epoch := epoch
    operands := [], admittedAt := none, waited := 0, wrote1 := false, wrote2 := false, progress := 0, n := 0, profile := none
    image := none, nc := s.nc, fence := s.fenceOf ring d, startedBlocks := [], doneBlocks := [], leaves := [], shares := []
    skipBlocks := [], reported := 0, demotions := [], demoted := 0, effectDone := false, journalWait := [], silent := false
    joined := 0, state3At := none, placedBlocks := 0, cancelledBy := none, askedHolders := [], leavesSent := [] }

/-- Enter a request among the tracked ones. -/
def State.track (s : State) (r : Req) : State :=
  let s1 : State := { s with reqs := s.reqs ++ [r], nextOrder := s.nextOrder + 1, nextSeq := s.nextSeq + 1 }
  s1.peak F.RING_TRACK.PEAK s1.trackUsed

/-- Write a status word of a descriptor that is no tracked request (R180, R179). -/
def State.loneStatus (s : State) (r : Req) (st code : Nat) : State := s.status r st code 0

/-- Issue the operand reads of a request just fetched: query blocks 0 to 3, an APPEND's source, the parcels of an IMPORT as far as their
least size goes (R60, R164, R171). -/
def State.readOperands (s : State) (r : Req) : State :=
  match (s.ctx r.ctx).profile with
  | none => s
  | some p =>
    if r.desc.isAttend then (List.range 4).foldl (fun s b => s.readBlock r p.attn b) s
    else if r.desc.opcode = 3 then
      s.readIn (ringDest r.ring) (.operand r.order 0) r.desc.queryRkey r.desc.queryAddr (r.sourceBytes p.attn) (clsNum r.cls)
    else if r.desc.opcode = 10 then
      s.readIn (ringDest r.ring) (.operand r.order 0) r.desc.queryRkey r.desc.queryAddr (r.desc.queryBytes p) (clsNum r.cls)
    else s

/-- Set the tag horizon and drop what leaves the completion cache (R179). -/
def State.setHorizon (s : State) (ring : RingRef) (tag : Nat) : State :=
  s.modDedup ring (fun d => { d with horizon := some tag, cache := d.cache.filter (fun e => decide (tagDelta tag e.1 < 1024)) })

/-- Run a new descriptor as a request: an error of validation ends it at once with PROGRESS 0 (R161). -/
def State.startReq (s : State) (r : Req) (code : Nat) : State :=
  let s1 := (s.track r).noteFence r code
  if code != 0 then s1.finish r.id 5 code 0 else s1.readOperands r

/-- A descriptor that is no tracked request takes its place in the fetch order too: a status word of its own is told from others by it
(R162). -/
def State.lone (s : State) : State := { s with nextOrder := s.nextOrder + 1 }

/-- Pass one fetched descriptor on (R158, R161, R162, R179, R180). -/
def State.passEntry (s : State) (ring : RingRef) (raw : Bytes) (marked : Bool) (epoch : Nat) : State :=
  let d := parseDesc raw
  let c := s.ringConf ring
  let code := s.fetchCode ring c.ctx d
  let dup := s.dupUse ring d raw
  let s1 := match dup with
    | .fresh true => s.setHorizon ring d.tag
    | _ => s
  if !s.statusReachable ring d then s1.lastCode ring code
  else
    let r := s1.newReq ring d raw marked epoch
    match dup with
    | .fresh _ => s1.startReq r code
    | .joins id => (s1.bump F.RING_EVENTS.DUP_JOINED).modReq id (fun q => { q with joined := q.joined + 1 })
    | .replays w =>
      let n := w.toNat
      ((s1.bump F.RING_EVENTS.DUP_REPLAYED).status r (bits n 63 60) (bits n 59 48) (bits n 31 0)).lone
    | .conflict => (s1.loneStatus r 5 cTagConflict).lone
    | .expired => ((s1.bump F.RING_EVENTS.DUP_EXPIRED).loneStatus r 5 cDupExpired).lone

/-! ### Fetched descriptors -/

/-- Mark and epoch of an entry: those of the first BELL that made it fetchable (R216, R231). -/
def RingState.bellOf (r : RingState) (index : Nat) : Bool × Nat :=
  match r.bells.find? (fun b => decide (1 ≤ (b.1 + 2 ^ 32 - index) % 2 ^ 32) && decide ((b.1 + 2 ^ 32 - index) % 2 ^ 32 < 2 ^ 31)) with
  | some b => b.2
  | none => (false, 0)

/-- The entry at CONSUMER has been passed: CONSUMER, its fetch and the BELLs behind it move on. -/
def RingState.advance (r : RingState) : RingState :=
  let i := r.consumer
  let next := (i + 1) % 2 ^ 32
  { r with consumer := next, ready := mdel r.ready i
           fetches := (r.fetches.map (fun f => if f.first = i then { f with first := next, count := f.count - 1 } else f)).filter
             (fun f => f.count != 0)
           bells := r.bells.filter (fun b => b.1 != next) }

/-- Pass what lies at CONSUMER, in order, as far as it has been fetched (R158). -/
def State.passReady (s : State) (ring : RingRef) : Nat → State
  | 0 => s
  | n + 1 =>
    let r := s.ring ring
    match mget r.ready r.consumer with
    | none => s
    | some raw =>
      let (marked, epoch) := r.bellOf r.consumer
      ((s.modRing ring RingState.advance).passEntry ring raw marked epoch).passReady ring n

/-- Whether an index lies in a fetch in flight. -/
def RingState.fetching (r : RingState) (index : Nat) : Bool :=
  r.fetches.any (fun f => decide ((index + 2 ^ 32 - f.first) % 2 ^ 32 < f.count))

/-- DESCRIPTOR_FETCHED: an entry has been copied into the node; entries pass in ring order, then the ring status word goes out and
further fetches are issued (R155, R158). -/
def execDescriptorFetched (t : Nat) (ring : RingRef) (index : Nat) (entry : Bytes) (s : State) : Host.Outcome State Fault Refusal :=
  let s := s.at_ t
  let r := s.ring ring
  if r.rstate = 3 || !r.fetching index || mhas r.ready index || entry.length != 64 then .next s
  else
    let s1 := (s.modRing ring (fun r => { r with ready := mset r.ready index entry })).passReady ring 65536
    let moved := (s1.ring ring).consumer != r.consumer
    .next ((if moved then s1.writeRingStatus ring else s1).issueFetches)

end Sys2Proof.Machine
end

