-- ==== Sys2Proof/Machine/Peers.lean ====
section
/-! DEFINITION. Sub-requests, node partials and forwarded leaves, at the home and at a peer (13_fabric.md, R284, R286, R299,
R300, Tables 13.3 to 13.5; 07_tiers_placement.md, R126-R128; 12_integrity.md, R270, R271; 01_node_at_a_glance.md, R18). -/
namespace Sys2Proof.Machine

/-! ### Tasks of a block -/

/-- Whether tasks of a block are still in the itinerary. -/
def State.blockBusy (s : State) (key b : Nat) : Bool := s.anyTask key (fun k => k.block? == some b)

/-- Whether tasks that scan a block's pages here, or ready its rows, are still in the itinerary. -/
def State.scanBusy (s : State) (key b : Nat) : Bool := s.anyTask key (fun k => k.block? == some b && (match k with
  | .project _ _ _ _ => true
  | .rotate _ _ _ _ => true
  | .bound _ _ _ _ _ => true
  | .page _ _ _ _ _ _ _ => true
  | _ => false))

/-! ### The home's sub-requests -/

/-- Stripe position at which a member stands in a request (R126). -/
def posOf (home member nc : Nat) : Nat := if nc = 0 then 0 else (member + nc - home % nc) % nc

/-- Members that hold pages of a request's key range and are not its share nodes (R128). -/
def State.holdersOnly (s : State) (r : Req) (p : Profile) (c : Conv) : List Nat :=
  let (kf, ke) := keyRange r.desc r.n
  let shares := (r.positions p).map (fun pos => memberOf r.home pos r.nc)
  let ms := r.desc.heads.flatMap (fun hk => ((c.headEntries hk (pagesOf ke)).filter (fun e => decide (kf < (e.1 + 1) * 128))).map
    (fun e => e.2.member))
  (ms.eraseDups).filter (fun m => !s.ownsSlot m && !shares.contains m)

/-- PLACEMENT of a SUBREQ: SHA-512 of P_STRIPE_MIN and P_TAIL as the profile holds them (R127, Table 13.4). -/
def placementDigest (p : Profile) : Bytes := sha512 (slice p.raw 0x60 5)

/-- The SUBREQ of a position for a block (Table 13.4). -/
def subBodyOf (r : Req) (p : Profile) (pos b : Nat) (rows : List QRow) (backup : Bool) : SubBody :=
  let (kf, ke) := keyRange r.desc r.n
  { hreq := r.hreq, nc := r.nc, pos := pos, cls := clsNum r.cls, homeSlot := r.home, opcode := r.desc.opcode
    flags := (r.desc.flags &&& 0x3E) + (if backup then 128 else 0), conv := r.desc.conv, layer := r.desc.layer
    kvhFirst := r.desc.kvhFirst, kvhCount := r.desc.kvhCount, qgroup := r.desc.qgroup
    qpos := if r.desc.opcode = 1 then r.desc.qpos else 0, modifier := r.desc.modifier, keyFirst := kf, keyEnd := ke
    queryFirst := r.desc.blockFirst b r.n, queryCount := r.desc.blockPositions b
    skipTheta := if r.desc.skip then r.desc.skipTheta else 0, block := if r.desc.opcode = 2 then b else 0, length := r.n
    program := match r.image with | some i => i.digest | none => List.replicate 64 0
    placement := placementDigest p, rows := rowsBytes rows }

/-- Whether backups are sent for a request: BACKUP_EN, no storm, exact mode (R300). -/
def State.backsUp (s : State) (r : Req) : Bool :=
  s.lv F.NET_SUSPECT.BACKUP_EN == 1 && !s.comp.storm && (s.ctx r.ctx).fMode == 2

/-- A sub-request takes a place among those reserved for peers (R18, R182). -/
def State.addSub (s : State) (ctx : Nat) (slot : Option Nat) (epoch : Nat) (body : Bytes) : State :=
  let b := parseSub body
  let used := s.comp.subs.map SubReq.id
  let id := 65536 + ((List.range (used.length + 1)).find? (fun i => !used.contains (65536 + i))).getD used.length
  let q : SubReq :=
    { id := id, ctx := ctx, slot := slot, hreq := b.hreq, homeSlot := b.homeSlot, nc := b.nc, pos := b.pos, block := b.block
      arrived := s.now, admittedAt := none, epoch := epoch, body := body, leaves := [], leavesSent := false, skipReady := false
      profile := none, image := none }
  let s1 : State := { s with comp := { s.comp with subs := s.comp.subs ++ [q] } }
  s1.peak F.RING_TRACK.PEAK s1.trackUsed

/-- Send a backup SUBREQ for a suspect slot to the node that holds its buddy, which may be this home itself (R300). -/
def State.sendBackup (s : State) (r : Req) (p : Profile) (x : PeerShare) (rows : List QRow) : State :=
  let body := subBytes (subBodyOf r p x.pos x.block rows true)
  let sent (s : State) : State := (s.bump F.NET_SUSPECT_STAT.BACKUPS).modReq r.id (fun q => { q with shares := q.shares.map (fun y =>
    if y.block = x.block && y.pos = x.pos then { y with lastBackup := true } else y) })
  if !s.backsUp r || !s.comp.suspects.contains x.member then s
  else match s.buddyOf x.member with
    | none => s
    | some b =>
      if s.ownsSlot b then sent (s.addSub r.ctx none r.epoch body)
      else match s.peerConn r.ctx b with
        | none => s
        | some k => sent (s.sendSend k (.peer 1) 1 body (clsNum r.cls))

/-- Send the SUBREQ of one share, when there is an open connection to its node. -/
def State.sendShare (s : State) (r : Req) (p : Profile) (x : PeerShare) (rows : List QRow) : State :=
  match s.connAt r.epoch r.ctx x.member with
  | none => s
  | some k =>
    let s1 := s.sendSend k (.peer 1) 1 (subBytes (subBodyOf r p x.pos x.block rows false)) (clsNum r.cls)
    (s1.modReq r.id (fun q => { q with shares := q.shares.map (fun y =>
      if y.block = x.block && y.pos = x.pos then { y with sent := true } else y) })).sendBackup r p x rows

/-- Ask the members that only hold pages of the key range, once a block (R128). -/
def State.askHolders (s : State) (r : Req) (p : Profile) (c : Conv) (b : Nat) (rows : List QRow) : State :=
  if r.askedHolders.contains b then s
  else
    ((s.holdersOnly r p c).foldl (fun s m => match s.peerConn r.ctx m with
      | none => s
      | some k => s.sendSend k (.peer 1) 1 (subBytes (subBodyOf r p (posOf r.home m r.nc) b rows false)) (clsNum r.cls)) s).modReq r.id
        (fun q => { q with askedHolders := q.askedHolders ++ [b] })

/-- Send the sub-requests a block still owes, once its query rows are rotated (R18, R128). -/
def State.sendSubs (s : State) (id b : Nat) : State :=
  match s.req? id with
  | none => s
  | some r =>
    match r.profile, s.conv? r.ctx r.desc.conv with
    | some p, some c =>
      if !r.desc.isAttend || r.admittedAt.isNone || r.placedBlocks ≤ b || r.doneBlocks.contains b || s.comp.isolated then s
      else match s.blockRows r p b with
        | none => s
        | some rows =>
          let s1 := s.openShares r p b
          match s1.req? id with
          | none => s1
          | some q =>
            let due := q.shares.filter (fun x => x.block == b && !x.sent && x.rows.isNone && !s.ownsAt q.epoch x.member)
            (due.foldl (fun s x => s.sendShare q p x rows) s1).askHolders q p c b rows
    | _, _ => s

/-- Sub-requests of every placed block of a request. -/
def State.sendSubsOf (s : State) (id : Nat) : State :=
  match s.req? id with
  | none => s
  | some r => (List.range r.placedBlocks).foldl (fun s b => s.sendSubs id b) s

/-! ### Forwarded leaves -/

/-- Rows of one head. -/
def headRowsOf (rows : List QRow) (head : Nat) : List QRow := rows.filter (fun r => r.kvh == head)

/-- The partials of a page for the rows of its head; none for SCORE_RANGE. -/
def pageRows (e : ScoreEnv) (rows : List QRow) (p : Page) : Option (List Partial) :=
  collect ((headRowsOf rows p.head).map (fun r => if pageTouched e r p then pagePartial e r p else some (emptyPartial e.attn.dv)))

/-- A LEAF of a page (Table 13.3): STATUS 4 for a corrupt page, 6 for a score out of range. -/
def leafOf (e : ScoreEnv) (hreq homeSlot block : Nat) (skip : Bool) (rows : List QRow) (p : Page) (leaf : Bytes) : LeafBody :=
  let l := if pageBad p then none else pageRows e rows p
  let status := if pageBad p then 4 else if l.isNone then 6 else 0
  let ps := l.getD []
  let data := partialsBytes skip ps
  { hreq := hreq, homeSlot := homeSlot, block := block, page := p.index, head := p.head, status := status, rows := ps.length
    leaf := leaf, digest := sha512 data, data := data }

/-- Leaf value a page has in a request that sees `n` tokens (R263, R267). -/
def leafAt (a : AttnProfile) (p : Page) (n : Nat) : Bytes :=
  if n % 128 != 0 && p.index == n / 128 && decide (n - 128 * p.index < p.fill) then
    pageChain a p.layer p.head p.index p.format (n - 128 * p.index) p.pebbles
  else p.leaf

/-- Send one LEAF to the node of a slot; it counts in TIER_MOVES.FORWARDED (R128). -/
def State.sendLeaf (s : State) (epoch ctx slot cls : Nat) (l : LeafBody) : State :=
  match s.connAt epoch ctx slot with
  | none => s
  | some k => (s.bump F.TIER_MOVES.FORWARDED).sendSend k (.peer 3) 3 (leafBytes l) cls

/-- STATUS of a share or leaf that fails (Table 13.5). -/
def shareStatus (code : Nat) : Nat := if code = cTruncated then 7 else if code = cPageCorrupt then 4 else if code = cScoreRange then 6 else 5

/-- A LEAF that reports a failure in place of rows (Table 13.3, R286). -/
def leafFailed (hreq homeSlot block head page status : Nat) : LeafBody :=
  { hreq := hreq, homeSlot := homeSlot, block := block, page := page, head := head, status := status, rows := 0
    leaf := List.replicate 32 0, digest := sha512 [], data := [] }

/-- A page of a key range that another node's share needs: the share's slot, head key, index, and how this node finds the page. -/
structure AwayPage where
  slot : Nat
  hk : Nat
  index : Nat
  found : PageFind

/-- Pages of a key range of `n` tokens that other nodes' shares need (R126, R128). -/
def awayPages (heads : List Nat) (kf ke n nc home : Nat) (own : Nat → Bool) (pl : PlaceProfile) (find : Nat → Nat → PageFind) :
    List AwayPage :=
  if kf < ke then
    heads.flatMap (fun hk => (span (kf / 128) (pagesOf ke)).filterMap (fun i =>
      let slot := memberOf home (stripePos i (pagesOf n) nc pl) nc
      if own slot then none else some ⟨slot, hk, i, find hk i⟩))
  else []

/-- Of those, the ones this node holds. -/
def leavesDue (l : List AwayPage) : List (Nat × Page) :=
  l.filterMap (fun x => match x.found with | .here _ p => some (x.slot, p) | _ => none)

/-- Of those, the ones this node knows it cannot give although a row reads them, with the code (R54, R128, R297). -/
def leavesLost (e : ScoreEnv) (rows : List QRow) (n : Nat) (l : List AwayPage) : List (AwayPage × Nat) :=
  let reads (x : AwayPage) : Bool := rows.any (fun r => r.kvh == x.hk % 128 && spanAllowed e r.pos (128 * x.index) (min 128 (n - 128 * x.index)))
  l.filterMap (fun x => match x.found with
    | .lost code => if reads x then some (x, code) else none
    | .noHost => if reads x then some (x, cTierUnavailable) else none
    | _ => none)

/-- Whether one of them is not to be read yet: it is in bedrock, or its demotion runs (R150, R96). -/
def leavesParked (l : List AwayPage) : Bool := l.any (fun x => match x.found with | .parked => true | _ => false)

/-- The home sends the leaves of pages it holds for other share nodes, once a block and when all of them can be read (R128). -/
def State.homeLeaves (s : State) (id b : Nat) : State :=
  match s.req? id with
  | none => s
  | some r =>
    match r.profile, s.conv? r.ctx r.desc.conv with
    | some p, some c =>
      if r.leavesSent.contains b || r.nc ≤ 1 then s
      else match s.blockRows r p b with
        | none => s
        | some rows =>
          let (kf, ke) := keyRange r.desc r.n
          let away := awayPages r.desc.heads kf ke r.n r.nc r.home (s.ownsAt r.epoch) p.place (s.findHome r.ctx c)
          match leavesLost (r.env p) rows r.n away with
          | x :: _ => s.failReq id x.2 r.progress
          | [] =>
            if leavesParked away then s else
            ((leavesDue away).foldl (fun s x => s.sendLeaf r.epoch r.ctx x.1 (clsNum r.cls)
              (leafOf (r.env p) r.hreq r.home b r.desc.skip rows x.2 (leafAt p.attn x.2 r.n))) s).modReq id
                (fun q => { q with leavesSent := q.leavesSent ++ [b] })
    | _, _ => s

/-- Go on with a block: leaves for other nodes go once the pages here are scanned (R128), the home's shares and the merge follow when the
merges and the continuation have run (R33, R54). -/
def State.advanceBlock (s : State) (id b : Nat) : State :=
  if s.scanBusy id b then s
  else
    let s1 := s.homeLeaves id b
    if s1.blockBusy id b then s1 else s1.runBlock id b

/-! ### A peer's share -/

/-- Head keys a sub-request names. -/
def SubBody.heads (b : SubBody) : List Nat := (span b.kvhFirst (b.kvhFirst + b.kvhCount)).map (headKey b.layer)

/-- The share a sub-request asks for. -/
def State.subJob (s : State) (q : SubReq) (p : Profile) : ShareJob :=
  let b := parseSub q.body
  { env := s.subEnv q p, rows := subRows b p.attn, conv := b.conv, n := b.length, nc := b.nc, pos := b.pos, block := b.block
    theta := if b.skip then some b.skipTheta else none, relaxed := b.relaxed, place := p.place, leaves := q.leaves }

/-- Share root of a head at a peer, from the records held here and the leaves forwarded to it (R265, R270). -/
def State.subShareRoot (s : State) (q : SubReq) (p : Profile) (hk : Nat) : Bytes :=
  let b := parseSub q.body
  let n := pagesOf b.length
  treeHash (((List.range n).filter (fun i => stripePos i n b.nc p.place == b.pos)).filterMap (fun i =>
    match s.findSub q hk i with
    | .here _ pg => some (leafAt p.attn pg b.length)
    | _ => (q.leaves.find? (fun l => headKey b.layer l.head == hk && l.page == i)).map Leaf.leaf))

/-- Contribution cairn of a sub-request (R270). -/
def State.subCairn (s : State) (q : SubReq) (p : Profile) : Bytes :=
  let b := parseSub q.body
  let d : Desc :=
    { parseDesc [] with opcode := b.opcode, flags := b.flags, layer := b.layer, kvhFirst := b.kvhFirst, kvhCount := b.kvhCount
                        qgroup := b.qgroup, qpos := b.qpos, skipTheta := b.skipTheta }
  let root := treeHash (b.heads.map (s.subShareRoot q p))
  sha512 (cairnPreimage 1 b.pos b.nc d b.keyFirst b.keyEnd b.queryFirst b.queryCount s.sec.kernel b.program
    ((s.ctx q.ctx).geode p).digest (sha512 (p.raw.take 64)) (sha512 b.rows) root)

/-- Return a PARTIAL and end the sub-request (Table 13.5). An isolated node sends none (R293). The partial of a backup this home has run
itself stays here; one that has failed is discarded (R300). -/
def State.sendPartial (s : State) (q : SubReq) (status : Nat) (cairn : Bytes) (skip : Bool) (rows : List Partial) : State :=
  let b := parseSub q.body
  let data := if status = 0 then partialsBytes skip rows else []
  let body : PartBody :=
    { hreq := q.hreq, pos := q.pos, block := q.block, status := status, flags := b2n b.backup, rows := if status = 0 then rows.length else 0
      cairn := cairn, digest := sha512 data, data := data }
  let s1 : State := { (s.dropTasks (fun t => t.req == some q.id)) with
    comp := { s.comp with subs := s.comp.subs.filter (fun x => x.id != q.id) } }
  let s2 := (s1.dropHeldAssays q.id).settleRetiring
  match q.slot with
  | none => if status = 0 then { s2 with comp := { s2.comp with selfParts := s2.comp.selfParts ++ [partBytes body] } } else s2
  | some k => if s.comp.isolated then s2 else s2.sendSend k (.peer 2) 2 (partBytes body) b.cls

/-- Leaves a sub-request's node owes to other share nodes go out once, when all of them can be read (R128). -/
def State.subLeaves (s : State) (q : SubReq) (p : Profile) : State :=
  let b := parseSub q.body
  if q.leavesSent || b.backup then s
  else
    let ctx := q.ctx
    let e := s.subEnv q p
    let rows := subRows b p.attn
    let away := awayPages b.heads b.keyFirst b.keyEnd b.length b.nc b.homeSlot (s.ownsAt q.epoch) p.place (s.findPeer ctx b.conv)
    if leavesParked away then s else
    let s1 := (leavesDue away).foldl (fun s x => s.sendLeaf q.epoch ctx x.1 b.cls
      (leafOf e b.hreq b.homeSlot b.block b.skip rows x.2 (leafAt p.attn x.2 b.length))) s
    let s2 := (leavesLost e rows b.length away).foldl (fun s x => s.sendLeaf q.epoch ctx x.1.slot b.cls
      (leafFailed b.hreq b.homeSlot b.block (x.1.hk % 128) x.1.index (shareStatus x.2))) s1
    { s2 with comp := { s2.comp with subs := lmod s2.comp.subs (fun x => x.id == q.id) (fun x => { x with leavesSent := true }) } }

/-- Run an admitted sub-request whose tasks are done, as far as it can go (R54, R128, R278). -/
def State.runSubJob (s : State) (id : Nat) : State :=
  match s.sub? id with
  | none => s
  | some q =>
    match s.subProfile q with
    | none => s
    | some p =>
      if q.admittedAt.isNone || s.scanBusy id q.block then s
      else
        let s1 := s.subLeaves q p
        let b := parseSub q.body
        let owes := !b.backup && !((s1.sub? id).map SubReq.leavesSent).getD true
        if owes || s1.anyTask id (fun _ => true) then s1 else
        match (s1.subJob q p).run (s1.findSub q) with
        | .wait => s1
        | .fails code page =>
          let ctx := q.ctx
          let s2 := match page with
            | some x => if b.backup then s1 else
                s1.corrupt ctx x.2 (s1.badPebOf ctx x.2) (s1.scanUnit ctx x.2) { opcode := b.opcode, cls := b.cls, req := q.hreq }
            | none => s1
          s2.sendPartial q (shareStatus code) [] b.skip []
        | .rows l => if s1.assayHeld id q.block then s1 else s1.sendPartial q 0 (s1.subCairn q p) b.skip l

/-- Why an arriving sub-request is refused at its admission: STATUS 2, 3 or 7 (R81, R127, R282, R296). Where several hold the model reports
the first of them in that order (DESIGN CHOICE, notes/assumptions/34.md). -/
def State.subRefused (s : State) (q : SubReq) (p : Profile) : Nat :=
  let b := parseSub q.body
  let ctx := q.ctx
  let nc := if q.epoch = s.comp.epoch then s.nc else (match s.comp.previous with | some m => m.nodes.length | none => s.nc)
  if b.modifier != 0xFFFF && (s.subImage ctx b).isNone then 2
  else if b.placement != placementDigest p || b.nc != nc then 3
  else if (match s.conv? ctx b.conv with | some c => c.truncated.isSome | none => false) then 7
  else 0

/-- SUBREQ delivered (R18, R182). -/
def State.onSubreq (s : State) (slot epoch : Nat) (body : Bytes) : State :=
  s.addSub (s.connCtx slot) (some slot) epoch body

/-! ### Partials at the home -/

/-- The live request an HREQ names (R286). -/
def State.liveReq (s : State) (hreq : Nat) : Option Req :=
  s.reqs.find? (fun r => r.id == hreq % 65536 && r.seq % 65536 == hreq / 65536 && r.admittedAt.isSome)

/-- Code of the outcome that a STATUS names (R286, Table 13.5). -/
def statusCode (status : Nat) : Nat :=
  match status with
  | 1 => cAssayMismatch
  | 2 => cModifierMismatch
  | 3 => cPlacementMismatch
  | 4 => cPageCorrupt
  | 5 => cUnitFault
  | 6 => cScoreRange
  | _ => cTruncated

/-- Connection number of a slot's entry, and the member index of its peer (Table 9.7). -/
def State.connNumber (s : State) (slot : Nat) : Nat := match s.conn? slot with
  | some c => c.entry.conn
  | none => 0
def State.connMember (s : State) (slot : Nat) : Nat := match s.conn? slot with
  | some c => c.entry.member
  | none => 0

/-- A contribution that fails a step of R271 ends its request with UNIT_FAULT and an error record. -/
def State.badContribution (s : State) (r : Req) (slot step : Nat) : State :=
  (errRecord s .contribution .none
    { s.reqInfo r with conn := s.connNumber slot, location := s.connMember slot, detail := step }).failReq
    r.id cUnitFault r.progress

/-- Planned start of a block's continuation, in ps (R33, R299). -/
def State.continuationStart (s : State) (key b : Nat) : Option Nat :=
  let hit (t : Task) : Bool := t.req == some key && (match t.kind with | .continuation x _ _ => x == b | _ => false)
  (s.itin.units.findSome? (fun u => u.2.placed.find? hit)).map Task.planPs

/-- Count a partial of a slot, and a last arrival when it is the last of those from two or more other nodes and late (R299). -/
def State.noteArrivalOf (s : State) (r : Req) (member b : Nat) : State :=
  let others := r.shares.filter (fun x => x.block == b && !s.ownsAt r.epoch x.member)
  let nodes := (others.map (fun x => (s.mapOf r.epoch).map (fun m => lget m.nodes x.member []))).eraseDups
  let last := decide (2 ≤ nodes.length) && (others.filter (fun x => x.rows.isNone)).length ≤ 1 && (match s.continuationStart r.id b with
    | some t => decide (t < s.now * 1000)
    | none => false)
  let old := (mget s.comp.arrivals member).getD (0, 0)
  { s with comp := { s.comp with arrivals := mset s.comp.arrivals member (old.1 + b2n last, old.2 + 1) } }

/-- A PARTIAL of a context, from a connection or, with none, from this node's own backup (R54, R271, R286, R300). A refusal by a member that
only holds pages ends the request like any other (R81, R128). -/
def State.takePartial (s : State) (ctx : Nat) (conn : Option Nat) (body : Bytes) : State :=
  let slot := conn.getD 0
  let m := parsePart body
  match s.liveReq m.hreq with
  | none => s
  | some r =>
    match r.profile, s.conv? r.ctx r.desc.conv, r.shares.find? (fun x => x.block == m.block && x.pos == m.pos && x.rows.isNone) with
    | some p, some c, some x =>
      let backup := bit m.flags 0
      match s.blockRows r p m.block with
      | none => s
      | some rows =>
        if r.ctx != ctx || !x.sent || (backup && !x.lastBackup) then s
        else if m.status != 0 then
          if backup then s else s.failReq r.id (statusCode m.status) (if m.status = 7 then Config.freeNat s.free % 2 ^ 32 else r.progress)
        else
          let digestOk := sha512 m.data == m.digest && m.rows == rows.length &&
            m.data.length == m.rows * partialSize p.attn.dv r.desc.skip
          let cairnOk := s.expectCairn r p c m.pos m.block rows == m.cairn
          if backup && !(digestOk && cairnOk) then s
          else if !digestOk then s.badContribution r slot 1
          else if !cairnOk then s.badContribution r slot 2
          else
            let s1 := if backup then
                (s.bump F.NET_SUSPECT_STAT.BACKUP_WINS).modCtx r.ctx (fun y => { y with tccBackup := satAdd y.tccBackup 1 (2 ^ 32 - 1) })
              else s.noteArrivalOf r x.member m.block
            let s2 := s1.fillShare r.id m.block m.pos (partialsOfBytes p.attn.dv r.desc.skip m.rows m.data) m.cairn m.digest backup
            (s2.startAll).advanceBlock r.id m.block
    | some _, some _, none =>
      if m.status != 0 && r.ctx == ctx && r.askedHolders.contains m.block && !bit m.flags 0 then
        s.failReq r.id (statusCode m.status) r.progress
      else s
    | _, _, _ => s

/-- PARTIAL delivered (Table 13.5). -/
def State.onPartial (s : State) (slot : Nat) (body : Bytes) : State := s.takePartial (s.connCtx slot) (some slot) body

/-- The partials of backups that this home has run itself are taken like those of others (R300). -/
def State.takeSelfParts (s : State) : State :=
  let parts := s.comp.selfParts
  parts.foldl (fun s b => match s.liveReq (parsePart b).hreq with
    | some r => s.takePartial r.ctx none b
    | none => s) ({ s with comp := { s.comp with selfParts := [] } } : State)

/-- Run an admitted sub-request as far as it can go, and take what a backup run here has given. -/
def State.runSub (s : State) (id : Nat) : State := (s.runSubJob id).takeSelfParts

/-- LEAF delivered, at the home or at a share node (R128, R270, R286). -/
def State.onLeaf (s : State) (slot : Nat) (body : Bytes) : State :=
  let m := parseLeaf body
  let ctx := s.connCtx slot
  let rowsFor (p : Option Profile) (skip : Bool) : Leaf :=
    ⟨m.block, m.head, m.page, 0, partialsOfBytes ((p.map (fun x => x.attn.dv)).getD 0) skip m.rows m.data, m.leaf⟩
  let own := s.ownsSlot m.homeSlot
  match (if own then s.liveReq m.hreq else none) with
  | some r =>
      if r.ctx != ctx then s
      else if m.status != 0 then s.failReq r.id (statusCode m.status) r.progress
      else if sha512 m.data != m.digest then s.badContribution r slot 1
      else ((s.modReq r.id (fun q => { q with leaves := q.leaves ++ [rowsFor r.profile r.desc.skip] })).startAll).advanceBlock r.id m.block
  | none =>
      match s.comp.subs.find? (fun q => q.hreq == m.hreq && q.homeSlot == m.homeSlot && q.block == m.block && q.ctx == ctx) with
      | none => s
      | some q =>
        if m.status != 0 then s.sendPartial q m.status [] (parseSub q.body).skip []
        else if sha512 m.data != m.digest then
          (errRecord s .contribution .none
            { ctx := some ctx, opcode := (parseSub q.body).opcode, cls := (parseSub q.body).cls, req := q.hreq, conn := s.connNumber slot,
              location := s.connMember slot, detail := 1 }).sendPartial
            q 5 [] (parseSub q.body).skip []
        else
          let subs := lmod s.comp.subs (fun x => x.id == q.id) (fun x => { x with leaves := x.leaves ++ [rowsFor (s.subProfile q) (parseSub q.body).skip] })
          (({ s with comp := { s.comp with subs := subs } } : State).startAll).runSub q.id

end Sys2Proof.Machine
end

