-- ==== Sys2Proof/Machine/Itinerary.lean ====
section
/-! DEFINITION. What happens within a tick: publication, tasks that start, end, are gated or carried, operands that land, and
the attention operations (02_tick.md, R22-R33; 03_attention.md, R45, R60-R62, R373; 11_isolation.md, R236). -/
namespace Sys2Proof.Machine

/-! ### Operands -/

/-- Whether landed APPEND source bytes fail their checks (R164, R48, R88). -/
def State.sourceBad (s : State) (r : Req) (p : Profile) (data : Bytes) : Bool :=
  let g := (s.ctx r.ctx).geode p
  (List.range r.desc.tokenSpan).any (fun t => (List.range r.desc.kvhCount).any (fun h =>
    (encodeToken p g r.desc data p.ladder.fresh t h).isNone))

/-- Bytes a block's operands have: a query block of an attention request (R45), the source of an APPEND (R164). -/
def Req.operandBytes (r : Req) (a : AttnProfile) (b : Nat) : Option Nat :=
  if r.desc.isAttend then (if b < r.desc.blocks then some (r.blockBytes a b) else none)
  else if r.desc.opcode = 3 && b = 0 then some (r.sourceBytes a) else none

/-- Operands of a block have landed: kept, checked, and what waited for them may start (R28, R45, R48). -/
def State.land (s : State) (id b : Nat) (data : Bytes) : State :=
  match s.req? id with
  | none => s
  | some r =>
    match r.profile.or (s.ctx r.ctx).profile with
    | none => s
    | some p =>
      if r.operandBytes p.attn b != some data.length || mhas r.operands b then s
      else
        let s1 := s.modReq id (fun q => { q with operands := mset q.operands b data })
        let r1 := { r with operands := mset r.operands b data }
        if r.desc.isAttend then
          (if s1.queryBad r1 b then s1.failReq id cQueryValue r.progress else s1.startAll)
        else if s1.sourceBad r1 p data then s1.failReq id cKvValue 0
        else s1.startAll

/-- OPERANDS_LANDED: a request's operands land and are checked (R45). -/
def execOperandsLanded (t req block : Nat) (data : Bytes) (s : State) : Host.Outcome State Fault Refusal :=
  .next ((s.at_ t).land req block data)

/-! ### Attention requests -/

/-- Run every landed block of an admitted attention request as far as it can go. -/
def State.runAttend (s : State) (id op : Nat) : State :=
  match s.req? id with
  | none => s
  | some r =>
    if r.desc.opcode != op then s
    else (List.range r.desc.blocks).foldl (fun s b => s.advanceBlock id b) s

/-- ATTEND: attention partials of the query positions over the key range (R42-R58). -/
def execAttend (t req : Nat) (s : State) : Host.Outcome State Fault Refusal := .next ((s.at_ t).runAttend req 1)

/-- ATTEND_CHUNK: the blocks of a chunk (R60). -/
def execAttendChunk (t req : Nat) (s : State) : Host.Outcome State Fault Refusal := .next ((s.at_ t).runAttend req 2)

/-- QUERY_BLOCK_COMPLETE: a block's tasks are done; its records are written and PROGRESS advances (R61). -/
def execQueryBlockComplete (t req block : Nat) (s : State) : Host.Outcome State Fault Refusal :=
  .next ((s.at_ t).advanceBlock req block)

/-! ### Tasks that end -/

/-- Whether a page still has tasks of a block. -/
def State.pageBusy (s : State) (key b h i : Nat) : Bool :=
  s.anyTask key (fun k => match k with | .page x y z _ _ _ _ => x == b && y == h && z == i | _ => false)

/-- A page partial is complete: its place in the completion order of RELAXED_MERGE (R55, R106). -/
def State.pageDone (s : State) (key b h i : Nat) : State :=
  if s.pageBusy key b h i then s
  else
    let l : Leaf := ⟨b, h, i, 0, [], []⟩
    let s1 := s.modReq key (fun r => { r with leaves := r.leaves ++ [l] })
    { s1 with comp := { s1.comp with subs := lmod s1.comp.subs (fun q => q.id == key) (fun q => { q with leaves := q.leaves ++ [l] }) } }

/-- Blocks a work has placed. -/
def State.blocksOf (s : State) (key : Nat) : List Nat := match s.req? key with
  | some r => List.range r.placedBlocks
  | none => match s.sub? key with
    | some q => [q.block]
    | none => []

/-- Whether the anchor scan of a block is over: its bound passes have run, and so have the page-tasks of its anchor set (R373). -/
def State.anchorsDone (s : State) (w : Work) (block : Nat) : Bool :=
  (s.workRows w.key block).isSome && !s.anyTask w.key (fun k => match k with
    | .bound b _ _ _ _ => b == block
    | .page b h i f c _ _ => b == block && (match s.taskPage w h i with
      | some (_, p) => s.anchorPage w b h f c p
      | none => false)
    | _ => false)

/-- The skip masks of a block are formed. -/
def State.formMasks (s : State) (key block : Nat) : State :=
  let s1 := s.modReq key (fun r => { r with skipBlocks := r.skipBlocks ++ [block] })
  { s1 with comp := { s1.comp with subs := lmod s1.comp.subs (fun q => q.id == key) (fun q => { q with skipReady := true }) } }

/-- Whether a task reads nothing: every row of it skips its page (R373). -/
def State.allSkip (s : State) (w : Work) (block : Nat) (t : Task) : Bool :=
  t.req == some w.key && t.startedAt.isNone && (match t.kind with
    | .page b h i f c _ _ => b == block && (s.skipRows w b h i f c).all id
    | _ => false)

/-- Go on with a block whose tasks may be done, at the home or at a peer. -/
def State.advance (s : State) (key b : Nat) : State :=
  if key < 65536 then s.advanceBlock key b else s.runSub key

/-- Whether a demotion task of a page is still in the itinerary (R96). -/
def State.demoting (s : State) (ctx page : Nat) : Bool :=
  let hit (t : Task) : Bool := t.ctx == ctx && (match t.kind with | .demote x _ _ => x == page | _ => false)
  s.itin.units.any (fun u => (match u.2.running with | some t => hit t | none => false) || u.2.placed.any hit || u.2.carry.any hit) ||
    s.itin.waiting.any hit

/-- The demotion of a page ends, well or at a pebble that the unit finds failing (R96, R90). -/
def State.demoteEnd (s : State) (ctx page : Nat) (bad : Option Nat) (u : ErrUnit) : State :=
  let s1 := s.demoteNow ctx page bad u
  s1.demotionOver ctx page (!s1.pagePoisoned ctx page)

/-- Whether an APPEND still has tasks. -/
def State.appending (s : State) (key : Nat) : Bool := s.anyTask key (fun k => match k with | .append _ _ _ _ => true | .trees _ _ => true | _ => false)

/-- An APPEND whose tasks have all run takes effect (R164). -/
def State.appendEnd (s : State) (key : Nat) : State :=
  if s.appending key then s
  else match s.acting key 3 with
    | some (r, p, c) => s.appendReq r p c
    | none => s

/-- Rows of a head are rotated: engines get them (R105); once every head of the block is, the sub-requests go out (R18, R48). -/
def State.rotateEnd (s : State) (key b h : Nat) : State :=
  match s.req? key with
  | none => s
  | some r =>
    if s.queryBad r b then s.failReq key cQueryValue r.progress
    else
      let s1 := if s.rotating key b h then s else s.sendRows key b h
      if s1.anyTask key (fun k => match k with | .rotate x _ _ _ => x == b | .project x _ _ _ => x == b | _ => false) then s1
      else s1.sendSubs key b

/-- What follows a task that is done (R25, R48, R374, R164, R96). -/
def State.taskDone (s : State) (t : Task) : State :=
  let key := t.req.getD 0
  match t.kind with
  | .project _ _ _ _ => s
  | .rotate b h _ _ => s.rotateEnd key b h
  | .page b h i _ _ _ _ => (s.pageDone key b h i).advance key b
  | .bound b _ _ _ _ => s.advance key b
  | .merge b _ _ _ _ _ _ _ => (s.freeSlots t).advance key b
  | .unproject b _ _ => s.advance key b
  | .output b _ => s.advance key b
  | .continuation b _ _ => s.advance key b
  | .append _ _ _ _ => s.appendEnd key
  | .trees _ _ => s.appendEnd key
  | .demote page _ _ => if s.demoting t.ctx page then s else s.demoteEnd t.ctx page none (s.scanUnit t.ctx page)
  | .assay _ => s
  | .move _ => s
  | .scrub _ => s
  | .seal _ => s

/-- The anchor scan of a block is over: the skip masks are formed, page-tasks that every row skips complete at once, the others may start
(R62, R373). -/
def State.anchorBlock (s : State) (w : Work) (block : Nat) : State :=
  if !w.skip || s.skipReady w.key block || !s.anchorsDone w block then s
  else
    let s1 := s.formMasks w.key block
    let idle := s1.allTasks.filter (s1.allSkip w block)
    idle.foldl (fun s t => s.taskDone t) (s1.dropTasks (fun t => idle.any (fun x => x.id == t.id)))

/-- The anchor scans of a request or sub-request that are over. -/
def State.anchored (s : State) (key : Nat) : State := match s.workOf key with
  | none => s
  | some w => (s.blocksOf key).foldl (fun s b => s.anchorBlock w b) s

/-- ANCHOR_SCAN_COMPLETE: m_anchor and the skip masks are formed (R62, R373). -/
def execAnchorScanComplete (t req : Nat) (s : State) : Host.Outcome State Fault Refusal := .next (((s.at_ t).anchored req).startAll)

/-- Go on with one admitted request whose tasks are over and which waited for what is ordered before it (R17, R42). -/
def State.resume (s : State) (id : Nat) : State :=
  match s.req? id with
  | none => s
  | some r =>
    if r.admittedAt.isNone || r.effectDone then s
    else if r.desc.isAttend then
      ((List.range r.placedBlocks).filter (fun b => !r.doneBlocks.contains b && mhas r.operands b)).foldl (fun s b => s.advanceBlock id b) s
    else s.appendEnd id

/-- Go on with everything that may go on, in fetch order; then with the sub-requests. -/
def State.goOn (s : State) : State :=
  let s1 := (s.reqs.map Req.id).foldl State.resume s
  ((s1.comp.subs.filter (fun q => q.admittedAt.isSome)).map SubReq.id).foldl State.runSub s1

/-! ### Publication -/

/-- Publication of the itinerary: tasks start, and sub-requests whose rows are rotated go out (R22, R18). -/
def State.publishItinerary (s : State) : State :=
  let s1 := ({ s with tick := { s.tick with published := true } } : State).goOn.startAll
  ((s1.reqs.filter (fun r => r.admittedAt.isSome && r.desc.isAttend)).map Req.id).foldl (fun s i => s.sendSubsOf i) s1

/-- ITINERARY_PUBLISHED: the tick's itinerary is published, at most 400 ns after its boundary (R22); its tasks start from then on, at
planned starts that lie 400 ns after the boundary or later. -/
def execItineraryPublished (t : Nat) (s : State) : Host.Outcome State Fault Refusal :=
  let s := s.at_ t
  if s.running && !s.tick.published && decide (s.tick.last ≤ s.now) then .next s.publishItinerary else .next s

/-! ### Tasks that end, and what they met -/

/-- What an assay's re-execution that meets a fault ends: the request its page-task belongs to, while that lives (R118, R277). -/
def State.assayServes (s : State) (t : Task) : Option Nat := match t.kind with
  | .assay id => (s.health.assays.find? (fun a => a.id == id)).bind (fun a =>
      if (s.req? a.req).any (fun r => r.hreq == a.hreq) || (s.sub? a.req).any (fun q => q.hreq == a.hreq) then some a.req else none)
  | _ => t.req

/-- What an error record says of the request a task serves. -/
def State.taskInfo (s : State) (t : Task) : ErrInfo :=
  let key := (s.assayServes t).getD hkKey
  match s.req? key with
  | some r => s.reqInfo r
  | none => match s.sub? key with
    | some q => { ctx := some t.ctx, opcode := (parseSub q.body).opcode, cls := (parseSub q.body).cls, req := q.hreq }
    | none => { ctx := some t.ctx, cls := clsNum t.cls }

/-- End what a failed task serves: the request, or the sub-request with a STATUS (R118, R236, Table 13.5). -/
def State.taskFails (s : State) (t : Task) (code status : Nat) : State :=
  match s.assayServes t with
  | none => s
  | some key => match s.req? key with
    | some r => s.failReq key code r.progress
    | none => match s.sub? key with
      | some q => s.sendPartial q status [] false []
      | none => s

/-- The page a task reads is corrupt at a pebble its unit has met: marked, recorded (R90). -/
def State.metCorrupt (s : State) (u : UnitId) (t : Task) (peb : Nat) : State :=
  (s.spoil t.ctx (s.taskPageNum t) peb).corrupt t.ctx (s.taskPageNum t) peb (ErrUnit.ofUnit u) (s.taskInfo t)

/-- A task met a pebble that fails its check (R90, R118). -/
def State.taskCorrupt (s : State) (u : UnitId) (t : Task) (peb : Nat) : State :=
  match t.kind with
  | .demote page _ _ => (s.dropTasks (fun x => x.ctx == t.ctx && (match x.kind with | .demote y _ _ => y == page | _ => false))).demoteEnd
      t.ctx page (some peb) (ErrUnit.ofUnit u)
  | .page _ _ _ _ _ _ _ => (s.metCorrupt u t peb).taskFails t cPageCorrupt 4
  | .bound _ _ _ _ _ => (s.metCorrupt u t peb).taskFails t cPageCorrupt 4
  | .assay _ => (s.metCorrupt u t peb).taskFails t cPageCorrupt 4
  | _ => s.taskDone t

/-- A tag comparison failed: CTX_TAGF, an error record, UNIT_FAULT (R236, R118). -/
def State.taskTagFault (s : State) (u : UnitId) (t : Task) (found : Nat) : State :=
  let s1 := ((s.bump F.CTX_TAGF.FAULTS).wr F.CTX_TAGF.EXPECTED t.ctx).wr F.CTX_TAGF.FOUND found
  let s2 := errRecord s1 .tagFault (ErrUnit.ofUnit u) { s1.taskInfo t with
    location := s1.taskPageNum t, detail := t.ctx % 512 + found % 512 * 65536 }
  s2.taskFails t cUnitFault 5

/-- Code of a completion entry (Table 6.3). -/
def outcomeCode : TaskOutcome → Nat
  | .done => 0
  | .corrupt _ => 1
  | .tagFault _ => 2

/-- A page-task that finds a pebble failing its check ends corrupt, whatever its unit reported (R90). -/
def State.outcomeOf (s : State) (t : Task) (o : TaskOutcome) : TaskOutcome :=
  match o, t.kind with
  | .done, .page b h i rf rc _ _ =>
    (match t.req.bind s.workOf with
     | none => .done
     | some w => match s.taskPage w h i with
       | none => .done
       | some (_, p) =>
         let reads := match s.workRows w.key b with
           | some (e, rows) => (((headRun rows h rf rc).zip (s.skipRows w b h i rf rc)).any (fun x => pageTouched e x.1 p && !x.2))
           | none => false
         if reads && pageBad p then .corrupt (p.badPeb.getD 0) else .done)
  | _, _ => o

/-- The last command of a request on an engine has ended: its query sets there are freed (R105). -/
def State.freeSets (s : State) (u : UnitId) (t : Task) : State :=
  match u, t.req with
  | .engine e, some key =>
    let p := s.plan u
    if (p.placed ++ p.carry ++ p.running.toList).any (fun x => x.req == some key) then s
    else s.modEngine e (fun x => { x with querySets := x.querySets.filter (fun q => q.key != key) })
  | _, _ => s

/-- A task on a page in the far or the host tier that outlasts its cost has had a read later than the tier allowance, which counts; a read
that timed out has counted already (R149). -/
def State.lateRead (s : State) (u : UnitId) (t : Task) : State :=
  match u, t.startedAt, mget (s.ctx t.ctx).pages (s.taskPageNum t) with
  | .tile _, some at_, some pg =>
    if t.allowPs = 0 || s.now * 1000 ≤ at_ * 1000 + t.costPs || s.tier.reissued.contains (t.ctx, s.taskPageNum t) then s
    else if pg.tier = 2 then s.bump F.TIER_LATE.FAR_LATE
    else if pg.tier = 4 then s.bump F.TIER_LATE.HOST_LATE
    else s
  | _, _, _ => s

/-- The running task of a unit ends with an outcome; the unit goes on (R25). -/
def State.endTask (s : State) (u : UnitId) (o : TaskOutcome) : State :=
  let p := s.plan u
  match p.running with
  | none => s
  | some t =>
    let o1 := s.outcomeOf t o
    let s1 := (((((s.lateRead u t).setPlan u { p with running := none }).meterTask u t false).deliver u t (outcomeCode o1)).freeSets u t).threadEnd u t
    let s2 := match o1 with
      | .done => (s1.dropLease u t).taskDone t
      | .corrupt peb => s1.taskCorrupt u t peb
      | .tagFault found => s1.taskTagFault u t found
    s2.goOn.startAll

/-- TASK_COMPLETE: a placed task finishes (R25). -/
def execTaskComplete (t : Nat) (u : UnitId) (o : TaskOutcome) (s : State) : Host.Outcome State Fault Refusal :=
  .next ((s.at_ t).endTask u o)

/-! ### Windows and gates -/

/-- Whether a task is a held continuation (R33). -/
def Task.isContinuation (t : Task) : Bool := match t.kind with
  | .continuation _ _ _ => true
  | _ => false

/-- A gated task whose window has ended is carried without a cut: OPERAND_LATE, or LATE_PEER for a continuation (R28, R33). -/
def State.countLate (s : State) (t : Task) : State :=
  if t.isContinuation then s.bump F.TICK_EVENTS.LATE_PEER else s.bump F.TICK_EVENTS.OPERAND_LATE

/-- The nominal end of a class window on a unit: a spill, and gated tasks carried (R26, R28). -/
def State.windowEnds (s : State) (u : UnitId) (c : Cls) : State :=
  let p := s.plan u
  let s1 := match p.running with
    | some t => if t.cls == c then s.bump F.TICK_EVENTS.SPILL else s
    | none => s
  let late := p.placed.filter (fun t => t.cls == c && s.gated t)
  let keep := p.placed.filter (fun t => !(t.cls == c && s.gated t))
  let s2 := s1.setPlan u { p with placed := keep, carry := p.carry ++ late.map (fun t => { t with carried := true }) }
  (late.foldl State.countLate s2).startAll

/-- WINDOW_NOMINAL_END: a class window reaches its nominal end on a unit (R26). -/
def execWindowNominalEnd (t : Nat) (u : UnitId) (c : Cls) (s : State) : Host.Outcome State Fault Refusal :=
  let s := s.at_ t
  if s.running && decide (s.tick.last * 1000 + windowEnd s.tick.periodUs s.tick.shares (clsNum c) ≤ s.now * 1000) then
    .next (s.windowEnds u c)
  else .next s

/-- GATED_TASK_RELEASED: a gated task at the head of its unit starts once nothing holds it (R28). -/
def execGatedTaskReleased (t : Nat) (u : UnitId) (task : Nat) (s : State) : Host.Outcome State Fault Refusal :=
  let s := s.at_ t
  match (s.plan u).placed with
  | x :: _ => if x.id = task then .next (s.startNext u) else .next s
  | [] => .next s

end Sys2Proof.Machine
end

