-- ==== Sys2Proof/Machine/Stratum.lean ====
section
/-! DEFINITION. Stratum engines: refresh, commands, watchdog, masks, faults and the self-test (06_stratum_engines.md, R101-R120). -/
namespace Sys2Proof.Machine

/-! ### Refresh -/

/-- An engine's record. -/
def State.engine (s : State) (n : Nat) : Engine := (mget s.engines n).getD Engine.idle

/-- Whether an engine runs a command. -/
def State.engineBusy (s : State) (n : Nat) : Bool := (s.plan (.engine n)).running.isSome

/-- A task takes longer by some ps. -/
def Task.delay (ps : Nat) (t : Task) : Task := { t with costPs := t.costPs + ps }

/-- A running command takes longer by some ps (R110, R114). -/
def State.delayRunning (s : State) (u : UnitId) (ps : Nat) : State :=
  let p := s.plan u
  match p.running with
  | some t => s.setPlan u { p with running := some (t.delay ps) }
  | none => s

/-- A refresh slot arrives: postponed while a command runs; the fourth postponed interval is forced in (R31, R110). -/
def State.refreshAt (s : State) (n : Nat) : State :=
  if !s.engineBusy n then s
  else
    let debt := (s.engine n).debt + 1
    let s1 := (s.bump F.TIER_SE_REFRESH.POSTPONED).peak F.TIER_SE_REFRESH.DEBT_MAX debt
    if debt < 4 then s1.modEngine n (fun e => { e with debt := debt })
    else ((s1.bump F.TIER_SE_REFRESH.FORCED).modEngine n (fun e => { e with debt := debt - 1 })).delayRunning (.engine n) 160000

/-- REFRESH_SLOT: a planned refresh slot arrives (R31). -/
def execRefreshSlot (t engine : Nat) (s : State) : Host.Outcome State Fault Refusal :=
  if engine < 192 then .next ((s.at_ t).refreshAt engine) else .next (s.at_ t)

/-- MAKEUP_REFRESH_SLOT: the additional slot before the boundary discharges one interval like any other (R109). -/
def execMakeupRefreshSlot (t engine : Nat) (s : State) : Host.Outcome State Fault Refusal :=
  if engine < 192 then .next ((s.at_ t).refreshAt engine) else .next (s.at_ t)

/-- REFRESH_DEBT_REPAY: 160 ns without a command repay one postponed interval (R110). -/
def execRefreshDebtRepay (t engine : Nat) (s : State) : Host.Outcome State Fault Refusal :=
  let s := s.at_ t
  if s.engineBusy engine || (s.engine engine).debt = 0 then .next s
  else .next (s.modEngine engine (fun e => { e with debt := e.debt - 1 }))

/-- Midpoints between planned slots of this tick that are still ahead, in ps from the boundary (R111): a pair is two neighbouring slots of one
tick, the makeup slot included; the gap between the last slot of a tick and slot 0 of the next has none (DESIGN CHOICE,
notes/assumptions/35.md). -/
def State.midpoints (s : State) (engine : Nat) : List Nat :=
  let slots := (refreshSlots (s.refreshStep engine) s.tick.periodUs).map Prod.fst
  (List.zipWith (fun a b => (a + b) / 2) slots (slots.drop 1)).filter (fun m => decide (s.now * 1000 < s.tick.last * 1000 + m))

/-- A command that runs or is planned over midpoints takes one refresh of 160 ns longer for each (R111). -/
def Task.intrude (base : Nat) (mids : List Nat) (t : Task) : Task :=
  t.delay (160000 * (mids.filter (fun m => decide (t.planPs ≤ base + m) && decide (base + m < t.planPs + t.costPs))).length)

/-- The extra refreshes an engine inserts for the rest of the tick (R111). -/
def State.intrudeOn (s : State) (engine : Nat) : State :=
  let mids := s.midpoints engine
  let p := s.plan (.engine engine)
  let f := Task.intrude (s.tick.last * 1000) mids
  let s1 := if p.running.isNone && p.placed.isEmpty then s
    else s.setPlan (.engine engine) { p with running := p.running.map f, placed := p.placed.map f }
  s1.bump F.TIER_SE_REFRESH.INTRUSION mids.length

/-- A stack has passed 85 °C in the middle of a tick: its sixteen engines insert their extra refreshes (R111). -/
def State.stackWarm (s : State) (stack : Nat) : State :=
  if s.power.above85.contains stack then s
  else
    let s1 := if s.running && !s.power.hotGrid.contains stack then
        ((List.range 16).map (16 * stack + ·)).foldl State.intrudeOn s else s
    { s1 with power := { s1.power with above85 := s1.power.above85 ++ [stack] } }

/-- STACK_ABOVE_85C: the extra refreshes of this tick; the finer grid follows at the next boundary (R111). -/
def execStackAbove85C (t stack : Nat) (s : State) : Host.Outcome State Fault Refusal :=
  let s := s.at_ t
  if 12 ≤ stack then .next s else .next (s.stackWarm stack)

/-! ### Commands -/

/-- SE_COMMAND_START: the command at the head of an engine's queue starts when R104 allows. -/
def execSeCommandStart (t engine : Nat) (s : State) : Host.Outcome State Fault Refusal := .next ((s.at_ t).startNext (.engine engine))

/-- Field of TICK_OVERRUN of a class. -/
def overrunField : Cls → Field
  | .c0 => F.TICK_OVERRUN.C0
  | .c1 => F.TICK_OVERRUN.C1
  | .c2 => F.TICK_OVERRUN.C2
  | .c3 => F.TICK_OVERRUN.C3

/-- Cost left of a task that has run since its start (R30). -/
def State.costLeft (s : State) (t : Task) : Nat :=
  let ran := (s.now - t.startedAt.getD s.now) * 1000
  t.costPs - min ran t.costPs

/-- Time from which a running task's cycles run at the unit's frequency: past its tier allowance, or since a change of frequency. -/
def State.paceFrom (s : State) (t : Task) : Nat := t.paceAt.getD (t.startedAt.getD s.now + ceilDiv t.allowPs 1000)

/-- Cycles of a running task that have not run yet: at least one. -/
def State.cyclesLeft (s : State) (u : UnitId) (t : Task) : Nat :=
  max 1 (t.cycles - t.paced - (s.now - s.paceFrom t) * s.mhz u / 1000)

/-- Pebbles of the range a task goes over: first and count; a task over no pebbles has none. -/
def State.taskRange (s : State) (t : Task) : Nat × Nat :=
  let np : Nat := match (s.ctx t.ctx).profile with
    | some p => 128 * (p.attn.nk + p.attn.nv)
    | none => 0
  match t.kind with
  | .page _ _ _ _ _ pf pc => (pf, if pc = 0 then np - pf else pc)
  | .demote _ pf pc => (pf, if pc = 0 then np - pf else pc)
  | _ => (0, 0)

/-- First pebble, in frame order, that a running task has not read (R30): it has worked through its range as its cycles passed. -/
def State.nextPebble (s : State) (u : UnitId) (t : Task) : Nat :=
  let (f, n) := s.taskRange t
  let from_ := match t.state with | some x => x.nextPeb | none => f
  let left := f + n - from_
  from_ + min (left - 1) (left * (t.cycles - s.cyclesLeft u t) / max 1 t.cycles)

/-- The state a cut leaves on the unit (R30): the next pebble, the position in the merge, and (m, l, o) of each row. -/
def State.cutState (s : State) (u : UnitId) (t : Task) : TaskState :=
  let peb := s.nextPebble u t
  let done := t.cycles - s.cyclesLeft u t
  match t.kind, t.req.bind s.workOf with
  | .page b h i rf rc _ _, some w =>
    match s.workRows w.key b, s.taskPage w h i with
    | some (e, rows), some (_, p) => ⟨peb, 0, (headRun rows h rf rc).map (fun r => runningPartial e r p peb)⟩
    | _, _ => ⟨peb, 0, []⟩
  | .merge _ _ _ rc _ _ _ _, some w => ⟨0, done / max 1 (rc * (ceilDiv w.p.attn.dv 64 + 4)), []⟩
  | _, _ => ⟨peb, 0, []⟩

/-- Cut the running task of a unit: counted, its state saved on the unit, carried (R30, R106). -/
def State.cutRunning (s : State) (u : UnitId) : State :=
  let p := s.plan u
  match p.running with
  | none => s
  | some t =>
    let cut : Task := { t with
      carried := true, costPs := s.costLeft t, cycles := s.cyclesLeft u t, startedAt := none, paced := 0, paceAt := none, state := some (s.cutState u t) }
    let s1 := (s.bump (overrunField t.cls)).meterTask u t true
    let s2 := s1.setPlan u { p with running := none, carry := p.carry ++ [cut] }
    match u with
    | .engine n => s2.modEngine n (fun e => { e with saved := e.saved ++ [t.id], leases := [] })
    | _ => s2

/-- Put tasks at the head of the admission queues, to be placed on tiles as carried tasks; what an engine had saved of them is discarded
(R119, R120). -/
def State.returnTasks (s : State) (ts : List Task) : State :=
  let back := ts.map (fun t => { t with carried := true, returned := true, startedAt := none, paced := 0, paceAt := none, state := none })
  { s with itin := { s.itin with waiting := back ++ s.itin.waiting } }

/-- A command returned unrun: the engine was reset before it ran (Table 6.3). -/
def State.returnHead (s : State) (n : Nat) : State :=
  let p := s.plan (.engine n)
  match p.placed with
  | t :: rest => ((s.setPlan (.engine n) { p with placed := rest }).deliver (.engine n) t 4).returnTasks [t]
  | [] => s

/-- A command is cut at a boundary: its completion entry says so, its state stays in the state buffer (Table 6.3, R30). -/
def State.cutCommand (s : State) (n : Nat) : State :=
  match (s.plan (.engine n)).running with
  | some t => (s.deliver (.engine n) t 3).cutRunning (.engine n)
  | none => s

/-- SE_COMMAND_COMPLETE: a completion entry with its outcome (R106, Table 6.3). -/
def execSeCommandComplete (t engine outcome detail : Nat) (s : State) : Host.Outcome State Fault Refusal :=
  let s := s.at_ t
  match outcome with
  | 0 => .next (s.endTask (.engine engine) .done)
  | 1 => .next (s.endTask (.engine engine) (.corrupt detail))
  | 2 => .next (s.endTask (.engine engine) (.tagFault detail))
  | 3 => .next (if s.tick.next ≤ s.now then s.cutCommand engine else s)
  | 4 => .next (s.returnHead engine)
  | _ => .next s

/-! ### Watchdog, masks, faults -/

/-- Disable an engine by fault: its bit, an error record, the test of R221 (R120, R279). -/
def State.disableEngine (s : State) (n why : Nat) : State :=
  (errRecord (s.wrBit F.TIER_SE_FAULT.FAULT n true) .unitDisabled (.engine n) { detail := why }).degradeMark

/-- Reset an engine that stalled: its commands return and run on tiles in the next tick; the third trip within 1 s disables it
(R119, R120). -/
def State.tripEngine (s : State) (n : Nat) : State :=
  let p := s.plan (.engine n)
  match p.running with
  | none => s
  | some t =>
    let back := t :: (p.placed ++ p.carry)
    let s0 := s.setPlan (.engine n) { p with running := none, placed := [], carry := [] }
    let s1 := (back.foldl (fun s x => s.deliver (.engine n) x 4) s0).returnTasks back
    let trips := ((s.engine n).trips.filter (fun x => decide (s.now < x + 1000000000))) ++ [s.now]
    let s2 := s1.modEngine n (fun e => { e with trips := trips, saved := [], querySets := [], leases := [] })
    let s3 := errRecord s2 .engineWatchdog (.engine n) { s.taskInfo t with detail := p.placed.length }
    if 3 ≤ trips.length && !bitOf s3.regs F.TIER_SE_FAULT.FAULT n then s3.disableEngine n 0 else s3

/-- SE_WATCHDOG: a running command completed no chunk for 10 µs (R119). -/
def execSeWatchdog (t engine : Nat) (s : State) : Host.Outcome State Fault Refusal := .next ((s.at_ t).tripEngine engine)

/-- TIER_SE_MASK_WRITE: engines disabled by mask from the boundary R16 gives (R120). -/
def execTierSeMaskWrite (t n : Nat) (v : Word) (s : State) : Host.Outcome State Fault Refusal :=
  if !s.ready then .next (s.at_ t) else
  if n < 3 then .next ((s.at_ t).wakeUp.writeStaged (F.TIER_SE_MASK.MASK.at_ n) v) else .next (s.at_ t)

/-- TIER_SE_FAULT_CLEAR: bits written 1 are cleared, and those engines' trips forgotten (R120). -/
def State.clearFaults (s : State) (n : Nat) (v : Word) : State :=
  let s1 := s.wr F.TIER_SE_FAULT.FAULT (s.rd F.TIER_SE_FAULT.FAULT n &&& (~~~v).toNat) n
  { s1 with engines := mall s1.engines (fun k e => if k / 64 = n && bit v.toNat (k % 64) then { e with trips := [] } else e) }

/-- TIER_SE_FAULT_CLEAR. -/
def execTierSeFaultClear (t n : Nat) (v : Word) (s : State) : Host.Outcome State Fault Refusal :=
  if !s.ready then .next (s.at_ t) else
  if n < 3 then .next ((s.at_ t).wakeUp.clearFaults n v) else .next (s.at_ t)

/-! ### Self-test -/

/-- A write of TIER_SE_TEST (Table 6.8, R120): ENGINE, which stays while a test runs, and START unless a test runs or it is refused. START
written together with an ENGINE above 191 tests the engine the field held before (DESIGN CHOICE, notes/assumptions/36.md). -/
def State.selfTest (s : State) (v : Word) : State :=
  let e := fieldOf F.TIER_SE_TEST.ENGINE v
  let s1 := if e ≤ 191 && s.rd F.TIER_SE_TEST.BUSY = 0 then s.wr F.TIER_SE_TEST.ENGINE e else s
  if fieldOf F.TIER_SE_TEST.START v = 0 || s1.rd F.TIER_SE_TEST.BUSY = 1 then s1
  else if bitOf s1.live F.TIER_SE_MASK.MASK (s1.rd F.TIER_SE_TEST.ENGINE) || !s1.running then
    ((s1.wr F.TIER_SE_TEST.REFUSED 0).wr F.TIER_SE_TEST.DONE 0).wr F.TIER_SE_TEST.BUSY 1
  else s1.wr F.TIER_SE_TEST.REFUSED 1

/-- SE_SELF_TEST: TIER_SE_TEST is written. -/
def execSeSelfTest (t : Nat) (v : Word) (s : State) : Host.Outcome State Fault Refusal :=
  if !s.ready then .next (s.at_ t) else
  .next ((s.at_ t).wakeUp.selfTest v)

/-- The self-test ends: PASS reports the comparison; the digest of a good engine is the fixed one, of another free (R120). -/
def State.selfTestDone (s : State) (equal : Bool) : State :=
  if s.rd F.TIER_SE_TEST.BUSY = 0 then s
  else
    let (x, s0) := s.draw
    let s1 := ((s0.wr F.TIER_SE_TEST.BUSY 0).wr F.TIER_SE_TEST.DONE 1).wr F.TIER_SE_TEST.PASS (b2n equal)
    s1.wr F.TIER_SE_TEST_RESULT.DIGEST (if equal then Config.selfTestDigest.toNat else x)

/-- SE_SELF_TEST_DONE. -/
def execSeSelfTestDone (t : Nat) (equal : Bool) (s : State) : Host.Outcome State Fault Refusal := .next ((s.at_ t).selfTestDone equal)

end Sys2Proof.Machine
end

