-- ==== Sys2Proof/Machine/Moves.lean ====
section
/-! DEFINITION. Placement: target tiers, the filling of the tiers, the choice of pages for tile SRAM, and the moves that carry
pages there (07_tiers_placement.md, R121-R138; 14_power_health.md, R307). -/
namespace Sys2Proof.Machine

/-! ### Where pages lie -/

/-- Put a page into a place: TIER and FRAME of its record change, a parcel appears or becomes garbage, the lines of a tile it leaves go back
(R130, R141, R237). -/
def State.putAt (s : State) (ctx num : Nat) (x : Spot) : State :=
  match mget (s.ctx ctx).pages num with
  | none => s
  | some pg =>
    let s1 := if pg.tier = 3 then s.dropParcel ctx num else s
    let s2 := if pg.tier = 0 && (x.tier != 0 || x.home != pg.home) then s1.dropLines pg.home ctx num else s1
    let s3 := s2.modPage ctx num (fun q => q.put x)
    if x.tier = 3 then s3.addParcel ctx num else s3

/-- Usable bytes of the stacks: every channel that has not failed. -/
def State.stackBytes (s : State) : Nat := ((List.range 192).filter (fun n => !s.channelDown n)).length * channelBytes

/-- Usable bytes of the far tier. -/
def State.farBytes (s : State) : Nat := ((List.range 16).filter (fun n => !s.farDown n)).length * farChannelBytes

/-! ### Filling the tiers -/

/-- A conversation of a context in service, homed here or elsewhere. -/
structure Placee where
  ctx : Nat
  id : Nat
  x : Ctx
  c : Conv
  away : Bool
deriving DecidableEq, Repr

/-- Class of a context's highest reservation; 2 without one (R134). -/
def Ctx.reservedClass (x : Ctx) : Nat := match x.profile with
  | some p => if p.cls.c0Unit != 0 then 0 else if p.cls.c1Unit != 0 then 1 else 2
  | none => 2

/-- Rank of a conversation, lowest first (R134). -/
def Placee.rank (q : Placee) : Nat :=
  (((b2n (!q.x.pinnedConv q.c) * 4 + q.x.reservedClass) * 2 ^ 64 + (2 ^ 64 - 1 - q.c.lastAttend)) * 512 + q.ctx) * 2 ^ 32 + q.id

/-- Conversations in rank order, those homed elsewhere for the pages of them held here. -/
def State.ranked (s : State) : List Placee :=
  lsort Placee.rank (s.ctxs.flatMap (fun x =>
    if x.2.phase == .inService then
      x.2.convs.map (fun c => ⟨x.1, c.1, x.2, c.2, false⟩) ++
        (x.2.peers.filter (fun c => !mhas x.2.convs c.1)).map (fun c => ⟨x.1, c.1, x.2, c.2, true⟩)
    else []))

/-- Pages of a conversation held here, those it shares by FORK among them (R125). -/
def Placee.pages (own : Nat → Bool) (q : Placee) : List (Nat × Page) :=
  q.c.pageMap.filterMap (fun e => (q.x.entryPage own e.2).map (fun pg => (e.2.page, pg)))

/-- Conversations in rank order with the pages each accounts for: a shared page belongs to the first that references it (R99, R134). -/
def State.placees (s : State) : List (Placee × List (Nat × Page)) :=
  (s.ranked.foldl (fun (acc : List (Nat × Nat) × List (Placee × List (Nat × Page))) q =>
    let ps := (q.pages s.ownsSlot).filter (fun x => !acc.1.contains (q.ctx, x.1))
    (acc.1 ++ ps.map (fun x => (q.ctx, x.1)), acc.2 ++ [(q, ps)])) ([], [])).2

/-- Space left while the tiers are filled: physical bytes, and logical bytes used by context in the near, far and host tiers. -/
structure Room where
  stack : Nat
  far : Nat
  host : Nat
  bed : Nat
  near : Map Nat
  farQ : Map Nat
  hostQ : Map Nat
  stackShort : Bool
  farShort : Bool
deriving DecidableEq, Repr

/-- Whether `n` more logical bytes stay within a quota; 0 is no limit (R138). -/
def quotaFits (quota used n : Nat) : Bool := quota == 0 || decide (used + n ≤ quota)

/-- Logical bytes, frame bytes and record bytes of some pages. -/
def pagesSize (a : AttnProfile) (ps : List (Nat × Page)) : Nat × Nat × Nat :=
  (pageLogical a * ps.length, lsum (ps.map (fun x => frameSize x.2.format (a.nk + a.nv))), ps.length * recBytes a)

/-- Whether a tier takes all pages of a conversation (R134, R138, R143). -/
def Room.takes (r : Room) (q : Placee) (ps : List (Nat × Page)) (p : Profile) (tier : Nat) : Bool :=
  let (logical, frames, recs) := pagesSize p.attn ps
  match tier with
  | 1 => decide (frames + recs ≤ r.stack) && quotaFits p.place.qNear ((mget r.near q.ctx).getD (q.x.xSize + q.x.geodeBytes)) logical
  | 2 => decide (frames ≤ r.far) && decide (recs ≤ r.stack) && quotaFits p.place.qFar ((mget r.farQ q.ctx).getD 0) logical
  | 4 => decide (frames + recs ≤ r.host) && quotaFits p.place.qHost ((mget r.hostQ q.ctx).getD 0) logical
  | _ => decide (frames + recs ≤ r.bed)

/-- Space left after a conversation is placed. -/
def Room.take (r : Room) (q : Placee) (ps : List (Nat × Page)) (p : Profile) (tier : Nat) : Room :=
  let (logical, frames, recs) := pagesSize p.attn ps
  match tier with
  | 1 => { r with stack := r.stack - (frames + recs)
                  near := mset r.near q.ctx ((mget r.near q.ctx).getD (q.x.xSize + q.x.geodeBytes) + logical) }
  | 2 => { r with far := r.far - frames, stack := r.stack - recs, farQ := mset r.farQ q.ctx ((mget r.farQ q.ctx).getD 0 + logical) }
  | 4 => { r with host := r.host - (frames + recs), hostQ := mset r.hostQ q.ctx ((mget r.hostQ q.ctx).getD 0 + logical) }
  | _ => { r with bed := r.bed - (frames + recs) }

/-- Tiers a conversation may be placed in, best first (R133, R134). While bedrock is read-only a conversation stored there stays, and one
whose target it is stays in the lowest tier that can take it; so does one for which bedrock has no room (R143). -/
def State.tierChoices (s : State) (target now_ : Nat) : List Nat :=
  let ro := s.rd F.TIER_BEDROCK.READ_ONLY = 1
  let host := if s.hostBytes = 0 then [] else [4]
  let bed := if ro then [] else [3]
  match target with
  | 1 => 1 :: 2 :: (host ++ bed)
  | 2 => 2 :: (host ++ bed)
  | _ => if ro && now_ = 3 then [3] else bed ++ host ++ [2, 1]

/-- Place one conversation. -/
def State.placeOne (s : State) (acc : Room × List (Placee × Nat)) (qp : Placee × List (Nat × Page)) : Room × List (Placee × Nat) :=
  let (q, ps) := qp
  match q.x.profile with
  | none => acc
  | some p =>
    let target := targetTier s.now q.x q.c
    let tier := if q.x.pinnedConv q.c && target == 1 then 1
      else ((s.tierChoices target q.c.placed).find? (acc.1.takes q ps p)).getD q.c.placed
    let r := acc.1.take q ps p tier
    ({ r with stackShort := r.stackShort || (target == 1 && tier != 1), farShort := r.farShort || (target == 2 && tier != 2) },
      acc.2 ++ [(q, tier)])

/-- Give every conversation its tier (R133, R134); TIER_PLACE_STATUS shows any shortfall. -/
def State.placeConvs (s : State) : State :=
  let other := lsum (s.ctxs.map (fun c => c.2.xSize + c.2.geodeBytes))
  let r0 : Room := ⟨s.stackBytes - other, s.farBytes, s.hostBytes, bedrockBytes - s.journalHeld, [], [], [], false, false⟩
  let (r, l) := s.placees.foldl s.placeOne (r0, [])
  let s1 := l.foldl (fun s x =>
    if x.1.away then s.modCtx x.1.ctx (fun y => { y with peers := mmod y.peers x.1.id (fun c => { c with placed := x.2 }) })
    else s.modConv x.1.ctx x.1.id (fun c => { c with placed := x.2 })) s
  (s1.wr F.TIER_PLACE_STATUS.STACKS_SHORT (b2n r.stackShort)).wr F.TIER_PLACE_STATUS.FAR_SHORT (b2n r.farShort)

/-! ### Tile SRAM -/

/-- Extents of 64 KiB that `n` frames of a size take in one tile (R123). -/
def sramExtents (size n : Nat) : Nat := if size ≤ 65536 then ceilDiv n (65536 / max 1 size) else n * ceilDiv size 65536

/-- Pages given to tile SRAM so far: context, page, tile, frame size and pool. -/
structure SramUse where
  ctx : Nat
  page : Nat
  tile : Nat
  size : Nat
  pool : Nat
deriving DecidableEq, Repr

/-- Extents a tile's chosen pages take. -/
def tileExtents (l : List SramUse) (tile : Nat) : Nat :=
  let mine := l.filter (fun u => u.tile == tile)
  lsum (((mine.map SramUse.pool).eraseDups).map (fun k =>
    let ps := mine.filter (fun u => u.pool == k)
    sramExtents ((ps.map SramUse.size).headD 0) ps.length))

/-- Whether a page of a conversation qualifies for tile SRAM (R135). -/
def State.sramWants (s : State) (q : Placee) (p : Profile) (pg : Page) : Bool :=
  let pages := pagesOf (q.c.len (headKey pg.layer pg.head))
  decide (pages ≤ pg.index + p.place.tSram) || decide (s.lv F.TIER_PLACE.SHARED_MIN ≤ pg.refs)

/-- Qualifying pages of a conversation, highest index first; a shared page through any conversation that references it. -/
def State.sramPages (s : State) (q : Placee) : List (Nat × Page) :=
  match q.x.profile with
  | none => []
  | some p =>
    if q.c.placed = 1 && s.now - q.c.lastAttend ≤ p.place.sramUs * 1000 then
      lsort (fun x => 2 ^ 25 - x.2.index) (((q.pages s.ownsSlot).filter (fun x => decide (x.2.tier ≤ 1) && s.sramWants q p x.2)))
    else []

/-- Give one page a tile, its own or the first from its preferred one upward with room (R129, R135). -/
def State.sramOne (s : State) (q : Placee) (acc : List SramUse) (x : Nat × Page) : List SramUse :=
  match q.x.profile with
  | none => acc
  | some p =>
    if acc.any (fun u => u.ctx == q.ctx && u.page == x.1) then acc
    else
      let np := p.attn.nk + p.attn.nv
      let size := frameSize x.2.format np
      let cap := s.lv F.TIER_SRAM.PAGE_KIB / 64
      let pref := if x.2.tier = 0 then x.2.home
        else preferred 1536 x.2.conv x.2.layer x.2.head x.2.index p.attn.kvheads (s.pageWidth q.ctx p.place x.2)
      let use_ (t : Nat) : SramUse := ⟨q.ctx, x.1, t, size, x.2.format * 2 ^ 20 + p.attn.dims⟩
      match (unitsFrom 1536 pref).find? (fun t => decide (tileExtents (use_ t :: acc) t ≤ cap)) with
      | some t => acc ++ [use_ t]
      | none => acc

/-- Pages that belong in tile SRAM now, with their tiles (R135). -/
def State.sramList (s : State) : List SramUse :=
  s.ranked.foldl (fun acc q => (s.sramPages q).foldl (s.sramOne q) acc) []

/-! ### Who needs a page -/

/-- Whether an index lies in a page range of keys. -/
def inRange (kf ke index : Nat) : Bool := decide (kf < ke) && decide (kf / 128 ≤ index) && decide (index < pagesOf ke)

/-- Whether an admitted request that is not over needs a page held here: it attends to it, or appends to it (R135, R137, R131). -/
def State.reqNeeds (s : State) (ctx num : Nat) (pg : Page) (r : Req) : Bool :=
  r.ctx == ctx && r.admittedAt.isSome && !r.effectDone && r.desc.layer == pg.layer && decide (r.desc.kvhFirst ≤ pg.head) &&
    decide (pg.head < r.desc.kvhFirst + r.desc.kvhCount) &&
    (match (s.conv? ctx r.desc.conv).bind (fun c => c.entry (headKey pg.layer pg.head) pg.index) with
     | some e => s.ownsSlot e.member && e.page == num
     | none => false) &&
    (if r.desc.isAttend then inRange (keyRange r.desc r.n).1 (keyRange r.desc r.n).2 pg.index
     else r.desc.opcode == 3 && r.desc.tokenFirst % 128 != 0 && r.desc.tokenFirst / 128 == pg.index)

/-- Whether an admitted sub-request needs a page held here. -/
def State.subNeeds (s : State) (ctx num : Nat) (pg : Page) (q : SubReq) : Bool :=
  let b := parseSub q.body
  q.ctx == ctx && q.admittedAt.isSome && b.layer == pg.layer && decide (b.kvhFirst ≤ pg.head) &&
    decide (pg.head < b.kvhFirst + b.kvhCount) && inRange b.keyFirst b.keyEnd pg.index &&
    (s.ctx ctx).peerPage ctx b.conv (headKey pg.layer pg.head) pg.index == some num

/-- Class of the first work that waits on a page (R137): a request, a sub-request, or a demotion of a page in bedrock. -/
def State.waitsOn (s : State) (ctx num : Nat) (pg : Page) : Option Nat :=
  ((s.reqs.filter (s.reqNeeds ctx num pg)).map (fun r => clsNum r.cls) ++
    (s.comp.subs.filter (s.subNeeds ctx num pg)).map (fun q => (parseSub q.body).cls % 4) ++
    (s.reqs.filter (fun r => pg.demotePending && r.ctx == ctx && r.demotions.contains num)).map (fun r => clsNum r.cls)).foldl
      (fun acc c => some (match acc with | some x => min x c | none => c)) none

/-! ### Starting moves -/

/-- Height of a tier: tile SRAM, stacks, far tier, host tier, bedrock. -/
def tierDepth (t : Nat) : Nat := if t = 3 then 4 else if t = 4 then 3 else t

/-- Next tier on the way to the wanted one: pages from bedrock land in the far tier, so do those from the host tier that go on to the stacks,
and tile SRAM is filled from the stacks (R136). -/
def nextHop (cur want : Nat) : Nat :=
  if cur = 3 && want != 3 then 2
  else if cur = 4 && want ≤ 1 then 2
  else if want = 0 && cur = 2 then 1
  else want

/-- A move placement wants: its priority (R137), the page and its tier, the tier and the tile or the member it goes to. -/
structure Wish where
  prio : Nat
  ctx : Nat
  page : Nat
  cur : Nat
  tier : Nat
  tile : Nat
  member : Option Nat
deriving DecidableEq, Repr

/-- Stripe position a sealed page will have when it leaves the tail region, or has now (R132, R126). -/
def futurePos (index n nc : Nat) (pl : PlaceProfile) : Nat :=
  if nc ≤ 1 || pl.stripeMin = 0 then 0
  else if pl.stripeMin < index + pl.tail + 1 || (pl.stripeMin < n && index + pl.tail < n) then index % nc
  else 0

/-- The member a page belongs to, when it is another node: its stripe member from the home (R132), and the home from a member that is not
its share node, as an unsealed page is (R126, R163). -/
def State.memberFor (s : State) (q : Placee) (p : Profile) (pg : Page) : Option Nat :=
  let n := pagesOf (q.c.len (headKey pg.layer pg.head))
  let k := if q.away then
      (let m := memberOf q.c.home (if pg.isSealed then stripePos pg.index n s.nc p.place else 0) s.nc
       if s.ownsSlot m then m else q.c.home)
    else if pg.isSealed then memberOf q.c.home (futurePos pg.index n s.nc p.place) s.nc else q.c.home
  if s.ownsSlot k || (q.away && n = 0 && pg.isSealed) then none else some k

/-- Wish of one page held here: to another member (R132), else to its tier. -/
def State.wishOf (s : State) (sram : List SramUse) (q : Placee) (p : Profile) (x : Nat × Page) : Option Wish :=
  let pg := x.2
  let busy := s.tier.moves.any (fun m => m.ctx == q.ctx && m.page == x.1 && m.incoming.isNone)
  let cls := q.x.reservedClass
  if busy || (pg.demotePending && pg.tier != 3) then none
  else match (if pg.poisoned || pg.demotePending then none else s.memberFor q p pg) with
    | some k => if (s.peerConn q.ctx k).isSome then some ⟨if q.away then 12 else 4 + cls, q.ctx, x.1, pg.tier, 0, 0, some k⟩ else none
    | none =>
      let tile := sram.find? (fun u => u.ctx == q.ctx && u.page == x.1)
      let waits := s.waitsOn q.ctx x.1 pg
      let want := if tile.isSome then 0
        else if pg.tier = 3 && waits.isSome then 2
        else if pg.tier = 4 && ((s.hostPageSlow q.ctx pg && waits.isSome) || !pg.isSealed && waits.isSome) then 2 else q.c.placed
      let hop := nextHop pg.tier want
      if hop = pg.tier && (pg.tier != 0 || (tile.map SramUse.tile) == some pg.home) then none
      else
        let up := decide (tierDepth hop < tierDepth pg.tier)
        let ahead := (pg.layer + p.attn.layers - (q.c.hot + 1) % max 1 p.attn.layers) % max 1 p.attn.layers
        let prio := match (if up then waits else none) with
          | some c => c
          | none => if up && ahead < s.lv F.TIER_PLACE.LOOKAHEAD then 4 + cls else 12
        some ⟨prio, q.ctx, x.1, pg.tier, hop, (tile.map SramUse.tile).getD 0, none⟩

/-- Order of the pages of a conversation: layers from the one after the named one, heads, indices (R136). -/
def layerOrder (q : Placee) (p : Profile) (pg : Page) : Nat :=
  let l := max 1 p.attn.layers
  (((pg.layer + l - (q.c.hot + 1) % l) % l) * 128 + pg.head) * 2 ^ 25 + pg.index

/-- A move downward out of a tier that a promotion wants frees space for it (R137). -/
def Wish.freeing (all : List Wish) (w : Wish) : Wish :=
  if w.prio = 12 && w.member.isNone && tierDepth w.cur < tierDepth w.tier && all.any (fun v => v.prio < 8 && v.member.isNone && v.tier == w.cur) then
    { w with prio := 8 }
  else w

/-- All wishes, by priority, rank and layer order (R136, R137). -/
def State.wishes (s : State) : List Wish :=
  let sram := s.sramList
  let l := s.placees.flatMap (fun q => match q.1.x.profile with
    | none => []
    | some p => (lsort (fun x => layerOrder q.1 p x.2) q.2).filterMap (s.wishOf sram q.1 p))
  lsort Wish.prio (l.map (Wish.freeing l))

/-- Reserve the destination of a move: a slot in the wanted tile, in the page's preferred channel or the next with a free slot, in a far-tier
channel, in the host window, in bedrock (R129, R130). -/
def State.destSpot (s : State) (w : Wish) (p : Profile) (pg : Page) : Option (Spot × State) :=
  let keep := if pg.tier ≤ 2 then some (pg.recHome, pg.recSlot) else none
  let pref := preferred 192 pg.conv pg.layer pg.head pg.index p.attn.kvheads (s.pageWidth w.ctx p.place pg)
  let go (s : State) (units : List Nat) : Option (Spot × State) := s.reserveIn p.attn pg.format w.tier units keep pref
  match w.tier with
  | 0 => go s [w.tile]
  | 1 => go s (s.channelsFrom pref)
  | 2 => let (x, s1) := s.draw
    go s1 (s1.farFrom x)
  | 4 => if s.hostBytes = 0 then none else go s [0]
  | _ => if s.rd F.TIER_BEDROCK.READ_ONLY = 1 then none else go s [0]

/-- Time the movers need for `n` bytes at MOVE_GBPS (R137). -/
def State.moveTime (s : State) (n : Nat) : Nat := ceilDiv n (max 1 (s.lv F.TIER_PLACE.MOVE_GBPS))

/-- The MOVE message of a page (Table 13.3). -/
def moveBody (id ctx : Nat) (p : Profile) (pg : Page) : Bytes :=
  leBytes 4 id ++ leBytes 4 pg.conv ++ leBytes 2 pg.layer ++ leBytes 1 pg.head ++ leBytes 1 0 ++ leBytes 4 pg.index ++
    List.replicate 16 0 ++ parcelBytes p.attn ctx pg

/-- Enter a move that starts: the movers are busy with it, its C3 part competes for the itinerary when it touches stacks or tiles, and an
access to the host window goes out over CXL.cache (R130, R137, R32, R144). -/
def State.addMove (s : State) (w : Wish) (p : Profile) (pg : Page) (dst : Spot) : State :=
  let n := pagePhysical p.attn pg
  let ready := max s.now s.tier.moversUntil + s.moveTime n
  let id := s.tier.nextMove
  let s1 : State := { s with tier := { s.tier with
    moves := s.tier.moves ++ [⟨id, w.ctx, w.page, pg.tier, pg.home, dst, w.member, none, .copying, false, ready⟩]
    nextMove := id + 1, moversUntil := ready } }
  let s2 := if pg.tier ≤ 1 || (w.member.isNone && dst.tier ≤ 1) then s1.housekeep w.ctx (.move id) else s1
  let s3 := if pg.tier = 3 then s2.readParcel w.ctx w.page else s2
  let s4 := if pg.tier = 4 then s3.emit (.cacheAccess false (s.hostAddr p.attn pg.format pg.spot) n) else s3
  if w.member.isNone && dst.tier = 4 then s4.emit (.cacheAccess true (s4.hostAddr p.attn pg.format dst) n) else s4

/-- Start one move: the destination slot is reserved and the copy begins (R130, R131). The movers take on no more than they carry in a tick
at MOVE_GBPS, so that a later boundary's priorities come in (R137). -/
def State.startMove (s : State) (w : Wish) : State :=
  match mget (s.ctx w.ctx).pages w.page, (s.ctx w.ctx).profile with
  | some pg, some p =>
    if s.now + s.tick.periodUs * 1000 < s.tier.moversUntil then s
    else if pg.tier = 4 && s.hostBytes = 0 then s
    else
      match w.member with
      | some m => match s.peerConn w.ctx m with
        | none => s
        | some k => (s.addMove w p pg pg.spot).sendSend k (.peer 5) 5 (moveBody s.tier.nextMove w.ctx p pg) 3
      | none => match s.destSpot w p pg with
        | none => s
        | some (x, s1) =>
          let s2 := s1.addMove w p pg x
          if x.tier = 0 then s2.giveLines p.attn pg.format w.ctx w.page x else s2
  | _, _ => s

/-- Start the moves that may start, by priority (R130, R137). -/
def State.startMoves (s : State) : State := s.wishes.foldl State.startMove s

/-! ### Ending moves -/

/-- Whether a task that is running, placed or carried reads a page (R130). -/
def State.pageInUse (s : State) (ctx page : Nat) : Bool :=
  let hit (t : Task) : Bool := t.ctx == ctx && (match t.kind with
    | .page _ _ _ _ _ _ _ => s.taskPageNum t == page
    | .bound _ _ _ _ _ => s.taskPageNum t == page
    | .demote n _ _ => n == page
    | .assay id => s.health.assays.any (fun a => a.id == id && a.page == page)
    | _ => false)
  s.itin.units.any (fun u => u.2.running.any hit || u.2.placed.any hit || u.2.carry.any hit)

/-- Whether an admitted request or sub-request that is not over still counts on a page where it lies (R131). -/
def State.pageNeeded (s : State) (ctx num : Nat) (pg : Page) : Bool :=
  s.reqs.any (s.reqNeeds ctx num pg) || s.comp.subs.any (s.subNeeds ctx num pg)

/-- Whether an admitted request that is not over counts on a page of a conversation that a member holds: it has a sub-request whose pages
include it, or will send one (R131). -/
def State.awayNeeded (s : State) (ctx : Nat) (key : Nat) (e : PageEntry) : Bool :=
  let hk := key / 2 ^ 25
  s.reqs.any (fun r => r.ctx == ctx && r.admittedAt.isSome && r.desc.isAttend && r.desc.layer == hk / 128 &&
    decide (r.desc.kvhFirst ≤ hk % 128) && decide (hk % 128 < r.desc.kvhFirst + r.desc.kvhCount) &&
    inRange (keyRange r.desc r.n).1 (keyRange r.desc r.n).2 (key % 2 ^ 25) &&
    (match (s.conv? ctx r.desc.conv).bind (fun c => mget c.pageMap key) with
     | some x => x.member == e.member && x.leaf == e.leaf
     | none => false))

/-- Remove a move. -/
def State.dropMove (s : State) (id : Nat) (own : Bool) : State :=
  { s with tier := { s.tier with moves := s.tier.moves.filter (fun m => !(m.id == id && m.incoming.isNone == own)) } }

/-- Change a move of a page held here. -/
def State.modMove (s : State) (id : Nat) (f : Move → Move) : State :=
  { s with tier := { s.tier with moves := lmod s.tier.moves (fun x => x.id == id && x.incoming.isNone) f } }

/-- Commit a move within the node (R130). -/
def State.commitLocal (s : State) (m : Move) : State :=
  ((s.dropMove m.id true).putAt m.ctx m.page m.dst).bump F.TIER_MOVES.COMMITS

/-- Page-map entries that name a local page now name a member, with what the page's record says (R125, R131). -/
def State.pointAway (s : State) (ctx page member : Nat) (pg : Page) : State :=
  s.modCtx ctx (fun x => { x with convs := mall x.convs (fun _ c => { c with pageMap := mall c.pageMap (fun _ e =>
    if s.ownsSlot e.member && e.page == page then
      { e with member := member, page := 0, rung := pg.rung, fmt := pg.format, shared := pg.shared, asked := !pg.isSealed } else e) }) })

/-- Commit a move to another node: the page map changes, the destination is told, the source slot is freed (R131, R287). -/
def State.commitAway (s : State) (m : Move) (member : Nat) : State :=
  match mget (s.ctx m.ctx).pages m.page with
  | none => s.dropMove m.id true
  | some pg =>
    let s1 := ((s.dropMove m.id true).pointAway m.ctx m.page member pg).journal m.ctx pg.slot (jentry 8 pg.conv pg.layer pg.head pg.index)
    let s2 := match s1.peerConn m.ctx member with
      | some k => s1.sendSend k (.peer 7) 7 (leBytes 4 m.id) 3
      | none => s1
    (s2.freePage m.ctx m.page).bump F.TIER_MOVES.COMMITS

/-- Length of a head as a request that this boundary may admit would see it: with the APPENDs already admitted and those it can admit
before it (R42, R132). -/
def State.lengthAhead (s : State) (r : Req) (c : Conv) (hk : Nat) : Nat :=
  ((s.reqs.filter (fun q => q.ctx == r.ctx && q.desc.conv == r.desc.conv && q.desc.opcode == 3 && !q.effectDone && q.desc.heads.contains hk &&
    (q.admittedAt.isSome || (s.eligible q.fetchedAt && orderedBefore q r)))).map (fun q => q.desc.tokenFirst + q.desc.tokenSpan)).foldl max (c.len hk)

/-- Whether this boundary may admit a request that puts a page of a conversation in a member's share (R132). -/
def State.shareDue (s : State) (ctx num member : Nat) (pg : Page) : Bool :=
  let hk := headKey pg.layer pg.head
  s.reqs.any (fun r => r.ctx == ctx && r.desc.isAttend && r.admittedAt.isNone && s.eligible r.fetchedAt && r.desc.heads.contains hk &&
    (match s.conv? ctx r.desc.conv, (s.ctx ctx).profile with
     | some c, some p =>
       (match c.entry hk pg.index with | some e => s.ownsSlot e.member && e.page == num | none => false) &&
         memberOf c.home (stripePos pg.index (pagesOf (s.lengthAhead r c hk)) s.nc p.place) s.nc == member
     | _, _ => false))

/-- Note at a boundary that a staged copy is wanted by a request about to be admitted (R132). -/
def State.markDue (s : State) : State :=
  { s with tier := { s.tier with moves := s.tier.moves.map (fun m => match m.incoming, m.member, mget (s.ctx m.ctx).pages m.page with
    | none, some k, some pg => { m with due := m.due || s.shareDue m.ctx m.page k pg }
    | _, _, _ => m) } }

/-- Take an incoming page into the records and, at its home, into the page maps: it gets the lowest free number (R124, R125, R131, R287).
None while no number is free. -/
def State.takeIn (s : State) (m : Move) (pg : Page) (p : Profile) : Option State :=
  let hk := headKey pg.layer pg.head
  let key := pageKey hk pg.index
  let node := m.member.bind (fun k => (s.conn? k).map (fun c => c.entry.peerId))
  let held (e : PageEntry) : Bool := !s.ownsSlot e.member && !e.lost &&
    (match s.comp.current with | some x => some (lget x.nodes e.member []) == node | none => false)
  let mine := (s.ctx m.ctx).convs.filter (fun c => match mget c.2.pageMap key with
    | some e => held e && (c.1 == pg.conv || e.shared)
    | none => false)
  match (s.ctx m.ctx).freePage with
  | none => none
  | some num =>
    let s1 : State := { s with tier := { s.tier with moves := s.tier.moves.filter (fun x => !(x.id == m.id && x.incoming.isSome && x.member == m.member)) } }
    let q : Page := if mine.isEmpty then pg else { pg with refs := mine.length }
    let s2 := s1.putPage m.ctx num (q.put m.dst)
    let e := entryOf pg.slot num q
    let s3 := if mine.isEmpty then
        s2.modPeer m.ctx pg.conv s.mainSlot (fun c => { c with pageMap := mset c.pageMap key e })
      else s2.modCtx m.ctx (fun x => { x with convs := mall x.convs (fun n c =>
        if mine.any (fun y => y.1 == n) then { c with pageMap := mset c.pageMap key { e with poisoned := pg.poisoned } } else c) })
    some ((s3.journal m.ctx pg.slot { jentry 7 pg.conv pg.layer pg.head pg.index with data := parcelBytes p.attn m.ctx pg }).bump
      F.TIER_MOVES.COMMITS)

/-- An incoming move: at the home it commits at a boundary at which no request counts on the page where it lay, and the source is told;
elsewhere once the home has committed it (R131). -/
def State.commitIncoming (s : State) (m : Move) (pg : Page) : State :=
  match (s.ctx m.ctx).profile, m.member with
  | some p, some k =>
    let key := pageKey (headKey pg.layer pg.head) pg.index
    match (s.conv? m.ctx pg.conv).bind (fun c => mget c.pageMap key) with
    | some e =>
      if s.ownsSlot e.member || s.awayNeeded m.ctx key e then s
      else match s.takeIn m pg p with
        | some s1 => s1.sendSend k (.peer 7) 7 (leBytes 4 m.id) 3
        | none => s
    | none => if m.phase == .acked then (s.takeIn m pg p).getD s else s
  | _, _ => s

/-- Commit one move if its conditions hold at this boundary (R130, R131, R132); a source that the home has told frees its slot once no task
of its own references it. -/
def State.commitMove (s : State) (m : Move) : State :=
  match m.incoming, m.member, mget (s.ctx m.ctx).pages m.page with
  | some pg, _, _ => s.commitIncoming m pg
  | none, none, _ => if m.phase == .copied && !s.pageInUse m.ctx m.page then s.commitLocal m else s
  | none, some k, some pg =>
    if s.pageInUse m.ctx m.page || s.pageNeeded m.ctx m.page pg then s
    else if m.phase == .freed then
      ((s.dropMove m.id true).journal m.ctx pg.slot (jentry 8 pg.conv pg.layer pg.head pg.index)).freePage m.ctx m.page
    else if m.phase == .acked && m.due then s.commitAway m k
    else s
  | none, some _, none => s.dropMove m.id true

/-- Commits at a boundary, before the itinerary is compiled (R130). -/
def State.commitMoves (s : State) : State := let s1 := s.markDue
  s1.tier.moves.foldl State.commitMove s1

/-- MOVE_COPY_COMPLETE: a copy within the node is complete and every pebble checked; a bad one poisons the page and the move goes on (R130,
Table 7.2). It is not complete before the movers' rate allows it, nor before its C3 part has run (R137). -/
def State.copyDone (s : State) (id : Nat) (bad : Option Nat) : State :=
  match s.tier.moves.find? (fun m => m.id == id && m.incoming.isNone && m.member.isNone && m.phase == .copying) with
  | none => s
  | some m =>
    if s.now < m.ready || s.hkDue (.move id) then s
    else
      let s0 := s.modMove id (fun x => { x with phase := .copied })
      let s1 := if m.dst.tier = 0 then s0.writeLines m.dst.home m.ctx m.page else s0
      match bad.or ((mget (s.ctx m.ctx).pages m.page).bind Page.badPeb) with
      | none => s1
      | some peb => (s1.spoil m.ctx m.page peb).corrupt m.ctx m.page peb .mover {}

/-- MOVE_COPY_COMPLETE. -/
def execMoveCopyComplete (t moveId : Nat) (bad : Option Nat) (s : State) : Host.Outcome State Fault Refusal :=
  .next ((s.at_ t).copyDone moveId bad)

/-! ### Moves between nodes, at the destination -/

/-- The page of a parcel whose shape is that of its context, and the pebble that fails its check. -/
def movedPage (p : Profile) (b : Bytes) : Option (Page × Option Nat) :=
  let pg := pageOfParcel p.attn b
  if fmtValid pg.format && b.length == parcelSize p.attn pg.format then
    some (if pg.isSealed then pg else pg.relink p.attn, pg.badPeb)
  else none

/-- A MOVE message: the parcel becomes a staged copy in the page's preferred channel or the far tier, and is acknowledged; refused without
room or context (R131, R129, Table 13.3). REFS and SHARED are the source record's (Table 7.2). -/
def State.onMove (s : State) (slot : Nat) (body : Bytes) : State :=
  let id := le body 8 4
  let ctx := s.connCtx slot
  let ack (s : State) (o : Nat) : State := s.sendSend slot (.peer 6) 6 (leBytes 4 id ++ leBytes 1 o) 3
  match (if s.inService ctx then (s.ctx ctx).profile else none) with
  | none => ack s 2
  | some p =>
    match movedPage p (body.drop 0x28) with
    | none => ack s 2
    | some (pg, bad) =>
      let c := ((s.ctx ctx).conv? pg.conv).getD (Conv.remote s.mainSlot)
      let n := max (pg.index + 1) (pagesOf (c.len (headKey pg.layer pg.head)))
      match s.placeNew p { c with placed := 1 } n pg with
      | none => ack s 2
      | some (x, s0) =>
        let page : Page := { pg with poisoned := pg.poisoned || bad.isSome, slot := s.mainSlot, pass := 0, passFmt := 0, demotePending := false }
        let s1 : State := { s0 with tier := { s0.tier with
          moves := s0.tier.moves.filter (fun m => !(m.id == id && m.incoming.isSome && m.member == some slot)) ++
            [⟨id, ctx, 0, x.tier, x.home, x, some slot, some page, .staged, false, 0⟩] } }
        let s2 := match bad with
          | some i => errRecord s1 .pebbleCorrupt .mover { ctx := some ctx, location := pg.index, detail := i }
          | none => s1
        ack s2 (b2n page.poisoned)

/-- A MOVE_ACK message: complete, complete with a poisoned pebble, or refused (Table 13.3, R90). -/
def State.onMoveAck (s : State) (slot : Nat) (body : Bytes) : State :=
  let id := le body 8 4
  match s.tier.moves.find? (fun m => m.id == id && m.incoming.isNone && m.member.isSome && m.phase == .copying && m.ctx == s.connCtx slot) with
  | none => s
  | some m => match le body 0x0C 1 with
    | 0 => s.modMove id (fun x => { x with phase := .acked })
    | 1 =>
      let bad := ((mget (s.ctx m.ctx).pages m.page).bind Page.badPeb).getD 0
      (s.modMove id (fun x => { x with phase := .acked })).corrupt m.ctx m.page bad .mover {}
    | _ => (s.dropMove id true).bump F.TIER_MOVES.ABORTS

/-- A MOVE_COMMIT message: at a destination the home has committed the staged copy, which becomes a page; at a source the slot is freed once no
task of its own references it (R131, R124, R287). -/
def State.onMoveCommit (s : State) (slot : Nat) (body : Bytes) : State :=
  let id := le body 8 4
  match s.tier.moves.find? (fun m => m.id == id && m.incoming.isSome && m.member == some slot) with
  | some m =>
    match m.incoming, (s.ctx m.ctx).profile with
    | some pg, some p =>
      let wait : State := { s with tier := { s.tier with
        moves := lmod s.tier.moves (fun x => x.id == id && x.incoming.isSome && x.member == some slot) (fun x => { x with phase := .acked }) } }
      (s.takeIn m pg p).getD wait
    | _, _ => s
  | none => match s.tier.moves.find? (fun m => m.id == id && m.incoming.isNone && m.member.isSome && m.ctx == s.connCtx slot) with
    | some m => ((s.modMove id (fun x => { x with phase := .freed })).commitMove { m with phase := .freed })
    | none => s

end Sys2Proof.Machine
end

