-- ==== Sys2Proof/Machine/Tiers.lean ====
section
/-! DEFINITION. The logical cache space, lease gaps, late and failed tiers, and bedrock's own work (07_tiers_placement.md, R141-R152;
06_stratum_engines.md, R112-R114). -/
namespace Sys2Proof.Machine

/-! ### The logical cache space -/

/-- Where an offset of a context window lies (Table 7.4): page number, part (0 record, 1 sketch, 2 frame), offset in it; none for
frames that are not exposed. -/
def windowPlace (p : Profile) (off : Nat) : Option (Nat × Nat × Nat) :=
  if off < 2 ^ 40 then some (off / 64, 0, off % 64)
  else if off < 2 ^ 44 then
    let o := off - 2 ^ 40
    some (o / (4 * p.attn.dk), 1, o % (4 * p.attn.dk))
  else
    let o := off - 2 ^ 44
    let stride := ceilDiv (frameSize p.ladder.fresh (p.attn.nk + p.attn.nv)) 4096 * 4096
    if o / stride < (2 ^ 48 - 2 ^ 44) / stride then some (o / stride, 2, o % stride) else none

/-- 64 bytes of a page's part, zeros beyond its end (R146, R147). -/
def partLine (ctx : Nat) (pg : Page) (part off : Nat) : Bytes :=
  let b := match part with
    | 0 => pg.record ctx
    | 1 => pg.sketch
    | _ => pg.pebbles.flatten
  padTo 64 (slice b off 64)

/-- 64 bytes of a page's part as the node reads them: a frame in tile SRAM through its lines' tags and valid bits (R237). -/
def State.pageLine (s : State) (ctx num : Nat) (pg : Page) (part off : Nat) : Bytes :=
  if pg.tier = 0 && part = 2 then
    (s.readLine pg.home ctx num (off / 64) pg.pebbles.flatten).getD (List.replicate 64 0)
  else partLine ctx pg part off

/-- Whether a page can be read over CXL.mem: in tile SRAM, the stacks or the far tier, and not poisoned (R147). -/
def Page.readable (pg : Page) : Bool := decide (pg.tier ≤ 2) && !pg.poisoned

/-- Whether a context's window is open: state 2 with HDM_READ (Table 11.2). -/
def Ctx.windowOpen (x : Ctx) : Bool := x.hdmRead && x.phase == .inService

/-- What a 64-byte line of the range reads as; none for poison (R147). An address of the frame area that belongs to no exposed page number
reads as zeros (DESIGN CHOICE, notes/assumptions/40.md: the manual is silent). -/
def State.hdmLine (s : State) (addr : Nat) : Option Bytes :=
  let x := s.ctx (addr / 2 ^ 48)
  if !x.windowOpen then none
  else match x.profile with
    | none => some (List.replicate 64 0)
    | some p => match windowPlace p (addr % 2 ^ 48) with
      | none => some (List.replicate 64 0)
      | some (page, part, off) => match mget x.pages page with
        | none => some (List.replicate 64 0)
        | some pg => if pg.readable then some (s.pageLine (addr / 2 ^ 48) page pg part off) else none

/-- Track the unit of a line (R148); a full filter invalidates the oldest unit first. -/
def State.trackUnit (s : State) (u : Nat) : State :=
  if s.tier.snoop.contains u then s
  else match s.tier.snoop with
    | old :: rest =>
      if 65536 ≤ s.tier.snoop.length then
        { s.emit (.snoop old) with tier := { s.tier with snoop := rest ++ [u] } }
      else { s with tier := { s.tier with snoop := s.tier.snoop ++ [u] } }
    | [] => { s with tier := { s.tier with snoop := [u] } }

/-- Answer a CXL.mem read of one line (R147, R148). -/
def State.hdmServe (s : State) (addr : Nat) : State :=
  let s1 := s.trackUnit (addr / 4096)
  match s.hdmLine addr with
  | some b => s1.emit (.hdmData b)
  | none => (s1.emit .hdmPoison).bump F.TIER_HDM.POISON_READS

/-- Lines a read covers. -/
def linesOf (addr len : Nat) : List Nat := if len = 0 then [] else (span (addr / 64) ((addr + len + 63) / 64)).map (64 * ·)

/-- Answer a CXL.mem read, line by line. -/
def State.hdmServeAll (s : State) (addr len : Nat) : State := (linesOf addr len).foldl State.hdmServe s

/-- The engine whose channel holds what a read needs: that of a readable page in the stacks (R112). -/
def State.hdmEngine (s : State) (addr : Nat) : Option Nat :=
  let x := s.ctx (addr / 2 ^ 48)
  match (if x.windowOpen then x.profile else none) with
  | none => none
  | some p => match windowPlace p (addr % 2 ^ 48) with
    | none => none
    | some (page, _, _) => match mget x.pages page with
      | none => none
      | some pg => if pg.readable && pg.tier == 1 then some pg.home else none

/-- An unplanned access to a channel under lease waits for a lease boundary; those past the 32 a channel accepts wait for credit, and none
is dropped (R112). -/
def State.waitLease (s : State) (n : Nat) (w : Waiter) : State := s.modEngine n (fun e => { e with waiters := e.waiters ++ [w] })

/-- A CXL.mem access that has its credit: a read of so many bytes, which may wait for a lease boundary, or, with no length, a write, which
completes and is discarded (R112, R147). -/
def State.hdmAccess (s : State) (addr : Nat) : Option Nat → State
  | none => (s.emit .hdmDone).bump F.TIER_HDM.WRITES_DROPPED
  | some len => match s.hdmEngine addr with
    | some n => if s.leased n then s.waitLease n (.hdm s.now addr len) else s.hdmServeAll addr len
    | none => s.hdmServeAll addr len

/-- An access to the HDM range wakes the node; in N3 and deeper its credit is withheld until the exit completes (R304). -/
def State.hdmCredit (s : State) (addr : Nat) (len : Option Nat) : State :=
  if s.rd F.TIER_HDM.EN = 0 || 2 ^ 57 ≤ addr || !s.tier.cxlUp then s
  else
    let s1 := s.wakeUp
    if 3 ≤ s1.rd F.PWR_STATE.CURRENT then { s1 with tier := { s1.tier with withheld := s1.tier.withheld ++ [(addr, len)] } }
    else s1.hdmAccess addr len

/-- The accesses whose credits were withheld are served, in the order they came (R304). -/
def State.hdmRelease (s : State) : State :=
  s.tier.withheld.foldl (fun s x => s.hdmAccess x.1 x.2) { s with tier := { s.tier with withheld := [] } }

/-- HDM_READ: a CXL.mem read of the logical cache space (R146-R148, R112, R304). -/
def execHdmRead (t addr len : Nat) (s : State) : Host.Outcome State Fault Refusal := .next ((s.at_ t).hdmCredit addr (some len))

/-- HDM_WRITE: a CXL.mem write completes and is discarded (R147). -/
def execHdmWrite (t addr : Nat) (_ : Bytes) (s : State) : Host.Outcome State Fault Refusal := .next ((s.at_ t).hdmCredit addr none)

/-- Snoop the tracked units of a page whose content changed; a retiring number then waits for their completion (R148, R124). -/
def State.snoopPage (s : State) (ctx page : Nat) : State :=
  match (s.ctx ctx).profile with
  | none => s
  | some p =>
    let us := (pageUnits ctx p page).filter (fun u => s.tier.snoop.contains u)
    let s1 := us.foldl (fun s u => s.emit (.snoop u)) s
    let wait := (s.ctx ctx).retiring.contains page && !s.tier.invalidating.contains (ctx, page)
    { s1 with tier := { s1.tier with
      snoop := s1.tier.snoop.filter (fun u => !us.contains u)
      invalidating := if wait then s1.tier.invalidating ++ [(ctx, page)] else s1.tier.invalidating } }

/-- Back-invalidate snoops at a boundary for everything that changed since the last one (R148). -/
def State.backInvalidate (s : State) : State :=
  let s1 := s.tier.changed.foldl (fun s x => s.snoopPage x.1 x.2) s
  { s1 with tier := { s1.tier with changed := [] } }

/-- SNOOP_COMPLETE: a retiring number's lines are invalidated and it is free again (R124). -/
def execSnoopComplete (t ctx page : Nat) (s : State) : Host.Outcome State Fault Refusal :=
  let s := s.at_ t
  if s.tier.invalidating.contains (ctx, page) then
    let s1 : State := { s with tier := { s.tier with invalidating := s.tier.invalidating.filter (fun e => e != (ctx, page)) } }
    .next (s1.modCtx ctx (fun x => { x with retiring := x.retiring.filter (fun n => n != page) }))
  else .next s

/-! ### Lease gaps -/

/-- Put eight words into DBG_RD_DATA. -/
def State.dbgData (s : State) (ws : List Nat) : State :=
  (List.range 8).foldl (fun s n => s.wr F.DBG_RD_DATA.DATA (lget ws n 0) n) s

/-- The tweak of a stored line: its address in its unit, the TIER code, the unit (R241). -/
def xtsTweak (tier unit line : Nat) : BitVec 128 := BitVec.ofNat 128 (line % 2 ^ 64 + tier % 16 * 2 ^ 64 + unit % 4096 * 2 ^ 68)

/-- A debug read ends with the stored form of the selected line, whose content the manual leaves open: eight free words (R241, R370). -/
def State.dbgCipher (s : State) : State :=
  let tier := s.rd F.DBG_RD_SEL.TIER
  let tweak := xtsTweak tier (if tier = 4 then 0 else s.rd F.DBG_RD_SEL.UNIT) (s.rd F.DBG_RD_SEL.LINE)
  let ws := (List.range 8).map (fun i => (Config.storedWord s.free tweak i).toNat)
  let s1 := ({ s with free := s.free + 1 } : State).dbgData ws
  ((s1.wr F.DBG_RD_CTL.BUSY 0).wr F.DBG_RD_CTL.DONE 1)

/-- Serve an access that waited for a lease boundary (R112, R113); a debug read leaves the counters (R370). -/
def State.serveWaiter (s : State) (w : Waiter) : State := match w with
  | .hdm at_ addr len => ((s.bump F.TIER_SE_LEASE.WAITS).peak F.TIER_SE_LEASE.MAX_WAIT_NS (s.now - at_)).hdmServeAll addr len
  | .debug _ => s.dbgCipher

/-- Whether a waiting access is one of CXL.mem. -/
def Waiter.isHdm : Waiter → Bool
  | .hdm _ _ _ => true
  | .debug _ => false

/-- Accesses a channel accepts at a time (R112). -/
def leaseAccepts : Nat := 32

/-- When a waiting access arrived. -/
def Waiter.since : Waiter → Nat
  | .hdm at_ _ _ => at_
  | .debug at_ => at_

/-- Whether a lease boundary has come for the accesses that wait on a channel: the lease that held the first of them is over, or none is
held (R112). -/
def State.leaseBoundary (s : State) (ch : Nat) : Bool := match (s.engine ch).waiters with
  | [] => false
  | w :: _ => !s.leased ch || (s.engine ch).leases.any (fun l => decide (w.since < l.2) && decide (l.2 ≤ s.now))

/-- Every running task that holds the lease of a channel takes 80 ns longer, and the leases that follow move with it (R114). -/
def State.delayLeases (s : State) (ch : Nat) : State :=
  let units := s.itin.units.map (fun u =>
    (u.1, { u.2 with running := u.2.running.map (fun t => if s.leaseChannel u.1 t == some ch then t.delay 80000 else t) }))
  ({ s with itin := { s.itin with units := units } } : State).modEngine ch (fun e => { e with
    leases := e.leases.map (fun l => if s.now < l.2 then (max s.now l.1 + 80, l.2 + 80) else l) })

/-- A gap of 80 ns in which the accepted accesses are served (R112, R113). -/
def State.openGap (s : State) (ch : Nat) : State :=
  let ws := (s.engine ch).waiters
  let now_ := ws.take leaseAccepts
  let s1 := if now_.any Waiter.isHdm then s.bump F.TIER_SE_LEASE.GAPS else s
  let s2 := (s1.modEngine ch (fun e => { e with waiters := ws.drop leaseAccepts })).delayLeases ch
  now_.foldl State.serveWaiter s2

/-- LEASE_GAP: at a lease boundary the accepted accesses are served in a gap of 80 ns, which delays a running chain (R112-R114). -/
def execLeaseGap (t engine : Nat) (s : State) : Host.Outcome State Fault Refusal :=
  let s := s.at_ t
  if !s.leaseBoundary engine then .next s else .next (s.openGap engine)

/-! ### Late and failed tiers -/

/-- FAR_READ_TIMEOUT: a read of the far or host tier has not returned in its time; it is issued once again (R149). -/
def execFarReadTimeout (t : Nat) (tier : LateTier) (ctx page : Nat) (s : State) : Host.Outcome State Fault Refusal :=
  let s := s.at_ t
  if s.tier.reissued.contains (ctx, page) then .next s
  else
    let s1 := (s.bump (match tier with | .far => F.TIER_LATE.FAR_LATE | .host => F.TIER_LATE.HOST_LATE)).bump F.TIER_LATE.REISSUED
    .next { s1 with tier := { s1.tier with reissued := s1.tier.reissued ++ [(ctx, page)] } }

/-- Pages whose frame lies in a unit of a tier: context and number. -/
def State.pagesAt (s : State) (tier home : Nat) : List (Nat × Nat) :=
  s.ctxs.flatMap (fun c => (c.2.pages.filter (fun p => p.2.tier == tier && p.2.home == home)).map (fun p => (c.1, p.1)))

/-- No pebble of a page's frame can be read any more (R151). -/
def State.loseFrame (s : State) (ctx num : Nat) : State :=
  s.modPage ctx num (fun p => { p with bad := List.range p.pebbles.length })

/-- A far-tier channel is disabled: its bit, its pages poisoned, an error record (R151). -/
def State.failFar (s : State) (ch : Nat) : State :=
  if 16 ≤ ch || s.farDown ch then s
  else
    let ps := s.pagesAt 2 ch
    let s1 := s.wr F.TIER_FAR_FAULT.CHANNEL (s.rd F.TIER_FAR_FAULT.CHANNEL ||| 2 ^ ch)
    let s2 := s1.abortMoves (fun m => (m.srcTier == 2 && m.srcHome == ch && m.incoming.isNone) ||
      ((m.member.isNone || m.incoming.isSome) && m.dst.tier == 2 && m.dst.home == ch))
    let s3 := ps.foldl (fun s x => (s.loseFrame x.1 x.2).poison x.1 x.2) s2
    errRecord s3 .farChannel (.farChannel ch) { location := ch, detail := ps.length }

/-- FAR_CHANNEL_FAIL. -/
def execFarChannelFail (t channel : Nat) (s : State) : Host.Outcome State Fault Refusal := .next ((s.at_ t).failFar channel)

/-- The CXL link goes down: the host tier is unreachable and moves of it stop (R152). -/
def State.cxlDown (s : State) : State :=
  let s1 := (s.abortMoves (fun m => (m.dst.tier == 4 && m.member.isNone) || (m.srcTier == 4 && m.incoming.isNone))).wr F.TIER_PLACE_STATUS.HOST_DOWN 1
  { s1 with tier := { s1.tier with cxlUp := false } }

/-- HOST_LINK_DOWN. -/
def execHostLinkDown (t : Nat) (s : State) : Host.Outcome State Fault Refusal := .next (s.at_ t).cxlDown

/-- The CXL link is up at a width and a rate in GT/s: host-tier pages are served again; a loss of the link alone keeps them
(R152, R340, Table 16.3). -/
def State.cxlTrained (s : State) (width rate : Nat) : State :=
  let s1 := s.wr F.TIER_PLACE_STATUS.HOST_DOWN 0
  { s1 with tier := { s1.tier with cxlUp := true, cxlWidth := width, cxlRate := rate } }

/-- HOST_LINK_UP: the link returns; not while PERST_N holds it down, nor before stage 3 (R351, R152). -/
def execHostLinkUp (t width rate : Nat) (s : State) : Host.Outcome State Fault Refusal :=
  let s := s.at_ t
  if s.pins.perstLow || s.rd F.ID_BOOT.STAGE < 3 then .next s else .next (s.cxlTrained width rate)

/-- STACK_CHANNEL_FAIL: a stack channel fails; the tests of R139 and R221 run again (R221). -/
def execStackChannelFail (t channel : Nat) (s : State) : Host.Outcome State Fault Refusal :=
  let s := s.at_ t
  if 192 ≤ channel || s.channelDown channel then .next s
  else
    let s1 := s.abortMoves (fun m => (m.member.isNone || m.incoming.isSome) && m.dst.tier == 1 && m.dst.home == channel)
    .next ((s1.modEngine channel (fun e => { e with channelFailed := true })).degradeMark)

/-! ### Bedrock -/

/-- BEDROCK_GC: the live parcels of the block with the most garbage move and it is erased, within a tenth of the NAND interface rate; worn
blocks take cold parcels (R141, R142). Not in N3 and deeper (Table 14.1). -/
def execBedrockGc (t : Nat) (s : State) : Host.Outcome State Fault Refusal :=
  let s := s.at_ t
  if 3 ≤ s.rd F.PWR_STATE.CURRENT then .next s else .next s.reclaim

/-- READ_DISTURB_RELOCATE: a block's measured error rate passes its threshold: its live parcels are relocated and the event counted
(R142). -/
def execReadDisturbRelocate (t block : Nat) (s : State) : Host.Outcome State Fault Refusal :=
  let s := s.at_ t
  if s.liveBytes block = 0 then .next s else .next (s.disturb block)

/-- Show the spare blocks: below 4 % BEDROCK_LOW with a record, below 2 % read-only (R143). -/
def State.setSpare (s : State) (spare : Nat) : State :=
  let s1 := s.wr F.TIER_BEDROCK.SPARE spare
  let s2 := if spare < 40 && s.rd F.TIER_PLACE_STATUS.BEDROCK_LOW = 0 then
      errRecord (s1.wr F.TIER_PLACE_STATUS.BEDROCK_LOW 1) .bedrockLow .none { detail := spare } else s1
  if spare < 20 then s2.wr F.TIER_BEDROCK.READ_ONLY 1 else s2

/-- BLOCK_RETIRE: a block that fails a program or an erase is retired (R143); `spare` is what is left, in thousandths of raw capacity. -/
def execBlockRetire (t block spare : Nat) (s : State) : Host.Outcome State Fault Refusal :=
  let s := s.at_ t
  if ((mget s.tier.blocks block).map EraseBlock.retired).getD false then .next s
  else .next (((s.retireBlock block).bump F.TIER_BEDROCK.RETIRED).setSpare spare)

/-- BEDROCK_BLOCK_ERASED: a block that held a torn-down context's parcels is erased, live parcels of others relocated first; the last
such block ends the tombstone (R249). -/
def execBedrockBlockErased (t block : Nat) (s : State) : Host.Outcome State Fault Refusal :=
  let s := s.at_ t
  match mget s.tier.blocks block with
  | none => .next s
  | some e =>
    let s1 := s.relocate block
    let s2 := (s1.modBlock block (fun e => { e with tombs := [] })).eraseBlock block
    .next (e.tombs.foldl State.dropTombstone s2)

end Sys2Proof.Machine
end

