-- ==== Sys2Proof/Machine/Images.lean ====
section
/-! DEFINITION. Journal images held as buddy (13_fabric.md, R287-R292, Table 13.6), operations on pages asked for by a home
(Table 13.3), and INVENTORY (R294). -/
namespace Sys2Proof.Machine

/-! ### Entries -/

/-- Key of the image an entry names. -/
def JEntry.key (e : JEntry) : Nat := imageKey e.conv (headKey e.layer e.head) e.page

/-- Conversation of an image key. -/
def keyConv (k : Nat) : Nat := k / 2 ^ 44

/-- Head key and page index of an image key. -/
def keyPage (k : Nat) : Nat := k % 2 ^ 44

/-- A stream from its first message. -/
def Journal.empty (ctx slot : Nat) : Journal := ⟨ctx, slot, 0, [], [], [], [], 0, [], []⟩

/-- The format whose pebbles, `n` of them, take `len` bytes. -/
def dataFormat (n len : Nat) : Nat := ((List.range 16).find? (fun f => fmtValid f && n * pebSize f == len)).getD 8

/-- Change the image an entry names, and the equal images under other conversations: FORK shares them (R166, R98). -/
def Journal.modImages (j : Journal) (e : JEntry) (f : Page → Page) : Journal :=
  let hit (q : Page) : Bool := match mget j.pages e.key with
    | some p => q == p
    | none => q.conv == e.conv && q.layer == e.layer && q.head == e.head && q.index == e.page
  { j with pages := mall j.pages (fun _ q => if hit q then f q else q) }

/-- PEBBLES: slots of a page written; from slot 0 the page is new (R287, Table 13.6). -/
def Journal.pebbles (a : AttnProfile) (j : Journal) (e : JEntry) : Journal :=
  let n := e.count * (a.nk + a.nv)
  let fmt := dataFormat n e.data.length
  let pebs := cutBytes (pebSize fmt) n e.data
  let slots : List SlotPebs := (List.range e.count).map (fun t =>
    ((pebs.drop (t * a.nk)).take a.nk, (pebs.drop (e.count * a.nk + t * a.nv)).take a.nv))
  let fresh : Page := { Page.fresh a e.conv e.layer e.head e.page fmt j.slot with rung := e.rung }
  let old := if e.first = 0 then fresh else (mget j.pages e.key).getD fresh
  let pg := ({ old with fill := e.first } : Page).write a slots
  { j with pages := mset j.pages e.key pg
           lens := mset j.lens (lengthKey e.conv (headKey e.layer e.head)) (128 * e.page + e.first + e.count) }

/-- TRIM of a head to ARG: its length, pages past it dropped, an unsealed page cut in place (R167). -/
def Journal.trim (a : AttnProfile) (j : Journal) (e : JEntry) : Journal :=
  let hk := headKey e.layer e.head
  let mine (k : Nat) : Bool := keyConv k == e.conv && keyPage k / 2 ^ 25 == hk
  let index (k : Nat) : Nat := k % 2 ^ 25
  let kept := j.pages.filter (fun x => !(mine x.1 && decide (e.arg ≤ 128 * index x.1)))
  { j with
      pages := mall kept (fun k q =>
        if mine k && decide (e.arg < 128 * index k + q.fill) && !q.isSealed then q.cut a (e.arg - 128 * index k) else q)
      lens := mset j.lens (lengthKey e.conv hk) e.arg }

/-- FORK: a conversation's images below the span, shared with its source (R166). -/
def Journal.fork (a : AttnProfile) (j : Journal) (e : JEntry) : Journal :=
  let src := j.pages.filter (fun x => keyConv x.1 == e.arg2 && decide (x.1 % 2 ^ 25 < pagesOf e.arg))
  let out := src.foldl (fun m x =>
    mset (mset m x.1 { x.2 with shared := true }) (e.conv * 2 ^ 44 + keyPage x.1) { x.2 with shared := true }) j.pages
  let leaves := (j.leaves.filter (fun x => keyConv x.1 == e.arg2 && decide (x.1 % 2 ^ 25 < pagesOf e.arg))).foldl
    (fun m x => mset m (e.conv * 2 ^ 44 + keyPage x.1) x.2) j.leaves
  { j with pages := out, leaves := leaves, lens := (allHeads a).foldl (fun m hk => mset m (lengthKey e.conv hk) e.arg) j.lens }

/-- RELEASE: one reference of a conversation to a page; with its last image its lengths go (R168, R288). -/
def Journal.releaseOne (j : Journal) (e : JEntry) : Journal :=
  let pages := mdel j.pages e.key
  if pages.any (fun x => keyConv x.1 == e.conv) then { j with pages := pages }
  else { j with pages := pages, lens := j.lens.filter (fun x => x.1 / 2 ^ 20 != e.conv)
                leaves := j.leaves.filter (fun x => keyConv x.1 != e.conv) }

/-- PAGE_OUT: the page has left the slot; its leaf stays for the page map (R264, R288). -/
def Journal.pageOut (j : Journal) (e : JEntry) : Journal :=
  match mget j.pages e.key with
  | none => j
  | some p =>
    let same := j.pages.filter (fun x => x.2 == p)
    { j with pages := j.pages.filter (fun x => x.2 != p), leaves := same.foldl (fun m x => mset m x.1 p.leaf) j.leaves }

/-- Apply one entry (R288, Table 13.6). -/
def Journal.apply (p : Profile) (j : Journal) (e : JEntry) : Journal :=
  match e.op with
  | 1 => j.pebbles p.attn e
  | 2 => j.modImages e (Page.sealUp p.attn)
  | 3 => j.trim p.attn e
  | 4 => j.fork p.attn e
  | 5 => j.releaseOne e
  | 6 => j.modImages e (fun q =>
      (q.demote p.attn p.ladder (if e.rung = 4 then p.ladder.floor else p.ladder.fmt e.rung) e.rung e.rung).1)
  | 7 =>
    let pg : Page := { pageOfParcel p.attn e.data with slot := j.slot }
    { j with pages := mset j.pages e.key pg, leaves := mdel j.leaves e.key }
  | 8 => j.pageOut e
  | 9 => { j with markedLens := j.lens, markedPages := j.pages }
  | _ => j

/-- Physical bytes of the images: a shared page once (R288). -/
def Journal.size (a : AttnProfile) (j : Journal) : Nat :=
  lsum (((j.pages.map Prod.snd).eraseDups).map (fun q => parcelSize a q.format))

/-- Apply the messages that are next in SEQ order (R288). -/
def Journal.drain (p : Profile) : Nat → Journal → Journal
  | 0, j => j
  | n + 1, j => match j.waiting.find? (fun w => w.1 == j.seq) with
    | none => j
    | some w =>
      let es := parseJEntries (le w.2 0x0C 4) (w.2.drop 0x18)
      let k := es.foldl (Journal.apply p) j
      Journal.drain p n { k with seq := j.seq + 1, waiting := j.waiting.filter (fun x => x.1 != j.seq) }

/-- Put the journal of a context and slot; NET_JOURNAL.HELD_MIB follows (Table 13.13). -/
def State.putJournal (s : State) (j : Journal) : State :=
  let rest := s.comp.journals.filter (fun i => !(i.ctx == j.ctx && i.slot == j.slot))
  let s1 : State := { s with comp := { s.comp with journals := rest ++ [j] } }
  s1.wr F.NET_JOURNAL.HELD_MIB (s1.journalHeld / 2 ^ 20)

/-- A whole JOURNAL message, with its SEND header (R288): kept until every earlier one is there. -/
def State.onJournal (s : State) (conn : Nat) (body : Bytes) : State :=
  let ctx := s.connCtx conn
  let slot := le body 8 2
  let seq := le body 0x10 8
  match (s.ctx ctx).profile with
  | none => s
  | some p =>
    if !(s.buddyOf slot).any s.ownsSlot then s
    else
      let j := (s.journalFor ctx slot).getD (Journal.empty ctx slot)
      if seq < j.seq || j.waiting.any (fun w => w.1 == seq) then s
      else
        let k := Journal.drain p (j.waiting.length + 1) { j with waiting := j.waiting ++ [(seq, body)] }
        s.putJournal { k with bytes := k.size p.attn }

/-! ### PAGE_OP at a member -/

/-- Trim a page to `keep` slots for a conversation: in place, or into a new page when it is sealed, shared, poisoned or another
conversation's (R163, R167); answers its number, none while no number or slot is free. -/
def State.trimPage (s : State) (ctx conv num keep : Nat) (p : Profile) (pg : Page) : Option (Nat × State) :=
  if !pg.isSealed && !pg.shared && !pg.poisoned && pg.conv == conv then some (num, s.cutPage ctx num p.attn pg keep)
  else
    let c := ((s.ctx ctx).conv? conv).getD (Conv.remote pg.slot)
    let q := { pg.reopened p.attn keep with conv := conv }
    ((if pg.tier = 3 then s.readParcel ctx num else s).newPage ctx p { c with placed := if pg.tier ≤ 1 then 1 else 2 } (pg.index + 1) q).map
      (fun y => (y.1, (match q.badPeb with
        | some b => y.2.corrupt ctx y.1 b (y.2.scanUnit ctx num) {}
        | none => y.2).dropRef ctx num))

/-- A PAGE_OP 2: the page is cut, journalled anew, its local entry and length follow, and the home gets the answer (R163, R167, R287). It waits
while there is no number or slot. -/
def State.pageOpTrim (s : State) (conn ctx num : Nat) (p : Profile) (pg : Page) (o : PageOpBody) (raw : Bytes) : State :=
  match (s.abandonAssays ctx num).trimPage ctx o.conv num (o.length - 128 * pg.index) p pg with
  | none => { s with comp := { s.comp with pageOps := s.comp.pageOps ++ [(ctx, num, conn, raw)] } }
  | some (n, s1) => match mget (s1.ctx ctx).pages n with
    | none => s1
    | some q =>
      let hk := headKey pg.layer pg.head
      let s2 := s1.modPeer ctx o.conv (s.connMember conn) (fun c =>
        { c with pageMap := mset c.pageMap (pageKey hk pg.index) (entryOf q.slot n q), lens := mset c.lens hk o.length })
      (s2.journal ctx q.slot { jentry 7 q.conv q.layer q.head q.index with data := parcelBytes p.attn ctx q }).pageOpDone conn raw q.leaf

/-- A conversation homed elsewhere no longer references a page held here (R125, R168). -/
def State.forgetPage (s : State) (ctx conv key : Nat) : State :=
  let gone (m : Map Conv) : Map Conv := mmod m conv (fun c => { c with pageMap := mdel c.pageMap key })
  s.modCtx ctx (fun x => { x with peers := (gone x.peers).filter (fun c => !c.2.pageMap.isEmpty) })

/-- Demotions asked for of a page that none runs on begin, or are answered at once (R95, R96). -/
def State.nextPageOps (s : State) (ctx num : Nat) (busy : Bool) : State := if busy then s else s.answerPageOps ctx num

/-- PAGE_OP on a page held here (R96, R167, R168, R287). -/
def State.pageOpHere (s : State) (conn ctx num : Nat) (p : Profile) (pg : Page) (o : PageOpBody) (raw : Bytes) : State :=
  match o.op with
  | 1 =>
    let s0 := if o.rung = 4 then s.modCtx ctx (fun x => { x with peers := mmod x.peers o.conv (fun c => { c with parked := true }) }) else s
    if pg.shared || pg.poisoned then s0.pageOpDone conn raw pg.leaf
    else
      ({ s0 with comp := { s0.comp with pageOps := s0.comp.pageOps ++ [(ctx, num, conn, raw)] } } : State).nextPageOps ctx num pg.demotePending
  | 2 => s.pageOpTrim conn ctx num p pg o raw
  | 3 => ((s.journalDrop ctx o.conv num).dropRef ctx num).forgetPage ctx o.conv (pageKey (headKey o.layer o.head) o.page)
  | _ => s

/-- PAGE_OP on a page still to be rebuilt (R294). -/
def State.pageOpRebuild (s : State) (conn : Nat) (p : Profile) (b : Rebuild) (o : PageOpBody) (raw : Bytes) : State :=
  let put (f : List Rebuild → List Rebuild) : State := { s with comp := { s.comp with rebuilds := f s.comp.rebuilds } }
  let change (pg : Page) : State :=
    (put (fun l => l.map (fun x => if x == b then { b with page := pg } else x))).pageOpDone conn raw pg.leaf
  match o.op with
  | 1 => change (b.page.demote p.attn p.ladder (if o.rung = 4 then p.ladder.floor else p.ladder.fmt o.rung) o.rung o.rung).1
  | 2 => change (b.page.reopened p.attn (o.length - 128 * b.page.index))
  | 3 => put (fun l => l.filter (fun x => x != b))
  | _ => s

/-- PAGE_OP delivered (Table 13.3). -/
def State.onPageOp (s : State) (conn : Nat) (body : Bytes) : State :=
  let o := parsePageOp body
  let ctx := s.connCtx conn
  let raw := (body.drop 8).take 24
  match (s.ctx ctx).profile with
  | none => s
  | some p =>
    let hk := headKey o.layer o.head
    let s := s.learnPage ctx o.conv (s.connMember conn) hk o.page
    match (s.ctx ctx).peerPage ctx o.conv hk o.page with
    | some num => match mget (s.ctx ctx).pages num with
      | some pg => s.pageOpHere conn ctx num p pg o raw
      | none => s
    | none =>
      match s.comp.rebuilds.find? (fun b => b.ctx == ctx && b.key == imageKey o.conv (headKey o.layer o.head) o.page) with
      | some b => s.pageOpRebuild conn p b o raw
      | none => s

/-- Cuts that waited for a number or a slot are tried again at a boundary. -/
def State.retryPageOps (s : State) : State :=
  let due := s.comp.pageOps.filter (fun o => opOf o.2.2.2 == 2)
  let s1 : State := { s with comp := { s.comp with pageOps := s.comp.pageOps.filter (fun o => opOf o.2.2.2 != 2) } }
  due.foldl (fun s o => s.onPageOp o.2.2.1 (List.replicate 8 0 ++ o.2.2.2)) s1

/-- PAGE_OP_DONE delivered at the home: the page map takes the new leaf and the waiting request goes on (R96, R167, R264). -/
def State.onPageOpDone (s : State) (conn : Nat) (body : Bytes) : State :=
  let o := parsePageOp body
  let ctx := s.connCtx conn
  let hk := headKey o.layer o.head
  let s1 := s.modConv ctx o.conv (fun c => { c with pageMap := mmod c.pageMap (pageKey hk o.page) (fun e => { e with leaf := o.digest }) })
  s1.demotionOver ctx (remoteKey hk o.page) true

/-! ### INVENTORY -/

/-- Page number an entry holds whose page stands in a taken-over slot and is not rebuilt yet, or whose holder is not confirmed. -/
def notHere : Nat := 2 ^ 33

/-- One entry of an INVENTORY response (Table 13.3). -/
def inventoryEntry (pg : Page) : Bytes :=
  leBytes 4 pg.conv ++ leBytes 2 pg.layer ++ leBytes 1 pg.head ++ leBytes 1 pg.format ++ leBytes 4 pg.index ++ leBytes 4 pg.fill

/-- Pages a node reports: those it holds of conversations that are not homed here (R294). -/
def State.reported (s : State) (ctx : Nat) : List Page :=
  ((s.ctx ctx).pages.map Prod.snd).filter (fun pg => !mhas (s.ctx ctx).convs pg.conv)

/-- Response messages for a list of pages: one where it fits (Table 9.4). -/
def inventoryBodies (pages : List Page) : List Bytes :=
  let per := (maxMessage - 12) / 16
  (List.range (max 1 (ceilDiv pages.length per))).map (fun i =>
    let l := (pages.drop (i * per)).take per
    leBytes 4 l.length ++ (l.map inventoryEntry).flatten)

/-- INVENTORY request delivered: answered with the pages held (R294). -/
def State.onInventoryRequest (s : State) (conn : Nat) : State :=
  (inventoryBodies (s.reported (s.connCtx conn))).foldl (fun s b => s.sendSend conn (.peer 10) 10 b 3) s

/-- The entry of a page that a member reports, with its format; its rung is not reported. -/
def awayEntry (member : Nat) (leaf : Bytes) (fmt : Nat) : PageEntry := ⟨member, 0, leaf, false, false, 0, fmt, false, false⟩

/-- A page a member reports is confirmed in the page maps: the conversation it names, and the forks that share its leaf. -/
def State.confirmPage (s : State) (ctx member conv hk index fmt : Nat) : State :=
  let key := pageKey hk index
  match s.conv? ctx conv with
  | none => s.modCtx ctx (fun x => { x with convs := mall x.convs (fun _ c => { c with pageMap := mmod c.pageMap key (fun e =>
      if e.page == notHere && !s.ownsSlot e.member then { e with member := member, page := conv + 1, lost := false, poisoned := false } else e) }) })
  | some c =>
    if c.len hk ≤ 128 * index then
      s.dropRemote ctx conv 3 (key, awayEntry member [] fmt)
    else
      match mget c.pageMap key with
      | none =>
        let leaf := (List.range 32).map (fun i => Config.freeByte (s.free + i))
        ({ s with free := s.free + 32 } : State).setEntry ctx conv hk index (awayEntry member leaf fmt)
      | some e =>
        if s.ownsSlot e.member then s
        else s.modCtx ctx (fun x => { x with convs := mall x.convs (fun n d => { d with pageMap := mmod d.pageMap key (fun f =>
          if !s.ownsSlot f.member && f.leaf == e.leaf && (f.page == notHere || n == conv) then
            { f with member := member, page := if n = conv then 0 else conv + 1, lost := false, poisoned := false }
          else f) }) })

/-- Entries no reply has confirmed are lost (R297). -/
def State.closeInventory (s : State) : State :=
  { s with ctxs := mall s.ctxs (fun _ x => { x with convs := mall x.convs (fun _ c => { c with pageMap := mall c.pageMap (fun _ e =>
      if e.page == notHere && !s.ownsSlot e.member then { e with lost := true, poisoned := true } else e) }) }) }

/-- INVENTORY response delivered at a node that has taken a slot over (R294). -/
def State.onInventoryResponse (s : State) (conn : Nat) (body : Bytes) : State :=
  let ctx := s.connCtx conn
  let member := match s.conn? conn, s.comp.current with
    | some c, some m => (m.nodes.findIdx? (· == c.entry.peerId)).getD c.entry.member
    | some c, none => c.entry.member
    | none, _ => 0
  let es := cutBytes 16 (le body 8 4) (body.drop 12)
  let s1 := es.foldl (fun s e => s.confirmPage ctx member (le e 0 4) (headKey (le e 4 2) (le e 6 1)) (le e 8 4) (le e 7 1)) s
  let left := s1.comp.inventory.filter (· != conn)
  let s2 : State := { s1 with comp := { s1.comp with inventory := left } }
  if left.isEmpty && !s1.comp.inventory.isEmpty then s2.closeInventory else s2

/-- An INVENTORY message: a request holds a slot, a response a count and its entries (Table 13.3). -/
def State.onInventory (s : State) (conn : Nat) (body : Bytes) : State :=
  if body.length = 10 then s.onInventoryRequest conn else s.onInventoryResponse conn body

end Sys2Proof.Machine
end

