-- ==== Sys2Proof/Machine/Fabric.lean ====
section
/-! DEFINITION. Composition maps: staging, activation, takeover, rebuilding, isolation, suspects (13_fabric.md, R281-R301). -/
namespace Sys2Proof.Machine

/-! ### Staging (R282) -/

/-- Node that holds a slot of a map. -/
def CompMap.node (m : CompMap) (slot : Nat) : Bytes := lget m.nodes slot []

/-- Whether a node holds any slot of a map. -/
def CompMap.has (m : CompMap) (node : Bytes) : Bool := m.nodes.contains node

/-- Node of the buddy of a slot, none without one. -/
def CompMap.buddyNode (m : CompMap) (slot : Nat) : Option Bytes :=
  let b := lget m.buddies slot 0xFFFF
  if b = 0xFFFF then none else some (m.node b)

/-- Whether a peer connection of a context to a node is loaded. -/
def State.peerLoaded (s : State) (ctx : Nat) (node : Bytes) : Bool :=
  s.conns.any (fun c => c.2.entry.peer && c.2.entry.ctx == ctx && c.2.entry.peerId == node)

/-- Contexts with a non-zero P_STRIPE_MIN or F_MODE. -/
def State.fabricCtxs (s : State) : List Nat :=
  (s.ctxs.filter (fun c => match c.2.profile with
    | some p => p.place.stripeMin != 0 || p.cls.fMode != 0
    | none => false)).map Prod.fst

/-- ERRCODE of a staging (R282, Table 13.10). -/
def State.compCode (s : State) (mem : Option Bytes) : Nat :=
  match mem with
  | none => 7
  | some b =>
    let m := parseCompMap b
    if !compMapOk b then 1
    else if !m.has s.sec.identity then 2
    else if m.kernel != s.sec.kernel then 3
    else if s.comp.current.isSome && m.epoch != (s.comp.epoch + 1) % 65536 then 4
    else if (List.range m.nodes.length).any (fun i => m.buddyNode i == some (m.node i)) then 5
    else if s.fabricCtxs.any (fun c => m.nodes.any (fun n => n != s.sec.identity && !s.peerLoaded c n)) then 6
    else 0

/-- Show what is staged. -/
def State.showStaged (s : State) : State :=
  match s.comp.staged with
  | some (_, m) => (s.wr F.NET_COMP_CTL.STAGED 1).wr F.NET_COMP_CTL.STAGED_EPOCH m.epoch
  | none => ((s.wr F.NET_COMP_CTL.STAGED 0).wr F.NET_COMP_CTL.STAGED_EPOCH 0).wr F.NET_COMP_CTL.DEFERRED 0

/-- COMP_STAGE: the control host stages a composition map (R282). -/
def execCompStage (t : Nat) (ctl : Word) (mem : Option Bytes) (s : State) : Host.Outcome State Fault Refusal :=
  if !s.ready then .next (s.at_ t) else
  let s1 := (s.at_ t).ctlWrite 0x5308 ctl
  let code := s1.compCode mem
  let s2 : State := match mem with
    | some b => if code = 0 then
        (({ s1 with comp := { s1.comp with staged := some (s1.now, parseCompMap b), firstQualified := none } } : State).wr
          F.NET_COMP_CTL.DEFERRED 0).showStaged
      else s1
    | none => s1
  .next ((s2.wakeUp).opEnd opComp code)

/-- COMP_WITHDRAW: the staged map is withdrawn (Table 13.10). -/
def execCompWithdraw (t : Nat) (ctl : Word) (s : State) : Host.Outcome State Fault Refusal :=
  if !s.ready then .next (s.at_ t) else
  let s1 := (s.at_ t).ctlWrite 0x5308 ctl
  let s2 : State := { s1 with comp := { s1.comp with staged := none, firstQualified := none } }
  .next ((s2.showStaged.wakeUp).opEnd opComp 0)

/-! ### Slots across maps -/

/-- Whether a new map keeps the numbering of the old one (R284). -/
def sameNumbering (old new : CompMap) : Bool := old.compId == new.compId && old.nodes.length == new.nodes.length

/-- Slot of a new map under which what an old slot held goes on: the same while its holder keeps it, another slot of that holder, the
same slot at its new holder in the same numbering, or none. -/
def slotNow (old new : CompMap) (slot : Nat) : Option Nat :=
  let x := old.node slot
  if new.node slot == x then some slot
  else match new.nodes.findIdx? (· == x) with
    | some i => some i
    | none => if sameNumbering old new then some slot else none

/-- The map that stands for the composition of one slot before the first (R281). -/
def soloMap (identity : Bytes) : CompMap := ⟨0, 0, 0, [], [identity], [0xFFFF]⟩

/-- The map in force, or the one-slot composition. -/
def State.mapNow (s : State) : CompMap := s.comp.current.getD (soloMap s.sec.identity)

/-- Whether the node that now holds a gone slot held its buddy, and so its images (R294, R297). -/
def covered (old new : CompMap) (slot : Nat) : Bool :=
  sameNumbering old new && old.buddyNode slot == some (new.node slot)

/-- Slots this node takes over: it holds them in the new map, it held their buddies, and their holders have left (R294). -/
def takenSlots (identity : Bytes) (old new : CompMap) : List Nat :=
  (List.range new.nodes.length).filter (fun i =>
    covered old new i && new.node i == identity && old.node i != identity && !new.has (old.node i))

/-! ### Requests in flight (Table 13.2) -/

/-- A request at a switch: none when it ends with PEER_FAILED, else itself with what it must send again. -/
def Req.atSwitch (old new : CompMap) (exact : Bool) (identity : Bytes) (r : Req) : Option Req :=
  let gone (x : PeerShare) : Bool := x.rows.isNone && old.node x.member != identity && !new.has (old.node x.member)
  if r.admittedAt.isNone || r.epoch != old.epoch || !r.shares.any gone then some r
  else if !sameNumbering old new then none
  else if r.shares.any (fun x => gone x && x.sent) && !exact then none
  else some { r with shares := r.shares.map (fun x => if gone x then { x with sent := false, lastBackup := false } else x) }

/-- Apply Table 13.2 to every request in flight. -/
def State.switchReqs (s : State) (old new : CompMap) : State :=
  s.reqs.foldl (fun s r =>
    match r.atSwitch old new ((s.ctx r.ctx).fMode == 2) s.sec.identity with
    | some q => s.modReq r.id (fun _ => q)
    | none => s.failReq r.id cPeerFailed r.progress) s

/-! ### Pages and page maps across maps -/

/-- A page-map entry under a new map: its member's slot now, or lost with its holder (R284, R297). -/
def PageEntry.atSwitch (old new : CompMap) (identity : Bytes) (prot : Bool) (e : PageEntry) : PageEntry :=
  match slotNow old new e.member with
  | none => { e with lost := true, poisoned := true }
  | some k =>
    if new.has (old.node e.member) then { e with member := k }
    else if prot && covered old new e.member then
      { e with page := if new.node e.member == identity then notHere else e.page, poisoned := false }
    else { e with lost := true, poisoned := true }

/-- Pages, conversations and page maps of every context under a new map (R284, R297, R338). -/
def State.renumber (s : State) (old new : CompMap) : State :=
  let me := s.sec.identity
  let home (k : Nat) : Nat := (slotNow old new k).getD 0
  { s with ctxs := mall s.ctxs (fun _ x =>
      let prot := x.fMode != 0
      let pages := mall x.pages (fun _ p => { p with slot := home p.slot })
      let convs := mall x.convs (fun _ c =>
        { c with home := home c.home, pageMap := mall c.pageMap (fun _ e => e.atSwitch old new me prot) })
      let peers := mall x.peers (fun _ c =>
        { c with home := home c.home, pageMap := mall c.pageMap (fun _ e => { e with member := home e.member }) })
      { x with pages := pages, convs := convs, peers := peers }) }

/-- Conversations that wait for a map (R338): served when it names their composition and this node their slot, else discarded. -/
def State.settleUnserved (s : State) (new : CompMap) : State :=
  s.ctxs.foldl (fun s x => x.2.convs.foldl (fun s c =>
    match c.2.unserved with
    | none => s
    | some (id, slot) =>
      if id = new.compId && new.holds s.sec.identity slot then
        (s.modConv x.1 c.1 (fun d =>
          { d with unserved := none, home := slot, pageMap := mall d.pageMap (fun _ e => { e with member := slot }) })).modCtx x.1 (fun y =>
            { y with pages := mall y.pages (fun _ p => if p.conv == c.1 then { p with slot := slot } else p) })
      else
        (c.2.pageMap.foldl (fun s e => s.dropRef x.1 e.2.page) s).modCtx x.1 (fun y => { y with convs := mdel y.convs c.1 })) s) s

/-! ### Takeover (R294-R296) -/

/-- What a journal leaves at a takeover: in bounded mode what stood at the last TICK_MARK (R296). -/
def Journal.left (bounded : Bool) (j : Journal) : Map Nat × Map Page :=
  if bounded then (j.markedLens, j.markedPages) else (j.lens, j.pages)

/-- Conversations whose lengths a journal holds: those homed at the slot. -/
def journalConvs (lens : Map Nat) : List Nat := ((lens.map (fun l => l.1 / 2 ^ 20)).eraseDups)

/-- D: the smallest length over all layers and heads (R296). -/
def smallestLen (a : AttnProfile) (lens : Map Nat) (conv : Nat) : Nat :=
  match (allHeads a).map (fun hk => (mget lens (lengthKey conv hk)).getD 0) with
  | [] => 0
  | n :: ns => ns.foldl min n

/-- The image of a page under a truncation to D: none past it, cut or reopened across it (R296, R167). -/
def truncPage (a : AttnProfile) (d index : Nat) (pg : Page) : Option Page :=
  if d ≤ 128 * index then none
  else if d < 128 * index + pg.fill then
    some (if pg.isSealed then pg.reopened a (d - 128 * index) else pg.cut a (d - 128 * index))
  else some pg

/-- A conversation taken over, with its images: none when it does not survive (R295, R296). -/
def takenConv (now slot nc : Nat) (foreign : List Nat) (p : Profile) (bounded : Bool) (lens : Map Nat) (pages : Map Page) (leaves : Map Bytes) (conv : Nat) :
    Option (Conv × Map Page) :=
  let a := p.attn
  let d := smallestLen a lens conv
  let mine := pages.filter (fun x => keyConv x.1 == conv)
  let kept : Map Page := if bounded then
      mine.filterMap (fun x => (truncPage a d (x.1 % 2 ^ 25) x.2).map (fun q => (x.1, q)))
    else mine
  let ls : Map Nat := (allHeads a).foldl (fun m hk =>
    let n := if bounded then d else (mget lens (lengthKey conv hk)).getD 0
    if n = 0 then m else mset m hk n) []
  let here : Map PageEntry := kept.foldl (fun m x => mset m (keyPage x.1) { entryOf slot notHere x.2 with poisoned := false }) []
  let map := (leaves.filter (fun x => keyConv x.1 == conv)).foldl (fun m x =>
    let k := keyPage x.1
    let n := (mget ls (k / 2 ^ 25)).getD 0
    if mhas m k || n ≤ 128 * (k % 2 ^ 25) then m
    else
      let share := memberOf slot (stripePos (k % 2 ^ 25) (pagesOf n) nc p.place) nc
      let member := if foreign.contains share then share else foreign.headD slot
      let both := leaves.any (fun y => y.2 == x.2 && keyConv y.1 != conv)
      mset m k ⟨member, notHere, x.2, foreign.isEmpty, foreign.isEmpty, 0, p.ladder.fresh, both, false⟩) here
  if bounded && d = 0 then none
  else some
    ({ lens := ls, expected := ls, pageMap := map, lastAttend := now, pinned := false, parked := false
       truncated := if bounded then some d else none, creator := none, releasing := false, unserved := none, placed := 1, hot := 0
       home := slot },
     kept)

/-- The rebuilds of a set of images: equal images are one page, referenced by each conversation that has it; `refs` 0 marks a page
whose conversation has its home elsewhere. -/
def rebuildsOf (ctx slot : Nat) (homed : Bool) (pages : Map Page) : List Rebuild :=
  ((pages.map Prod.snd).eraseDups).map (fun p =>
    let same := pages.filter (fun x => x.2 == p)
    ⟨ctx, slot, (same.map Prod.fst).headD 0,
      { p with slot := slot, refs := if homed then same.length else 0, poisoned := false, demotePending := false, pass := 0 }⟩)

/-- Pages of a taken-over conversation that this node holds already as another slot's share, a FORK's among them, enter its page map. -/
def State.claimLocal (s : State) (ctx conv : Nat) : State :=
  let x := s.ctx ctx
  let known := ((mget x.peers conv).map (fun c => c.pageMap.map (fun e => e.2.page))).getD []
  let s1 := (x.pages.filter (fun q => q.2.conv == conv || known.contains q.1)).foldl (fun s q =>
    let hk := headKey q.2.layer q.2.head
    match s.conv? ctx conv with
    | none => s
    | some c => if c.len hk ≤ 128 * q.2.index then s
      else s.setEntry ctx conv hk q.2.index (entryOf q.2.slot q.1 q.2)) s
  s1.modCtx ctx (fun x => { x with peers := mdel x.peers conv })

/-- Take a slot over for one context from its journal. -/
def State.takeJournal (s : State) (j : Journal) : State :=
  match (s.ctx j.ctx).profile with
  | none => s
  | some p =>
    let bounded := p.cls.fMode == 1
    let (lens, pages) := j.left bounded
    let convs := journalConvs lens
    let foreign := (List.range s.nc).filter (fun k => !s.ownsSlot k)
    let taken := convs.filterMap (fun c => (takenConv s.now j.slot s.nc foreign p bounded lens pages j.leaves c).map (fun x => (c, x)))
    let homedPages := taken.foldl (fun m x => x.2.2.foldl (fun m y => mset m y.1 y.2) m) []
    let peers := pages.filter (fun x => !convs.contains (keyConv x.1))
    let mine := peers.filter (fun x => (s.ctx j.ctx).convs.any (fun c => c.1 == keyConv x.1))
    let away := peers.filter (fun x => !(s.ctx j.ctx).convs.any (fun c => c.1 == keyConv x.1))
    let s1 := taken.foldl (fun s x => s.modCtx j.ctx (fun y => { y with convs := mset y.convs x.1 x.2.1 })) s
    let cut := if bounded then
        (j.pages.filter (fun x => !mhas j.markedPages x.1 && !convs.contains (keyConv x.1))).map (fun x => (j.ctx, x.1))
      else []
    let s1 := taken.foldl (fun s x => s.claimLocal j.ctx x.1) s1
    { s1 with comp := { s1.comp with
        recoverFrom := max s.now s1.comp.recoverFrom
        rebuilds := s1.comp.rebuilds ++ rebuildsOf j.ctx j.slot true homedPages ++ rebuildsOf j.ctx j.slot true mine ++
          rebuildsOf j.ctx j.slot false away
        cut := s1.comp.cut ++ cut } }

/-- Open peer connections of a context, one to each other node. -/
def State.peerSlots (s : State) (ctx : Nat) : List Nat :=
  (s.conns.filter (fun c => c.2.entry.peer && c.2.entry.ctx == ctx && c.2.state == 3 &&
    (match s.comp.current with | some m => m.has c.2.entry.peerId | none => false))).map Prod.fst

/-- Ask every other node for the pages of a slot's conversations (R294). -/
def State.askInventory (s : State) (slot ctx : Nat) : State :=
  (s.peerSlots ctx).foldl (fun s k =>
    let s1 := s.sendSend k (.peer 10) 10 (leBytes 2 slot) 3
    { s1 with comp := { s1.comp with inventory := if s1.comp.inventory.contains k then s1.comp.inventory else s1.comp.inventory ++ [k] } }) s

/-- Take over one slot (R294): error record, journals, INVENTORY. -/
def State.takeOver (s : State) (slot : Nat) : State :=
  let js := s.comp.journals.filter (fun j => j.slot == slot)
  let s1 := errRecord s .homeFailover .none { location := slot, detail := js.length }
  let s2 := (js.map Journal.ctx).foldl (fun s c => s.askInventory slot c) (js.foldl State.takeJournal s1)
  if s2.comp.inventory.isEmpty then s2.closeInventory else s2

/-! ### Streams and held journals (R287, R298) -/

/-- Conversations homed here that reference a page, or the one its record names. -/
def Ctx.pageConvs (x : Ctx) (own : Nat → Bool) (num : Nat) (pg : Page) : List Nat :=
  let cs := (x.convs.filter (fun c => match c.2.entry (headKey pg.layer pg.head) pg.index with
    | some e => own e.member && e.page == num
    | none => false)).map Prod.fst
  if cs.isEmpty then [pg.conv] else cs

/-- Entries that give a new buddy every page of a slot and the lengths of its conversations (R298). -/
def State.fullStream (s : State) (ctx slot : Nat) : List Bytes :=
  let x := s.ctx ctx
  match x.profile with
  | none => []
  | some p =>
    let pages := (x.pages.filter (fun q => q.2.slot == slot)).flatMap (fun q =>
      (x.pageConvs s.ownsSlot q.1 q.2).map (fun c =>
        jentryBytes { jentry 7 c q.2.layer q.2.head q.2.index with data := parcelBytes p.attn ctx q.2 }))
    let lens := (x.convs.filter (fun c => c.2.home == slot)).flatMap (fun c => c.2.lens.map (fun l =>
      jentryBytes { jentry 3 c.1 (l.1 / 128) (l.1 % 128) 0 with arg := l.2 }))
    pages ++ lens

/-- Whether a stream goes on under a new map: same numbering, this node held the slot, same buddy node, and no reset of it. -/
def streamKept (old new : CompMap) (me : Bytes) (j : JournalOut) : Bool :=
  sameNumbering old new && old.node j.slot == me && old.buddyNode j.slot == new.buddyNode j.slot && !j.renew

/-- Streams of the slots held under a new map (R298). -/
def State.renewStreams (s : State) (old new : CompMap) : State :=
  let me := s.sec.identity
  let kept := s.comp.streams.filter (fun j => new.holds me j.slot && streamKept old new me j)
  let s1 : State := { s with comp := { s.comp with streams := kept } }
  let pairs := (s1.ctxs.filter (fun x => x.2.fMode != 0)).flatMap (fun x => s1.ownSlots.map (fun k => (x.1, k)))
  pairs.foldl (fun s x =>
    let fresh := !sameNumbering old new || old.node x.2 != me || old.buddyNode x.2 != new.buddyNode x.2 || !kept.any (fun j => j.ctx == x.1 && j.slot == x.2)
    if fresh && (s.buddyOf x.2).isSome then s.setStream ⟨x.1, x.2, 0, 0, s.fullStream x.1 x.2, [], [], false⟩ else s) s1

/-- Journals that go on under a new map: same numbering, same holder of the slot, this node its buddy in both. -/
def State.dropJournals (s : State) (old new : CompMap) : State :=
  let me := s.sec.identity
  let s1 : State := { s with comp := { s.comp with journals := s.comp.journals.filter (fun j =>
    sameNumbering old new && old.node j.slot == new.node j.slot && old.buddyNode j.slot == some me && new.buddyNode j.slot == some me) } }
  s1.wr F.NET_JOURNAL.HELD_MIB (s1.journalHeld / 2 ^ 20)

/-! ### Activation (R283) -/

/-- A new COMP_ID starts a new meter set in every context and drops the oldest of four (R302). -/
def State.newMeters (s : State) (id : Nat) : State :=
  { s with ctxs := mall s.ctxs (fun _ x => { x with meters := (⟨id, List.replicate 8 0⟩ :: x.meters).take 4 }) }

/-- Slot of a node that stays the share node of a page under the map in force; none when it does not (Table 7.2). -/
def State.staysShare (s : State) (ctx : Nat) (pg : Page) (node : Bytes) : Option Nat :=
  match (s.ctx ctx).profile, (s.ctx ctx).conv? pg.conv with
  | some p, some c =>
    let pos := if pg.isSealed then futurePos pg.index (pagesOf (c.len (headKey pg.layer pg.head))) s.nc p.place else 0
    let k := memberOf c.home pos s.nc
    if s.mapNow.node k == node then some k else none
  | _, _ => s.mapNow.nodes.findIdx? (· == node)

/-- Where a move to another node goes under the map in force; none when it ends (Table 7.2). -/
def State.moveAtSwitch (s : State) (old : CompMap) (m : Move) : Option Move :=
  match m.incoming, m.member, mget (s.ctx m.ctx).pages m.page with
  | none, some k, some pg => (s.staysShare m.ctx pg (old.node k)).map (fun n => { m with member := some n })
  | none, some _, none => none
  | some pg, some c, _ => match s.conn? c with
    | some x => if s.mapNow.has x.entry.peerId && (s.staysShare m.ctx pg s.sec.identity).isSome then some m else none
    | none => none
  | _, none, _ => some m

/-- At an epoch switch the copy of a move between nodes is discarded unless its destination stays a member and the page's share node
(Table 7.2). -/
def State.switchMoves (s : State) (old : CompMap) : State :=
  let s1 := s.abortMoves (fun m => (s.moveAtSwitch old m).isNone)
  { s1 with tier := { s1.tier with moves := s1.tier.moves.filterMap (s.moveAtSwitch old) } }

/-- Registers of the map in force (Tables 13.10, 13.11). -/
def State.showMap (s : State) (m : CompMap) : State :=
  (((s.wr F.NET_COMP_CTL.EPOCH m.epoch).wr F.NET_COMP_INFO.COMP_ID m.compId).wr F.NET_COMP_INFO.N_C m.nodes.length).showStaged

/-- Ranger reads every meter set at a map activation, before a new COMP_ID discards the oldest, and sends it in a metering event (R302,
R325). -/
def State.sendMeters (s : State) : State :=
  if !s.rangerUp then s else (s.emit (.metering (s.ctxs.map (fun c => (c.1, c.2.meters))))).reportEvent meteringEvent

/-- Activate a map (R283, R284, R294, R297, R298, R302, R325, R338). -/
def State.activate (s : State) (new : CompMap) : State :=
  let old := { s.mapNow with epoch := s.comp.epoch }
  let me := s.sec.identity
  let taken := takenSlots me old new
  let s1 := s.switchReqs old new
  let s2 := s1.renumber old new
  let keepNumbers := sameNumbering old new
  let c := s2.comp
  let s3 : State := { s2 with comp := { c with
    previous := c.current, current := some new, epoch := new.epoch, staged := none, firstQualified := none, activated := true
    isolated := false, heard := s2.now
    suspects := if keepNumbers then c.suspects else [], arrivals := if keepNumbers then c.arrivals else [] } }
  let s4 := ((s3.wr F.NET_COMP_CTL.ISOLATED 0).wr F.NET_COMP_CTL.DEFERRED 0).showMap new
  let s5 := (s4.settleUnserved new).switchMoves old
  let s6 := taken.foldl State.takeOver s5
  let s7 := (s6.dropJournals old new).renewStreams old new
  let s8 := s7.sendMeters
  let s9 := if old.compId = new.compId then s8 else s8.newMeters new.compId
  if taken.isEmpty then s9 else s9.degradeMark

/-- Whether a forwarded leaf is due for a request (R128). -/
def State.leafDue (s : State) (r : Req) : Bool := match s.workOf r.id with
  | some w => (List.range r.placedBlocks).any (fun b => !r.doneBlocks.contains b &&
      (s.awaitedLeaves w b).any (fun x => !s.leafLanded r.id b x.1 x.2))
  | none => false

/-- Requests that hold activation back: admitted under the map before the one in force, with a sub-request out, or a partial or a forwarded
leaf due (R283). -/
def State.blocking (s : State) : List Req :=
  s.reqs.filter (fun r => r.admittedAt.isSome && r.epoch != s.comp.epoch && s.comp.current.isSome &&
    (r.shares.any (fun x => x.sent && x.rows.isNone) || s.leafDue r))

/-- MAP_ACTIVATION: at a boundary at or after ACT_TIME and 400 ns after the staging, the staged map activates, or is deferred (R283,
R16). -/
def execMapActivation (t : Nat) (s : State) : Host.Outcome State Fault Refusal :=
  let s := s.at_ t
  match s.comp.staged with
  | none => .next s
  | some (at_, m) =>
    if s.tick.last < m.actTime || s.tick.last < at_ + 400 then .next s
    else if s.blocking.isEmpty then .next ((s.activate m).wakeUp)
    else
      let s1 : State := { s with comp := { s.comp with firstQualified := s.comp.firstQualified.or (some s.tick.last) } }
      .next (s1.wr F.NET_COMP_CTL.DEFERRED 1)

/-- DRAIN_TIMEOUT: DRAIN_MS after the first boundary that qualified, the requests that hold activation back end (R283). -/
def execDrainTimeout (t : Nat) (s : State) : Host.Outcome State Fault Refusal :=
  let s := s.at_ t
  match s.comp.firstQualified with
  | none => .next s
  | some f =>
    if s.now < f + s.lv F.NET_FAB.DRAIN_MS * 1000000 then .next s
    else .next (s.blocking.foldl (fun s r => s.failReq r.id cPeerFailed r.progress) s)

/-! ### Rebuilding (R294) -/

/-- Page-map entries a rebuilt page answers: of its own conversation, and of those whose leaf it has. -/
def State.rebuiltEntries (s : State) (b : Rebuild) : List Nat :=
  ((s.ctx b.ctx).convs.filter (fun c => match mget c.2.pageMap (keyPage b.key) with
    | some e => e.page == notHere && e.member == b.slot && (c.1 == keyConv b.key || e.leaf == b.page.leaf)
    | none => false)).map Prod.fst

/-- Time that rebuilding a page takes at NET_FAB.RECOVER_GBPS (R294). -/
def State.recoverTime (s : State) (p : Profile) (b : Rebuild) : Nat :=
  ceilDiv (pagePhysical p.attn b.page) (max 1 (s.lv F.NET_FAB.RECOVER_GBPS))

/-- A rebuilt page commits in the far tier under the lowest free number, no faster than RECOVER_GBPS allows, and is journalled to the slot's
buddy (R294, R298). It waits while no number or slot is free. -/
def State.commitRebuild (s : State) (b : Rebuild) : State :=
  let s0 : State := { s with comp := { s.comp with rebuilds := s.comp.rebuilds.filter (fun x => x != b) } }
  match (s0.ctx b.ctx).profile with
  | none => s0
  | some p =>
    let convs := s0.rebuiltEntries b
    let due := s.comp.recoverFrom + s.recoverTime p b
    if b.page.refs != 0 && convs.isEmpty then s0
    else if s.now < due then s
    else
      let n := b.page.index + 1
      let c := ((s.ctx b.ctx).conv? b.page.conv).getD (Conv.remote b.slot)
      match s0.newPage b.ctx p { c with placed := 2 } n { b.page with refs := max 1 convs.length, rebuilt := true } with
      | none => s
      | some (num, s1) => match mget (s1.ctx b.ctx).pages num with
        | none => s1
        | some pg =>
          let s2 : State := { s1 with comp := { s1.comp with recoverFrom := due } }
          let s3 := if convs.isEmpty then
              s2.modPeer b.ctx pg.conv b.slot (fun c => { c with pageMap := mset c.pageMap (keyPage b.key) (entryOf b.slot num pg) })
            else s2.modCtx b.ctx (fun y => { y with convs := mall y.convs (fun n c =>
              if convs.contains n then { c with pageMap := mmod c.pageMap (keyPage b.key) (fun e => { e with page := num }) } else c) })
          (if convs.isEmpty then [pg.conv] else convs).foldl (fun s c => s.journal b.ctx b.slot
            { jentry 7 c pg.layer pg.head pg.index with data := parcelBytes p.attn b.ctx pg }) s3

/-- Whether an admitted request or sub-request waits on a page still to be rebuilt (R137, R294). -/
def State.rebuildAwaited (s : State) (b : Rebuild) : Bool :=
  s.reqs.any (s.reqNeeds b.ctx notHere b.page) ||
  s.comp.subs.any (fun q =>
    let x := parseSub q.body
    q.ctx == b.ctx && q.admittedAt.isSome && x.conv == b.page.conv && x.layer == b.page.layer && decide (x.kvhFirst ≤ b.page.head) &&
      decide (b.page.head < x.kvhFirst + x.kvhCount) && inRange x.keyFirst x.keyEnd b.page.index)

/-- Order in which pages are rebuilt: those an admitted request waits on first (R137), then by the rank of their conversation, and inside it
as R136 has it (R294). A conversation homed elsewhere ranks after those this node knows. -/
def State.rebuildOrder (s : State) (b : Rebuild) : Nat :=
  let convs := s.rebuiltEntries b
  let qs := (s.ranked.zipIdx).filter (fun q => q.1.ctx == b.ctx && (convs.contains q.1.id || q.1.id == b.page.conv))
  match qs.head?, (s.ctx b.ctx).profile with
  | some q, some p => (b2n (!s.rebuildAwaited b) * 2 ^ 32 + q.2) * 2 ^ 64 + layerOrder q.1 p b.page
  | _, _ => (b2n (!s.rebuildAwaited b) * 2 ^ 32 + 2 ^ 31) * 2 ^ 64 + b.key % 2 ^ 64

/-- REBUILD_PAGE_COMMIT: the far-tier copy of a rebuilt page commits: the page that is next in order (R294). -/
def execRebuildPageCommit (t ctx conv layer head index : Nat) (s : State) : Host.Outcome State Fault Refusal :=
  let s := s.at_ t
  let key := imageKey conv (headKey layer head) index
  match s.comp.rebuilds.find? (fun b => b.ctx == ctx && b.key == key) with
  | some b =>
    if s.comp.rebuilds.any (fun x => decide (s.rebuildOrder x < s.rebuildOrder b)) then .next s else .next (s.commitRebuild b)
  | none => .next s

/-! ### Isolation (R293) -/

/-- Whether the map in force names another node. -/
def State.hasPeers (s : State) : Bool := match s.comp.current with
  | some m => m.nodes.any (fun n => n != s.sec.identity)
  | none => false

/-- ISOLATION_TIMEOUT: nothing authenticated from any other node for ISOLATE_MS; the node isolates itself (R293). -/
def execIsolationTimeout (t : Nat) (s : State) : Host.Outcome State Fault Refusal :=
  let s := s.at_ t
  if !s.hasPeers || s.comp.isolated || s.now < s.comp.heard + s.lv F.NET_FAB.ISOLATE_MS * 1000000 then .next s
  else .next (({ s with comp := { s.comp with isolated := true } } : State).wr F.NET_COMP_CTL.ISOLATED 1)

/-! ### Suspects (R299-R301) -/

/-- Slots that are candidates in the window, ascending, with their late arrivals (R299). -/
def State.candidates (s : State) : List (Nat × Nat) :=
  let least := s.lv F.NET_SUSPECT.LAST_MIN
  let pct := s.lv F.NET_SUSPECT.LAST_PCT
  (s.comp.arrivals.filter (fun a => decide (least ≤ a.2.1) && decide (pct * a.2.2 ≤ 100 * a.2.1) && decide (0 < a.2.2))).map
    (fun a => (a.1, a.2.1))

/-- Declare a suspect: an error record and the count (R299). -/
def State.declare (s : State) (c : Nat × Nat) : State :=
  (errRecord s .suspect .none { location := c.1, detail := c.2 }).bump F.NET_SUSPECT_STAT.DECLARED

/-- A suspicion storm begins (R301). -/
def State.stormBegins (s : State) (suspects : Nat) : State :=
  let s1 := (errRecord s .suspicionStorm .none { detail := suspects }).bump F.NET_SUSPECT_STAT.STORMS
  ({ s1 with comp := { s1.comp with storm := true } } : State).wr F.NET_COMP_CTL.STORM 1

/-- The storm ends (R301). -/
def State.stormEnds (s : State) : State := ({ s with comp := { s.comp with storm := false } } : State).wr F.NET_COMP_CTL.STORM 0

/-- SUSPECT_WINDOW_END: candidates are declared, up to BUDGET; more of them are a storm; suspects that are no candidates are cleared
(R299, R301). -/
def execSuspectWindowEnd (t : Nat) (s : State) : Host.Outcome State Fault Refusal :=
  let s := s.at_ t
  if s.now < s.comp.windowStart + s.lv F.NET_SUSPECT.WINDOW_MS * 1000000 then .next s
  else
    let cs := s.candidates
    let budget := s.lv F.NET_SUSPECT.BUDGET
    let new := cs.filter (fun c => !s.comp.suspects.contains c.1)
    let excess := decide (budget < new.length)
    let declared := if s.comp.storm then [] else new.take budget
    let s1 := declared.foldl State.declare s
    let stay := s1.comp.suspects.filter (fun k => cs.any (fun c => c.1 == k))
    let all := stay ++ declared.map Prod.fst
    let s2 : State := { s1 with comp := { s1.comp with suspects := all, arrivals := [], windowStart := s1.now } }
    if excess && !s2.comp.storm then .next (s2.stormBegins all.length)
    else if !excess && s2.comp.storm then .next s2.stormEnds
    else .next s2

end Sys2Proof.Machine
end

