-- ==== Sys2Proof/Machine/Receive.lean ====
section
/-! DEFINITION. SENDs received: check 9, placing, dispatch by kind (09_trail.md, R200, R201, R203, Table 9.12; 13_fabric.md,
Table 13.3), and release messages that wait. -/
namespace Sys2Proof.Machine

/-! ### Check 9 (R203) -/

/-- Whether a connection takes SENDs of a kind; a packet that does not show the kind belongs to a peer kind (R203, Tables 9.12, 13.3). -/
def Conn.takesKind (c : Conn) : Option Nat → Bool
  | some k => (decide (0x100 ≤ k) && decide (k ≤ 0x102)) || ((k == 0x110 || k == 0x111) && !c.entry.peer) ||
      (decide (1 ≤ k) && decide (k ≤ 10) && c.entry.peer)
  | none => c.entry.peer

/-- Whether a kind is a peer kind. -/
def peerKind : Option Nat → Bool
  | some k => decide (k ≤ 0xFF)
  | none => true

/-- Incomplete SENDs of peer kinds at the receiver (R203). -/
def Conn.peerSends (c : Conn) : Nat := (c.rx.msgs.filter (fun m => m.type == 4 && !m.held)).length

/-- NAK code of a SEND, 0 for none (Table 9.13). -/
def State.sendCode (s : State) (c : Conn) (kind : Option Nat) : Nat :=
  if !c.takesKind kind then 9
  else if peerKind kind && c.rx.grants ≤ c.peerSends then 8
  else if peerKind kind && !s.inService c.entry.ctx then 0x0A
  else 0

/-! ### Dispatch -/

/-- A JOURNAL is complete: applied; in exact mode a SACK goes at once when it and all earlier ones are complete (R288, R291). -/
def State.journalSend (s : State) (slot : Nat) (body : Bytes) : State :=
  let s1 := s.onJournal slot body
  let ctx := s1.connCtx slot
  let done := (s1.journalFor ctx (le body 8 2)).any (fun j => j.waiting.isEmpty)
  if (s1.ctx ctx).fMode = 2 && done then s1.sendSack slot else s1

/-- A whole SEND by its kind (Tables 9.12, 13.3). -/
def State.onSend (s : State) (slot epoch : Nat) (body : Bytes) : State :=
  match le body 0 2 with
  | 1 => s.wakeUp.onSubreq slot epoch body
  | 2 => s.wakeUp.onPartial slot body
  | 3 => s.wakeUp.onLeaf slot body
  | 4 => s.wakeUp.journalSend slot body
  | 5 => s.wakeUp.onMove slot body
  | 6 => s.wakeUp.onMoveAck slot body
  | 7 => s.wakeUp.onMoveCommit slot body
  | 8 => s.wakeUp.onPageOp slot body
  | 9 => s.wakeUp.onPageOpDone slot body
  | 10 => s.wakeUp.onInventory slot body
  | 0x100 => s.onRekey slot
  | 0x101 => s.onRekeyAck slot
  | 0x102 => s.onClose slot
  | 0x110 => s.onRegionAdv slot body
  | 0x111 => s.onRegionWd slot body
  | _ => s

/-! ### Placing (R200) -/

/-- The bytes of a message from its packets. -/
def RxMsg.body (m : RxMsg) : Bytes := ((lsort Prod.fst m.buf).map Prod.snd).flatten

/-- Whether a whole SEND finds a place: a JOURNAL in the journal area, a sub-request or a forwarded leaf among the slots reserved for peers
(R182, R183, R289). -/
def State.sendFits (s : State) (body : Bytes) : Bool := match le body 0 2 with
  | 1 => decide (s.peerPlaces < 8192)
  | 3 => decide (s.peerPlaces < 8192)
  | 4 => s.journalTakes body.length
  | _ => true

/-- Place one packet of a SEND; the last one completes it. A packet that shows a reserved field of a later packet's part not to be 0 is
discarded (R8). One that finds no place stays incomplete; a JOURNAL is counted (R289). -/
def State.placeSend (s : State) (x : RxPkt) : State :=
  let (m, s1) := s.openMsg x
  let k := x.h.off / 4096
  let n := if m.got.contains k then m else { m with got := m.got ++ [k], buf := m.buf ++ [(x.h.off, x.p.payload)] }
  if n.got.length < packetCount n.len then s1.modRx x.slot x.h.msg (fun _ => n)
  else
    let body := n.body
    if !sendReservedOk body then s1.headerDrop
    else if !s1.sendFits body then (if le body 0 2 = 4 then s1.bump F.NET_JOURNAL.REFUSED else s1)
    else (s1.msgDone x.slot x.h.msg .ok).onSend x.slot n.epoch body

/-- Check 9 and placing of a SEND; a release SEND waits (R201). -/
def State.deliverSend (s : State) (x : RxPkt) : State :=
  match s.conn? x.slot with
  | none => s
  | some c =>
    match c.rxMsg? x.h.msg with
    | some m => if m.held then s else s.placeSend x
    | none =>
      let code := s.sendCode c x.sendKind
      if code != 0 then s.answerNak x code
      else if x.h.isRelease && c.mustWait x.h.msg then s.holdMsg x
      else s.placeSend x

/-- Receive a SEND packet. -/
def State.recvSend (s : State) (p : Pkt) : State := s.receive p [4] State.deliverSend

/-- REKEY received (R195). -/
def execRekey (t : Nat) (p : Pkt) (s : State) : Host.Outcome State Fault Refusal := .next ((s.at_ t).recvSend p)
/-- REKEY_ACK received (R195). -/
def execRekeyAck (t : Nat) (p : Pkt) (s : State) : Host.Outcome State Fault Refusal := .next ((s.at_ t).recvSend p)
/-- REGION_ADV received (R204). -/
def execRegionAdv (t : Nat) (p : Pkt) (s : State) : Host.Outcome State Fault Refusal := .next ((s.at_ t).recvSend p)
/-- REGION_WD received (R204). -/
def execRegionWd (t : Nat) (p : Pkt) (s : State) : Host.Outcome State Fault Refusal := .next ((s.at_ t).recvSend p)
/-- SUBREQ received (R18, Table 13.4). -/
def execSubreq (t : Nat) (p : Pkt) (s : State) : Host.Outcome State Fault Refusal := .next ((s.at_ t).recvSend p)
/-- PARTIAL received (R54, R271, Table 13.5). -/
def execPartialMsg (t : Nat) (p : Pkt) (s : State) : Host.Outcome State Fault Refusal := .next ((s.at_ t).recvSend p)
/-- LEAF received (R128, Table 13.3). -/
def execLeaf (t : Nat) (p : Pkt) (s : State) : Host.Outcome State Fault Refusal := .next ((s.at_ t).recvSend p)
/-- JOURNAL received (R288, R289, R291). -/
def execJournal (t : Nat) (p : Pkt) (s : State) : Host.Outcome State Fault Refusal := .next ((s.at_ t).recvSend p)
/-- MOVE received (R131). -/
def execMove (t : Nat) (p : Pkt) (s : State) : Host.Outcome State Fault Refusal := .next ((s.at_ t).recvSend p)
/-- MOVE_ACK received (R131). -/
def execMoveAck (t : Nat) (p : Pkt) (s : State) : Host.Outcome State Fault Refusal := .next ((s.at_ t).recvSend p)
/-- MOVE_COMMIT received (R131). -/
def execMoveCommitMsg (t : Nat) (p : Pkt) (s : State) : Host.Outcome State Fault Refusal := .next ((s.at_ t).recvSend p)
/-- PAGE_OP received (Table 13.3). -/
def execPageOp (t : Nat) (p : Pkt) (s : State) : Host.Outcome State Fault Refusal := .next ((s.at_ t).recvSend p)
/-- PAGE_OP_DONE received (Table 13.3). -/
def execPageOpDone (t : Nat) (p : Pkt) (s : State) : Host.Outcome State Fault Refusal := .next ((s.at_ t).recvSend p)
/-- INVENTORY request received (R294). -/
def execInventory (t : Nat) (p : Pkt) (s : State) : Host.Outcome State Fault Refusal := .next ((s.at_ t).recvSend p)
/-- INVENTORY response received (R294). -/
def execInventoryResponse (t : Nat) (p : Pkt) (s : State) : Host.Outcome State Fault Refusal := .next ((s.at_ t).recvSend p)

/-- CLOSE: received from the other side, or sent by the node with a reason (R198). -/
def execClose (t slot : Nat) (received : Option Pkt) (reason : Nat) (s : State) : Host.Outcome State Fault Refusal :=
  let s := s.at_ t
  match received with
  | some p => .next (s.recvSend p)
  | none => .next (s.closeByNode slot reason)

/-! ### Held release messages -/

/-- Place or execute a held release message that is next (R201, R212). -/
def State.runHeld (s : State) (slot : Nat) (m : RxMsg) : State :=
  let payload := m.body
  match m.type with
  | 1 => (s.xwrite (s.connCtx slot) m.addr payload).msgDone slot m.id .ok
  | 2 => s.serveRead slot m.id m.addr m.len
  | 4 => if s.sendFits payload then (s.msgDone slot m.id .ok).onSend slot m.epoch payload
    else if le payload 0 2 = 4 then s.bump F.NET_JOURNAL.REFUSED
    else s
  | 5 => s.runAtomic slot m.id 5 m.addr payload
  | 6 => s.runAtomic slot m.id 6 m.addr payload
  | 8 => s.runBell slot m.id m.epoch m.marked payload
  | _ => s

/-- RELEASE_MESSAGE_EXECUTE: every request message with a lower ID is complete (R201). -/
def execReleaseMessageExecute (t slot msg : Nat) (s : State) : Host.Outcome State Fault Refusal :=
  let s := s.at_ t
  match s.conn? slot with
  | none => .next s
  | some c =>
    match c.rxMsg? msg with
    | none => .next s
    | some m =>
      if !m.held || c.rx.cum != msg then .next s
      else .next (s.runHeld slot m)

end Sys2Proof.Machine
end

