-- ==== Sys2Proof/Machine/Assays.lean ====
section
/-! DEFINITION. Assays: sampling, comparison, attribution (12_integrity.md, R275-R279). -/
namespace Sys2Proof.Machine

/-! ### Sampling (R275-R277) -/

/-- Index and sequence that a draw uses: those of the tracked request at the home (R275). -/
def State.drawKey (s : State) (key : Nat) : Nat := match s.req? key with
  | some r => r.hreq
  | none => match s.sub? key with
    | some q => q.hreq
    | none => 0

/-- The draw of a page-task (R275); how the seed is combined with the indices is free (notes/assumptions/4.md). -/
def State.assayDraw (s : State) (hreq page rowFirst : Nat) : Word :=
  mix (Config.assayCombine s.health.assaySeed (hreq % 65536) (hreq / 65536) page rowFirst)

/-- Cycles of a page-task on a tile and on an engine (Table 2.2). -/
def Spec.both (sp : Spec) : Nat × Nat := (sp.cycles, sp.ecycles)

/-- The assay of a sampled page-task; a held one is a task of the request, another a C3 housekeeping task, of which 4,096 may be pending
(R277). -/
def State.newAssay (s : State) (w : Work) (held : Bool) (opcode block page rowFirst : Nat) (p : Page) (sp : Spec) : List TaskKind × State :=
  if !held && 4096 ≤ (s.health.assays.filter (fun a => !a.held && a.mismatch.isNone)).length then ([], s.bump F.HEALTH_ASSAY_STAT.DROPPED)
  else
    let a : Assay :=
      { id := s.health.nextAssay, req := w.key, block := block, hreq := s.drawKey w.key, ctx := w.ctx, opcode := opcode, cls := clsNum w.cls
        cairn := [], page := page, rowFirst := rowFirst, held := held, cycles := sp.both.1, ecycles := sp.both.2, placed := held
        first := sp.unit, second := rerunUnit w p (s.scanTile w p) sp.unit, third := none, mismatch := none }
    let s1 : State := { s with health := { s.health with assays := s.health.assays ++ [a], nextAssay := s.health.nextAssay + 1 } }
    if held then ([.assay a.id], s1) else ([], s1.countAssays)

/-- The page-tasks among the tasks of a block that read pages held here: page number, page, first row, kind. -/
def State.sampleable (s : State) (w : Work) (ks : List TaskKind) : List (Nat × Page × Nat × TaskKind) :=
  ks.filterMap (fun k => match k with
    | .page _ h i rf _ _ _ => (s.taskPage w h i).map (fun x => (x.1, x.2, rf, k))
    | _ => none)

/-- Draw the page-tasks of a block that is about to be placed (R275): those below RATE are sampled, and with ASSAY_HOLD the smallest draw of
the block as well (DESIGN CHOICE, notes/assumptions/46.md). Answers the re-executions that are tasks of the request. -/
def State.sample (s : State) (w : Work) (block opcode : Nat) (hold : Bool) (ks : List TaskKind) : List TaskKind × State :=
  let rate := s.lv F.HEALTH_ASSAY.RATE
  if rate = 0 then ([], s)
  else
    let drawn := (s.sampleable w ks).map (fun x => ((s.assayDraw (s.drawKey w.key) x.1 x.2.2.1).toNat, x))
    let least := (bestOf (fun i => lget (drawn.map Prod.fst) i 0) (List.range drawn.length)).getD 0
    drawn.zipIdx.foldl (fun a d =>
      if d.1.1 / 2 ^ 48 < rate || (hold && d.2 == least) then
        match a.2.specOf w d.1.2.2.2.2 with
        | some sp =>
          let (l, s1) := a.2.newAssay w hold opcode block d.1.2.1 d.1.2.2.2.1 d.1.2.2.1 sp
          (a.1 ++ l, s1)
        | none => a
      else a) ([], s)

/-! ### Comparison (R278) -/

/-- Change an assay. -/
def State.modAssay (s : State) (id : Nat) (f : Assay → Assay) : State :=
  { s with health := { s.health with assays := lmod s.health.assays (fun a => a.id == id) f } }

/-- Remove an assay. -/
def State.dropAssay (s : State) (id : Nat) : State :=
  ({ s with health := { s.health with assays := s.health.assays.filter (fun a => a.id != id) } } : State).countAssays

/-- Cairn prefix of the record: that of the request, once its query digest is complete (Table 12.5). -/
def State.assayCairn (s : State) (a : Assay) : Bytes :=
  match s.req? a.req with
  | some r =>
    if r.hreq != a.hreq || (List.range r.desc.blocks).any (fun b => !mhas r.operands b) then a.cairn
    else match r.profile, s.conv? r.ctx r.desc.conv with
      | some p, some c => (s.cairnOf r p c).take 8
      | _, _ => a.cairn
  | none => a.cairn

/-- ASSAY_MISMATCH record with an attribution: 0 pending, 1 original, 2 re-execution, 3 third unit, 4 unresolved (Table 12.6). -/
def State.assayRecord (s : State) (a : Assay) (row elem attr : Nat) (u : UnitId) : State :=
  errRecord s .assayMismatch (ErrUnit.ofUnit u)
    { ctx := some a.ctx, opcode := a.opcode, cls := a.cls, req := a.hreq, location := a.page
      detail := row % 65536 + elem % 65536 * 65536 + b2n a.held * 2 ^ 32 + attr * 2 ^ 33, cairn := s.assayCairn a }

/-- What a held assay that is over lets go on: the request's blocks, or the sub-request's node partial (R278). -/
def State.assayReleased (s : State) (a : Assay) : State :=
  match s.req? a.req with
  | some r => (s.publish r.id r.desc.blocks).completeAttend r.id
  | none => s.runSub a.req

/-- What a held mismatch ends (R278, Table 13.5). -/
def State.assayFails (s : State) (a : Assay) : State :=
  match s.req? a.req with
  | some r => s.failReq r.id cAssayMismatch r.progress
  | none => match s.sub? a.req with
    | some q => s.sendPartial q 1 [] (parseSub q.body).skip []
    | none => s

/-- The tile of a third execution: the lowest enabled one that is neither of the first two (R279). -/
def State.thirdUnit (s : State) (a : Assay) : UnitId :=
  let ok (n : Nat) : Bool := s.tileOk n && UnitId.tile n != a.first && UnitId.tile n != a.second
  .tile (((List.range 1536).find? ok).getD 0)

/-- The two partials of an assay are compared: `diff` is the first differing row and element (R278, R279). -/
def State.compareAssay (s : State) (a : Assay) (diff : Option (Nat × Nat)) : State :=
  match diff with
  | none =>
    let s1 := (s.dropAssay a.id).bump F.HEALTH_ASSAY_STAT.MATCHED
    if a.held then s1.assayReleased a else s1
  | some (row, elem) =>
    let s1 := (s.assayRecord a row elem 0 a.first).bump F.HEALTH_ASSAY_STAT.MISMATCHED
    let cairn := s.assayCairn a
    let s2 := s1.modAssay a.id (fun x =>
      { x with mismatch := some (row, elem), cairn := cairn, third := some (s1.thirdUnit a), placed := false })
    if a.held then s2.countAssays.assayFails a else s2.countAssays

/-- Whether the re-execution of an assay is still to run. -/
def State.assayRuns (s : State) (id : Nat) : Bool :=
  let hit (t : Task) : Bool := t.kind == .assay id
  s.itin.waiting.any hit || s.itin.units.any (fun u => u.2.placed.any hit || u.2.carry.any hit || u.2.running.any hit)

/-- ASSAY_COMPARE: original and re-execution have both run (R276-R279). -/
def execAssayCompare (t assay : Nat) (diff : Option (Nat × Nat)) (s : State) : Host.Outcome State Fault Refusal :=
  let s := s.at_ t
  match s.health.assays.find? (fun a => a.id == assay) with
  | none => .next s
  | some a => if a.mismatch.isSome || !a.placed || s.assayRuns assay then .next s else .next (s.compareAssay a diff)

/-! ### Attribution (R279) -/

/-- Attribute a fault to a unit: the second within one hour disables it (R279). -/
def State.attribute (s : State) (u : UnitId) : State :=
  let recent := s.health.faults.filter (fun f => f.1 == u && decide (s.now < f.2 + 3600000000000))
  let s1 : State := { s with health := { s.health with faults := s.health.faults ++ [(u, s.now)] } }
  if recent.isEmpty then s1
  else match u with
    | .engine n => if bitOf s1.regs F.TIER_SE_FAULT.FAULT n then s1 else s1.disableEngine n 2
    | .tile n =>
      if bitOf s1.regs F.HEALTH_TILEF.FAULT n then s1
      else (errRecord (s1.wrBit F.HEALTH_TILEF.FAULT n true) .unitDisabled (.tile n) { detail := 2 }).degradeMark
    | .gate _ => s1

/-- The third execution is compared with both results (R279). -/
def State.attributeAssay (s : State) (a : Assay) (row elem : Nat) (equalsFirst equalsSecond : Bool) : State :=
  let s0 := s.dropAssay a.id
  match equalsFirst, equalsSecond with
  | true, false => (s0.assayRecord a row elem 2 a.second).attribute a.second
  | false, true => (s0.assayRecord a row elem 1 a.first).attribute a.first
  | _, _ => (s0.assayRecord a row elem 4 a.first).bump F.HEALTH_ASSAY_STAT.UNRESOLVED

/-- ASSAY_ATTRIBUTION: the third execution has run (R279). -/
def execAssayAttribution (t assay : Nat) (equalsFirst equalsSecond : Bool) (s : State) : Host.Outcome State Fault Refusal :=
  let s := s.at_ t
  match s.health.assays.find? (fun a => a.id == assay) with
  | none => .next s
  | some a => match a.mismatch with
    | none => .next s
    | some (row, elem) =>
      if !a.placed || s.assayRuns assay || (equalsFirst && equalsSecond) then .next s
      else .next (s.attributeAssay a row elem equalsFirst equalsSecond)

/-! ### Registers -/

/-- HEALTH_ASSAY_WRITE: RATE under R16, with a new seed (R275, Table 12.7); other values than 0 to 4,096 are ignored. -/
def execHealthAssayWrite (t : Nat) (v : Word) (s : State) : Host.Outcome State Fault Refusal :=
  if !s.ready then .next (s.at_ t) else
  let s := s.at_ t
  if 4096 < fieldOf F.HEALTH_ASSAY.RATE v then .next s
  else
    let (x, s1) := s.draw
    .next (({ s1 with health := { s1.health with assaySeed := x } } : State).writeStaged F.HEALTH_ASSAY.RATE.off
      (regWritten false F.HEALTH_ASSAY.RATE.off (getReg s1.regs F.HEALTH_ASSAY.RATE.off) v))

/-- HEALTH_TILEF_CLEAR: tiles whose bit is written 1 take tasks again from the next boundary, their faults forgotten (R279). -/
def execHealthTilefClear (t n : Nat) (v : Word) (s : State) : Host.Outcome State Fault Refusal :=
  if !s.ready then .next (s.at_ t) else
  let s := s.at_ t
  if 24 ≤ n then .next s
  else
    let s1 := s.wr F.HEALTH_TILEF.FAULT (s.rd F.HEALTH_TILEF.FAULT n &&& (~~~v).toNat) n
    .next { s1 with health := { s1.health with faults := s1.health.faults.filter (fun f => match f.1 with
      | .tile k => !(k / 64 == n && bit v.toNat (k % 64))
      | _ => true) } }

end Sys2Proof.Machine
end

