-- ==== Sys2Proof/Machine/Admit.lean ====
section
/-! DEFINITION. Admission at a tick boundary: eligibility, the checks made against the conversation, reservations and fair queueing,
and the order in which tasks are placed (02_tick.md, R25-R33; 08_rings.md, R161, R163, R164, R172, R174, R177, R178; 10_classes.md,
R217, R218, R222-R224; 13_fabric.md, R296). -/
namespace Sys2Proof.Machine

/-! ### What a request sees -/

/-- Admitted operations that change the length of a head and have not taken effect, in the order of their admission. -/
def State.lengthOps (s : State) (ctx conv hk : Nat) : List Req :=
  lsort (fun q => q.admittedAt.getD 0 * 2 ^ 64 + q.order) (s.reqs.filter (fun q =>
    q.ctx == ctx && q.desc.conv == conv && q.admittedAt.isSome && !q.effectDone &&
      ((q.desc.opcode == 3 && q.desc.heads.contains hk) || [5, 6, 10].contains q.desc.opcode)))

/-- Length of a head after one such operation. -/
def lengthAfter (q : Req) (len : Nat) : Nat :=
  match q.desc.opcode with
  | 3 => q.desc.tokenFirst + q.desc.tokenSpan
  | 6 => min len q.desc.tokenFirst
  | _ => q.n

/-- Whether a request admitted now finds what another has done: it is ordered before it, or was admitted in an earlier tick (R17, R42). -/
def State.sees (s : State) (r q : Req) : Bool := orderedBefore q r || decide (q.admittedAt.getD 0 < s.now)

/-- Length of a head of conversation `conv` as a request admitted now sees it (R42, R163): APPENDs ordered before it or admitted in an earlier
tick count, and with one that counts all that it continues from. -/
def State.visibleIn (s : State) (r : Req) (conv : Nat) (c : Conv) (hk : Nat) : Nat :=
  ((s.lengthOps r.ctx conv hk).foldl (fun acc q =>
    let len := lengthAfter q acc.1
    (len, if s.sees r q then len else acc.2)) (c.len hk, c.len hk)).2

/-- Length of a head of its own conversation as a request admitted now sees it. -/
def State.visibleLen (s : State) (r : Req) (c : Conv) (hk : Nat) : Nat := s.visibleIn r r.desc.conv c hk

/-- Whether the tail page of a head is sealed now: one a peer holds is, unless it has been asked to reopen it (R132, R163). -/
def State.tailSealed (s : State) (ctx : Nat) (c : Conv) (hk : Nat) : Bool :=
  c.len hk % 128 == 0 || (match c.entry hk (c.len hk / 128) with
    | none => false
    | some e => match (s.ctx ctx).entryPage s.ownsSlot e with
      | some pg => pg.isSealed
      | none => !e.asked)

/-- Whether the tail page of a head will be sealed once an admitted operation has taken effect on a head of length `len` (R164-R167). -/
def sealedAfter (q : Req) (len : Nat) (was : Bool) : Bool :=
  match q.desc.opcode with
  | 3 => (q.desc.tokenFirst + q.desc.tokenSpan) % 128 == 0
  | 6 => if q.desc.tokenFirst < len then q.desc.tokenFirst % 128 == 0 else was
  | _ => true

/-- Whether a request admitted now sees the tail page of a head of another conversation sealed (R161, R166). -/
def State.visibleSealed (s : State) (r : Req) (conv : Nat) (c : Conv) (hk : Nat) : Bool :=
  let seals := s.reqs.filter (fun q => q.ctx == r.ctx && q.desc.conv == conv && q.admittedAt.isSome && !q.effectDone && q.desc.opcode == 4)
  ((lsort (fun q => q.admittedAt.getD 0 * 2 ^ 64 + q.order) ((s.lengthOps r.ctx conv hk ++ seals).filter (s.sees r))).foldl
    (fun acc q => (if q.desc.opcode = 4 then acc.1 else lengthAfter q acc.1, sealedAfter q acc.1 acc.2)) (c.len hk, s.tailSealed r.ctx c hk)).2

/-- The length shared by the named heads of an attention request; none when they differ (R163). -/
def State.sharedLen (s : State) (r : Req) (c : Conv) : Option Nat :=
  match r.desc.heads.map (s.visibleLen r c) with
  | [] => none
  | n :: ns => if ns.all (· == n) then some n else none

/-! ### The checks at admission -/

/-- Whether a request would create its conversation (R164, R166, R171). -/
def State.creates (s : State) (r : Req) : Bool :=
  (s.conv? r.ctx r.desc.conv).isNone && ((r.desc.opcode == 3 && r.desc.tokenFirst == 0) || r.desc.opcode == 5 || r.desc.opcode == 10)

/-- Whether a truncated conversation refuses a request, and the length it was cut to (R296). -/
def Conv.truncates (c : Conv) (d : Desc) : Option Nat :=
  match c.truncated with
  | none => none
  | some len => if [6, 7, 12].contains d.opcode || (d.opcode == 3 && d.tokenFirst == len) then none else some len

/-- CODE and PROGRESS of the existence checks (R161 step 7, R164, R166, R171, R296). -/
def State.existCode (s : State) (r : Req) : Nat × Nat :=
  let d := r.desc
  match s.conv? r.ctx d.conv with
  | none =>
    if d.opcode = 5 then
      match s.conv? r.ctx d.queryRkey with
      | none => (cNoConv, 0)
      | some src => match src.truncated with
        | some len => (cTruncated, len - 1)
        | none => (0, 0)
    else if d.opcode = 10 || (d.opcode = 3 && d.tokenFirst = 0) then (0, 0)
    else (cNoConv, 0)
  | some c =>
    if d.opcode = 5 || d.opcode = 10 then (cConvExists, 0)
    else match c.truncates d with
      | some len => (cTruncated, len - 1)
      | none => (0, 0)

/-- A FORK's source with the lengths that the FORK sees at its admission (R161, R166). -/
def State.forkSource (s : State) (r : Req) (a : AttnProfile) (src : Conv) : Conv :=
  { src with lens := (allHeads a).foldl (fun m hk => mset m hk (s.visibleIn r r.desc.queryRkey src hk)) src.lens }

/-- CODE of FORK's checks against the state that the requests before it leave: every head of the source is long enough, and a page that the
span ends in is sealed with just those tokens (R161, R166). -/
def State.forkChecks (s : State) (r : Req) : Nat :=
  match s.conv? r.ctx r.desc.queryRkey, (s.ctx r.ctx).profile with
  | some src, some p =>
    let seen := s.forkSource r p.attn src
    let hs := allHeads p.attn
    let span := forkSpan p.attn r.desc seen
    if hs.any (fun hk => decide (seen.len hk < span)) then cPosition
    else if span % 128 != 0 && hs.any (fun hk => seen.len hk != span || !s.visibleSealed r r.desc.queryRkey src hk) then cNotSealed
    else 0
  | _, _ => 0

/-- CODE of the position checks (R42, R60, R163, R164, R166, Table 3.7). -/
def State.positionCode (s : State) (r : Req) : Nat :=
  let d := r.desc
  let c := s.conv? r.ctx d.conv
  let n := c.bind (s.sharedLen r)
  match d.opcode with
  | 1 => match n with
    | none => cPosition
    | some n => if n < d.qpos then cPosition else 0
  | 2 =>
    if d.tokenSpan = 0 || 65536 < d.tokenSpan || d.qpos != 0 then cPosition
    else match n with
      | none => cPosition
      | some n => if n < d.tokenFirst + d.tokenSpan then cPosition else 0
  | 3 =>
    if d.tokenSpan = 0 || 65536 < d.tokenSpan || 2 ^ 32 < d.tokenFirst + d.tokenSpan then cPosition
    else if d.heads.any (fun hk => (match c with | some c => c.expLen hk | none => 0) != d.tokenFirst) then cPosition
    else 0
  | 5 => s.forkChecks r
  | _ => 0

/-- CODE of a HINT that parks where R140 or R143 forbids it, found at validation (Table 8.10). -/
def State.hintCode (s : State) (r : Req) : Nat := if r.desc.opcode = 8 && r.desc.qgroup = 3 then s.parkCode r.ctx else 0

/-- NORMALIZE over a part of the keys (R50): a span that ends before the length. -/
def normalizeCode (d : Desc) (n : Nat) : Nat :=
  if d.opcode = 1 && d.normalize && d.tokenSpan != 0 && decide (d.tokenSpan < n) then cNormalizeSpan else 0

/-- CODE and PROGRESS with which a request ends at its admission, 0 for none (R161, R79, R45). -/
def State.admitCode (s : State) (r : Req) : Nat × Nat :=
  let (code, progress) := s.existCode r
  if code != 0 then (code, progress)
  else
    let n := ((s.conv? r.ctx r.desc.conv).bind (s.sharedLen r)).getD 0
    (firstCode [s.modifierCode r.ctx r.desc, s.positionCode r, s.hintCode r, normalizeCode r.desc n, if s.queryBad r 0 then cQueryValue else 0], 0)

/-! ### Eligibility -/

/-- Whether a change of a fixed parameter that waits for its boundary holds back requests that create conversations (R367). -/
def Ctx.fixedPending (x : Ctx) : Bool := match x.pendingProfile, x.profile with
  | some (_, q), some p => fixedChanged p q
  | _, _ => false

/-- Whether an unserved conversation (R338) or one that is being released (R178) makes a request wait. -/
def State.convWaits (s : State) (ctx conv : Nat) : Bool := match s.conv? ctx conv with
  | some c => c.unserved.isSome || c.releasing
  | none => false

/-- Whether an unadmitted request may be admitted at this boundary (R17, R27, R172, R178, R292, R367). A PROBE reports the boundary that
admits it (R173), so it is admitted once what is ordered before it has taken effect. -/
def State.reqReady (s : State) (r : Req) : Bool :=
  r.admittedAt.isNone && r.desc.opcode != 11 && s.eligible r.fetchedAt &&
    !s.reqs.any (fun q => q.id != r.id && (((q.admittedAt.isNone || (r.desc.opcode == 12 && !q.effectDone)) && orderedBefore q r) ||
      (match r.fence with | some f => decide (q.order < f) && sameOrigin q.ring r.ring && q.ctx == r.ctx | none => false))) &&
    !s.convWaits r.ctx r.desc.conv && !(r.desc.opcode == 5 && s.convWaits r.ctx r.desc.queryRkey) &&
    !(s.creates r && (s.ctx r.ctx).fixedPending) &&
    !(r.desc.opcode == 3 && (match (s.ctx r.ctx).profile with
      | some p => p.cls.fMode == 1 && decide (p.cls.fJ ≤ s.journalLag r.ctx)
      | none => false))

/-- What competes for admission. -/
inductive CandKind where
  /-- A request: its next query block, 0 for any other opcode. -/
  | req (id block : Nat)
  | sub (id : Nat)
  /-- Housekeeping: a re-execution of an assay (R277), or another task of R32 (R217). -/
  | assay (id : Nat)
  | keep (task cls : Nat)
deriving DecidableEq, Repr

/-- A competitor of one class at one boundary. -/
structure Cand where
  kind : CandKind
  ctx : Nat
  /-- Fetch order within the context. -/
  order : Nat
  marked : Bool
  /-- Whether the reserved pass takes it. -/
  reservable : Bool
deriving DecidableEq, Repr

/-- Blocks of an admitted chunk that may be placed: their operands are being read (R60). -/
def Req.moreBlocks (r : Req) : Bool :=
  r.desc.opcode == 2 && r.admittedAt.isSome && r.cancelledBy.isNone && decide (r.placedBlocks < r.desc.blocks) &&
    decide (r.placedBlocks < r.startedBlocks.length + 4)

/-- Whether a waiting task is housekeeping that no itinerary has held yet (R32). -/
def Task.newKeep (t : Task) : Bool := t.req == some hkKey && !t.carried && !t.displaced && !t.returned && (match t.kind with
  | .move _ => true
  | .scrub _ => true
  | .seal _ => true
  | _ => false)

/-- Whether a task is a mover's stack write of a page that a takeover has rebuilt, which may also take C2 windows (R294). -/
def State.rebuildMove (s : State) (t : Task) : Bool := match t.kind with
  | .move id => (s.tier.moves.find? (fun m => m.id == id && m.incoming.isNone)).any (fun m => m.member.isNone && m.dst.tier == 1 &&
      (mget (s.ctx m.ctx).pages m.page).any Page.rebuilt)
  | _ => false

/-- The competitors of a class, in fetch order (R222). Housekeeping competes in C3; the stack writes of a rebuild also in C2, where they hold
no flow of their own (notes/assumptions/47.md). -/
def State.cands (s : State) (c : Nat) : List Cand :=
  let rs := (s.reqs.filter (fun r => clsNum r.cls == c && s.reqReady r)).map (fun r =>
    (r.fetchedAt, (⟨.req r.id 0, r.ctx, r.fetchedAt * 2 ^ 64 + r.order, r.marked, true⟩ : Cand)))
  let bs := (s.reqs.filter (fun r => clsNum r.cls == c && r.moreBlocks)).map (fun r =>
    (r.fetchedAt, (⟨.req r.id r.placedBlocks, r.ctx, r.fetchedAt * 2 ^ 64 + r.order, r.marked, false⟩ : Cand)))
  let qs := (s.comp.subs.filter (fun q => q.admittedAt.isNone && s.eligible q.arrived && (parseSub q.body).cls % 4 == c)).map
    (fun q => (q.arrived, (⟨.sub q.id, q.ctx, q.arrived * 2 ^ 64 + q.id, false, !(parseSub q.body).backup⟩ : Cand)))
  let ms := if c = 2 then ((s.itin.waiting.filter (fun t => t.newKeep && s.rebuildMove t)).map (fun t =>
    (0, (⟨.keep t.id 2, 512, t.id, false, false⟩ : Cand)))) else []
  let hs := if c = 3 then ((s.health.assays.filter (fun a => !a.placed && (!a.held || a.third.isSome))).map (fun a =>
    (0, (⟨.assay a.id, 512, a.id, false, false⟩ : Cand)))) ++ ((s.itin.waiting.filter Task.newKeep).map (fun t =>
    (0, (⟨.keep t.id 3, 512, t.id, false, false⟩ : Cand)))) else []
  (lsort (fun x => x.2.order) (rs ++ bs ++ qs ++ ms ++ hs)).map Prod.snd

/-! ### Effects of an admission -/

/-- A conversation as its creating request's admission leaves it (R164, R133). -/
def Conv.created (now id slot layer : Nat) (expected : Map Nat) : Conv where
  lens := []
  expected := expected
  pageMap := []
  lastAttend := now
  pinned := false
  parked := false
  truncated := none
  creator := some id
  releasing := false
  unserved := none
  placed := 1
  hot := layer
  home := slot

/-- Every head at one length. -/
def allAt (a : AttnProfile) (n : Nat) : Map Nat := (allHeads a).foldl (fun m hk => mset m hk n) []

/-- Length a FORK's conversation will have, as its admission sees the source (R166). -/
def State.forkLen (s : State) (r : Req) (p : Profile) : Nat := match s.conv? r.ctx r.desc.queryRkey with
  | some src => forkSpan p.attn r.desc (s.forkSource r p.attn src)
  | none => 0

/-- N of a request that is admitted: the length an attention request sees, the length a FORK or IMPORT creates (R42, R166, R171). -/
def State.admitLen (s : State) (r : Req) (p : Profile) : Nat :=
  match r.desc.opcode with
  | 5 => s.forkLen r p
  | 10 => r.desc.tokenSpan
  | _ => if r.desc.isAttend then ((s.conv? r.ctx r.desc.conv).bind (s.sharedLen r)).getD 0 else 0

/-- A conversation that an attention request of a layer names: last attend, no longer parked, and, where it was not hot before, the layer that
has made it so (R133, R136). -/
def Conv.attended (c : Conv) (now : Nat) (x : Ctx) (layer : Nat) : Conv :=
  { c with lastAttend := now, parked := false, hot := if targetTier now x c = 1 then c.hot else layer }

/-- What the admission of a request does to its conversation: creation, expected lengths, last attend and the pinned, parked and truncated
marks (R133, R164, R167, R169, R296). -/
def State.admitConv (s : State) (r : Req) (p : Profile) (n : Nat) : State :=
  let d := r.desc
  let put (c : Conv) : State := s.modCtx r.ctx (fun x => { x with convs := mset x.convs d.conv c })
  let appended (m : Map Nat) : Map Nat := d.heads.foldl (fun m hk => mset m hk (d.tokenFirst + d.tokenSpan)) m
  match s.conv? r.ctx d.conv with
  | none =>
    if d.opcode = 3 then put (Conv.created s.now r.id s.mainSlot d.layer (appended []))
    else put (Conv.created s.now r.id s.mainSlot d.layer (allAt p.attn n))
  | some c =>
    match d.opcode with
    | 1 => put (c.attended s.now (s.ctx r.ctx) d.layer)
    | 2 => put (c.attended s.now (s.ctx r.ctx) d.layer)
    | 3 => put { c with expected := appended c.expected, parked := false, truncated := none }
    | 6 => put { c with expected := c.lens.foldl (fun m e => mset m e.1 (min (c.expLen e.1) d.tokenFirst)) (mall c.expected (fun _ n => min n d.tokenFirst))
                        truncated := none }
    | 7 => put { c with releasing := true, truncated := none }
    | 8 => match d.qgroup with
      | 1 => put { c with pinned := true }
      | 2 => put { c with pinned := false }
      | 3 => put { c with pinned := false, parked := true }
      | _ => s
    | _ => s

/-- Requests that the admission of a RELEASE cancels (R178). -/
def State.releasedBy (s : State) (r : Req) : List Nat :=
  (s.reqs.filter (fun q => q.ctx == r.ctx && q.id != r.id && decide (q.order < r.order) && q.admittedAt.isNone && q.desc.opcode != 11 &&
    (q.desc.conv == r.desc.conv || (q.desc.opcode == 5 && q.desc.queryRkey == r.desc.conv)) && !orderedBefore q r)).map Req.id

/-- Bind a request to the settings it runs under (R16, R42, R80, R284) and admit it. -/
def State.bindReq (s : State) (r : Req) (p : Profile) : State :=
  let n := s.admitLen r p
  let s1 := s.admitConv r p n
  let home := match s1.conv? r.ctx r.desc.conv with
    | some c => c.home
    | none => s1.mainSlot
  let image := if r.desc.isAttend && r.desc.modifier != 0xFFFF then ((s1.ctx r.ctx).prog r.desc.modifier).image else none
  let s2 := s1.modReq r.id (fun q => { q with
    admittedAt := some s1.now
    profile := some p
    n := n
    image := image
    nc := s1.nc
    home := home
    epoch := s1.comp.epoch })
  match r.desc.opcode with
  | 7 => s2.finishAll (s2.releasedBy r) 6 cReleased 0
  | 12 => match s2.conv? r.ctx r.desc.conv with
    | some c => s2.modReq r.id (fun q => { q with operands := mset q.operands 0 (s2.probeReport r.ctx p r.desc c) })
    | none => s2
  | _ => s2

/-- STATE 2 at the admission of a chunk, EXPORT or IMPORT with PARTIAL_OK (R174). -/
def State.admittedWord (s : State) (r : Req) : State :=
  if r.desc.partialOk && [2, 9, 10].contains r.desc.opcode && !r.wrote2 then
    (s.status r 2 0 0).modReq r.id (fun q => { q with wrote2 := true })
  else s

/-! ### Frames of a competitor (R222, R225) -/

/-- A frame the planner counts for work: connection slot, TYPE, payload bytes. -/
structure PlanFrame where
  slot : Nat
  type : Nat
  len : Nat
deriving DecidableEq, Repr

/-- The frames of a message (R191). -/
def messageFrames (slot type len : Nat) : List PlanFrame :=
  (List.range (packetCount len)).map (fun i => ⟨slot, type, min 4096 (len - i * 4096)⟩)

/-- Frames of the sub-requests a block sends to the holders of other positions (R18, Table 13.4); none for a request that is whole here. -/
def State.shareFrames (s : State) (r : Req) (p : Profile) (block : Nat) : List PlanFrame :=
  ((r.positions p).filter (fun pos => !s.ownsAt r.epoch (memberOf r.home pos r.nc))).flatMap (fun pos =>
    match s.peerConn r.ctx (memberOf r.home pos r.nc) with
    | some k => messageFrames k 4 (0xE0 + s.headRows r.id block * r.desc.kvhCount * p.attn.dk * 2)
    | none => [])

/-- Frames of a block's result, or of what another opcode writes, with the cairn and the status word that follow (R174, R175). -/
def State.resultFrames (s : State) (r : Req) (p : Profile) (block slot : Nat) : List PlanFrame :=
  let status := messageFrames slot 1 8
  if r.desc.isAttend then
    let last := decide (r.desc.blocks ≤ block + 1)
    messageFrames slot 1 (s.headRows r.id block * r.desc.kvhCount * recordSize p.attn r.desc.skip) ++
      (if last && r.desc.cairn then messageFrames slot 1 64 else []) ++ (if last || r.desc.partialOk then status else [])
  else if usesResult r.desc.opcode then messageFrames slot 1 (s.resultBytes r.ctx r.desc p) ++ status
  else status

/-- Frames of the tasks of a block of a request in this tick: its sub-requests, or its result where nothing is awaited from peers. -/
def State.reqFrames (s : State) (r : Req) (p : Profile) (block : Nat) : List PlanFrame :=
  let away := if r.desc.isAttend then s.shareFrames r p block else []
  if !away.isEmpty then away
  else match r.ring with
    | .partner slot _ => s.resultFrames r p block slot
    | .localRing _ => []

/-- Frames of the partial a sub-request answers with (Table 13.5). -/
def State.subFrames (s : State) (q : SubReq) (p : Profile) : List PlanFrame :=
  let b := parseSub q.body
  match q.slot with
  | none => []
  | some k => messageFrames k 4 (0xA0 + s.headRows q.id q.block * b.kvhCount * ((if b.skip then 16 else 8) + 4 * p.attn.dv))

/-- Gate cost of a planned frame on a link, in ps (Table 2.2). -/
def State.framePs (s : State) (f : PlanFrame) (l : Nat) : Nat := match s.conn? f.slot with
  | some c => gateCostPs (s.linkGbps l) (s.frameBytes c.entry l f.type f.len)
  | none => 0

/-- Links a planned frame may take. -/
def State.frameLinks (s : State) (f : PlanFrame) : List Nat := match s.conn? f.slot with
  | some c => s.linkList c.entry
  | none => []

/-- Worst-case gate time of frames, in ps. -/
def State.framesCost (s : State) (fs : List PlanFrame) : Nat :=
  lsum (fs.map (fun f => match s.frameLinks f with
    | l :: _ => s.framePs f l
    | [] => 0))

/-- Frames on a gate, placed and planned, in the order of their starts. -/
def State.gateBusy (s : State) (l : Nat) : List GateSpan :=
  lsort GateSpan.start (s.gateFrames l ++
    ((s.itin.gates.filter (fun g => g.link == l)).map (fun g => ⟨g.start, g.stop, clsNum g.cls, none⟩)))

/-- Count a frame on the gate of its earliest planned end (R225); false when it does not fit its class window. A frame without a link
to go on holds nothing back. -/
def State.planFrame (s : State) (ctx : Nat) (c : Cls) (reserved : Bool) (f : PlanFrame) : Bool × State :=
  let start (l : Nat) : Nat := s.gateStart l (s.gateBusy l) false (clsNum c) (s.framePs f l) (s.now * 1000)
  match bestOf (fun l => start l + s.framePs f l) (s.frameLinks f) with
  | none => (true, s)
  | some l =>
    let stop := start l + s.framePs f l
    if s.gateStop (clsNum c) 0 < stop then (false, s)
    else (true, { s with itin := { s.itin with gates := s.itin.gates ++ [⟨l, ctx, c, reserved, start l, stop⟩] } })

/-- Count the frames of work; false when one does not fit. -/
def State.planFrames (s : State) (ctx : Nat) (c : Cls) (reserved : Bool) (fs : List PlanFrame) : Bool × State :=
  fs.foldl (fun a f => let x := a.2.planFrame ctx c reserved f; (a.1 && x.1, x.2)) (true, s)

/-- Frames still owed by work admitted in earlier ticks are counted before new work (R224, R225). -/
def State.owedFrames (s : State) : State :=
  let s1 := s.reqs.foldl (fun s r => match r.admittedAt, r.profile with
    | some _, some p =>
      let blocks := if r.desc.isAttend then (List.range r.placedBlocks).filter (fun b => !r.doneBlocks.contains b)
        else if r.effectDone then [] else [0]
      blocks.foldl (fun s b => (s.planFrames r.ctx r.cls false (s.reqFrames r p b)).2) s
    | _, _ => s) s
  s1.comp.subs.foldl (fun s q => match q.admittedAt, (s.ctx q.ctx).profile with
    | some _, some p => (s.planFrames q.ctx (clsOfNum (parseSub q.body).cls) false (s.subFrames q p)).2
    | _, _ => s) s1

/-! ### Work of a competitor -/

/-- What the planner is about to place: the state with the competitor bound, its work, tasks and frames, query rows, and cost in ps. -/
structure Try where
  s : State
  work : Work
  kinds : List TaskKind
  frames : List PlanFrame
  rows : Nat
  cost : Nat
deriving DecidableEq, Repr

/-- Outcome of looking at a competitor. -/
inductive Prep where
  /-- It ends here with an error. -/
  | ended (s : State)
  | go (t : Try)
deriving DecidableEq, Repr

/-- Page indices of a key range. -/
def rangeIndices (kf ke : Nat) : List Nat := if kf < ke then span (kf / 128) (pagesOf ke) else []

/-- Tasks of one query block of a bound request, or of its APPEND (R59, R60, R164). -/
def State.reqKinds (s : State) (r : Req) (p : Profile) (block : Nat) : List TaskKind :=
  let w := r.work p
  if r.desc.isAttend then
    let (kf, ke) := keyRange r.desc r.n
    s.attendKinds w block (rangeIndices kf ke) (!s.awaits w block)
  else if r.desc.opcode = 3 then s.splitAppend w r.desc.tokenSpan ++ (if striped (pagesOf (r.desc.tokenFirst + r.desc.tokenSpan)) s.nc p.place &&
      !striped (pagesOf r.desc.tokenFirst) s.nc p.place then s.splitTrees w 0 w.heads.length else [])
  else []

/-- Bind a request, or end it with its code (R161). -/
def State.prepReq (s : State) (id block : Nat) : Prep :=
  match s.req? id with
  | none => .ended s
  | some r =>
    match (if r.admittedAt.isSome then r.profile else (s.ctx r.ctx).profile) with
    | none => .ended s
    | some p =>
      let (code, progress) := if r.admittedAt.isSome then (0, 0) else s.admitCode r
      if code != 0 then .ended (s.failReq id code progress)
      else
        let s1 := if r.admittedAt.isSome then s else s.bindReq r p
        match s1.req? id with
        | none => .ended s1
        | some q =>
          let w := q.work p
          let ks0 := s1.reqKinds q p block
          let (aks, s2) := if q.desc.isAttend then s1.sample w block q.desc.opcode q.desc.assayHold ks0 else ([], s1)
          let ks := ks0 ++ aks
          let fs := s1.reqFrames q p block
          .go { s := s2, work := w, kinds := ks, frames := fs, rows := if q.desc.isAttend then s1.headRows id block * w.heads.length else 0
                cost := s2.workCost w ks + s1.framesCost fs }

/-- What a member keeps of the conversation a sub-request names: the pages it holds of it, the lengths, the home and the attend (R125, R128,
R133). -/
def State.noteSub (s : State) (q : SubReq) : State :=
  let b := parseSub q.body
  let ctx := q.ctx
  if mhas (s.ctx ctx).convs b.conv then s
  else
    let s1 := b.heads.foldl (fun s hk => (rangeIndices b.keyFirst b.keyEnd).foldl (fun s i => s.learnPage ctx b.conv b.homeSlot hk i) s) s
    s1.modCtx ctx (fun x => { x with peers := mmod x.peers b.conv (fun c =>
      { c.attended s.now x b.layer with home := b.homeSlot, lens := b.heads.foldl (fun m hk => mset m hk b.length) c.lens }) })

/-- Bind a sub-request, or refuse it (R18, R81, R127, R296). -/
def State.prepSub (s : State) (id : Nat) : Prep :=
  match s.sub? id with
  | none => .ended s
  | some q =>
    match s.subProfile q with
    | none => .ended s
    | some p =>
      let st := s.subRefused q p
      if st != 0 then .ended (s.sendPartial q st [] (parseSub q.body).skip [])
      else
        let b := parseSub q.body
        let image := if b.modifier = 0xFFFF then none else s.subImage q.ctx b
        let s0 := s.noteSub q
        let s1 : State := { s0 with comp := { s0.comp with
          subs := lmod s.comp.subs (fun x => x.id == id) (fun x => { x with admittedAt := some s.now, profile := some p, image := image }) } }
        let w := s1.subWork { q with image := image } p
        let ks0 := s1.attendKinds w q.block (rangeIndices b.keyFirst b.keyEnd) false
        let (aks, s2) := s1.sample w q.block b.opcode b.assayHold ks0
        let ks := ks0 ++ aks
        let fs := s1.subFrames q p
        .go { s := s2, work := w, kinds := ks, frames := fs, rows := s1.headRows id q.block * w.heads.length
              cost := s2.workCost w ks + s1.framesCost fs }

/-- The work of an assay's re-execution (R277). -/
def State.prepAssay (s : State) (id : Nat) : Prep :=
  match s.health.assays.find? (fun a => a.id == id) with
  | none => .ended s
  | some a =>
    match (s.ctx a.ctx).profile with
    | none => .ended (s.dropAssay id)
    | some p => .go { s := s.modAssay id (fun x => { x with placed := true }), work := hkWork a.ctx p, kinds := [.assay id], frames := [], rows := 0
                      cost := s.partCost (hkWork a.ctx p) (.assay id) }

/-- Whether what a housekeeping task serves still goes on. -/
def State.keepLives (s : State) (t : Task) : Bool := match t.kind with
  | .move id => s.tier.moves.any (fun m => m.id == id && m.incoming.isNone)
  | .scrub ctx => s.sec.scrubs.contains ctx
  | .seal num => mhas (s.ctx t.ctx).pages num
  | _ => true

/-- The work of another housekeeping task, in the class whose window it takes (R32, R294). -/
def State.prepKeep (s : State) (id cls : Nat) : Prep :=
  match s.itin.waiting.find? (fun t => t.id == id) with
  | none => .ended s
  | some t =>
    let s1 : State := { s with itin := { s.itin with waiting := s.itin.waiting.filter (fun x => x.id != id) } }
    if !s.keepLives t then .ended s1 else
    let w : Work := { hkWork t.ctx ((s.ctx t.ctx).profile.getD Profile.blank) with cls := clsOfNum cls }
    .go { s := s1, work := w, kinds := [t.kind], frames := [], rows := 0, cost := s.partCost w t.kind }

/-- What a competitor comes to. -/
def State.prep (s : State) (c : Cand) : Prep :=
  match c.kind with
  | .req id block => s.prepReq id block
  | .sub id => s.prepSub id
  | .assay id => s.prepAssay id
  | .keep id cls => s.prepKeep id cls

/-! ### Tags (R222) -/

/-- Cost of a competitor in ps, over all its tasks (R372). -/
def State.candCost (s : State) (c : Cand) : Nat := match s.prep c with
  | .go t => t.cost
  | .ended _ => 0

/-- Weight of a competitor in a class. -/
def State.candWeight (s : State) (c : Cand) (cls : Nat) : Nat :=
  match c.kind with
  | .assay _ => max 1 (s.lv F.CTX_CLASS.HK_WEIGHT)
  | .keep _ _ => max 1 (s.lv F.CTX_CLASS.HK_WEIGHT)
  | _ => match (s.ctx c.ctx).profile with
    | some p => max 1 (lget p.cls.weights cls 1)
    | none => 1

/-- F_prev of a competitor's flow. -/
def State.flowPrev (s : State) (c : Cand) (cls : Nat) : Nat :=
  match c.kind with
  | .assay _ => s.itin.hkPrev
  | .keep _ c => if c = 3 then s.itin.hkPrev else 0
  | _ => lget (s.ctx c.ctx).fprev cls 0

/-- Finish tag if admitted now. -/
def State.tagOf (s : State) (c : Cand) (cls cost : Nat) : Nat :=
  (max (lget s.itin.vtime cls 0) (s.flowPrev c cls) + cost * 65536 / (1000 * s.candWeight c cls)) % 2 ^ 64

/-- Charge an admission: V follows it. -/
def State.charge (s : State) (c : Cand) (cls cost : Nat) : State :=
  let tag := s.tagOf c cls cost
  let s1 : State := { s with itin := { s.itin with vtime := lset s.itin.vtime cls tag } }
  match c.kind with
  | .assay _ => { s1 with itin := { s1.itin with hkPrev := tag } }
  | .keep _ c => if c = 3 then { s1 with itin := { s1.itin with hkPrev := tag } } else s1
  | _ => s1.modCtx c.ctx (fun x => { x with fprev := lset x.fprev cls tag })

/-! ### Placing a competitor -/

/-- Gate time of one sub-request, the longest of a block's, in ps (R33, R220). -/
def State.subGatePs (s : State) (fs : List PlanFrame) : Nat :=
  ((fs.map PlanFrame.slot).eraseDups.map (fun k => s.framesCost (fs.filter (fun f => f.slot == k)))).foldl max 0

/-- Tick, as TickState.count numbers them, in which what a block awaits from peers is due (R33): the sub-requests go from the window of the
class on. -/
def State.continuationDue (s : State) (cls gate : Nat) : Nat :=
  let period := s.tick.periodUs * 1000
  let offset := ceilDiv (windowStart s.tick.periodUs s.tick.shares cls + gate) 1000
  let sum := offset + s.lv F.TICK_ALIGN.HOP_NS + 400 + s.lv F.TICK_OFFSET.LIMIT_NS
  s.tick.count + max 1 (ceilDiv sum (max 1 period))

/-- A placed block that awaits partials or leaves from peers gets a continuation, held from its due tick on, by rows where one task would
exceed R29 (R33, R128). -/
def State.holdContinuation (s : State) (w : Work) (block gate : Nat) : State :=
  if !s.awaits w block then s
  else
    (s.splitRows w (fun f c => .continuation block f c) 0 (s.headRows w.key block * w.heads.length)).foldl (fun s k =>
      s.tookTask.wait { s.newTask w k false with due := s.continuationDue (clsNum w.cls) gate }) s

/-- Book-keeping of a placed block of a request (R60, R275). -/
def State.placedReq (s : State) (w : Work) (id block gate : Nat) : State :=
  match s.req? id with
  | none => s
  | some r =>
    let s1 := s.admittedWord r
    if r.desc.isAttend then (s1.modReq id (fun q => { q with placedBlocks := block + 1 })).holdContinuation w block gate
    else s1

/-- The sealed image of N5 is invalid once work is admitted (R337). -/
def State.dropImage (s : State) : State := { s with nv := { s.nv with image := none } }

/-- Place tasks and count frames of work, the re-executions of held assays once the units of their page-tasks are known (R277); whether all of
them fit this tick. -/
def State.place (s : State) (w : Work) (reserved : Bool) (ks : List TaskKind) (fs : List PlanFrame) : Bool × State :=
  let s0 := (s.placeAll w reserved (ks.filter (fun k => !k.isAssay))).fixAssays w
  let s1 := s0.placeAll w reserved (ks.filter TaskKind.isAssay)
  let x := s1.planFrames w.ctx w.cls reserved fs
  (s1.itin.waiting.length == s.itin.waiting.length && x.1, x.2)

/-- The tick as it would be with nothing placed. -/
def State.emptyTick (s : State) : State :=
  { s with itin := { s.itin with units := [], gates := [] }, links := mall s.links (fun _ l => { l with busy := [] }) }

/-- Place a competitor's tasks. -/
def Try.put (t : Try) (c : Cand) (reserved : Bool) (cls : Nat) : State :=
  let s1 := (t.s.place t.work reserved t.kinds t.frames).2
  let s2 := match c.kind with
    | .req id block => s1.placedReq t.work id block (s1.subGatePs t.frames)
    | .sub id => match s1.sub? id with
      | some q => s1.holdContinuation t.work q.block (s1.subGatePs t.frames)
      | none => s1
    | .assay _ => s1
    | .keep _ _ => s1
  let s3 := if c.marked && c.reservable then s2.bump F.CTX_CLASS_STATUS.MARKED else s2
  (s3.charge c cls t.cost).dropImage

/-- Reserved time of a context in a class on a unit's list, in ps. -/
def UnitPlan.reservedPs (p : UnitPlan) (ctx : Nat) (c : Cls) : Nat :=
  lsum ((p.placed.filter (fun t => t.ctx == ctx && t.cls == c && t.reserved)).map Task.costPs)

/-- Reserved time of a context in a class on an egress gate, in ps. -/
def State.gateReserved (s : State) (l ctx : Nat) (c : Cls) : Nat :=
  lsum ((s.itin.gates.filter (fun g => g.link == l && g.ctx == ctx && g.cls == c && g.reserved)).map (fun g => g.stop - g.start))

/-- Reserved unit time of a profile in a class, in ps (Table 10.2). -/
def Profile.unitLimit (p : Profile) (cls : Nat) : Nat := (if cls = 0 then p.cls.c0Unit else p.cls.c1Unit) * 1000

/-- Whether some task, or of work without tasks the first frame, fits its window (R25); work all of whose pages wait for their promotion is
admitted and waits (R150). -/
def Try.firstFits (t : Try) : Bool := match t.kinds with
  | k :: ks => (k :: ks).any (fun k => ((t.s.tookTask).placeTask t.work (t.s.newTask t.work k false)).1) ||
      (k :: ks).all (fun k => (t.s.specOf t.work k).isNone)
  | [] => match t.frames with
    | f :: _ => (t.s.planFrame t.work.ctx t.work.cls false f).1
    | [] => true

/-- Whether a competitor fits its window (R25): all its tasks do, as the requests that wait in Table 10.5 show. Work that no tick could hold
whole is taken as far as it fits, and its other tasks wait for later ticks (R23, R29, R225). -/
def Try.fitsWindow (t : Try) : Bool :=
  (t.s.place t.work false t.kinds t.frames).1 || (t.firstFits && !(t.s.emptyTick.place t.work false t.kinds t.frames).1)

/-- Whether a competitor fits its context's reservation on every unit (R222). -/
def Try.fitsReservation (t : Try) (cls : Nat) : Bool :=
  let (all, s1) := t.s.place t.work true t.kinds t.frames
  all && s1.itin.units.all (fun u =>
    let before := (t.s.plan u.1).reservedPs t.work.ctx t.work.cls
    let after := u.2.reservedPs t.work.ctx t.work.cls
    after == before || decide (after ≤ t.work.p.unitLimit cls)) &&
    (List.range 16).all (fun l => s1.gateReserved l t.work.ctx t.work.cls == t.s.gateReserved l t.work.ctx t.work.cls ||
      decide (s1.gateReserved l t.work.ctx t.work.cls ≤ t.work.p.unitLimit cls))

/-! ### The passes (R222, R223) -/

/-- Conforming requests of a context per tick in a class. -/
def Profile.reqLimit (p : Profile) (cls : Nat) : Nat := if cls = 0 then p.cls.c0Req else p.cls.c1Req

/-- Whether a class has a reservation in a profile. -/
def Profile.reserves (p : Profile) (cls : Nat) : Bool := (cls == 0 && p.cls.c0Unit != 0) || (cls == 1 && p.cls.c1Unit != 0)

/-- Reserved pass of one context: its requests in fetch order, up to the first that does not conform. -/
def State.reservedCtx (s : State) (cls ctx count : Nat) : Nat → State
  | 0 => s
  | fuel + 1 =>
    match (s.cands cls).find? (fun c => c.ctx == ctx && c.reservable), (s.ctx ctx).profile with
    | some c, some p =>
      if (s.ctx ctx).degraded || c.marked || count = p.reqLimit cls then s
      else match s.prep c with
        | .ended s1 => s1.reservedCtx cls ctx count fuel
        | .go t =>
          if (cls = 0 && p.cls.c0Rows < t.rows) || !t.fitsReservation cls then s
          else (t.put c true cls).reservedCtx cls ctx (count + 1) fuel
    | _, _ => s

/-- Contexts of the reserved pass, by the tag of their head request (R222). -/
def State.reservedOrder (s : State) (cls : Nat) : List Nat :=
  let heads := ((s.cands cls).map Cand.ctx).eraseDups.filterMap (fun ctx =>
    match (s.cands cls).find? (fun c => c.ctx == ctx && c.reservable), (s.ctx ctx).profile with
    | some c, some p => if p.reserves cls then some (s.tagOf c cls (s.candCost c) * 1024 + ctx, ctx) else none
    | _, _ => none)
  (lsort Prod.fst heads).map Prod.snd

/-- The reserved pass; C2 and C3 have none. -/
def State.reservedPass (s : State) (cls : Nat) : State :=
  if 1 < cls then s
  else (s.reservedOrder cls).foldl (fun s ctx => s.reservedCtx cls ctx 0 (s.reqs.length + s.comp.subs.length + 1)) s

/-- Whether an earlier competitor of the same ring that names the same conversation is still to be looked at. -/
def State.candAhead (s : State) (cs : List Cand) (c : Cand) : Bool :=
  match c.kind with
  | .req id _ => match s.req? id with
    | some r => cs.any (fun d => match d.kind with
      | .req i _ => (match s.req? i with
        | some q => decide (q.order < r.order) && q.ring == r.ring && q.admittedAt.isNone && sharesConv q.desc r.desc
        | none => false)
      | _ => false)
    | none => false
  | _ => false

/-- Whether a competitor would end at its admission. -/
def State.candEnds (s : State) (c : Cand) : Bool := match s.prep c with
  | .ended _ => true
  | .go _ => false

/-- The competitor with the lowest tag, green before marked, of those not skipped. Step 7 of R161 is made in ring order, so a request that
would end here is looked at after those before it in its ring. -/
def State.lowest (s : State) (cls : Nat) (skip : List CandKind) : Option Cand :=
  let cs := (s.cands cls).filter (fun c => !skip.contains c.kind)
  ((lsort Prod.fst ((cs.filter (fun c => !(s.candAhead cs c && s.candEnds c))).map (fun c =>
    (((b2n c.marked * 2 ^ 64 + s.tagOf c cls (s.candCost c)) * 1024 + c.ctx) * 2 ^ 192 + c.order, c)))).head?).map Prod.snd

/-- The shared pass: a competitor that does not fit is skipped and keeps its place (R222, R223). -/
def State.sharedPass (s : State) (cls : Nat) (skip : List CandKind) : Nat → State
  | 0 => s
  | fuel + 1 =>
    match s.lowest cls skip with
    | none => s
    | some c => match s.prep c with
      | .ended s1 => s1.sharedPass cls (skip ++ [c.kind]) fuel
      | .go t =>
        if t.fitsWindow then (t.put c false cls).sharedPass cls (skip ++ [c.kind]) fuel
        else s.sharedPass cls (skip ++ [c.kind]) fuel

/-- Competitors there can be at one boundary. -/
def State.candBound (s : State) : Nat :=
  5 * s.reqs.length + s.comp.subs.length + s.health.assays.length + s.itin.waiting.length + 1

/-- Admission in one class. -/
def State.admitClass (s : State) (cls : Nat) : State :=
  let s1 := s.reservedPass cls
  s1.sharedPass cls [] s1.candBound

end Sys2Proof.Machine
end

