-- ==== Sys2Proof/Machine/Power.lean ====
section
/-! DEFINITION. Power states, supply and heat (14_power_health.md, R303-R315; 18_registers.md, R371). -/
namespace Sys2Proof.Machine

/-! ### Selection (R305) -/

/-- Exit latencies of Table 14.1 in µs, N0 to N5. -/
def exitUs : List Nat := [0, 1, 30, 300, 6000, 4000000]

/-- Whether a context can have work: in service with an open connection or an enabled local ring (R305). -/
def State.canWork (s : State) (ctx : Nat) (x : Ctx) : Bool :=
  x.phase == .inService &&
    (s.conns.any (fun c => c.2.entry.ctx == ctx && c.2.state == 3) ||
      (List.range 16).any (fun n => s.rd F.RING_LCTL.EN n == 1 && s.rd F.RING_LCTL.CTX n == ctx))

/-- Tolerance T in µs. -/
def State.tolerance (s : State) : Nat :=
  (s.ctxs.filter (fun c => s.canWork c.1 c.2)).foldl (fun t c => match c.2.profile with
    | some p => min t (if p.cls.c0Unit != 0 then 1 else p.cls.eLtolUs)
    | none => t) (s.lv F.PWR_LTOL.HOST_US)

/-- The selected state: the deepest allowed whose exit latency is within T. -/
def State.selectedPower (s : State) : Nat :=
  ((List.range (s.lv F.PWR_LTOL.MAX_STATE + 1)).filter (fun k => decide (lget exitUs k 0 ≤ s.tolerance))).foldl max 0

/-! ### Entry (R306, R307) -/

/-- Whether a journal entry is not sent or not acknowledged. -/
def State.journalPending (s : State) : Bool :=
  s.comp.streams.any (fun j => !j.unsent.isEmpty || j.lag != 0) ||
    s.conns.any (fun c => c.2.tx.pkts.any (fun k => k.kind == .peer 4))

/-- The quiet condition at one boundary (R306). -/
def State.quietNow (s : State) : Bool :=
  s.reqs.isEmpty && s.comp.subs.isEmpty && s.itin.waiting.isEmpty &&
    s.itin.units.all (fun u => u.2.running.isNone && u.2.placed.isEmpty && u.2.carry.isEmpty) &&
    s.tier.moves.isEmpty && s.sec.scrubs.isEmpty && s.health.assays.isEmpty && s.comp.rebuilds.isEmpty && !s.journalPending &&
    s.engines.all (fun e => e.2.waiters.isEmpty)

/-- Pages of the node in a tier, with their contexts. -/
def State.tierList (s : State) (tiers : List Nat) : List (Nat × Nat × Page) :=
  s.ctxs.flatMap (fun c => (c.2.pages.filter (fun p => tiers.contains p.2.tier)).map (fun p => (c.1, p.1, p.2)))

/-- Move a page at an entry step (R307); the move counts as a commit. -/
def State.stepMove (s : State) (x : Nat × Nat × Page) (tier : Nat) : State :=
  let s1 := s.abortMove x.1 x.2.1
  match (s.ctx x.1).profile with
  | none => s1
  | some p => match s1.destSpot ⟨12, x.1, x.2.1, x.2.2.tier, tier, 0, none⟩ p x.2.2 with
    | some (y, s2) => (s2.putAt x.1 x.2.1 y).bump F.TIER_MOVES.COMMITS
    | none => s1

/-- The sealed image written on a completed entry to N5 (R337). -/
def State.sealImage (s : State) : State :=
  let id := match s.comp.current with
    | some m => m.compId
    | none => 0
  { s with nv := { s.nv with image := some ⟨s.ctxs, id, s.ownSlots, true⟩ } }

/-- The work of the entry step that reaches a state. -/
def State.enterStep (s : State) (k : Nat) : State :=
  let s1 := s.wr F.PWR_STATE.CURRENT k
  match k with
  | 4 => (s1.tierList [0]).foldl (fun s x => s.stepMove x 1) s1
  | 5 => ((s1.tierList [0, 1, 2]).foldl (fun s x => s.stepMove x 3) s1).sealImage
  | _ => s1

/-- Begin the entry step to a state. -/
def State.beginEntry (s : State) (k : Nat) : State :=
  { s.wr F.PWR_STATE.ENTERING 1 with power := { s.power with entering := some k } }

/-- The entry step in progress ends. -/
def State.endEntry (s : State) : State :=
  { s.wr F.PWR_STATE.ENTERING 0 with power := { s.power with entering := none, wake := false } }

/-- What a boundary does to the power state outside a hold and an exit: a node that is not quiet stays in N1 or shallower (R305, R306). -/
def State.powerMove (s : State) (sel : Nat) : State :=
  let cur := s.rd F.PWR_STATE.CURRENT
  match s.power.entering with
  | some k =>
    let s1 := s.endEntry.enterStep k
    if s.power.wake || sel < k then s1.wakeUp
    else if k < sel && s1.quietNow then s1.beginEntry (k + 1)
    else s1
  | none =>
    if 2 ≤ cur then
      if sel < cur || !s.quietNow then s.wakeUp
      else if cur < sel then s.beginEntry (cur + 1)
      else s
    else
      let s1 := s.wr F.PWR_STATE.CURRENT (min sel 1)
      if 2 ≤ sel && s.lv F.PWR_CTL.IDLE_TICKS ≤ s.power.quietTicks then s1.beginEntry 2 else s1

/-- The power rules at a boundary: T, selection, quiet ticks, entry steps; a hold stops an entry at its step (R309). -/
def State.powerStep (s : State) : State :=
  let quiet := s.quietNow
  let sel := s.selectedPower
  let s1 := ((s.wr F.PWR_STATE.T_US (min (2 ^ 32 - 1) s.tolerance)).wr F.PWR_STATE.SELECTED sel).wr F.PWR_STATE.QUIET (b2n quiet)
  let s2 : State := { s1 with power := { s1.power with quietTicks := if quiet then s1.power.quietTicks + 1 else 0 } }
  if s2.power.hold then s2.endEntry
  else if s2.power.exiting then s2
  else s2.powerMove sel

/-- POWER_EXIT_COMPLETE: the exit is over; set-up writes outside PWR, HEALTH and ID count their 400 ns from here, and withheld CXL.mem
accesses are served (R304). -/
def execPowerExitComplete (t : Nat) (s : State) : Host.Outcome State Fault Refusal :=
  let s := s.at_ t
  if !s.power.exiting then .next s
  else
    let s1 := (s.wr F.PWR_STATE.EXITING 0).wr F.PWR_STATE.CURRENT (min s.selectedPower 1)
    let late (w : StagedWrite) : StagedWrite :=
      if w.reg < 0x1000 || (0x7000 ≤ w.reg && w.reg < 0x9000) then w else { w with time := max w.time s1.now }
    let s2 : State := { s1 with power := { s1.power with exiting := false, exitFrom := 0, quietTicks := 0 }, staged := s1.staged.map late }
    .next s2.hdmRelease

/-! ### Supply (R308-R310) -/

/-- The input voltage is reported and its bands set (Table 14.3, Table 14.10). -/
def State.inputMv (s : State) (mv : Nat) : State :=
  let s1 := s.wr F.PWR_SUPPLY.INPUT_MV (min mv 65535)
  let s2 := if mv < s1.rd F.PWR_SUPPLY.MIN_MV then s1.wr F.PWR_SUPPLY.MIN_MV mv else s1
  (s2.wr F.PWR_SUPPLY.LOW (b2n (decide (44000 ≤ mv) && decide (mv < 46000)))).wr F.PWR_SUPPLY.OVER (b2n (decide (58000 < mv)))

/-- Input voltage beyond which the module may be destroyed, in mV (Table 17.7). -/
def absoluteMv : Nat := 80000

/-- INPUT_SAMPLE: the input is sampled (R308). -/
def execInputSample (t mv : Nat) (s : State) : Host.Outcome State Fault Refusal :=
  if absoluteMv < mv then .fault .beyondAbsoluteLimits else .next ((s.at_ t).inputMv mv)

/-- SUPPLY_WARNING: the input has been at or below 44.0 V for 5 µs; the hold begins (R309). In a hold that was about to end it puts an end to
the recovery (R310). -/
def execSupplyWarning (t mv : Nat) (s : State) : Host.Outcome State Fault Refusal :=
  let s := s.at_ t
  if 44000 < mv || mv ≤ 40000 then .next s
  else if s.power.hold then .next { s.inputMv mv with power := { s.power with recovered := false } }
  else
    let s1 := (((s.inputMv mv).wr F.PWR_SUPPLY.WARN 1).wr F.PWR_SUPPLY.FLUSHED 0).bump F.PWR_SUPPLY.HOLDS
    let s2 : State := { s1 with power := { s1.power with hold := true, flushSent := false, recovered := false } }
    .next (errRecord s2 .supplyWarning .none { detail := mv })

/-- The flush of a hold: every entry not yet sent goes out at once, outside the class windows, each stream ending with a TICK_MARK. The
PAGE_IN of a tail page whose image at the buddy is not complete stands among those entries, or has been sent (R309 step 4, R298). -/
def State.flushJournals (s : State) : State :=
  let mark := jentryBytes { jentry 9 0 0 0 0 with arg := s.now }
  let s1 := s.comp.streams.foldl (fun s j => if s.journals j.ctx j.slot then
      let (m, s1) := s.flushStream j.ctx j.slot 4 [mark]
      match m.getLast? with
      | none => s1
      | some x =>
        let k := s1.stream j.ctx j.slot
        s1.setStream { k with unacked := k.unacked ++ [x.2], lag := k.unacked.length + 1 }
    else s) s
  ({ s1 with power := { s1.power with flushSent := true } } : State).noteLag

/-- FLUSH_ACKNOWLEDGED: the buddies have acknowledged the flush (R309). -/
def execFlushAcknowledged (t : Nat) (s : State) : Host.Outcome State Fault Refusal :=
  let s := s.at_ t
  if s.power.hold && s.power.flushSent && !s.journalPending then .next (s.wr F.PWR_SUPPLY.FLUSHED 1) else .next s

/-- SUPPLY_RECOVERY: the input has stayed at or above 44.5 V for 10 ms; the next boundary ends the hold (R310). -/
def execSupplyRecovery (t : Nat) (s : State) : Host.Outcome State Fault Refusal :=
  let s := s.at_ t
  if s.power.hold then .next { s with power := { s.power with recovered := true } } else .next s

/-- What a boundary does to a hold: it ends after recovery, or its flush starts (R309, R310). -/
def State.holdStep (s : State) : State :=
  if !s.power.hold then s
  else if s.power.recovered then
    { s.wr F.PWR_SUPPLY.WARN 0 with power := { s.power with hold := false, flushSent := false, recovered := false } }
  else if s.power.flushSent then s
  else s.flushJournals

/-! ### Cap (R312) -/

/-- Effective cap in W. -/
def State.effectiveCap (s : State) : Nat :=
  if s.rd F.PWR_SUPPLY.LOW = 1 then min (s.lv F.PWR_CAP.CAP_W) 1500 else s.lv F.PWR_CAP.CAP_W

/-- POWER_AVERAGE: the input power averaged over the last 1 ms (R312). -/
def execPowerAverage (t watts : Nat) (s : State) : Host.Outcome State Fault Refusal :=
  let s := (s.at_ t).wr F.PWR_CAP.POWER_W (min watts 2047)
  let low := decide (watts * 100 < s.effectiveCap * 95)
  .next { s with power := { s.power with cap95Since := if low then some (s.power.cap95Since.getD s.now) else none } }

/-- Whether the average exceeds the cap. -/
def State.overCap (s : State) : Bool := decide (s.effectiveCap < s.rd F.PWR_CAP.POWER_W)

/-- Whether the average has stayed below 95 % of the cap for 1 ms. -/
def State.capClear (s : State) : Bool := match s.power.cap95Since with
  | some a => decide (a + 1000000 ≤ s.now)
  | none => false

/-! ### Heat (R313-R315) -/

/-- Highest permitted frequency of a half-column: its speed grade and the debug ceiling (R313, R371). -/
def State.maxMhz (s : State) (hc : Nat) : Nat :=
  let lim := s.lv F.DBG_FREQ_LIMIT.MHZ
  if lim = 0 then s.rd F.PWR_HC.MAX_MHZ hc else min lim (s.rd F.PWR_HC.MAX_MHZ hc)

/-- Set a half-column's frequency; voltage follows it (R313). -/
def State.setMhz (s : State) (hc mhz : Nat) : State :=
  if s.rd F.PWR_HC.FREQ_MHZ hc = mhz then s
  else (s.wr F.PWR_HC.FREQ_MHZ mhz hc).wr F.PWR_HC.VOLT_MV (Config.railMv mhz % 4096) hc

/-- A reading of a half-column's hottest sensor, in 0.125 °C (Table 14.12, Table 14.13). -/
def State.noteTj (s : State) (hc : Nat) (temp : Int) : State :=
  let s1 := s.wr F.PWR_HC.TJ (temp % 65536).toNat hc
  if 0 ≤ temp then s1.peak F.PWR_THERM.MAX_TJ temp.toNat else s1

/-- Whether a half-column has been below T_THROTTLE - 5 °C for 100 µs; `temps` are this boundary's readings. -/
def State.coolFor (s : State) (hc : Nat) : Bool := match mget s.power.hcCoolSince hc with
  | some a => decide (a + 100000 ≤ s.now)
  | none => false

/-- One half-column at a boundary: emergency, cap, throttle, raise. After an emergency it goes to its old frequency less 300 MHz when its
sensors read below 105 °C at this boundary, else it stays at 900 MHz; from then on R313 governs it (R312-R314). -/
def State.hcStep (s : State) (temps : Map Int) (hc : Nat) : State :=
  let f := s.rd F.PWR_HC.FREQ_MHZ hc
  let top := s.maxMhz hc
  let temp := mget temps hc
  let limit : Int := s.lv F.PWR_THERM.T_THROTTLE * 8
  let hot := match temp with | some x => decide (limit < x) | none => false
  let cool := match temp with | some x => decide (x < limit - 40) | none => mhas s.power.hcCoolSince hc
  let since := if cool then mset s.power.hcCoolSince hc ((mget s.power.hcCoolSince hc).getD s.now) else mdel s.power.hcCoolSince hc
  let s1 : State := { s with power := { s.power with hcCoolSince := since } }
  match mget s1.power.emergencies hc with
  | some before =>
    let s2 : State := { s1 with power := { s1.power with emergencies := mdel s1.power.emergencies hc } }
    if (match temp with | some x => decide (x < 840) | none => false) then s2.setMhz hc (max 600 (before - 300)) else s2
  | none =>
    if s1.overCap then s1.setMhz hc (if f ≤ 600 then f else max 600 (min f top - 100))
    else if hot then (if f ≤ 600 then s1 else (s1.setMhz hc (max 600 (f - 100))).bump F.PWR_THERM.THROTTLED)
    else if top < f then s1.setMhz hc top
    else if f < top && s1.coolFor hc && (s1.rd F.PWR_CAP.CAPPED = 0 || s1.capClear) then s1.setMhz hc (min top (f + 100))
    else s1

/-- A reading of a stack (R315): above 85 °C it is refreshed on the finer grid, above 95 °C it is hot until 90 °C. -/
def State.stackTemp (s : State) (stack : Nat) (temp : Int) : State :=
  let hot := s.rd F.PWR_STACK.HOT
  let hot1 := if 760 < temp then hot ||| 2 ^ stack else if temp ≤ 720 then hot &&& (0xFFF - 2 ^ stack) else hot
  let above := s.power.above85.filter (· != stack) ++ (if 680 < temp then [stack] else [])
  { s.wr F.PWR_STACK.HOT hot1 with power := { s.power with stackTemps := mset s.power.stackTemps stack temp, above85 := above } }

/-- Readings, cap and throttle at a boundary (R312-R315). A lowering by the cap takes every half-column and counts once. -/
def State.heatStep (s : State) (b : BoundaryInputs) : State :=
  let temps := b.hcTemp.filter (fun x => decide (x.1 < 96))
  let s1 := temps.foldl (fun s x => s.noteTj x.1 x.2) s
  let s2 := (b.stackTemp.filter (fun x => decide (x.1 < 12))).foldl (fun s x => s.stackTemp x.1 x.2) s1
  let above := s2.overCap
  let s3 := if above && (List.range 96).any (fun hc => decide (600 < s2.rd F.PWR_HC.FREQ_MHZ hc)) then
      (s2.bump F.PWR_CAP.CAP_EVENTS).wr F.PWR_CAP.CAPPED 1
    else s2
  let s4 := (List.range 96).foldl (fun s hc => s.hcStep temps hc) s3
  let s5 := if !above && s4.rd F.PWR_CAP.CAPPED = 1 && s4.capClear &&
      (List.range 96).all (fun hc => decide (s4.maxMhz hc ≤ s4.rd F.PWR_HC.FREQ_MHZ hc)) then s4.wr F.PWR_CAP.CAPPED 0 else s4
  { s5 with power := { s5.power with hotGrid := s5.power.above85 } }

/-- The time left of the running tasks of a half-column stretches with its frequency; `s` still holds the old one. -/
def State.slowTasks (s : State) (hc old new : Nat) : State :=
  { s with itin := { s.itin with units := s.itin.units.map (fun u => match u.1, u.2.running with
    | .tile n, some t =>
      if halfColumn n = hc then
        let left := s.costLeft t
        (u.1, { u.2 with running := some { t with
          costPs := t.costPs - left + ceilDiv (left * old) (max 1 new), paced := t.cycles - s.cyclesLeft u.1 t
          paceAt := some (max s.now (s.paceFrom t)) } })
      else u
    | _, _ => u) } }

/-- THERMAL_EMERGENCY: a sensor of a half-column has reached 105 °C; it drops to 900 MHz at once (R314). -/
def execThermalEmergency (t hc : Nat) (temp : Int) (s : State) : Host.Outcome State Fault Refusal :=
  let s := s.at_ t
  if 96 ≤ hc || temp < 840 || mhas s.power.emergencies hc then .next s
  else
    let old := s.rd F.PWR_HC.FREQ_MHZ hc
    let new := min old 900
    let s1 := (((s.slowTasks hc old new).noteTj hc temp).setMhz hc new).bump F.PWR_THERM.EMERGENCIES
    let s2 : State := { s1 with power := { s1.power with emergencies := mset s1.power.emergencies hc old, hcCoolSince := mdel s1.power.hcCoolSince hc } }
    .next (errRecord s2 .thermalEmergency .none { location := hc, detail := new })

/-- STACK_HOT: a stack reads above 95 °C (R315). -/
def execStackHot (t stack : Nat) (temp : Int) (s : State) : Host.Outcome State Fault Refusal :=
  let s := s.at_ t
  if 12 ≤ stack || temp ≤ 760 then .next s else .next ((s.stackWarm stack).stackTemp stack temp)

end Sys2Proof.Machine
end

