-- ==== Sys2Proof/Machine/Tick.lean ====
section
/-! DEFINITION. The tick boundary, and what starts, aligns and stages the tick (02_tick.md, R19-R40; 01_node_at_a_glance.md, R16). -/
namespace Sys2Proof.Machine

/-! ### Set-up writes that take effect -/

/-- Bring the links of a port down: a new mode or medium retrains them (Table 9.15). -/
def State.retrain (s : State) (port : Nat) : State :=
  (((s.modLink (2 * port) (fun l => { l with up := false })).modLink (2 * port + 1) (fun l => { l with up := false }))).wr
    F.NET_PCFG.LINK_UP 0 port

/-- One staged write takes effect; of TICK_ALIGN only HOP_NS waits for R16 (R40). -/
def State.applyWrite (s : State) (w : StagedWrite) : State :=
  let old := getReg s.live w.reg
  let value := if w.reg = F.TICK_ALIGN.HOP_NS.off then withField F.TICK_ALIGN.HOP_NS old (fieldOf F.TICK_ALIGN.HOP_NS w.value) else w.value
  let s1 : State := { s with live := putReg s.live w.reg value }
  if w.reg = F.TICK_PERIOD.PERIOD_US.off then
    { s1 with tick := { s1.tick with stagedPeriod := some (fieldOf F.TICK_PERIOD.PERIOD_US w.value) } }
  else if w.reg = F.TICK_WINDOW.C0_SHARE.off then
    let shares := [F.TICK_WINDOW.C0_SHARE, F.TICK_WINDOW.C1_SHARE, F.TICK_WINDOW.C2_SHARE, F.TICK_WINDOW.C3_SHARE].map (fieldOf · w.value)
    { s1 with tick := { s1.tick with stagedShares := some shares } }
  else if w.reg = F.TICK_ORIGIN.ORIGIN.off then { s1 with tick := { s1.tick with origin := w.value.toNat } }
  else if F.NET_PCFG.MODE.covers w.reg && (fieldOf F.NET_PCFG.MODE old != fieldOf F.NET_PCFG.MODE w.value ||
      fieldOf F.NET_PCFG.MEDIA old != fieldOf F.NET_PCFG.MEDIA w.value) then s1.retrain ((w.reg - F.NET_PCFG.MODE.off) / 8)
  else s1

/-- Whether a staged write waits for the end of a deep power state (R304). -/
def State.writeWaits (s : State) (w : StagedWrite) : Bool :=
  (decide (2 ≤ s.rd F.PWR_STATE.CURRENT) || s.power.exiting) && !(decide (w.reg < 0x1000) || (decide (0x7000 ≤ w.reg) && decide (w.reg < 0x9000)))

/-- Of several staged writes of one register only the last one is kept (R362). -/
def lastWrites : List StagedWrite → List StagedWrite
  | [] => []
  | w :: ws => if ws.any (fun x => x.reg == w.reg) then lastWrites ws else w :: lastWrites ws

/-- Staged writes old enough for a boundary at `base` take effect, in the order they were made (R16). -/
def State.applyStaged (s : State) (base : Nat) : State :=
  let kept := lastWrites s.staged
  let due := kept.filter (fun w => decide (w.time + 400 ≤ base) && !s.writeWaits w)
  let rest := kept.filter (fun w => !(decide (w.time + 400 ≤ base) && !s.writeWaits w))
  due.foldl State.applyWrite { s with staged := rest }

/-- SYNC_DELAY_NS and SYNC_OUT_EN as last written take effect at the next boundary (R40). -/
def State.takeAlign (s : State) : State :=
  match s.tick.stagedAlign with
  | none => s
  | some v =>
    let off := F.TICK_ALIGN.HOP_NS.off
    let was := s.lv F.TICK_ALIGN.SYNC_OUT_EN
    let s1 : State := { s with live := putReg s.live off (withField F.TICK_ALIGN.HOP_NS v (s.lv F.TICK_ALIGN.HOP_NS)) }
    { s1 with tick := { s1.tick with stagedAlign := none, syncPlain := s1.lv F.TICK_ALIGN.SYNC_OUT_EN == 1 && (s.tick.syncPlain || was == 0) } }

/-! ### Period, shares, origin, source -/

/-- Shares sum to 256 and every window is at least 500 ns long (R24). -/
def sharesOk (periodUs : Nat) (shares : List Nat) : Bool :=
  lsum shares == 256 && (List.range 4).all (fun c => decide (500000 ≤ windowLen periodUs shares c))

/-- R219 for a period and shares against the profiles in force. -/
def State.timingInForce (s : State) (periodUs : Nat) (shares : List Nat) : Bool :=
  timingOk (s.timingSet periodUs shares (s.lv F.CTX_CLASS.C0_MARGIN_NS) (s.lv F.TICK_ALIGN.HOP_NS)) (s.withLinks (s.reserving false))

/-- The staged period and shares, tested at the boundary at which they would take effect: both take effect, or neither (R24). -/
def State.takeTiming (s : State) : State :=
  if s.tick.stagedPeriod.isNone && s.tick.stagedShares.isNone then s
  else
    let p := s.tick.nextPeriod
    let sh := s.tick.nextShares
    let s1 : State := { s with tick := { s.tick with stagedPeriod := none, stagedShares := none } }
    if !sharesOk p sh || !s.timingInForce p sh then
      let s2 := s1.wr F.TICK_STATUS.BAD_CONFIG 1
      if s.timingInForce p sh then s2 else s2.wr F.CTX_CLASS_STATUS.TIMING_REFUSED 1
    else ({ s1 with tick := { s1.tick with periodUs := p, shares := sh } } : State).wr F.TICK_PERIOD.ACTIVE_US p

/-- TICK_STATUS.STAGED: values or a SOURCE wait for a start (R38, R40). -/
def State.showStagedTick (s : State) : State :=
  let t := s.tick
  let values := (t.stagedPeriod.isSome || t.stagedShares.isSome || t.stagedOrigin.isSome) && (!s.running || t.source != 0)
  s.wr F.TICK_STATUS.STAGED (b2n (values || t.stagedSource.isSome))

/-- TICK_STATUS.REF_OK for the source in force; 0 in holdover (R37). -/
def State.showRef (s : State) : State :=
  let edge := match s.tick.lastEdge with
    | some e => decide (s.now < e + 2 * s.tick.periodUs * 1000 + 100)
    | none => false
  s.wr F.TICK_STATUS.REF_OK (if s.tick.source = 0 then 1 else if s.tick.holdover then 0 else if s.tick.source = 1 then b2n edge else b2n s.tick.ptpLocked)

/-- What a start point does: staged values and SOURCE take effect, holdover ends where the reference is there, TICK_INDEX restarts, the node
runs (R37-R39). -/
def State.startPoint (s : State) (index : Nat) : State :=
  let s1 := s.takeTiming
  let t := s1.tick
  let s2 : State := { s1 with tick := { t with
    origin := t.stagedOrigin.getD t.origin, stagedOrigin := none, source := t.stagedSource.getD t.source, stagedSource := none
    rearmed := false, index := index, stuck := false, holdover := t.holdover && t.stagedSource.getD t.source == 2 && !t.ptpLocked } }
  let s2 := s2.showRef
  ((s2.wr F.TICK_BARRIER.ARMED 0).wr F.TICK_BARRIER.RUNNING 1).wr F.TICK_INDEX.INDEX (index % 2 ^ 64)

/-! ### Alignment (R36) -/

/-- The offset of a boundary at `base` from its reference (R36): for a SYNC follower that follows, from the nearest boundary its last edge
predicts, SYNC_DELAY_NS before an edge (R34); else as the sensors give it. -/
def State.measured (s : State) (b : BoundaryInputs) (base : Nat) : Option Int :=
  match s.tick.lastEdge with
  | some e =>
    if s.tick.source = 1 && !s.tick.holdover then
      let p : Int := s.tick.periodUs * 1000
      some (((base : Int) + s.lv F.TICK_ALIGN.SYNC_DELAY_NS - e + p / 2) % p - p / 2)
    else b.offsetNs
  | none => b.offsetNs

/-- The measured offset is reported; ALIGNED follows the limit (R36). The error record of an excursion goes out once, when the limit is first
passed: while ALIGNED is 0 and OFFSET_EXCEEDED still 1 no further one does (DESIGN CHOICE, notes/assumptions/38.md). -/
def State.align (s : State) (off : Option Int) : State :=
  match (if s.tick.source = 0 then some (0 : Int) else off) with
  | none => s
  | some x =>
    let s1 := (s.wr F.TICK_OFFSET.OFFSET_NS (x % 65536).toNat).peak F.TICK_OFFSET.PEAK_NS x.natAbs
    if x.natAbs ≤ s.lv F.TICK_OFFSET.LIMIT_NS then
      if s.tick.rearmed || s.tick.stuck then s1 else s1.wr F.TICK_BARRIER.ALIGNED 1
    else
      let was := s1.rd F.TICK_BARRIER.ALIGNED = 1 || s1.rd F.TICK_STATUS.OFFSET_EXCEEDED = 0
      let s2 := (s1.wr F.TICK_BARRIER.ALIGNED 0).wr F.TICK_STATUS.OFFSET_EXCEEDED 1
      if was then errRecord s2 .offsetExceeded .planner { detail := (x % 2 ^ 64).toNat } else s2

/-- Phase correction of the next boundary: at most 20 ns against the offset, none in holdover or free-running mode (R36, R37). -/
def State.correction (s : State) (off : Option Int) : Int :=
  match off with
  | some x => if s.tick.source = 0 || s.tick.holdover || s.tick.stuck then 0 else max (-20) (min 20 x)
  | none => 0

/-! ### The end of the old tick -/

/-- Cut the running task of a unit at a boundary. -/
def State.cutUnit (s : State) : UnitId → State
  | .engine n => s.cutCommand n
  | u => s.cutRunning u

/-- Tasks of a unit that have not run when the boundary comes: gated ones are carried, the others displaced (R26, R28); the running one
is cut (R30). A cut task that has not resumed keeps its state, and so its unit (notes/assumptions/39.md). -/
def State.closeUnit (s : State) (u : UnitId) : State :=
  let s1 := s.cutUnit u
  let p := s1.plan u
  let late := p.placed.filter s1.gated
  let out := p.placed.filter (fun t => !s1.gated t)
  let kept := out.filter (fun t => t.state.isSome)
  let s2 := s1.setPlan u { running := none, placed := [], carry := p.carry ++ kept ++ late.map (fun t => { t with carried := true }) }
  let s3 := (late.foldl State.countLate s2).bump F.TICK_EVENTS.DISPLACED out.length
  let gone := out.filter (fun t => t.state.isNone)
  { s3 with itin := { s3.itin with waiting := gone.map (fun t => { t with displaced := true, carried := false }) ++ s3.itin.waiting } }

/-- The old tick ends on every unit. -/
def State.closeTick (s : State) : State := (s.itin.units.map Prod.fst).foldl State.closeUnit s

/-- Whether a unit takes tasks. -/
def State.unitOk (s : State) : UnitId → Bool
  | .tile n => s.tileOk n
  | .engine n => s.engineOk n
  | .gate _ => true

/-- Take every carried task off its unit; those of a unit out of service go to the head of the queues, and what the unit had saved is
discarded (R119, R120). -/
def State.takeCarried (s : State) : List (UnitId × Task) × State :=
  let all := s.itin.units.flatMap (fun u => u.2.carry.map (fun t => (u.1, t)))
  let engines := mall s.engines (fun n e => if s.engineOk n then e else { e with saved := [], querySets := [] })
  let s1 : State := { s with itin := { s.itin with units := [], gates := [] }, engines := engines }
  (all.filter (fun x => s.unitOk x.1), s1.returnTasks ((all.filter (fun x => !s.unitOk x.1)).map Prod.snd))

/-! ### Compiling the itinerary -/

/-- The work a waiting task is placed under. -/
def State.waitingWork (s : State) (t : Task) : Option Work :=
  let own : Work := { hkWork t.ctx ((s.ctx t.ctx).profile.getD Profile.blank) with cls := t.cls }
  match t.kind with
  | .demote _ _ _ => some own
  | _ => match t.req with
    | none => some own
    | some key => if key = hkKey then some own else s.workOf key

/-- What of a task a cut has left: the rest of its pebble range (R30). -/
def State.restKind (s : State) (t : Task) : TaskKind :=
  match t.state, t.kind with
  | some x, .page b h i rf rc _ _ => .page b h i rf rc x.nextPeb ((s.taskRange t).1 + (s.taskRange t).2 - x.nextPeb)
  | some x, .demote n _ _ => .demote n x.nextPeb ((s.taskRange t).1 + (s.taskRange t).2 - x.nextPeb)
  | _, k => k

/-- Cost of a carried task estimated again: a page or demotion task from its remaining pebbles, another task from the cycles it has left, one
that was not cut as when it was first placed (R30, R372). -/
def State.carriedSpec (s : State) (t : Task) : Spec :=
  let old : Spec := ⟨none, 0, true, t.cycles, t.cycles, t.allowPs⟩
  let fresh : Spec := ((s.waitingWork t).bind (fun w => s.specOf w (s.restKind t))).getD old
  match t.state, t.kind with
  | none, _ => fresh
  | some _, .page _ _ _ _ _ _ _ => fresh
  | some _, .demote _ _ _ => fresh
  | some _, _ => { old with allow := 0 }

/-- Put a carried task on its unit, first in its class (R30). -/
def State.putCarried (s : State) (x : UnitId × Task) : State :=
  let (u, t) := x
  let sp := s.carriedSpec t
  let cost := s.costOn sp u
  let s1 := s.putTask u { t with planPs := s.planStart u cost, costPs := cost, cycles := sp.cyclesOn u, allowPs := sp.allowOn u }
    ((s.waitingWork t).bind (fun w => s.setOf w t.kind))
  match u with
  | .engine e => s1.modEngine e (fun y => { y with saved := y.saved.filter (· != t.id) })
  | _ => s1

/-- Place one part of a waiting task: a returned one on a tile only (R119), any other where it could have been placed in the first place
(R26). -/
def State.placePart (s : State) (w : Work) (t : Task) : State :=
  match s.specOf w t.kind with
  | none => s.wait t
  | some sp =>
    let sp1 := if t.returned then { sp with engine := none } else sp
    (s.placeBy w t (sp1.onUnit (s.rangeUnit w.key t.kind))).2

/-- Place a waiting task again, split further where it no longer fits (R29, R108); a continuation not before its due tick (R33). Work that
is over takes its tasks with it. -/
def State.placeAgain (s : State) (t : Task) : State :=
  match s.waitingWork t with
  | none => s
  | some w =>
    if t.isContinuation && s.tick.count < t.due then s.wait t
    else match s.resplit w t.kind with
      | [k] => s.placePart w { t with kind := k }
      | ks => ks.foldl (fun s k => s.tookTask.placePart w { t with kind := k, id := s.itin.nextTask }) s

/-- Order of the waiting tasks of a class: returned ones, continuations, displaced ones as first placed, the others (R224). -/
def waitRank (t : Task) : Nat :=
  if t.returned then 0 else if t.isContinuation then 1 else if t.displaced then 2 + t.id else 2 ^ 64

/-- Place the waiting tasks of a class; new housekeeping competes for its place instead (R217). -/
def State.placeWaiting (s : State) (c : Cls) : State :=
  let mine := lsort waitRank (s.itin.waiting.filter (fun t => t.cls == c && !t.newKeep))
  mine.foldl State.placeAgain { s with itin := { s.itin with waiting := s.itin.waiting.filter (fun t => !(t.cls == c && !t.newKeep)) } }

/-- The request a demotion belongs to (R96). -/
def State.demoter (s : State) (ctx page : Nat) : Option Req := s.reqs.find? (fun r => r.ctx == ctx && r.demotions.contains page)

/-- Tasks of the demotions of a class that have none yet, split by pebble ranges (R29, R96); a page under a held assay waits (R277). -/
def State.demoteTasks (s : State) (c : Cls) : State :=
  s.ctxs.foldl (fun s x => match x.2.profile with
    | none => s
    | some p =>
      (x.2.pages.filter (fun e => e.2.demotePending)).foldl (fun s e =>
        let by_ := s.demoter x.1 e.1
        let cls := match by_ with | some r => r.cls | none => .c3
        if cls != c || s.demoting x.1 e.1 || s.assayOn x.1 e.1 then s
        else
          let w : Work := { hkWork x.1 p with cls := cls }
          (s.splitDemote w e.1 0 (128 * (p.attn.nk + p.attn.nv))).foldl (fun s k =>
            (s.tookTask.placeTask w { s.newTask w k false with req := (by_.map Req.id).or (some hkKey) }).2) s) s) s

/-- The passes of one class (R224). -/
def State.compileClass (s : State) (carried : List (UnitId × Task)) (c : Cls) : State :=
  let s1 := (carried.filter (fun x => x.2.cls == c)).foldl State.putCarried s
  let s2 := (s1.placeWaiting c).demoteTasks c
  if s2.admitting then s2.admitClass (clsNum c) else s2

/-- Eligible FENCEs, cancelling ones before any other admission (R172, R177). -/
def State.admitFences (s : State) : State :=
  let fs := lsort Req.order (s.reqs.filter s.fenceReady)
  let s1 := (fs.filter (fun r => r.desc.qgroup != 0)).foldl (fun s r => match s.req? r.id with
    | some q => s.fenceCancel q
    | none => s) s
  (fs.filter (fun r => r.desc.qgroup == 0)).foldl (fun s r =>
    (s.modReq r.id (fun q => { q with admittedAt := some s.now })).fenceDone r.id) s1

/-- STATE 1 at the second boundary after a request became eligible, if it has not been admitted by then (R174). -/
def State.waitWords (s : State) : State :=
  (s.reqs.filter (fun r => r.admittedAt.isNone && s.eligible r.fetchedAt)).foldl (fun s r =>
    let s1 := if r.waited = 1 && !r.wrote1 then s.status r 1 0 0 else s
    s1.modReq r.id (fun q => { q with waited := q.waited + 1, wrote1 := q.wrote1 || q.waited == 1 })) s

/-- The itinerary of the new tick; a hold places nothing (R309). -/
def State.compile (s : State) : State :=
  let (carried, s1) := s.takeCarried
  if s.power.hold then
    carried.foldl (fun s x => let p := s.plan x.1; s.setPlan x.1 { p with carry := p.carry ++ [x.2] }) s1
  else
    let s2 := if s1.admitting then s1.owedFrames.admitFences else s1.owedFrames
    ([Cls.c0, .c1, .c2, .c3].foldl (fun s c => s.compileClass carried c) s2).waitWords

/-! ### What else a boundary does -/

/-- Units taken out of service or returned by DBG_UNIT_OFF (R371). -/
def State.takeUnits (s : State) : State :=
  let out := s.dbg.pendingOut.foldl (fun l u => if l.contains u then l.filter (· != u) else l ++ [u]) s.dbg.unitsOut
  { s with dbg := { s.dbg with unitsOut := out, pendingOut := [] } }

/-- A trace stops (R328). -/
def State.traceStop (s : State) : State :=
  { s.wr F.DBG_TRACE_CTL.RUNNING 0 with dbg := { s.dbg with traceArmed := false, traceLeft := 0 } }

/-- A trace starts, goes on or stops at a boundary (R328). -/
def State.traceStep (s : State) : State :=
  if s.dbg.traceLeft = 0 then s
  else if !s.dbg.traceArmed then { s.wr F.DBG_TRACE_CTL.RUNNING 1 with dbg := { s.dbg with traceArmed := true, trace := [] } }
  else if s.dbg.traceLeft = 1 then s.traceStop
  else { s with dbg := { s.dbg with traceLeft := s.dbg.traceLeft - 1 } }

/-- Meters at a boundary (R302): one node-tick, and the logical bytes of each tier. -/
def State.meterTick (s : State) : State :=
  let id := match s.comp.current with
    | some m => m.compId
    | none => 0
  s.ctxs.foldl (fun s c =>
    if c.2.phase != .inService then s
    else
      let s1 := s.modCtx c.1 (fun x => { x with meters := if x.meters.isEmpty then [⟨id, List.replicate 8 0⟩] else x.meters })
      (((((s1.meter c.1 0 1).meter c.1 4 (c.2.logical (fun t => t ≤ 1))).meter c.1 5 (c.2.logical (fun t => t == 2))).meter c.1 6
        (c.2.logical (fun t => t == 3))).meter c.1 7 (c.2.logical (fun t => t == 4)))) s

/-- TIER_SRAM.ACTIVE_KIB: a smaller pool is in force once the frames above it have moved (Table 7.6). -/
def State.sramSettle (s : State) : State :=
  let kib := s.lv F.TIER_SRAM.PAGE_KIB
  let held := s.ctxs.flatMap (fun c => match c.2.profile with
    | none => []
    | some p => (c.2.pages.filter (fun x => x.2.tier == 0)).map (fun x =>
        (⟨c.1, x.1, x.2.home, frameSize x.2.format (p.attn.nk + p.attn.nv), x.2.format * 2 ^ 20 + p.attn.dims⟩ : SramUse)))
  if held.all (fun u => decide (tileExtents held u.tile * 64 ≤ kib)) then s.wr F.TIER_SRAM.ACTIVE_KIB kib else s

/-- Movement of pages at a boundary: commits, cuts that waited for room, empty extents, target tiers, new moves, read disturb, snoops (R123, R130,
R133-R137, R142, R148). -/
def State.tierStep (s : State) : State :=
  let s1 := (((s.commitMoves.retryPageOps.sweepExtents.placeConvs).startMoves).disturbed).backInvalidate.sramSettle
  { s1 with tier := { s1.tier with reissued := s1.tier.reissued.filter (fun x => s1.pageInUse x.1 x.2) } }

/-- Peers learn of SEND credits that have become free: a SACK to each peer that holds fewer than the node can give (R203). -/
def State.renewCredits (s : State) : State :=
  (s.conns.filter (fun c => c.2.entry.peer && c.2.state == 3)).foldl (fun s x => match s.conn? x.1 with
    | some c => if c.rx.grants < s.sendCredits c then s.sendSack x.1 else s
    | none => s) s

/-- The ports at a boundary: held messages, TICK_MARKs, further fetches (R290, R158). -/
def State.portStep (s : State) : State :=
  let s1 := (s.conns.map Prod.fst).foldl State.releaseHeld s
  (s1.markStreams s1.now).renewCredits.issueFetches

/-- SYNC_OUT: a pulse of 40 ns, or a start pulse of 160 ns, which a SYNC_OUT enabled while RUNNING does not carry (R34, R40). A node that is
not RUNNING has no boundaries to mark: it drives no pulse, and a START that was pending lapses at that point (DESIGN CHOICE,
notes/assumptions/37.md). -/
def State.syncOut (s : State) : State :=
  let s1 : State := { s with tick := { s.tick with startDue := false } }
  if s.lv F.TICK_ALIGN.SYNC_OUT_EN = 1 && s.running then s1.emit (.syncPulse (if s.tick.startDue && !s.tick.syncPlain then 160 else 40)) else s1

/-- Period and shares staged under R16, or everything staged at a start point. -/
def State.takeStart (s : State) (start : Option Nat) : State :=
  match start with
  | some n => s.startPoint n
  | none => if s.running && s.tick.source = 0 then s.takeTiming else s

/-- A boundary at node time `now`; `start` is TICK_INDEX when it is a start point; `base` is the boundary's place. -/
def State.boundary (s : State) (b : BoundaryInputs) (start : Option Nat) (base : Nat) : State :=
  let ran := s.running
  let s1 := if ran then s.closeTick else s
  let s2 := (((((s1.applyStaged base).takeAlign.takeUnits).takeProfiles base).takeProgs base).takeTeardowns base).takeStart start
  let off := if start.isSome then b.offsetNs else s2.measured b base
  let s3 : State := { s2 with tick := { s2.tick with
    last := base
    next := ((base + s2.tick.periodUs * 1000 : Nat) - s2.correction off : Int).toNat
    published := false
    count := s2.tick.count + 1
    index := if start.isSome || !ran then s2.tick.index else s2.tick.index + 1 } }
  let s4 := (if s3.running then (if start.isSome && s3.tick.source = 1 then s3 else s3.align off) else s3).wr F.TICK_INDEX.INDEX
    (s3.tick.index % 2 ^ 64)
  let s5 := ((s4.tierStep.powerStep.holdStep).degradeTest).heatStep b
  let s6 := if s5.running then s5.compile.owedProgress.meterTick else s5
  (s6.traceStep.portStep.syncOut).showStagedTick

/-- TICK_INDEX with which a TICK_BOUNDARY at this time starts the node, if it does (R35, R38, R39): SOURCE 0 at its next boundary, PTP on
the TICK_ORIGIN grid; a SYNC follower starts on a pulse only. -/
def State.startsNow (s : State) : Option Nat :=
  let armed := s.rd F.TICK_BARRIER.ARMED = 1
  let origin := s.tick.stagedOrigin.getD s.tick.origin
  let period := (if sharesOk s.tick.nextPeriod s.tick.nextShares && s.timingInForce s.tick.nextPeriod s.tick.nextShares
    then s.tick.nextPeriod else s.tick.periodUs) * 1000
  if !armed then none
  else if s.tick.source = 0 then (if !s.running || s.tick.next ≤ s.now then some 0 else none)
  else if s.tick.source = 2 then (if origin ≤ s.now && (s.now - origin) % period = 0 then some ((s.now - origin) / period) else none)
  else none

/-- TICK_BOUNDARY: the planner closes the old tick and compiles the next itinerary (R21-R33); while the node runs, a boundary does not
come before its time. The planner runs once start-up is complete (R334). -/
def execTickBoundary (t : Nat) (b : BoundaryInputs) (s : State) : Host.Outcome State Fault Refusal :=
  if !s.ready then .next (s.at_ t) else
  let s := s.at_ t
  let due := decide (s.tick.next ≤ s.now)
  match s.startsNow with
  | some n => .next (s.boundary b (some n) (if s.running && due && s.tick.source == 0 then s.tick.next else s.now))
  | none =>
    if !s.running then .next (s.boundary b none s.now)
    else if due then .next (s.boundary b none s.tick.next)
    else .next s

/-- While the node does not run, a locked PTP servo steps node time once to PTP time, never backwards (R20). -/
def State.ptpStep (s : State) : State :=
  match s.tick.ptpAhead with
  | none => s
  | some d =>
    if s.tick.source != 2 || !s.tick.ptpLocked || s.tick.ptpStepped || s.running then s
    else { s with now := s.now + d.toNat, tick := { s.tick with ptpStepped := true }, ranger := { s.ranger with clock := s.ranger.clock - d.toNat } }

/-! ### Register writes of the TICK block -/

/-- Whether a period, shares or origin written now waits for a start (R19, R38, R40), not only for R16. -/
def State.waitsForStart (s : State) : Bool := !s.running || s.tick.source != 0

/-- TICK_PERIOD_WRITE: out of range, BAD_CONFIG; else staged (R19, R40). -/
def execTickPeriodWrite (t : Nat) (v : Word) (s : State) : Host.Outcome State Fault Refusal :=
  if !s.ready then .next (s.at_ t) else
  let s := s.at_ t
  let p := fieldOf F.TICK_PERIOD.PERIOD_US v
  if p < 5 || 1000 < p then .next (s.wr F.TICK_STATUS.BAD_CONFIG 1)
  else
    let s1 := (s.wr F.TICK_PERIOD.PERIOD_US p).wakeUp
    if s.waitsForStart then .next ({ s1 with tick := { s1.tick with stagedPeriod := some p } } : State).showStagedTick
    else .next { s1 with staged := s1.staged ++ [⟨s1.now, F.TICK_PERIOD.PERIOD_US.off, v⟩] }

/-- TICK_WINDOW_WRITE: shares are staged and tested at their boundary (R24, R40). -/
def execTickWindowWrite (t : Nat) (v : Word) (s : State) : Host.Outcome State Fault Refusal :=
  if !s.ready then .next (s.at_ t) else
  let s := s.at_ t
  let off := F.TICK_WINDOW.C0_SHARE.off
  let new := regWritten false off (getReg s.regs off) v
  let shares := [F.TICK_WINDOW.C0_SHARE, F.TICK_WINDOW.C1_SHARE, F.TICK_WINDOW.C2_SHARE, F.TICK_WINDOW.C3_SHARE].map (fieldOf · new)
  let s1 := ({ s with regs := putReg s.regs off new } : State).wakeUp
  if s.waitsForStart then .next ({ s1 with tick := { s1.tick with stagedShares := some shares } } : State).showStagedTick
  else .next { s1 with staged := s1.staged ++ [⟨s1.now, off, new⟩] }

/-- TICK_ORIGIN_WRITE: every value is accepted (R35); staged like the period (R38). -/
def execTickOriginWrite (t : Nat) (v : Word) (s : State) : Host.Outcome State Fault Refusal :=
  if !s.ready then .next (s.at_ t) else
  let s := s.at_ t
  let off := F.TICK_ORIGIN.ORIGIN.off
  let s1 := ({ s with regs := putReg s.regs off v } : State).wakeUp
  if s.waitsForStart then .next ({ s1 with tick := { s1.tick with stagedOrigin := some v.toNat } } : State).showStagedTick
  else .next { s1 with staged := s1.staged ++ [⟨s1.now, off, v⟩] }

/-- HOP_NS of a write, or the accepted one where R219 refuses it. -/
def State.hopWritten (s : State) (v : Word) : Bool × Word :=
  let off := F.TICK_ALIGN.HOP_NS.off
  let new := regWritten false off (getReg s.regs off) v
  if s.timingAtWrite (s.reserving true) s.worstMargin (fieldOf F.TICK_ALIGN.HOP_NS v) then (true, new)
  else (false, withField F.TICK_ALIGN.HOP_NS new (s.rd F.TICK_ALIGN.HOP_NS))

/-- TICK_ALIGN_WRITE (R40): at once while the node does not run; else SOURCE waits for the start point, SYNC_DELAY_NS and SYNC_OUT_EN for
the next boundary, HOP_NS for R16. -/
def execTickAlignWrite (t : Nat) (v : Word) (s : State) : Host.Outcome State Fault Refusal :=
  if !s.ready then .next (s.at_ t) else
  let s := (s.at_ t).wakeUp
  let off := F.TICK_ALIGN.HOP_NS.off
  let (ok, new) := s.hopWritten v
  let s1 := if ok then s else s.wr F.CTX_CLASS_STATUS.TIMING_REFUSED 1
  let src := fieldOf F.TICK_ALIGN.SOURCE new
  if !s.running then
    let s2 := s1.writeNow off new
    .next ({ s2 with tick := { s2.tick with source := src, stagedAlign := none, syncPlain := false } } : State).ptpStep.showRef.showStagedTick
  else
    let s2 : State := { s1 with
      regs := putReg s1.regs off new
      staged := s1.staged ++ [⟨s1.now, off, new⟩]
      tick := { s1.tick with stagedAlign := some new, stagedSource := if src = s.tick.source then none else some src } }
    .next s2.showStagedTick

/-! ### Starting -/

/-- ARM: arm the start barrier; while RUNNING it re-arms the node (R38, R39). -/
def execArm (t : Nat) (s : State) : Host.Outcome State Fault Refusal :=
  if !s.ready then .next (s.at_ t) else
  let s := (s.at_ t).wakeUp
  let s1 := s.wr F.TICK_BARRIER.ARMED 1
  let s2 : State := { s1 with tick := { s1.tick with stuck := false, rearmed := s.running } }
  .next (if s.running then s2.wr F.TICK_BARRIER.ALIGNED 0 else s2)

/-- START: a start pulse at the next boundary; ignored unless SYNC_OUT_EN is 1 and SOURCE is 0 or 2 (R34, Table 2.10). -/
def execStart (t : Nat) (s : State) : Host.Outcome State Fault Refusal :=
  if !s.ready then .next (s.at_ t) else
  let s := s.at_ t
  if s.lv F.TICK_ALIGN.SYNC_OUT_EN = 1 && s.tick.source != 1 then .next { s.wakeUp with tick := { s.wakeUp.tick with startDue := true } }
  else .next s

/-! ### References (R34-R37) -/

/-- SYNC_IN_PULSE: a rising edge on SYNC_IN; it starts an armed follower, at the place SYNC_DELAY_NS before the edge (R34, R39). The width
tells a start pulse from an ordinary one, and either starts an armed node. -/
def execSyncInPulse (t widthNs : Nat) (s : State) : Host.Outcome State Fault Refusal :=
  let s := s.at_ t
  if s.tick.source != 1 || widthNs = 0 then .next s
  else
    let s1 : State := { s with tick := { s.tick with lastEdge := some s.now } }
    let s2 := if s1.tick.holdover then s1 else s1.wr F.TICK_STATUS.REF_OK 1
    if s2.rd F.TICK_BARRIER.ARMED = 1 then
      let s3 : State := { s2.wr F.TICK_STATUS.REF_OK 1 with tick := { s2.tick with holdover := false, stuck := false } }
      .next (s3.boundary ⟨none, [], []⟩ (some 0) (s3.now - s3.lv F.TICK_ALIGN.SYNC_DELAY_NS))
    else .next s2

/-- Holdover begins: REF_LOST is recorded, boundaries go on from the timebase (R37). -/
def State.loseRef (s : State) : State :=
  { (s.wr F.TICK_STATUS.REF_OK 0).wr F.TICK_STATUS.REF_LOST 1 with tick := { s.tick with holdover := true } }

/-- SYNC_IN_TIMEOUT: no edge within one period and 100 ns of its prediction, which needs an edge before it (R37). -/
def execSyncInTimeout (t : Nat) (s : State) : Host.Outcome State Fault Refusal :=
  let s := s.at_ t
  let due := match s.tick.lastEdge with
    | some e => decide (e + 2 * s.tick.periodUs * 1000 + 100 ≤ s.now)
    | none => s.running
  if s.tick.source = 1 && due then .next s.loseRef else .next s

/-- PTP_LOCK_LOST: the PTP servo loses lock (R37). -/
def execPtpLockLost (t : Nat) (s : State) : Host.Outcome State Fault Refusal :=
  let s := s.at_ t
  let s1 : State := { s with tick := { s.tick with ptpLocked := false } }
  if s.tick.source = 2 then .next s1.loseRef else .next s1

/-- PTP_LOCK_ACQUIRED: the servo locks; while the node does not run and PTP is its source, node time steps once to PTP time, never
backwards (R20, R37). -/
def execPtpLockAcquired (t ptpNs : Nat) (s : State) : Host.Outcome State Fault Refusal :=
  let s := s.at_ t
  let s1 : State := { s with tick := { s.tick with ptpLocked := true, ptpAhead := some ((ptpNs : Int) - s.now) } }
  if s.tick.source != 2 then .next s1
  else .next (if s1.tick.holdover then s1 else s1.wr F.TICK_STATUS.REF_OK 1).ptpStep

/-- REFERENCE_RETURNED: in holdover the reference is back; within the limit it is followed again, else the node stays in holdover until it
is armed (R37). -/
def execReferenceReturned (t : Nat) (offsetNs : Int) (s : State) : Host.Outcome State Fault Refusal :=
  let s := s.at_ t
  if !s.tick.holdover || s.tick.source = 0 then .next s
  else if offsetNs.natAbs ≤ s.lv F.TICK_OFFSET.LIMIT_NS && !s.tick.stuck then
    let s1 := s.wr F.TICK_STATUS.REF_OK 1
    .next ({ s1 with tick := { s1.tick with holdover := false, ptpLocked := s1.tick.ptpLocked || s1.tick.source == 2 } } : State)
  else
    let s1 := s.align (some offsetNs)
    .next { s1 with tick := { s1.tick with stuck := true } }

end Sys2Proof.Machine
end

