-- ==== Sys2Proof/Machine/Registers.lean ====
section
/-! DEFINITION. BAR0: what a register reads as, writes to registers with no row of their own, and the SEC block
(18_registers.md, R360-R366). -/
namespace Sys2Proof.Machine

/-! ### Fields the node computes when they are read -/

/-- Words `n` of a digest, little-endian; 0 without one. -/
def digestWord (d : Option Bytes) (n : Nat) : Nat := match d with
  | some b => le b (8 * n) 8
  | none => 0

/-- Contexts that wait for scrub or drain: CTX_SCRUB.ACTIVE (Table 11.12). -/
def State.scrubActive (s : State) : Nat := (s.ctxs.filter (fun c => c.2.phase == .draining || c.2.phase == .scrubbing)).length

/-- Erase blocks that wait for erasure: CTX_SCRUB.BEDROCK_BLOCKS (Table 11.12). -/
def State.scrubBlocks (s : State) : Nat := (s.tier.blocks.filter (fun b => !b.2.tombs.isEmpty)).length

/-- Whether bedrock erasures of a torn-down context are pending: CTX_STATE.TOMBSTONE (Table 11.11). -/
def State.tombPending (s : State) (ctx : Nat) : Bool :=
  (match mget s.nv.keyStore ctx with | some e => e.tombstone | none => false) || s.tier.blocks.any (fun b => b.2.tombs.contains ctx)

/-- CTX_STATE for a context (Table 11.11). -/
def State.ctxState (s : State) (ctx : Nat) : List (Field × Nat) :=
  let x := s.ctx ctx
  [(F.CTX_STATE.STATE, x.code), (F.CTX_STATE.HDM_READ, b2n x.hdmRead), (F.CTX_STATE.DEGRADED, b2n x.degraded),
   (F.CTX_STATE.TOMBSTONE, b2n (s.tombPending ctx)), (F.CTX_STATE.GEODES, lsum ((List.range 4).map (fun k => b2n (mhas x.geodes k) * 2 ^ k)))]

/-- A local ring's running state. -/
def State.localState (s : State) (n : Nat) : RingState := match mget s.locals n with
  | some l => l.ring
  | none => RingState.off

/-- The weathering history of a unit: the sum over its samples of something. -/
def State.weatherSum (s : State) (unit : Nat) (f : Nat → Nat → Nat) : Nat :=
  lsum ((s.health.weather.filter (fun w => w.1 == unit)).map (fun w => f w.2.1 w.2.2))

/-- The TAI day on which the least-squares line of a unit's samples reaches 1,000; none with fewer than 7 days of samples, or when
the slope is not positive (R316). -/
def State.eolDay (s : State) (unit : Nat) : Option Nat :=
  let days := ((s.health.weather.filter (fun w => w.1 == unit)).map (fun w => w.2.1)).eraseDups
  let n : Int := s.weatherSum unit (fun _ _ => 1)
  let sx : Int := s.weatherSum unit (fun d _ => d)
  let sy : Int := s.weatherSum unit (fun _ y => y)
  let sxx : Int := s.weatherSum unit (fun d _ => d * d)
  let sxy : Int := s.weatherSum unit (fun d y => d * y)
  let den := n * sxx - sx * sx
  let num := n * sxy - sx * sy
  if days.length < 7 || den ≤ 0 || num ≤ 0 then none
  else
    let top := (1000 * n - sy) * den + num * sx
    some (top / (n * num)).toNat

/-- The module index: the largest unit index (R316). -/
def State.moduleIndex (s : State) : Nat := s.health.latest.foldl (fun m x => max m x.2) 0

/-- The module's end-of-life day: the earliest unit day (R316). -/
def State.moduleEol (s : State) : Option Nat :=
  (s.health.latest.filterMap (fun x => s.eolDay x.1)).foldl (fun m d => match m with
    | none => some d
    | some e => some (min e d)) none

/-- The TAI day of the newest sample, from which days are counted. -/
def State.today (s : State) : Nat := s.health.weather.foldl (fun m w => max m w.2.1) 0

/-- Days from the newest sample to a date; 0xFFFF for none (Table 14.14). -/
def State.daysTo (s : State) (d : Option Nat) : Nat := match d with
  | none => 65535
  | some x => min 65534 (x - s.today)

/-- HEALTH_WEATHER for the selected unit (Table 14.14). -/
def State.weatherFields (s : State) : List (Field × Nat) :=
  let unit := s.rd F.HEALTH_WEATHER_SEL.KIND * 256 + s.rd F.HEALTH_WEATHER_SEL.UNIT
  [(F.HEALTH_WEATHER.INDEX, (mget s.health.latest unit).getD 0), (F.HEALTH_WEATHER.MODULE, s.moduleIndex),
   (F.HEALTH_WEATHER.EOL_DAYS, s.daysTo (s.eolDay unit)), (F.HEALTH_WEATHER.MODULE_EOL_DAYS, s.daysTo s.moduleEol)]

/-- The meter set HEALTH_METER_SEL selects, 0 newest (Table 13.14). -/
def State.meterSet (s : State) : MeterSet := lget (s.ctx (s.rd F.HEALTH_METER_SEL.CTX)).meters (s.rd F.HEALTH_METER_SEL.SET) ⟨0, []⟩

/-- Fields the node computes, for the registers of each block: field, value, and number of the register. -/
def State.computed (s : State) (off : Nat) : List (Field × Nat × Nat) :=
  let one (l : List (Field × Nat)) : List (Field × Nat × Nat) := l.map (fun x => (x.1, x.2, 0))
  let ctxSel := s.rd F.CTX_CTL.CTX
  match off / 4096 with
  | 1 => one [(F.TICK_NOW.NOW, s.now)]
  | 2 =>
    one (s.ctxState ctxSel ++ [(F.CTX_SCRUB.ACTIVE, s.scrubActive), (F.CTX_SCRUB.BEDROCK_BLOCKS, s.scrubBlocks)]) ++
    (List.range 8).map (fun n => (F.CTX_GEODE_DIGEST.DIGEST,
      digestWord ((mget (s.ctx (s.rd F.CTX_GEODE_CTL.CTX)).geodes (s.rd F.CTX_GEODE_CTL.SLOT)).map Geode.digest) n, n)) ++
    (List.range 8).map (fun n => (F.CTX_PROF_DIGEST.DIGEST,
      digestWord ((s.ctx ctxSel).profile.map (fun p => sha512 p.raw)) n, n))
  | 4 =>
    (List.range 16).flatMap (fun n => [(F.RING_LCTL.RSTATE, (s.localState n).rstate, n), (F.RING_LINFO.CONSUMER, (s.localState n).consumer, n),
      (F.RING_LINFO.PRODUCER, (s.localState n).pi, n)]) ++ one [(F.RING_TRACK.IN_USE, s.trackUsed)]
  | 5 =>
    let idx := s.rd F.NET_REGION_CTL.INDEX
    one [(F.NET_CONN_CTL.STATE, ((s.conn? (s.rd F.NET_CONN_CTL.SLOT)).map Conn.state).getD 0),
      (F.NET_REGION_CTL.BUSY, b2n s.regionBusy), (F.NET_REGION_CTL.GEN, ((mget s.regions idx).map Region.gen).getD 0),
      (F.NET_REGION_CTL.VALID, b2n ((mget s.regions idx).any Region.valid))]
  | 6 =>
    one [(F.SEC_STATUS.KEYS_DERIVED, b2n s.sec.keysDerived), (F.SEC_STATUS.CONFIG_VALID, b2n s.sec.configValid),
      (F.SEC_STATUS.DRBG_OK, b2n s.sec.drbgOk)] ++
    (List.range 8).map (fun n => (F.SEC_IDENT.DIGEST, digestWord (if s.sec.keysDerived then some s.sec.identity else none) n, n))
  | 8 =>
    let x := s.ctx (s.rd F.HEALTH_TCC_SEL.CTX)
    one (s.weatherFields ++ [(F.HEALTH_TCC.RELAXED, x.tccRelaxed), (F.HEALTH_TCC.BACKUP, x.tccBackup),
      (F.HEALTH_ERRCNT.SENT, s.health.seq % 2 ^ 32), (F.HEALTH_ERRCNT.BUFFERED, s.health.buffer.length),
      (F.HEALTH_METER_ID.COMP_ID, s.meterSet.compId)]) ++
    (List.range 8).map (fun n => (F.HEALTH_METER.COUNT, lget s.meterSet.counts n 0 % 2 ^ 64, n))
  | 9 => one [(F.DBG_TRACE_CTL.ENTRIES, s.dbg.trace.length), (F.DBG_TRACE_CTL.FULL, b2n (decide (524288 ≤ s.dbg.trace.length)))]
  | _ => []

/-- What the register at an offset reads as, all fields at one instant (R361); an unnamed offset reads 0 (R360). -/
def State.readReg (s : State) (off : Nat) : Word :=
  ((s.computed off).filter (fun x => x.1.at_ x.2.2 == off)).foldl (fun w x => withField x.1 w x.2.1) (getReg s.regs off)

/-- Whether an offset of BAR0 answers: the ID block from stage 3, the rest from READY on, the DBG block never (R334, R261). -/
def State.barOpen (s : State) (off : Nat) : Bool :=
  if off < 0x1000 then decide (3 ≤ s.rd F.ID_BOOT.STAGE) else s.ready && off / 4096 != 9

/-- A control-host read of BAR0: 8 aligned bytes, or an aligned half of a register; 0 for every other read (R360, R334, R261). -/
def State.readBar0 (s : State) (off size : Nat) : Word :=
  if !s.barOpen off || (regFields (off / 8 * 8)).isEmpty then 0
  else if size = 8 && off % 8 == 0 then s.readReg off
  else if size = 4 && off % 4 == 0 then
    (if off % 8 = 0 then s.readReg off &&& 0xFFFFFFFF else s.readReg (off - 4) >>> 32)
  else 0

/-! ### Pins -/

/-- Whether a thermal emergency is in force: until the boundary after it, and while a sensor still reads 105 °C or more (R314, R353). -/
def State.emergencyNow (s : State) : Bool :=
  !s.power.emergencies.isEmpty || (List.range 96).any (fun n => decide (840 ≤ (BitVec.ofNat 16 (s.rd F.PWR_HC.TJ n)).toInt))

/-- Whether ALERT_N is asserted (R353). -/
def State.alert (s : State) : Bool :=
  s.ranger.recovery || s.rd F.PWR_SUPPLY.WARN == 1 || s.emergencyNow || s.pins.thermTrip || s.rd F.ID_BOOT.FAIL == 1

/-! ### Writes -/

/-- The registers whose writes are rows of their own, whatever is written; the registers with an OP field are so when OP names an
operation. -/
def ownRow (off : Nat) (v : Word) : Bool :=
  let op (f : Field) (n : Nat) : Bool := off == f.off && decide (1 ≤ fieldOf f v) && decide (fieldOf f v ≤ n)
  [F.TICK_PERIOD.PERIOD_US, F.TICK_WINDOW.C0_SHARE, F.TICK_ALIGN.SOURCE, F.TICK_ORIGIN.ORIGIN, F.CTX_CLASS.HK_WEIGHT, F.TIER_SE_TEST.ENGINE,
   F.TIER_HOST_BASE.ADDR, F.TIER_HOST_SIZE.SIZE, F.TIER_HDM.EN, F.HEALTH_ASSAY.RATE].any (fun f => f.off == off) ||
  [F.TIER_SE_MASK.MASK, F.TIER_SE_FAULT.FAULT, F.RING_DB.PI, F.RING_LCTL.EN, F.HEALTH_TILEF.FAULT].any (fun f => f.covers off) ||
  op F.TICK_BARRIER.ARM 1 || op F.TICK_BARRIER.START 1 || op F.CTX_CTL.OP 3 || op F.CTX_GEODE_CTL.OP 2 || op F.CTX_PROG_CTL.OP 2 ||
  op F.NET_CONN_CTL.OP 2 || op F.NET_REGION_CTL.OP 2 || op F.NET_COMP_CTL.OP 2 || op F.SEC_LOCK.LOCK 1

/-- Units of a weathering kind (Table 14.6). -/
def weatherUnits (kind : Nat) : Nat := lget [192, 16, 96, 32, 24] kind 0

/-- A write of SEC_LOCK: LOCK is set by 1 and never cleared, VIOLATIONS as a counter (Table 18.6). -/
def State.writeLock (s : State) (v : Word) : State :=
  let lock := max (s.rd F.SEC_LOCK.LOCK) (fieldOf F.SEC_LOCK.LOCK v)
  (s.writeNow F.SEC_LOCK.LOCK.off (withField F.SEC_LOCK.LOCK (regWritten false F.SEC_LOCK.LOCK.off (getReg s.regs F.SEC_LOCK.LOCK.off) v) lock)).wakeUp

/-- A write of HEALTH_WEATHER_SEL: UNIT beyond the count of KIND is ignored (Table 14.14). -/
def State.writeWeatherSel (s : State) (v : Word) : State :=
  let off := F.HEALTH_WEATHER_SEL.KIND.off
  let new := regWritten false off (getReg s.regs off) v
  if fieldOf F.HEALTH_WEATHER_SEL.UNIT new < weatherUnits (fieldOf F.HEALTH_WEATHER_SEL.KIND new) then s.writeNow off new
  else s.writeNow off (withField F.HEALTH_WEATHER_SEL.UNIT new (s.rd F.HEALTH_WEATHER_SEL.UNIT))

/-- A write of HEALTH_TCC: a counter written 0 clears, for the selected context (Table 12.9, R363). -/
def State.writeTcc (s : State) (v : Word) : State :=
  s.modCtx (s.rd F.HEALTH_TCC_SEL.CTX) (fun x => { x with
    tccRelaxed := if fieldOf F.HEALTH_TCC.RELAXED v = 0 then 0 else x.tccRelaxed
    tccBackup := if fieldOf F.HEALTH_TCC.BACKUP v = 0 then 0 else x.tccBackup })

/-- Whether a register refuses writes now: a ring's addresses while it is enabled (Tables 8.13 and 8.15), NET_UDP while a connection is
past its HELLO (Table 9.17). -/
def State.writeShut (s : State) (off : Nat) : Bool :=
  ((F.RING_LBASE.ADDR.covers off || F.RING_LRSW.ADDR.covers off) && s.rd F.RING_LCTL.EN ((off - 0x4100) / 32) == 1) ||
    (off == F.NET_UDP.DPORT.off && s.conns.any (fun c => decide (2 ≤ c.2.state) && decide (c.2.state ≤ 4)))

/-- A write to a register whose fields take effect under R16; outside the ID, PWR and HEALTH blocks it is a wake event (R304). -/
def State.writePlain (s : State) (off : Nat) (v : Word) : State :=
  let s1 := if off / 4096 = 7 || off / 4096 = 8 then s else s.wakeUp
  s1.writeStaged off (regWritten false off (getReg s1.regs off) v)

/-- REGISTER_WRITE: a write of 8 aligned bytes to a named register with no row of its own (R360-R363, R334, R261); every other write is
ignored. -/
def execRegisterWrite (t off size : Nat) (v : Word) (s : State) : Host.Outcome State Fault Refusal :=
  let s := s.at_ t
  if size != 8 || off % 8 != 0 || !s.barOpen off || (regFields off).isEmpty || ownRow off v || s.writeShut off then .next s
  else if off < 0x1000 then .next (s.writeNow off (regWritten false off (getReg s.regs off) v))
  else if off = F.SEC_LOCK.LOCK.off then .next (s.writeLock v)
  else if off = F.HEALTH_WEATHER_SEL.KIND.off then .next (s.writeWeatherSel v)
  else if off = F.HEALTH_TCC.RELAXED.off then .next (s.writeTcc v)
  else .next (s.writePlain off v)

/-! ### SEC -/

/-- SEC_LOCK_SET: a write of SEC_LOCK with LOCK = 1 (R365). -/
def execSecLockSet (t : Nat) (v : Word) (s : State) : Host.Outcome State Fault Refusal :=
  let s := s.at_ t
  if !s.ready || fieldOf F.SEC_LOCK.LOCK v = 0 then .next s else .next (s.writeLock v)

/-- Whether any page lies in the host tier (R365). -/
def State.hostPages (s : State) : Bool := s.ctxs.any (fun c => c.2.pages.any (fun p => p.2.tier == 4))

/-- A write to a register with an RWL field (R365). -/
def State.rwl (s : State) (off : Nat) (v : Word) : State :=
  let old := getReg s.regs off
  if s.rd F.SEC_LOCK.LOCK = 1 then (s.writeNow off (regWritten true off old v)).bump F.SEC_LOCK.VIOLATIONS
  else
    let new := regWritten false off old v
    if off != F.TIER_HDM.EN.off && new != old && s.hostPages then s else s.writeNow off new

/-- RWL_WRITE: a write of TIER_HOST_BASE, TIER_HOST_SIZE or TIER_HDM (R365). -/
def execRwlWrite (t off : Nat) (v : Word) (s : State) : Host.Outcome State Fault Refusal :=
  let s := s.at_ t
  if s.ready && [F.TIER_HOST_BASE.ADDR, F.TIER_HOST_SIZE.SIZE, F.TIER_HDM.EN].any (fun f => f.off == off) then .next (s.wakeUp.rwl off v)
  else .next s

/-- DRBG_FAIL: the entropy source fails its health tests; the transition forms an error record (R366). -/
def execDrbgFail (t : Nat) (s : State) : Host.Outcome State Fault Refusal :=
  let s := s.at_ t
  if s.sec.drbgOk then
    .next (errRecord { s with sec := { s.sec with drbgOk := false } } .keysNotDerived .none { detail := 3 })
  else .next s

/-- Scrubs that waited for a random key start (R366, R249). -/
def State.startScrubs (s : State) : State :=
  let due := (s.ctxs.filter (fun c => c.2.phase == .scrubbing && !s.sec.scrubs.contains c.1)).map Prod.fst
  due.foldl State.beginScrub s

/-- ENTROPY_HEALTH_PASS: random values are generated again (R366). -/
def execEntropyHealthPass (t : Nat) (s : State) : Host.Outcome State Fault Refusal :=
  let s := s.at_ t
  .next ({ s with sec := { s.sec with drbgOk := true } } : State).startScrubs

end Sys2Proof.Machine
end

