-- ==== Sys2Proof/Machine/Debug.lean ====
section
/-! DEFINITION. The DBG block as Ranger reaches it: reads of stored lines, queue entries, traces, units taken out, the frequency ceiling
(15_ranger.md, R328, R329; 18_registers.md, R370, R371, Tables 18.12 to 18.14). -/
namespace Sys2Proof.Machine

/-! ### Queue entries -/

/-- The commands in an engine's queue, the one that runs first (R103, R104). -/
def State.commandQueue (s : State) (engine : Nat) : List Task :=
  let p := s.plan (.engine engine)
  p.running.toList ++ p.placed

/-- SKIP_VALID and SKIP of a command: valid once the request's bounded skip no longer holds the page back; bit r for row ROW_FIRST + r
(Table 6.2, R62, R104). A page of the anchor set is read for every row. -/
def State.commandSkip (s : State) (t : Task) : Bool × Nat :=
  match t.kind, t.req.bind s.workOf with
  | .page b h i rf rc _ _, some w =>
    if !w.skip then (false, 0)
    else match s.taskPage w h i with
      | none => (false, 0)
      | some (_, p) =>
        if s.skipWaits w b h rf rc p then (false, 0)
        else (true, lsum ((s.skipRows w b h i rf rc).zipIdx.map (fun x => if x.1 then 2 ^ x.2 else 0)))
  | _, _ => (false, 0)

/-- The query set a command uses, where its engine keeps it (R105). -/
def State.commandSet (s : State) (engine : Nat) (t : Task) : Option QuerySet :=
  let w : Option Work := if t.req = some hkKey then ((s.ctx t.ctx).profile).map (hkWork t.ctx) else t.req.bind s.workOf
  (w.bind (fun w => s.setOf w t.kind)).bind (fun q => (s.setsOn engine).find? q.same)

/-- First row and row count of a command, counted within its head. -/
def State.commandRows (s : State) (t : Task) : Nat × Nat := match t.kind with
  | .page _ _ _ f c _ _ => (f, c)
  | .assay id => (((s.health.assays.find? (fun a => a.id == id)).map Assay.rowFirst).getD 0, 1)
  | _ => (0, 1)

/-- Channel-local address of the record of the page a command reads (Table 6.2). -/
def State.commandRecord (s : State) (t : Task) : Nat := match mget (s.ctx t.ctx).pages (s.taskPageNum t) with
  | some p => p.recAddr
  | none => 0

/-- The 48 bytes of a command entry (Table 6.2). -/
def State.commandBytes (s : State) (engine : Nat) (t : Task) (last : Bool) : Bytes :=
  let (valid, skip) := s.commandSkip t
  let (rowFirst, rowCount) := s.commandRows t
  let set := s.commandSet engine t
  let base := (set.map QuerySet.rowFirst).getD 0
  leBytes 1 1 ++ leBytes 1 (b2n t.state.isSome + 2 * b2n last + 4 * b2n valid) ++ leBytes 2 t.ctx ++
    leBytes 2 ((set.map QuerySet.off).getD 0 / 64) ++ leBytes 1 (rowFirst - base) ++ leBytes 1 rowCount ++ leBytes 8 (s.commandRecord t) ++
    leBytes 2 ((t.state.map TaskState.nextPeb).getD 0) ++ leBytes 2 (s.mergeTile (t.req.getD 0)) ++ leBytes 2 (destSlot t) ++ leBytes 2 0 ++
    leBytes 4 (s.commandReq t) ++ leBytes 4 (t.planPs / 1000 - s.tick.last) ++ leBytes 8 skip ++ leBytes 8 0

/-- DBG_SEQ_DATA: the selected queue entry; zeros for an empty one (Table 18.13). -/
def State.seqData (s : State) (n : Nat) : Nat :=
  let q := s.commandQueue (s.rd F.DBG_SEQ_SEL.ENGINE)
  let i := s.rd F.DBG_SEQ_SEL.ENTRY
  match q.drop i with
  | t :: rest => le (s.commandBytes (s.rd F.DBG_SEQ_SEL.ENGINE) t (!rest.any (fun u => u.req == t.req))) (8 * n) 8
  | [] => 0

/-- A DBG register as Ranger reads it (R329). -/
def State.readDbg (s : State) (off : Nat) : Word :=
  if F.DBG_SEQ_DATA.DATA.covers off then BitVec.ofNat 64 (s.seqData ((off - F.DBG_SEQ_DATA.DATA.off) / 8)) else s.readReg off

/-! ### Reads of stored lines (R370) -/

/-- Lines of 64 bytes in a unit of a tier (Table 7.1, R122, Table 1.4). -/
def State.unitLines (s : State) (tier : Nat) : Nat := match tier with
  | 0 => 16384
  | 1 => channelBytes / 64
  | 2 => (farChannelBytes + 2147483648) / 64
  | 3 => 32000000000000 / 16 / 64
  | _ => s.hostBytes / 64

/-- Tier, unit and line that DBG_RD_SEL selects; for tile SRAM the low LINE bits extend the unit (Table 18.12). -/
def State.dbgSelected (s : State) : Nat × Nat × Nat :=
  let tier := s.rd F.DBG_RD_SEL.TIER
  let unit := s.rd F.DBG_RD_SEL.UNIT
  let line := s.rd F.DBG_RD_SEL.LINE
  if tier = 0 then (tier, unit + line % 8 * 256, line / 8) else (tier, unit, line)

/-- Units of a tier that DBG_RD_SEL can name; the host tier has one. -/
def dbgUnits (tier : Nat) : Nat := lget [1536, 192, 16, 16, 256] tier 0

/-- ERRCODE of a debug read (Table 18.12). -/
def State.dbgCode (s : State) : Nat :=
  let (tier, unit, line) := s.dbgSelected
  if 5 ≤ tier || dbgUnits tier ≤ unit then 1
  else if tier = 4 && s.hostBytes = 0 then 4
  else if s.unitLines tier ≤ line then 2
  else if (tier = 0 && !s.tileOk unit) || (tier = 1 && s.channelDown unit) || (tier = 2 && s.farDown unit) then 3
  else 0

/-- DBG_RD_CTL.GO: the stored form of the selected line; a line of tile SRAM is tagged and reads zeros, a stack bank under lease waits
(R370, R262, R112). GO is ignored while a read is in progress. -/
def State.dbgGo (s : State) : State :=
  if s.rd F.DBG_RD_CTL.BUSY = 1 then s
  else
    let (tier, unit, _) := s.dbgSelected
    let code := s.dbgCode
    let s1 := s.wr F.DBG_RD_CTL.ERRCODE code
    if code != 0 then s1.wr F.DBG_RD_CTL.ERROR 1
    else if tier = 0 then (s1.dbgData []).wr F.DBG_RD_CTL.DONE 1
    else if tier = 1 && s1.leased unit then (s1.wr F.DBG_RD_CTL.BUSY 1).waitLease unit (.debug s1.now)
    else s1.dbgCipher

/-- Write the plain fields of a DBG register. -/
def State.writeDbg (s : State) (off : Nat) (v : Word) : State := s.writeNow off (regWritten false off (getReg s.regs off) v)

/-- DBG_READ: Ranger writes the selector `v` and then GO (R329, R370). -/
def execDbgRead (t : Nat) (v : Word) (s : State) : Host.Outcome State Fault Refusal :=
  let s := s.at_ t
  if !s.rangerUp then .next s else .next ((s.wakeUp.writeDbg F.DBG_RD_SEL.TIER.off v).dbgGo)

/-! ### Traces (R328) -/

/-- A write of DBG_TRACE_CTL: TICKS within its range; ARM starts a capture at the next boundary, unless one runs. -/
def State.armTrace (s : State) (v : Word) : State :=
  let s1 := s.writeDbg F.DBG_TRACE_CTL.TICKS.off v
  if fieldOf F.DBG_TRACE_CTL.ARM v = 0 || s1.rd F.DBG_TRACE_CTL.RUNNING = 1 then s1
  else { s1 with dbg := { s1.dbg with traceLeft := s1.rd F.DBG_TRACE_CTL.TICKS } }

/-- TRACE_ARM: DBG_TRACE_CTL is written with ARM. -/
def execTraceArm (t : Nat) (v : Word) (s : State) : Host.Outcome State Fault Refusal :=
  let s := s.at_ t
  if !s.rangerUp then .next s else .next (s.wakeUp.armTrace v)

/-- TRACE_END: a capture whose buffer is full stops; one whose ticks have run stops at its boundary (R328). -/
def execTraceEnd (t : Nat) (s : State) : Host.Outcome State Fault Refusal :=
  let s := s.at_ t
  if s.dbg.traceArmed && decide (traceDepth ≤ s.dbg.trace.length) then .next s.traceStop else .next s

/-! ### Units and frequency (R371) -/

/-- The unit a DBG_UNIT_OFF word names, when there is such a unit. -/
def dbgUnit (v : Word) : Option UnitId :=
  let n := fieldOf F.DBG_UNIT_OFF.UNIT v
  if fieldOf F.DBG_UNIT_OFF.KIND v = 0 then (if n < 1536 then some (.tile n) else none) else if n < 192 then some (.engine n) else none

/-- Whether a unit is out of service from the next boundary on. -/
def State.outNext (s : State) (u : UnitId) : Bool := s.dbg.unitsOut.contains u != s.dbg.pendingOut.contains u

/-- A unit goes out of service, or returns, at the next boundary. -/
def State.toggleOut (s : State) (u : UnitId) (out : Bool) : State :=
  if s.outNext u = out then s
  else if s.dbg.pendingOut.contains u then { s with dbg := { s.dbg with pendingOut := s.dbg.pendingOut.filter (· != u) } }
  else { s with dbg := { s.dbg with pendingOut := s.dbg.pendingOut ++ [u] } }

/-- A write of DBG_UNIT_OFF (Table 18.14). -/
def State.unitOff (s : State) (v : Word) : State :=
  let s1 := s.writeDbg F.DBG_UNIT_OFF.UNIT.off v
  match dbgUnit v, fieldOf F.DBG_UNIT_OFF.OP v with
  | some u, 1 => s1.toggleOut u true
  | some u, 2 => s1.toggleOut u false
  | _, _ => s1

/-- DBG_UNIT_TAKE_OUT: DBG_UNIT_OFF is written with OP = 1. -/
def execDbgUnitTakeOut (t : Nat) (v : Word) (s : State) : Host.Outcome State Fault Refusal :=
  let s := s.at_ t
  if !s.rangerUp || fieldOf F.DBG_UNIT_OFF.OP v != 1 then .next s else .next (s.wakeUp.unitOff v)

/-- DBG_UNIT_RETURN: DBG_UNIT_OFF is written with OP = 2; fault marks still hold the unit (Table 18.14). -/
def execDbgUnitReturn (t : Nat) (v : Word) (s : State) : Host.Outcome State Fault Refusal :=
  let s := s.at_ t
  if !s.rangerUp || fieldOf F.DBG_UNIT_OFF.OP v != 2 then .next s else .next (s.wakeUp.unitOff v)

/-- Whether DBG_FREQ_LIMIT takes a value: 0, or 600 to 1,800 in steps of 100 (Table 18.14). -/
def freqLimitOk (mhz : Nat) : Bool := mhz == 0 || (decide (600 ≤ mhz) && decide (mhz ≤ 1800) && mhz % 100 == 0)

/-- A write of DBG_FREQ_LIMIT: in force from the next boundary. -/
def State.freqLimit (s : State) (v : Word) : State :=
  if freqLimitOk (fieldOf F.DBG_FREQ_LIMIT.MHZ v) then
    let off := F.DBG_FREQ_LIMIT.MHZ.off
    let new := regWritten false off (getReg s.regs off) v
    { s with regs := putReg s.regs off new, staged := s.staged ++ [⟨s.now - 400, off, new⟩] }
  else s

/-- DBG_FREQ_LIMIT_WRITE (R371). -/
def execDbgFreqLimitWrite (t : Nat) (v : Word) (s : State) : Host.Outcome State Fault Refusal :=
  let s := s.at_ t
  if !s.rangerUp then .next s else .next (s.wakeUp.freqLimit v)

/-- What an Administrator may write directly: the fields typed RW or WO (18_registers.md, "DBG block"). -/
def State.debugWrite (s : State) (off : Nat) (v : Word) : State :=
  if off = F.DBG_RD_CTL.GO.off then (if fieldOf F.DBG_RD_CTL.GO v = 1 then s.dbgGo else s)
  else if off = F.DBG_TRACE_CTL.TICKS.off then s.armTrace v
  else if off = F.DBG_UNIT_OFF.UNIT.off then s.unitOff v
  else if off = F.DBG_FREQ_LIMIT.MHZ.off then s.freqLimit v
  else if off = F.DBG_RD_SEL.TIER.off || off = F.DBG_SEQ_SEL.ENGINE.off then s.writeDbg off v
  else s

/-- Every counter the set-up registers hold (R328, R363). -/
def State.allCounters (s : State) : List Word :=
  let fs := (F.allTICK ++ F.allCTX ++ F.allTIER ++ F.allRING ++ F.allNET ++ F.allSEC ++ F.allPWR ++ F.allHEALTH).filter Field.counter
  fs.flatMap (fun f => (List.range f.count).map (fun n => BitVec.ofNat 64 (fieldOf f (s.readReg (f.at_ n)))))

end Sys2Proof.Machine
end

