-- ==== Sys2Proof/Machine/Reset.lean ====
section
/-! DEFINITION. Resets, what survives them, start-up, and the module's power input and reset pins (16_reset.md, R332-R341;
17_module.md, R346-R354; 14_power_health.md, R311, R315). -/
namespace Sys2Proof.Machine

/-! ### What survives (R337-R339) -/

/-- Whether every page of a conversation lies in bedrock on this node, given whether a page-map member is this node (R338). -/
def Ctx.convInBedrock (x : Ctx) (here : Nat → Bool) (c : Conv) : Bool :=
  c.pageMap.all (fun e => here e.2.member && (match mget x.pages e.2.page with | some p => p.tier == 3 | none => false))

/-- The pages of a conversation, by number. -/
def Ctx.pagesOfConv (x : Ctx) (c : Conv) : Map Page :=
  x.pages.filter (fun p => c.pageMap.any (fun e => e.2.page == p.1))

/-- Page numbers of a conversation's page map. -/
def Conv.pageNumbers (c : Conv) : List (Nat × Nat) := c.pageMap.map (fun e => (e.1, e.2.page))

/-- What the park records describe at a reset: parked conversations unchanged since, whose pages all lie in bedrock here (R338). -/
def State.parkedNow (s : State) : List ParkRecord :=
  s.nv.parks.filterMap (fun k =>
    let x := s.ctx k.ctx
    match mget x.convs k.conv with
    | none => none
    | some c =>
      if c.lens == k.body.lens && c.pageNumbers == k.body.pageNumbers && x.convInBedrock s.ownsSlot c then
        some { k with body := c, pages := x.pagesOfConv c }
      else none)

/-- Registers after a node-wide reset: RWS fields kept by a warm one; SPARE and RETIRED are the translation layer's, with the bits that
follow from SPARE; the security version of Ranger while Ranger runs on (R332, R339, R143). -/
def resetRegs (warm rangerRuns : Bool) (rf : RegFile) : RegFile :=
  let spare := fget rf F.TIER_BEDROCK.SPARE
  let a : RegFile := if warm then rf.filter (fun x => F.ID_SCRATCH.SCRATCH.covers x.1) else []
  let b := fput (fput a F.TIER_BEDROCK.SPARE spare) F.TIER_BEDROCK.RETIRED (fget rf F.TIER_BEDROCK.RETIRED)
  let c := fput (fput b F.TIER_BEDROCK.READ_ONLY (b2n (decide (spare < 20)))) F.TIER_PLACE_STATUS.BEDROCK_LOW (b2n (decide (spare < 40)))
  if rangerRuns then fput c F.SEC_SVN.RANGER (fget rf F.SEC_SVN.RANGER) else c

/-- Ranger restarted from its boot ROM: sessions and streams end, its restart count is 0; its store in bedrock is kept (R330, R339). -/
def Ranger.booted (r : Ranger) : Ranger :=
  { r with running := false, recovery := false, restarts := [], sessions := [], refused := 0, subs := r.subs.filter Subscription.push }

/-- A node-wide reset (Table 16.1, Table 16.3): everything at its reset value but what is kept, bedrock with its log among it. `stage` is where
start-up begins; a node reset leaves Ranger running. A trace already captured is kept (Table 18.14). -/
def State.nodeWide (s : State) (cause stage : Nat) (warm rangerRuns : Bool) : State :=
  let regs := resetRegs warm rangerRuns s.regs
  let r := if rangerRuns then s.ranger else s.ranger.booted
  let s1 : State := { State.reset with
    pending := s.pending, out := s.out, free := s.free, regs := regs, live := regs
    tier := { TierState.reset with blocks := s.tier.blocks, parcels := s.tier.parcels, logHead := s.tier.logHead, stripes := s.tier.stripes }
    sec := { SecState.reset with digests := s.sec.digests, nextKey := s.sec.nextKey }
    health := { HealthState.reset with weather := s.health.weather, latest := s.health.latest }
    power := { PowerState.reset with switchClosed := s.power.switchClosed, charging := s.power.charging }
    pins := { s.pins with pwrOk := s.pins.pwrOk && rangerRuns }
    ranger := { r with clock := r.clock + s.now }
    dbg := { DbgState.reset with trace := s.dbg.trace }
    nv := { s.nv with parks := if s.ready then s.parkedNow else s.nv.parks } }
  (s1.wr F.ID_BOOT.STAGE stage).wr F.ID_BOOT.CAUSE cause

/-! ### Cold resets -/

/-- Power-on: the cold start-up begins at stage 0; after a thermal trip CAUSE reports the trip (R332, R333). -/
def State.powerUp (s : State) : State :=
  let cause := if s.power.tripped then 2 else 0
  let s1 := s.nodeWide cause 0 false false
  { s1 with pins := { s1.pins with thermTrip := false }, power := { s1.power with packageOn := true, tripped := false } }

/-- POWER_ON: the module input has risen into the operating range from below 40.0 V. -/
def execPowerOn (t mv : Nat) (s : State) : Host.Outcome State Fault Refusal :=
  if absoluteMv < mv then .fault .beyondAbsoluteLimits
  else
    let s := s.at_ t
    if mv < 46000 || 58000 < mv then .next s else .next (s.powerUp.inputMv mv)

/-- Ranger programs the BROWNOUT_RESET record to its log, past the node's buffer (R311, R323). -/
def State.logBrownout (s : State) (mv : Nat) : State :=
  if !s.rangerUp then s
  else
    let s1 := errRecord { s with health := { s.health with buffer := [] } } .brownoutReset .none { detail := mv }
    match s1.health.buffer with
    | r :: _ => s1.logRecord r
    | [] => s1

/-- BROWNOUT: the input is at or below 40.0 V (R311). A package that a thermal trip has left without power stays so (R333). -/
def execBrownout (t mv : Nat) (s : State) : Host.Outcome State Fault Refusal :=
  let s := s.at_ t
  if 40000 < mv then .next s
  else if s.power.tripped then .next (s.inputMv mv)
  else .next (((s.logBrownout mv).nodeWide 1 0 false false).inputMv mv)

/-- THERMAL_TRIP: a junction or stack at 115 °C; package power is removed, THERMTRIP_N asserted, the trip recorded (R315, R333, R352). -/
def execThermalTrip (t : Nat) (temp : Int) (s : State) : Host.Outcome State Fault Refusal :=
  let s := s.at_ t
  if temp < 920 then .next s
  else
    let at_ := (s.ranger.clock + s.now).toNat
    let s1 := s.nodeWide 2 0 false false
    .next { s1 with pins := { s1.pins with thermTrip := true }, power := { s1.power with packageOn := false, tripped := true }
                    ranger := { s1.ranger with trips := s1.ranger.trips ++ [at_] } }

/-! ### Warm resets -/

/-- MODULE_RESET: MODULE_RESET_N has read low on `samples` consecutive samples of the 50 MHz clock; 50 are recognised (R350). It releases
the package from a thermal trip's power-off, whose CAUSE stands; a brownout of the same sample keeps CAUSE. -/
def execModuleReset (t samples : Nat) (s : State) : Host.Outcome State Fault Refusal :=
  let s := s.at_ t
  if samples < 50 then .next s
  else
    let brown := s.rd F.ID_BOOT.CAUSE = 1 && s.rd F.ID_BOOT.STAGE = 0 && s.now = 0
    let s1 := if s.power.tripped then s.powerUp else s.nodeWide (if brown then 1 else 3) 0 true false
    .next { s1 with pins := { s1.pins with moduleResetLow := true } }

/-- MODULE_RESET_RELEASE: MODULE_RESET_N goes high; start-up begins at stage 0 (R350). -/
def execModuleResetRelease (t : Nat) (s : State) : Host.Outcome State Fault Refusal :=
  let s := s.at_ t
  if s.pins.moduleResetLow then
    .next { s with now := 0, pins := { s.pins with moduleResetLow := false }, ranger := { s.ranger with clock := s.ranger.clock + s.now } }
  else .next s

/-! ### Resets of the control host's side (R340) -/

/-- Requests of local rings: the unadmitted go without effect, the admitted run on without status words. -/
def State.silenceLocal (s : State) : State :=
  let mine (r : Req) : Bool := match r.ring with
    | .partner _ _ => false
    | .localRing _ => true
  { s with reqs := (s.reqs.filter (fun r => !(mine r && r.admittedAt.isNone))).map (fun r => if mine r then { r with silent := true } else r) }

/-- The RING block and the local rings return to their reset state (Table 16.3). -/
def State.resetRings (s : State) : State :=
  let out (off : Nat) : Bool := off / 4096 != 4
  let regs := s.regs.filter (fun x => out x.1)
  { s with locals := [], regs := regs, live := s.live.filter (fun x => out x.1), staged := s.staged.filter (fun w => out w.reg) }

/-- What FLR and CXL hot reset share. -/
def State.hostSideReset (s : State) : State := s.silenceLocal.resetRings

/-- FLR of the CXL function. -/
def execFlr (t : Nat) (s : State) : Host.Outcome State Fault Refusal := .next (s.at_ t).hostSideReset

/-- CXL_HOT_RESET: hot reset or link disable of the host's port, or PERST_N going low; the link is down (R340, R351, R152). -/
def execCxlHotReset (t : Nat) (perst : Bool) (s : State) : Host.Outcome State Fault Refusal :=
  let s1 := (s.at_ t).hostSideReset.cxlDown
  .next { s1 with pins := { s1.pins with perstLow := s1.pins.perstLow || perst } }

/-- The CXL link trains: at a width and a rate in GT/s that the sled decides, free here. -/
def State.cxlTrain (s : State) : State :=
  let (x, s1) := s.draw
  let (y, s2) := s1.draw
  s2.cxlTrained (lget [16, 8, 4] (x % 3) 16) (1 + y % 64)

/-- PERST_N_RELEASE: PERST_N goes high; the link trains once start-up has reached stage 3 (R351). -/
def execPerstNRelease (t : Nat) (s : State) : Host.Outcome State Fault Refusal :=
  let s := s.at_ t
  if !s.pins.perstLow then .next s
  else
    let s1 : State := { s with pins := { s.pins with perstLow := false } }
    .next (if 3 ≤ s1.rd F.ID_BOOT.STAGE then s1.cxlTrain else s1)

/-! ### Restoring contexts (R336-R338, R251) -/

/-- A surviving conversation after the restore: its pages are here, and one of a protected context waits for its map (R338). -/
def Conv.restored (c : Conv) (prot : Bool) (compId slot : Nat) : Conv :=
  { c with pageMap := mall c.pageMap (fun _ e => { e with member := 0 }), home := 0, creator := none, releasing := false, placed := 3
           unserved := if prot then some (compId, slot) else none }

/-- Pages that a set of conversations names, their references counted anew. -/
def restoredPages (convs : Map Conv) (pages : Map Page) : Map Page :=
  pages.filterMap (fun p =>
    let n := lsum (convs.map (fun c => (c.2.pageMap.filter (fun e => e.2.page == p.1)).length))
    if n = 0 then none
    else some (p.1, { p.2 with refs := n, slot := 0, demotePending := false, pass := 0 }))

/-- A context the sealed image describes, in state 2 (R336, R337). -/
def SealedImage.restoreCtx (im : SealedImage) (x : Ctx) : Ctx :=
  let prot := match x.profile with
    | some p => p.cls.fMode != 0
    | none => false
  let convs := (x.convs.filter (fun c => x.convInBedrock im.slots.contains c.2)).map (fun c => (c.1, c.2.restored prot im.compId c.2.home))
  { Ctx.free with
    phase := x.phase, hdmRead := x.hdmRead, tenant := x.tenant, issuer := x.issuer, creation := x.creation, keyLoaded := true
    profile := x.profile, fixed := x.fixed, slopes := x.slopes, geodes := x.geodes, programs := mall x.programs (fun _ p => { p with retiring := none })
    convs := convs, pages := restoredPages convs x.pages }

/-- A context with a sealed key that no image describes, in state 1: its creation record, its fixed parameters, and the conversations of its
park records (R336, R338). -/
def KeyEntry.restoreCtx (e : KeyEntry) (parks : List ParkRecord) : Ctx :=
  let prot := match e.fixed with
    | some p => p.cls.fMode != 0
    | none => false
  let convs := parks.foldl (fun m k => mset m k.conv (k.body.restored prot k.compId k.slot)) []
  let pages := parks.foldl (fun m k => k.pages.foldl (fun m p => mset m p.1 p.2) m) []
  { Ctx.free with
    phase := .created, hdmRead := e.hdmRead, tenant := e.tenant, issuer := e.issuer, creation := e.creation, keyLoaded := true
    fixed := e.fixed, convs := convs, pages := restoredPages convs pages }

/-- Whether a teardown mark stands in a readable copy (R251); `valid` has a bit for each readable copy. -/
def KeyEntry.marked (e : KeyEntry) (valid : Nat) : Bool := (List.range 4).any (fun i => bit valid i && lget e.marks i false)

/-- A context whose teardown resumes: state 4 with a tombstone, state 3 with a mark (R251). -/
def KeyEntry.tornCtx (e : KeyEntry) : Ctx :=
  { Ctx.free with
    phase := if e.tombstone then .scrubbing else .draining, hdmRead := e.hdmRead, tenant := e.tenant, issuer := e.issuer
    creation := e.creation, teardownAt := if e.tombstone then none else some 0 }

/-- Bring back the context of one key-store entry; true when with its sealed key. -/
def State.restoreOne (s : State) (image : Option SealedImage) (ctx : Nat) (e : KeyEntry) : Bool × State :=
  if e.tombstone || e.marked (s.rd F.SEC_STATUS.KEYSTORE_VALID) then (false, s.setCtx ctx e.tornCtx)
  else
    let parks := s.nv.parks.filter (fun k => k.ctx == ctx)
    match image with
    | none => (true, s.setCtx ctx (e.restoreCtx parks))
    | some im => match mget im.ctxs ctx with
      | some x =>
        if x.creation = e.creation && (x.phase == .inService || x.phase == .created) then (true, s.setCtx ctx (im.restoreCtx x))
        else (true, s.setCtx ctx (e.restoreCtx parks))
      | none => (true, s.setCtx ctx (e.restoreCtx parks))

/-- Parcels of pages that no restored context names become garbage; those of a context whose teardown resumes wait for it (R338, R249). -/
def State.settleParcels (s : State) : State :=
  { s with tier := { s.tier with parcels := s.tier.parcels.filter (fun x =>
      mhas (s.ctx x.ctx).pages x.page || (s.ctx x.ctx).phase == .draining || (s.ctx x.ctx).phase == .scrubbing) } }

/-- Every page restored lies in bedrock as a parcel (R337). -/
def State.giveParcels (s : State) : State :=
  s.ctxs.foldl (fun s c => c.2.pages.foldl (fun s p =>
    if s.tier.parcels.any (fun x => x.ctx == c.1 && x.page == p.1) then s else s.addParcel c.1 p.1) s) s

/-- Resume the scrubs of contexts with a tombstone from the beginning (R251, R366). -/
def State.resumeScrubs (s : State) : State :=
  let s1 := (s.ctxs.filter (fun c => c.2.phase == .scrubbing)).foldl (fun s c => s.tombBlocks c.1) s
  if s1.sec.drbgOk then s1.startScrubs else s1

/-- Stage 5: contexts and, from a valid image, their content (R336-R338). The image is invalid once its restore is complete. -/
def State.restoreAll (s : State) (tagOk : Bool) : State :=
  let image := match s.nv.image with
    | some im => if tagOk && im.complete then some im else none
    | none => none
  let (n, s1) := s.nv.keyStore.foldl (fun (acc : Nat × State) e =>
    let (live, s1) := acc.2.restoreOne image e.1 e.2
    (acc.1 + b2n live, s1)) (0, s)
  let s2 := s1.settleParcels.giveParcels.resumeScrubs.countKeys
  let s3 : State := { s2 with nv := { s2.nv with image := none, parks := s2.nv.parks.filter (fun k => mhas (s2.ctx k.ctx).convs k.conv) } }
  ((s3.wr F.ID_BOOT.IMAGE (b2n image.isSome)).wr F.ID_BOOT.RESTORED n).wr F.ID_BOOT.READY 1

/-! ### Start-up (Table 16.2) -/

/-- A stage fails: start-up stops there (R334). -/
def State.stageFail (s : State) (code : Nat) : State := (s.wr F.ID_BOOT.FAIL 1).wr F.ID_BOOT.FAILCODE code

/-- A bit for each true entry. -/
def bitsOf (l : List Bool) : Nat := lsum ((List.range l.length).map (fun i => b2n (lget l i false) * 2 ^ i))

/-- A staged image takes effect at its next load; its digest enters the measurements (R331, R260). -/
def State.loadStaged (s : State) (kind : ImageKind) (block : Nat) : State :=
  match s.ranger.staged.find? (fun x => x.1 == kind) with
  | none => s
  | some x =>
    { s with sec := { s.sec with digests := mset s.sec.digests block x.2.2 }
             ranger := { s.ranger with staged := s.ranger.staged.filter (fun y => y.1 != kind) } }

/-- Stage 1: Ranger's boot ROM starts a valid firmware copy, or stays in its recovery state; it reads the straps (R255, R330, R354). -/
def State.stageRanger (s : State) (ok : Bool) (svn straps : Nat) : State :=
  let s1 : State := { s with pins := { s.pins with slotId := straps } }
  let s2 := if ok then
      let s2 := (s1.loadStaged .ranger 1).wr F.SEC_SVN.RANGER svn
      { s2 with ranger := { s2.ranger with running := true, straps := straps } }
    else { s1 with ranger := { s1.ranger with recovery := true } }
  s2.wr F.ID_BOOT.STAGE 2

/-- What the configuration record gives the node (R256). -/
def State.configure (s : State) (c : ConfigRecord) : State :=
  let s1 := (List.range 2).foldl (fun s n => s.wr F.ID_SERIAL.SERIAL (le (padTo 16 c.serial) (8 * n) 8) n) s
  let s2 := (List.range 16).foldl (fun s l => s.modLink l (fun k => { k with mac := lget c.macs l [] })) s1
  (List.range 96).foldl (fun s h =>
    let mhz := lget c.speedGrades h 1800
    (s.wr F.PWR_HC.MAX_MHZ mhz h).setMhz h mhz) s2

/-- Stage 2: configuration record, security firmware, PUF and keys (R253, R254, R256, R366). -/
def State.stageIdentity (s : State) (config : Option ConfigRecord) (secSvn : Nat) (helper : List Bool) (derived : Bytes)
    (drbgOk : Bool) : State :=
  match config with
  | none => errRecord (s.stageFail 1) .keysNotDerived .none { detail := 2 }
  | some c =>
    let s1 := (((s.loadStaged .security 2).configure c).wr F.SEC_SVN.SECURITY secSvn).wr F.SEC_STATUS.HELPER_VALID (bitsOf (helper.take 4))
    let s2 : State := { s1 with sec := { s1.sec with configValid := true, drbgOk := drbgOk, record := some c } }
    if !helper.any id then errRecord (s2.stageFail 2) .keysNotDerived .none { detail := 0 }
    else if derived != c.publicKey then errRecord (s2.stageFail 2) .keysNotDerived .none { detail := 1 }
    else ({ s2 with sec := { s2.sec with keysDerived := true, publicKey := derived, identity := sha512 derived } } : State).wr F.ID_BOOT.STAGE 3

/-- A link trains (R184). -/
def State.linkTrains (s : State) (link : Nat) : State :=
  if s.linkExists link then
    (s.modLink link (fun l => { l with up := true })).wr F.NET_PCFG.LINK_UP (s.rd F.NET_PCFG.LINK_UP (link / 2) ||| 2 ^ (link % 2)) (link / 2)
  else s

/-- Stage 3: links, stacks, far tier, engines' self-test (R120, R151, R351). -/
def State.stageTraining (s : State) (stacksOk : Bool) (farFailed enginesFailed links : List Nat) (cxlUp : Bool) : State :=
  let s1 := links.foldl State.linkTrains s
  let s2 := if cxlUp && !s1.pins.perstLow then s1.cxlTrain else s1.wr F.TIER_PLACE_STATUS.HOST_DOWN 1
  if !stacksOk then s2.stageFail 3
  else
    let s3 := farFailed.foldl State.failFar s2
    let s4 := (enginesFailed.filter (fun n => decide (n < 192))).foldl (fun s n => s.disableEngine n 1) s3
    s4.wr F.ID_BOOT.STAGE 4

/-- Stage 4: assist and tile kernel, bedrock's translation map, the key store (R143, R244, R255, R364). -/
def State.stageImages (s : State) (codeOk : Bool) (kernel : Bytes) (assistSvn kernelSvn : Nat) (mapOk : Bool) (copies : List Bool) : State :=
  if !codeOk then s.stageFail 4
  else
    let s1 := (((s.loadStaged .assist 3).loadStaged .kernel 4).wr F.SEC_SVN.ASSIST assistSvn).wr F.SEC_SVN.KERNEL kernelSvn
    let s2 := (List.range 8).foldl (fun s n => s.wr F.ID_KERNEL.DIGEST (le kernel (8 * n) 8) n) s1
    let s3 : State := { s2 with sec := { s2.sec with kernel := kernel, digests := mset s2.sec.digests 4 kernel } }
    if !mapOk then s3.stageFail 5
    else
      let s4 := s3.wr F.SEC_STATUS.KEYSTORE_VALID (bitsOf (copies.take 4))
      if !copies.any id then s4.stageFail 6 else s4.countKeys.wr F.ID_BOOT.STAGE 5

/-- STARTUP_STAGE_COMPLETE: the stage in progress ends with its result, and the next begins (R334, R335). -/
def execStartupStageComplete (t : Nat) (r : StageResult) (s : State) : Host.Outcome State Fault Refusal :=
  let s := s.at_ t
  if s.rd F.ID_BOOT.FAIL = 1 || s.ready || !s.power.packageOn || s.pins.moduleResetLow then .next s
  else match s.rd F.ID_BOOT.STAGE, r with
    | 0, .rails => .next (({ s with pins := { s.pins with pwrOk := true } } : State).wr F.ID_BOOT.STAGE 1)
    | 1, .ranger ok svn straps => .next (s.stageRanger ok svn straps)
    | 2, .identity c svn helper key drbg => .next (s.stageIdentity c svn helper key drbg)
    | 3, .training st far eng ls cxl => .next (s.stageTraining st far eng ls cxl)
    | 4, .images ok k a ks m cp => .next (s.stageImages ok k a ks m cp)
    | 5, .restore ok => .next (s.restoreAll ok)
    | _, _ => .next s

/-! ### Power input (R346, R348) -/

/-- VIN_MATED: the input has been at or above 46.0 V for `ms` milliseconds; after 100 the input switch closes and the hold-up capacitance
charges (R346). -/
def execVinMated (t mv ms : Nat) (s : State) : Host.Outcome State Fault Refusal :=
  if absoluteMv < mv then .fault .beyondAbsoluteLimits
  else
    let s := s.at_ t
    if mv < 46000 || ms < 100 || s.power.charging || (s.power.switchClosed && s.rd F.ID_BOOT.STAGE != 0) then .next s
    else .next { s with power := { s.power with switchClosed := true, charging := true } }

/-- HOLDUP_CHARGED: the charge is complete and power-on starts (R346). -/
def execHoldupCharged (t : Nat) (s : State) : Host.Outcome State Fault Refusal :=
  let s := s.at_ t
  if s.power.charging then .next ({ s with power := { s.power with charging := false } } : State).powerUp else .next s

/-- OVER_VOLTAGE: the raw input exceeds 60.0 V and the input switch opens (R348). -/
def execOverVoltage (t mv : Nat) (s : State) : Host.Outcome State Fault Refusal :=
  if absoluteMv < mv then .fault .beyondAbsoluteLimits
  else
    let s := s.at_ t
    if mv ≤ 60000 then .next s else .next { s with power := { s.power with switchClosed := false } }

/-- OVER_VOLTAGE_CLEAR: 1 ms after the raw input has fallen to 59.0 V or below, the input switch closes again (R348). -/
def execOverVoltageClear (t mv : Nat) (s : State) : Host.Outcome State Fault Refusal :=
  let s := s.at_ t
  if 59000 < mv then .next s else .next { s with power := { s.power with switchClosed := true } }

end Sys2Proof.Machine
end

