-- ==== Sys2Proof/Machine/Ranger.lean ====
section
/-! DEFINITION. Ranger: sessions, roles, records and events, restarts, anchors, images, evidence, debug requests; and weathering
(15_ranger.md, R318-R331; 14_power_health.md, R316). -/
namespace Sys2Proof.Machine

/-! ### Sessions and roles (R320-R322, Table 15.1) -/

/-- Ranger's own time in ns. -/
def State.rangerNow (s : State) : Nat := (s.ranger.clock + s.now).toNat

/-- Change Ranger. -/
def State.modRanger (s : State) (f : Ranger → Ranger) : State := { s with ranger := f s.ranger }

/-- Rank of a role: a higher one has every right of a lower one (Table 15.1). -/
def roleRank : Role → Nat
  | .auditor => 0
  | .operator => 1
  | .administrator => 2

/-- The session with a number, when Ranger serves. -/
def State.session? (s : State) (id : Nat) : Option Session :=
  if s.rangerUp then s.ranger.sessions.find? (fun x => x.id == id) else none

/-- A request on a session is traffic (R322). -/
def State.touchSession (s : State) (id : Nat) : State :=
  let now := s.rangerNow
  s.modRanger (fun r => { r with sessions := lmod r.sessions (fun x => x.id == id) (fun x => { x with lastAt := now }) })

/-- A request of a session that needs a role: refused below it; no session, no effect. -/
def State.asRole (s : State) (id : Nat) (need : Role) (f : State → State) : State :=
  match s.session? id with
  | none => s
  | some x =>
    let s1 := s.touchSession id
    if roleRank x.role < roleRank need then s1.emit .refusedRequest else f s1

/-- Close a session: its event streams end with it (R324). -/
def State.closeSession (s : State) (id : Nat) : State :=
  s.modRanger (fun r => { r with sessions := r.sessions.filter (fun x => x.id != id), subs := r.subs.filter (fun u => u.push || u.owner != id) })

/-- Sessions Ranger holds at once (R322), anchors and subscriptions it holds (R321, R324). -/
def maxSessions : Nat := 16
def maxAnchors : Nat := 8
def maxSubs : Nat := 8

/-- The least-privileged role of the installed anchors a certificate chains to (R321). -/
def Ranger.roleOf (r : Ranger) (chain : List Nat) : Option Role :=
  let roles := (r.anchors.filter (fun a => chain.contains a.id)).map Anchor.role
  match roles with
  | [] => none
  | x :: xs => some (xs.foldl (fun m y => if roleRank y < roleRank m then y else m) x)

/-- TLS_SESSION: a TCP connection on port 443 opens a session, or does not (R319-R322). -/
def execTlsSession (t : Nat) (o : TlsOffer) (s : State) : Host.Outcome State Fault Refusal :=
  let s := s.at_ t
  if !s.rangerUp || o.tcpPort != 443 then .next s
  else if maxSessions ≤ s.ranger.sessions.length then .next (s.modRanger (fun r => { r with refused := r.refused + 1 }))
  else if !o.tls13 || !o.parameters || o.refusedFeature then .next s
  else match s.ranger.roleOf o.anchors with
    | none => .next (s.emit .tlsAlert)
    | some role =>
      let now := s.rangerNow
      .next (s.modRanger (fun r => { r with sessions := r.sessions ++ [⟨r.nextSession, role, now, o.subject⟩], nextSession := r.nextSession + 1 }))

/-- An hour, in ns. -/
def hourNs : Nat := 3600 * 1000000000

/-- SESSION_IDLE_TIMEOUT: an hour without traffic (R322). -/
def execSessionIdleTimeout (t session : Nat) (s : State) : Host.Outcome State Fault Refusal :=
  let s := s.at_ t
  match s.session? session with
  | none => .next s
  | some x => if x.lastAt + hourNs ≤ s.rangerNow then .next (s.closeSession session) else .next s

/-! ### Records and events (R323-R325, R327) -/

/-- RANGER_TAKE_RECORD: the oldest record of the node's buffer goes to Ranger's log, and over MCTP when its severity is 2 or 3 (R323,
R327). -/
def execRangerTakeRecord (t : Nat) (s : State) : Host.Outcome State Fault Refusal :=
  let s := s.at_ t
  match s.health.buffer with
  | [] => .next s
  | r :: rest =>
    if !s.rangerUp then .next s
    else
      let s1 := ({ s with health := { s.health with buffer := rest } } : State).logRecord r
      .next (if 2 ≤ r.severity then s1.emit (.alertOverMctp r.kind) else s1)

/-- The next record of the log a subscription selects, from its position on: its place and itself (R324). -/
def Ranger.nextFor (r : Ranger) (u : Subscription) : Option (Nat × ErrorRecord) :=
  (((List.range r.log.length).zip r.log).drop u.position).find? (fun x => decide (u.minSeverity ≤ x.2.severity))

/-- Change a subscription. -/
def State.modSub (s : State) (id : Nat) (f : Subscription → Subscription) : State :=
  s.modRanger (fun r => { r with subs := lmod r.subs (fun u => u.id == id) f })

/-- Try to deliver the next record of a subscription: `ok` says whether the POST, or the stream, took it. -/
def State.deliverEvent (s : State) (u : Subscription) (ok : Bool) : State :=
  match s.ranger.nextFor u with
  | none => s.modSub u.id (fun v => { v with position := s.ranger.log.length })
  | some (i, r) =>
    if ok then (s.emit (.event u.id r.seq)).modSub u.id (fun v => { v with position := i + 1, failingSince := none })
    else if u.push then s.modSub u.id (fun v => { v with failingSince := some (v.failingSince.getD s.rangerNow), failedAt := s.rangerNow })
    else s.modRanger (fun r => { r with subs := r.subs.filter (fun v => v.id != u.id) })

/-- A subscription that delivers now: known, not suspended, Ranger serving. -/
def State.liveSub (s : State) (id : Nat) : Option Subscription :=
  if s.rangerUp then s.ranger.subs.find? (fun u => u.id == id && !u.suspended) else none

/-- EVENT_DELIVERY: the next record, in SEQ order, to one subscription; after a failed POST it goes by POST_RETRY (R324). -/
def execEventDelivery (t sub : Nat) (ok : Bool) (s : State) : Host.Outcome State Fault Refusal :=
  let s := s.at_ t
  match s.liveSub sub with
  | none => .next s
  | some u => if u.failingSince.isSome then .next s else .next (s.deliverEvent u ok)

/-- POST_RETRY: a failed POST goes again, 1 s later (R324). -/
def execPostRetry (t sub : Nat) (ok : Bool) (s : State) : Host.Outcome State Fault Refusal :=
  let s := s.at_ t
  match s.liveSub sub with
  | none => .next s
  | some u =>
    if u.failingSince.isSome && decide (u.failedAt + 1000000000 ≤ s.rangerNow) then .next (s.deliverEvent u ok) else .next s

/-- SUBSCRIPTION_SUSPEND: a push subscription that has failed for an hour keeps its position and is suspended (R324). -/
def execSubscriptionSuspend (t sub : Nat) (s : State) : Host.Outcome State Fault Refusal :=
  let s := s.at_ t
  match s.liveSub sub with
  | none => .next s
  | some u => match u.failingSince with
    | none => .next s
    | some a => if u.push && decide (a + hourNs ≤ s.rangerNow) then .next (s.modSub sub (fun v => { v with suspended := true })) else .next s

/-- EVENT_SUBSCRIPTION_CREATE: a client's subscription, of 8 in all, from the next record on (R324, Table 15.1). -/
def execEventSubscriptionCreate (t session : Nat) (push : Bool) (minSeverity : Nat) (cert : Bytes) (s : State) :
    Host.Outcome State Fault Refusal :=
  .next ((s.at_ t).asRole session .auditor (fun s =>
    if maxSubs ≤ s.ranger.subs.length || 3 < minSeverity || (push && cert.isEmpty) then s.emit .refusedRequest
    else s.wakeUp.modRanger (fun r => { r with
      subs := r.subs ++ [⟨r.nextSub, session, push, minSeverity, cert, r.log.length, none, 0, false⟩], nextSub := r.nextSub + 1 })))

/-! ### Restarts (R330) -/

/-- Ranger restarts: every session ends; at the third restart within an hour it stays in its recovery state. A staged image of its own
runs from now on (R330, R331). -/
def State.restartRanger (s : State) : State :=
  if !s.rangerUp then s
  else
    let now := s.rangerNow
    let restarts := s.ranger.restarts.filter (fun a => decide (now < a + hourNs)) ++ [now]
    let s1 := match s.ranger.staged.find? (fun x => x.1 == ImageKind.ranger) with
      | none => s
      | some x => (s.loadStaged .ranger 1).wr F.SEC_SVN.RANGER (x.2.1 % 65536)
    s1.modRanger (fun r => { r with
      sessions := [], subs := r.subs.filter Subscription.push, restarts := restarts, recovery := decide (3 ≤ restarts.length) })

/-- MANAGER_RESET: Manager.Reset with ForceRestart (R330, Table 15.1). -/
def execManagerReset (t session : Nat) (s : State) : Host.Outcome State Fault Refusal :=
  .next ((s.at_ t).asRole session .operator (fun s => s.wakeUp.restartRanger))

/-- RANGER_WATCHDOG: not serviced for 1 s (R330). -/
def execRangerWatchdog (t : Nat) (s : State) : Host.Outcome State Fault Refusal := .next (s.at_ t).restartRanger

/-- RANGER_SELF_TEST: a failed self-test restarts Ranger (R330). -/
def execRangerSelfTest (t : Nat) (pass : Bool) (s : State) : Host.Outcome State Fault Refusal :=
  let s := s.at_ t
  if pass then .next s else .next s.restartRanger

/-- RANGER_ECC_ERROR: a detected uncorrectable error restarts Ranger (R330). -/
def execRangerEccError (t : Nat) (s : State) : Host.Outcome State Fault Refusal :=
  let s := s.at_ t
  .next s.restartRanger

/-- NODE_RESET: Chassis.Reset with PowerCycle; start-up begins at stage 2, Ranger runs on (R332, Table 16.1). -/
def execNodeReset (t session : Nat) (s : State) : Host.Outcome State Fault Refusal :=
  .next ((s.at_ t).asRole session .operator (fun s => s.nodeWide 4 2 true true))

/-! ### Anchors and certificates (R320, R321, R326, R327) -/

/-- Add a trust anchor. -/
def State.addAnchor (s : State) (role : Role) (cert : Bytes) : State :=
  s.modRanger (fun r => { r with anchors := r.anchors ++ [⟨r.nextAnchor, role, cert⟩], nextAnchor := r.nextAnchor + 1 })

/-- TRUST_ANCHOR_INSTALL: by an Administrator, up to 8 anchors (R321). -/
def execTrustAnchorInstall (t session : Nat) (role : Role) (cert : Bytes) (s : State) : Host.Outcome State Fault Refusal :=
  .next ((s.at_ t).asRole session .administrator (fun s =>
    if maxAnchors ≤ s.ranger.anchors.length then s.emit .refusedRequest else s.wakeUp.addAnchor role cert))

/-- TRUST_ANCHOR_REMOVE: by an Administrator; HTTP 409 when no Administrator anchor would be left (R321). -/
def execTrustAnchorRemove (t session anchor : Nat) (s : State) : Host.Outcome State Fault Refusal :=
  .next ((s.at_ t).asRole session .administrator (fun s =>
    let rest := s.ranger.anchors.filter (fun a => a.id != anchor)
    if !s.ranger.anchors.any (fun a => a.id == anchor) then s.emit .refusedRequest
    else if rest.any (fun a => a.role == .administrator) then s.wakeUp.modRanger (fun r => { r with anchors := rest })
    else s.emit (.http 409)))

/-- FIRST_ANCHOR_INSTALL: the vendor-defined MCTP command; refused once any anchor exists (R321, R327). -/
def execFirstAnchorInstall (t : Nat) (role : Role) (cert : Bytes) (s : State) : Host.Outcome State Fault Refusal :=
  let s := s.at_ t
  if !s.rangerUp then .next s
  else if s.ranger.anchors.isEmpty then .next (s.addAnchor role cert)
  else .next (s.emit .refusedRequest)

/-- CERTIFICATE_INSTALL: by an Administrator, for the identity key only: a server certificate beside the device's own, or the chain of SPDM
slot 1 (R320, R326). -/
def execCertificateInstall (t session : Nat) (spdmSlot1 forIdentityKey : Bool) (cert : Bytes) (s : State) :
    Host.Outcome State Fault Refusal :=
  .next ((s.at_ t).asRole session .administrator (fun s =>
    if !forIdentityKey then s.emit .refusedRequest
    else if spdmSlot1 then s.wakeUp.modRanger (fun r => { r with spdmSlot1 := some cert })
    else s.wakeUp.modRanger (fun r => { r with certificates := r.certificates ++ [cert] })))

/-! ### Evidence (R260, R326) -/

/-- Block 7 for one context (Table 11.8). -/
def ctxEvidence (n : Nat) (x : Ctx) : Bytes :=
  leBytes 2 n ++ leBytes 1 x.code ++ x.tenant ++ leBytes 1 (b2n x.hdmRead) ++ x.issuer ++ (x.geodes.map (fun g => g.2.digest)).flatten ++
    (x.programs.map (fun p => (p.2.image.map ProgImage.digest).getD [])).flatten

/-- Digest of a measured image: the one loaded since an update, or what manufacture left. -/
def State.imageDigest (s : State) (block : Nat) : Bytes := (mget s.sec.digests block).getD (Config.measurement block)

/-- The measurement blocks (Table 11.8). -/
def State.measurements (s : State) : List Bytes :=
  let svn (f : Field) : Bytes := leBytes 2 (s.rd f)
  [Config.measurement 0, s.imageDigest 1 ++ svn F.SEC_SVN.RANGER, s.imageDigest 2 ++ svn F.SEC_SVN.SECURITY,
   s.imageDigest 3 ++ svn F.SEC_SVN.ASSIST, s.imageDigest 4 ++ svn F.SEC_SVN.KERNEL, Config.measurement 5, Config.measurement 6,
   ((s.ctxs.filter (fun c => c.2.phase != .free)).map (fun c => ctxEvidence c.1 c.2)).flatten]

/-- SPDM_MEASUREMENTS: the blocks, signed with the identity key over the requester's nonce; also in Ranger's recovery state (R260, R326,
R330). -/
def execSpdmMeasurements (t : Nat) (nonce : Bytes) (s : State) : Host.Outcome State Fault Refusal :=
  let s := s.at_ t
  if !(s.ranger.running || s.ranger.recovery) || !s.sec.keysDerived then .next s
  else
    let (x, s1) := s.draw
    .next (s1.emit (.spdm nonce s.measurements (Config.spdmSignature x (nonce ++ s.measurements.flatten))))

/-! ### Images and settings (R318, R331) -/

/-- UPDATE_IMAGE: by an Administrator; an image that fails R255 is refused with HTTP 400 (R331). -/
def execUpdateImage (t session : Nat) (kind : ImageKind) (svn : Nat) (digest : Bytes) (sigOk : Bool) (s : State) :
    Host.Outcome State Fault Refusal :=
  .next ((s.at_ t).asRole session .administrator (fun s =>
    if !sigOk then s.emit (.http 400)
    else s.wakeUp.modRanger (fun r => { r with staged := r.staged.filter (fun x => x.1 != kind) ++ [(kind, svn, digest)] })))

/-- NETWORK_PROTOCOL_WRITE: by an Administrator; addresses, gateway and DHCP settings, at once (R318). -/
def execNetworkProtocolWrite (t session : Nat) (ip6 ip4 gateway : Bytes) (dhcp6 dhcp4 : Bool) (s : State) :
    Host.Outcome State Fault Refusal :=
  .next ((s.at_ t).asRole session .administrator (fun s =>
    s.wakeUp.modRanger (fun r => { r with ip6 := ip6, ip4 := ip4, gateway := gateway, dhcp6 := dhcp6, dhcp4 := dhcp4 })))

/-! ### Debug and Profiling (R328, R329) -/

/-- What a Debug or Profiling request does once its role suffices. -/
def State.debugOp (s : State) (op : DebugOp) : State := match op with
  | .read off => if off / 4096 = 9 && !(regFields off).isEmpty then s.emit (.debugValue (s.readDbg off)) else s.emit .refusedRequest
  | .write off v => s.debugWrite off v
  | .counters => s.emit (.counters s.allCounters)

/-- The role a Debug or Profiling request needs (Table 15.1). -/
def debugRole : DebugOp → Role
  | .write _ _ => .administrator
  | _ => .operator

/-- DEBUG_REQUEST: logged with its client, then served (R328, R329). -/
def execDebugRequest (t session : Nat) (op : DebugOp) (s : State) : Host.Outcome State Fault Refusal :=
  let s := s.at_ t
  match s.session? session with
  | none => .next s
  | some x =>
    let s1 := s.modRanger (fun r => { r with audit := r.audit ++ [(s.rangerNow, x.subject)] })
    .next (s1.asRole session (debugRole op) (fun s => s.wakeUp.debugOp op))

/-! ### Weathering (R316, R325, Table 14.6) -/

/-- Kind, unit and index of a sample (Table 14.6), before the clamp. -/
def weatherIndex : WeatherSample → Nat × Nat × Nat
  | .stackChannel n c m => (0, n, max (1000 * c / 4000) (1000 * (1000000 - m) / 1000000))
  | .nandChannel n pe ppb d => (1, n, max (max (1000 * pe / 3000) (1000 * ppb / 4000000)) (1000 * d / 10000))
  | .halfColumn n rise => (2, n, 1000 * rise / 60000)
  | .lane n e e0 emin => (3, n, if e0 ≤ emin then 1000 else 1000 * (e0 - e) / (e0 - emin))
  | .phase n esr ron => (4, n, max (esr - 1000) (2 * (ron - 1000)))

/-- A weathering report event: every unit's index, the module index, the end-of-life days (R325, R316). -/
def State.reportWeather (s : State) : State :=
  if !s.rangerUp then s
  else
    let days := s.health.latest.filterMap (fun x => (s.eolDay x.1).map (fun d => (x.1, d)))
    (s.emit (.report s.health.latest s.moduleIndex days)).reportEvent weatheringEvent

/-- WEATHERING_REPORT: every day at 00:00 TAI (R325). -/
def execWeatheringReport (t : Nat) (s : State) : Host.Outcome State Fault Refusal := .next (s.at_ t).reportWeather

/-- WEATHERING_SAMPLE: a unit's index on a TAI day; samples are kept for 30 days; a report goes out when the module index crosses a
multiple of 100 (R316, R325). -/
def execWeatheringSample (t day : Nat) (w : WeatherSample) (s : State) : Host.Outcome State Fault Refusal :=
  let s := s.at_ t
  let (kind, n, raw) := weatherIndex w
  if weatherUnits kind ≤ n then .next s
  else
    let i := min raw 1000
    let key := kind * 256 + n
    let before := s.moduleIndex
    let kept := s.health.weather.filter (fun x => decide (day < x.2.1 + 30)) ++ [(key, day, i)]
    let s1 : State := { s with health := { s.health with weather := kept, latest := mset s.health.latest key i } }
    .next (if before / 100 = s1.moduleIndex / 100 then s1 else s1.reportWeather)

end Sys2Proof.Machine
end

