-- ==== Sys2Proof/Machine/Dispatch.lean ====
section
/-! DEFINITION. The dispatch: one arm per command of spec/opcode_table.json, one direct call of its meaning. -/
namespace Sys2Proof.Machine

/-- The effect of a command on everything but the queue. -/
def exec (i : Instr) (s : State) : Host.Outcome State Fault Refusal :=
  match i with
  | .tickBoundary t b => Sys2Proof.Machine.execTickBoundary t b s
  | .itineraryPublished t => Sys2Proof.Machine.execItineraryPublished t s
  | .taskComplete t u o => Sys2Proof.Machine.execTaskComplete t u o s
  | .windowNominalEnd t u c => Sys2Proof.Machine.execWindowNominalEnd t u c s
  | .gatedTaskReleased t u task => Sys2Proof.Machine.execGatedTaskReleased t u task s
  | .operandsLanded t req block data => Sys2Proof.Machine.execOperandsLanded t req block data s
  | .queryBlockComplete t req block => Sys2Proof.Machine.execQueryBlockComplete t req block s
  | .anchorScanComplete t req => Sys2Proof.Machine.execAnchorScanComplete t req s
  | .refreshSlot t engine => Sys2Proof.Machine.execRefreshSlot t engine s
  | .makeupRefreshSlot t engine => Sys2Proof.Machine.execMakeupRefreshSlot t engine s
  | .refreshDebtRepay t engine => Sys2Proof.Machine.execRefreshDebtRepay t engine s
  | .stackAbove85C t stack => Sys2Proof.Machine.execStackAbove85C t stack s
  | .tickPeriodWrite t v => Sys2Proof.Machine.execTickPeriodWrite t v s
  | .tickWindowWrite t v => Sys2Proof.Machine.execTickWindowWrite t v s
  | .tickAlignWrite t v => Sys2Proof.Machine.execTickAlignWrite t v s
  | .tickOriginWrite t v => Sys2Proof.Machine.execTickOriginWrite t v s
  | .arm t => Sys2Proof.Machine.execArm t s
  | .start t => Sys2Proof.Machine.execStart t s
  | .syncInPulse t widthNs => Sys2Proof.Machine.execSyncInPulse t widthNs s
  | .syncInTimeout t => Sys2Proof.Machine.execSyncInTimeout t s
  | .ptpLockLost t => Sys2Proof.Machine.execPtpLockLost t s
  | .referenceReturned t offsetNs => Sys2Proof.Machine.execReferenceReturned t offsetNs s
  | .thermalEmergency t hc temp => Sys2Proof.Machine.execThermalEmergency t hc temp s
  | .stackHot t stack temp => Sys2Proof.Machine.execStackHot t stack temp s
  | .thermalTrip t temp => Sys2Proof.Machine.execThermalTrip t temp s
  | .attend t req => Sys2Proof.Machine.execAttend t req s
  | .attendChunk t req => Sys2Proof.Machine.execAttendChunk t req s
  | .append t req => Sys2Proof.Machine.execAppend t req s
  | .seal t req => Sys2Proof.Machine.execSeal t req s
  | .fork t req => Sys2Proof.Machine.execFork t req s
  | .trim t req => Sys2Proof.Machine.execTrim t req s
  | .release t req => Sys2Proof.Machine.execRelease t req s
  | .hint t req => Sys2Proof.Machine.execHint t req s
  | .exportPages t req => Sys2Proof.Machine.execExportPages t req s
  | .importPages t req parcels => Sys2Proof.Machine.execImportPages t req parcels s
  | .fence t req => Sys2Proof.Machine.execFence t req s
  | .fenceComplete t req => Sys2Proof.Machine.execFenceComplete t req s
  | .fenceCancel t req => Sys2Proof.Machine.execFenceCancel t req s
  | .probe t req => Sys2Proof.Machine.execProbe t req s
  | .demotionComplete t ctx page bad => Sys2Proof.Machine.execDemotionComplete t ctx page bad s
  | .bell t p => Sys2Proof.Machine.execBell t p s
  | .ringDbWrite t n v => Sys2Proof.Machine.execRingDbWrite t n v s
  | .ringEnable t n v => Sys2Proof.Machine.execRingEnable t n v s
  | .ringDisable t n v => Sys2Proof.Machine.execRingDisable t n v s
  | .descriptorFetched t ring index entry => Sys2Proof.Machine.execDescriptorFetched t ring index entry s
  | .write t p => Sys2Proof.Machine.execWrite t p s
  | .readReq t p => Sys2Proof.Machine.execReadReq t p s
  | .readResp t p => Sys2Proof.Machine.execReadResp t p s
  | .readRespRerequest t slot msg => Sys2Proof.Machine.execReadRespRerequest t slot msg s
  | .atomicAdd t p => Sys2Proof.Machine.execAtomicAdd t p s
  | .atomicCas t p => Sys2Proof.Machine.execAtomicCas t p s
  | .releaseMessageExecute t slot msg => Sys2Proof.Machine.execReleaseMessageExecute t slot msg s
  | .sack t p => Sys2Proof.Machine.execSack t p s
  | .sackDelayExpiry t slot => Sys2Proof.Machine.execSackDelayExpiry t slot s
  | .nak t p => Sys2Proof.Machine.execNak t p s
  | .policed t p => Sys2Proof.Machine.execPoliced t p s
  | .rtoExpiry t slot path => Sys2Proof.Machine.execRtoExpiry t slot path s
  | .deadTimer t slot => Sys2Proof.Machine.execDeadTimer t slot s
  | .pathProbe t slot path => Sys2Proof.Machine.execPathProbe t slot path s
  | .failedSlotRecover t slot => Sys2Proof.Machine.execFailedSlotRecover t slot s
  | .hello t h => Sys2Proof.Machine.execHello t h s
  | .accept t h => Sys2Proof.Machine.execAccept t h s
  | .finish t h => Sys2Proof.Machine.execFinish t h s
  | .helloResend t slot => Sys2Proof.Machine.execHelloResend t slot s
  | .rekey t p => Sys2Proof.Machine.execRekey t p s
  | .rekeyAck t p => Sys2Proof.Machine.execRekeyAck t p s
  | .keyUpdateTrigger t slot => Sys2Proof.Machine.execKeyUpdateTrigger t slot s
  | .previousKeyExpiry t slot => Sys2Proof.Machine.execPreviousKeyExpiry t slot s
  | .close t slot received reason => Sys2Proof.Machine.execClose t slot received reason s
  | .closeWaitEnd t slot => Sys2Proof.Machine.execCloseWaitEnd t slot s
  | .regionAdv t p => Sys2Proof.Machine.execRegionAdv t p s
  | .regionWd t p => Sys2Proof.Machine.execRegionWd t p s
  | .regionWdDone t slot rkey => Sys2Proof.Machine.execRegionWdDone t slot rkey s
  | .linkDown t link => Sys2Proof.Machine.execLinkDown t link s
  | .linkUp t link => Sys2Proof.Machine.execLinkUp t link s
  | .connLoad t ctl mem => Sys2Proof.Machine.execConnLoad t ctl mem s
  | .connRemove t ctl => Sys2Proof.Machine.execConnRemove t ctl s
  | .regionRegister t ctl => Sys2Proof.Machine.execRegionRegister t ctl s
  | .regionRevoke t ctl => Sys2Proof.Machine.execRegionRevoke t ctl s
  | .revocationAbandon t index => Sys2Proof.Machine.execRevocationAbandon t index s
  | .revocationComplete t index => Sys2Proof.Machine.execRevocationComplete t index s
  | .subreq t p => Sys2Proof.Machine.execSubreq t p s
  | .partialMsg t p => Sys2Proof.Machine.execPartialMsg t p s
  | .leaf t p => Sys2Proof.Machine.execLeaf t p s
  | .journal t p => Sys2Proof.Machine.execJournal t p s
  | .move t p => Sys2Proof.Machine.execMove t p s
  | .moveAck t p => Sys2Proof.Machine.execMoveAck t p s
  | .moveCommitMsg t p => Sys2Proof.Machine.execMoveCommitMsg t p s
  | .moveCopyComplete t moveId bad => Sys2Proof.Machine.execMoveCopyComplete t moveId bad s
  | .pageOp t p => Sys2Proof.Machine.execPageOp t p s
  | .pageOpDone t p => Sys2Proof.Machine.execPageOpDone t p s
  | .inventory t p => Sys2Proof.Machine.execInventory t p s
  | .inventoryResponse t p => Sys2Proof.Machine.execInventoryResponse t p s
  | .seCommandStart t engine => Sys2Proof.Machine.execSeCommandStart t engine s
  | .seCommandComplete t engine outcome detail => Sys2Proof.Machine.execSeCommandComplete t engine outcome detail s
  | .seWatchdog t engine => Sys2Proof.Machine.execSeWatchdog t engine s
  | .seSelfTest t v => Sys2Proof.Machine.execSeSelfTest t v s
  | .seSelfTestDone t equal => Sys2Proof.Machine.execSeSelfTestDone t equal s
  | .tierSeMaskWrite t n v => Sys2Proof.Machine.execTierSeMaskWrite t n v s
  | .tierSeFaultClear t n v => Sys2Proof.Machine.execTierSeFaultClear t n v s
  | .hdmRead t addr len => Sys2Proof.Machine.execHdmRead t addr len s
  | .hdmWrite t addr data => Sys2Proof.Machine.execHdmWrite t addr data s
  | .leaseGap t engine => Sys2Proof.Machine.execLeaseGap t engine s
  | .snoopComplete t ctx page => Sys2Proof.Machine.execSnoopComplete t ctx page s
  | .farReadTimeout t tier ctx page => Sys2Proof.Machine.execFarReadTimeout t tier ctx page s
  | .farChannelFail t channel => Sys2Proof.Machine.execFarChannelFail t channel s
  | .hostLinkDown t => Sys2Proof.Machine.execHostLinkDown t s
  | .hostLinkUp t width rate => Sys2Proof.Machine.execHostLinkUp t width rate s
  | .bedrockGc t => Sys2Proof.Machine.execBedrockGc t s
  | .readDisturbRelocate t block => Sys2Proof.Machine.execReadDisturbRelocate t block s
  | .blockRetire t block spare => Sys2Proof.Machine.execBlockRetire t block spare s
  | .progLoad t ctl mem => Sys2Proof.Machine.execProgLoad t ctl mem s
  | .progUnload t ctl => Sys2Proof.Machine.execProgUnload t ctl s
  | .ctxCreate t ctl mem => Sys2Proof.Machine.execCtxCreate t ctl mem s
  | .ctxLoadProfile t ctl mem => Sys2Proof.Machine.execCtxLoadProfile t ctl mem s
  | .ctxTeardown t ctl => Sys2Proof.Machine.execCtxTeardown t ctl s
  | .teardownClose t ctx => Sys2Proof.Machine.execTeardownClose t ctx s
  | .keyZeroise t ctx => Sys2Proof.Machine.execKeyZeroise t ctx s
  | .tombstoneDurable t ctx => Sys2Proof.Machine.execTombstoneDurable t ctx s
  | .scrubComplete t ctx => Sys2Proof.Machine.execScrubComplete t ctx s
  | .geodeLoad t ctl mem => Sys2Proof.Machine.execGeodeLoad t ctl mem s
  | .geodeUnload t ctl => Sys2Proof.Machine.execGeodeUnload t ctl s
  | .ctxClassWrite t v => Sys2Proof.Machine.execCtxClassWrite t v s
  | .assayCompare t assay diff => Sys2Proof.Machine.execAssayCompare t assay diff s
  | .assayAttribution t assay equalsFirst equalsSecond => Sys2Proof.Machine.execAssayAttribution t assay equalsFirst equalsSecond s
  | .healthAssayWrite t v => Sys2Proof.Machine.execHealthAssayWrite t v s
  | .healthTilefClear t n v => Sys2Proof.Machine.execHealthTilefClear t n v s
  | .compStage t ctl mem => Sys2Proof.Machine.execCompStage t ctl mem s
  | .compWithdraw t ctl => Sys2Proof.Machine.execCompWithdraw t ctl s
  | .mapActivation t => Sys2Proof.Machine.execMapActivation t s
  | .drainTimeout t => Sys2Proof.Machine.execDrainTimeout t s
  | .rebuildPageCommit t ctx conv layer head index => Sys2Proof.Machine.execRebuildPageCommit t ctx conv layer head index s
  | .isolationTimeout t => Sys2Proof.Machine.execIsolationTimeout t s
  | .suspectWindowEnd t => Sys2Proof.Machine.execSuspectWindowEnd t s
  | .powerExitComplete t => Sys2Proof.Machine.execPowerExitComplete t s
  | .supplyWarning t mv => Sys2Proof.Machine.execSupplyWarning t mv s
  | .flushAcknowledged t => Sys2Proof.Machine.execFlushAcknowledged t s
  | .supplyRecovery t => Sys2Proof.Machine.execSupplyRecovery t s
  | .brownout t mv => Sys2Proof.Machine.execBrownout t mv s
  | .powerAverage t watts => Sys2Proof.Machine.execPowerAverage t watts s
  | .weatheringSample t day w => Sys2Proof.Machine.execWeatheringSample t day w s
  | .weatheringReport t => Sys2Proof.Machine.execWeatheringReport t s
  | .rangerTakeRecord t => Sys2Proof.Machine.execRangerTakeRecord t s
  | .eventDelivery t sub ok => Sys2Proof.Machine.execEventDelivery t sub ok s
  | .postRetry t sub ok => Sys2Proof.Machine.execPostRetry t sub ok s
  | .subscriptionSuspend t sub => Sys2Proof.Machine.execSubscriptionSuspend t sub s
  | .tlsSession t o => Sys2Proof.Machine.execTlsSession t o s
  | .sessionIdleTimeout t session => Sys2Proof.Machine.execSessionIdleTimeout t session s
  | .managerReset t session => Sys2Proof.Machine.execManagerReset t session s
  | .nodeReset t session => Sys2Proof.Machine.execNodeReset t session s
  | .rangerWatchdog t => Sys2Proof.Machine.execRangerWatchdog t s
  | .rangerSelfTest t pass => Sys2Proof.Machine.execRangerSelfTest t pass s
  | .rangerEccError t => Sys2Proof.Machine.execRangerEccError t s
  | .trustAnchorInstall t session role cert => Sys2Proof.Machine.execTrustAnchorInstall t session role cert s
  | .trustAnchorRemove t session anchor => Sys2Proof.Machine.execTrustAnchorRemove t session anchor s
  | .firstAnchorInstall t role cert => Sys2Proof.Machine.execFirstAnchorInstall t role cert s
  | .spdmMeasurements t nonce => Sys2Proof.Machine.execSpdmMeasurements t nonce s
  | .updateImage t session kind svn digest sigOk => Sys2Proof.Machine.execUpdateImage t session kind svn digest sigOk s
  | .networkProtocolWrite t session ip6 ip4 gateway dhcp6 dhcp4 => Sys2Proof.Machine.execNetworkProtocolWrite t session ip6 ip4 gateway dhcp6 dhcp4 s
  | .debugRequest t session op => Sys2Proof.Machine.execDebugRequest t session op s
  | .traceArm t v => Sys2Proof.Machine.execTraceArm t v s
  | .traceEnd t => Sys2Proof.Machine.execTraceEnd t s
  | .dbgRead t v => Sys2Proof.Machine.execDbgRead t v s
  | .dbgUnitTakeOut t v => Sys2Proof.Machine.execDbgUnitTakeOut t v s
  | .dbgUnitReturn t v => Sys2Proof.Machine.execDbgUnitReturn t v s
  | .dbgFreqLimitWrite t v => Sys2Proof.Machine.execDbgFreqLimitWrite t v s
  | .secLockSet t v => Sys2Proof.Machine.execSecLockSet t v s
  | .rwlWrite t offset v => Sys2Proof.Machine.execRwlWrite t offset v s
  | .drbgFail t => Sys2Proof.Machine.execDrbgFail t s
  | .registerWrite t offset size v => Sys2Proof.Machine.execRegisterWrite t offset size v s
  | .powerOn t mv => Sys2Proof.Machine.execPowerOn t mv s
  | .moduleReset t samples => Sys2Proof.Machine.execModuleReset t samples s
  | .cxlHotReset t perst => Sys2Proof.Machine.execCxlHotReset t perst s
  | .flr t => Sys2Proof.Machine.execFlr t s
  | .perstNRelease t => Sys2Proof.Machine.execPerstNRelease t s
  | .startupStageComplete t r => Sys2Proof.Machine.execStartupStageComplete t r s
  | .vinMated t mv ms => Sys2Proof.Machine.execVinMated t mv ms s
  | .holdupCharged t => Sys2Proof.Machine.execHoldupCharged t s
  | .overVoltage t mv => Sys2Proof.Machine.execOverVoltage t mv s
  | .overVoltageClear t mv => Sys2Proof.Machine.execOverVoltageClear t mv s
  | .stackChannelFail t channel => Sys2Proof.Machine.execStackChannelFail t channel s
  | .moduleResetRelease t => Sys2Proof.Machine.execModuleResetRelease t s
  | .inputSample t mv => Sys2Proof.Machine.execInputSample t mv s
  | .ptpLockAcquired t ptpNs => Sys2Proof.Machine.execPtpLockAcquired t ptpNs s
  | .entropyHealthPass t => Sys2Proof.Machine.execEntropyHealthPass t s
  | .bedrockBlockErased t block => Sys2Proof.Machine.execBedrockBlockErased t block s
  | .reorderAllowanceExpiry t slot msg offset => Sys2Proof.Machine.execReorderAllowanceExpiry t slot msg offset s
  | .operationBucketRefill t slot => Sys2Proof.Machine.execOperationBucketRefill t slot s
  | .pfcFrame t port priority pause => Sys2Proof.Machine.execPfcFrame t port priority pause s
  | .neighborDiscoveryFrame t link f => Sys2Proof.Machine.execNeighborDiscoveryFrame t link f s
  | .certificateInstall t session spdmSlot1 forIdentityKey cert => Sys2Proof.Machine.execCertificateInstall t session spdmSlot1 forIdentityKey cert s
  | .eventSubscriptionCreate t session push minSeverity cert => Sys2Proof.Machine.execEventSubscriptionCreate t session push minSeverity cert s

end Sys2Proof.Machine
end

