-- ==== Sys2Proof/Safety.lean ====
section
/-! DEFINITION. What a safe run is: the invariant of the node that every step keeps, and how a statement names the parts of the state a
command leaves as they were. -/
namespace Sys2Proof.Machine

/-- The bounds the manual gives stores of the node, and the canonical form of the exchange memories. -/
structure SafeState (s : State) : Prop where
  /-- Every exchange area (09_trail.md, "Node regions") is in the canonical form of Memory.wf. -/
  xmem : ∀ c ∈ s.ctxs, Memory.wf c.2.xmem = true
  /-- A context keeps at most four meter sets (R302). -/
  meters : ∀ c ∈ s.ctxs, c.2.meters.length ≤ 4
  /-- The node buffers at most 1,024 error records (R280). -/
  buffer : s.health.buffer.length ≤ 1024
  /-- The snoop filter tracks at most 65,536 units (R148). -/
  snoop : s.tier.snoop.length ≤ 65536
  /-- Ranger's log holds at most 65,536 records (R323). -/
  log : s.ranger.log.length ≤ logDepth
  /-- Ranger holds at most 16 sessions (R322). -/
  sessions : s.ranger.sessions.length ≤ maxSessions
  /-- Ranger holds at most 8 trust anchors (R321). -/
  anchors : s.ranger.anchors.length ≤ maxAnchors
  /-- Ranger holds at most 8 event subscriptions (R324). -/
  subs : s.ranger.subs.length ≤ maxSubs

/-- The parts of the state: its fields. -/
inductive Part where
  | pending | now | regs | live | staged | tick | itin | reqs | nextOrder | nextSeq | ctxs | engines | tiles | locals | conns | regions
  | links | comp | tier | sec | health | power | pins | ranger | dbg | nv | out | free
deriving DecidableEq, Repr

/-- A part is the same in two states. -/
def Part.same (s t : State) : Part → Prop
  | .pending => t.pending = s.pending
  | .now => t.now = s.now
  | .regs => t.regs = s.regs
  | .live => t.live = s.live
  | .staged => t.staged = s.staged
  | .tick => t.tick = s.tick
  | .itin => t.itin = s.itin
  | .reqs => t.reqs = s.reqs
  | .nextOrder => t.nextOrder = s.nextOrder
  | .nextSeq => t.nextSeq = s.nextSeq
  | .ctxs => t.ctxs = s.ctxs
  | .engines => t.engines = s.engines
  | .tiles => t.tiles = s.tiles
  | .locals => t.locals = s.locals
  | .conns => t.conns = s.conns
  | .regions => t.regions = s.regions
  | .links => t.links = s.links
  | .comp => t.comp = s.comp
  | .tier => t.tier = s.tier
  | .sec => t.sec = s.sec
  | .health => t.health = s.health
  | .power => t.power = s.power
  | .pins => t.pins = s.pins
  | .ranger => t.ranger = s.ranger
  | .dbg => t.dbg = s.dbg
  | .nv => t.nv = s.nv
  | .out => t.out = s.out
  | .free => t.free = s.free

/-- `t` differs from `s` at most in the parts of a list: the frame of a command. -/
def ChangesOnly (ps : List Part) (s t : State) : Prop := ∀ p : Part, ps.contains p = false → p.same s t

/-- Every register but those at the named offsets is as it was. -/
def RegsKept (offs : List Nat) (s t : State) : Prop := ∀ off, offs.contains off = false → getReg t.regs off = getReg s.regs off

/-- An outcome is a next state in which a property holds and only the listed parts have changed. -/
def Completes (ps : List Part) (s : State) (p : State → Prop) (o : Host.Outcome State Fault Refusal) : Prop :=
  ∃ t, o = .next t ∧ p t ∧ ChangesOnly ps s t

/-- A tracked request has ended: it is tracked no more, and its final status word has gone out unless it has been silenced or may not be
written to (R174, R178). -/
def Answered (s : State) (id st code progress : Nat) (u : State) : Prop :=
  u.req? id = none ∧
  ∀ r, s.req? id = some r → r.silent = false → s.mayWrite r.ring = true →
    Out.status (ringDest r.ring) r.desc.statusAddr (statusWord st code r.desc.tag progress) ∈ u.out

/-- Nothing the operation of a request waits for is outstanding (R96, R291). -/
def Unhindered (s : State) (r : Req) : Prop := r.demotions = [] ∧ r.journalWait.all s.msgAcked = true

/-- A packet of one of the types arrives at a connection: it passes checks 1 to 5, the policer, the epoch check and the message window
(Table 9.5), and is handed on in the state these leave. -/
def State.arrives (s : State) (p : Pkt) (types : List Nat) : Option (RxPkt × State) :=
  match s.checks p types with
  | (none, _) => none
  | (some x0, s1) => match s1.police x0 with
    | (none, _) => none
    | (some x, s2) => match (if x.epochChecked then s2.epochUse x.h.epoch else EpochUse.ok) with
      | .ok => match s2.window x with
        | (true, s3) => some (x, s3)
        | (false, _) => none
      | _ => none

/-- The exchange memory of one context has a byte string stored at an address; every other byte of every context's is as it was. -/
def Stored (s u : State) (ctx addr : Nat) (data : Bytes) : Prop :=
  (∀ i (h : i < data.length), Memory.read (u.xmem ctx) (addr + i) = data[i]) ∧
  (∀ a, (a < addr ∨ addr + data.length ≤ a) → Memory.read (u.xmem ctx) a = Memory.read (s.xmem ctx) a) ∧
  (∀ c, c ≠ ctx → u.xmem c = s.xmem c)

/-- Every context's exchange memory is as it was. -/
def XmemKept (s u : State) : Prop := ∀ c, u.xmem c = s.xmem c

/-- A connection has failed (R198): state 5, nothing sent or awaited any more, its rings in RSTATE 2 or off, one failure counted and
recorded. -/
def ConnFailed (s u : State) (slot : Nat) : Prop :=
  (∃ c, u.conn? slot = some c ∧ c.state = 5 ∧ c.tx = ConnTx.empty ∧ c.failedAt = some u.now ∧ ∀ r ∈ c.rings, r.rstate = 2 ∨ r.rstate = 3) ∧
  u.rd F.NET_EVENTS.CONN_FAILED = min (s.rd F.NET_EVENTS.CONN_FAILED + 1) (2 ^ F.NET_EVENTS.CONN_FAILED.width - 1) ∧
  u.health.seq = s.health.seq + 1

/-- An operation of a control register is over: its code is shown, with DONE for none and ERROR for any other. -/
def OpEnded (f : OpFields) (code : Nat) (u : State) : Prop :=
  u.rd f.code = code % 2 ^ f.code.width ∧ (code = 0 → u.rd f.done = 1) ∧ (code ≠ 0 → u.rd f.error = 1)

/-- A node-wide reset has happened (Tables 16.1 and 16.3): node time is 0, start-up is at its stage with its cause, every store that a reset
empties is as after reset, SCRATCH has survived a warm one, and bedrock, its spare blocks, the key store, the sealed image, the anchors, the
weathering samples and a captured trace have survived. Registers at `offs` are left open here. -/
structure Restarted (s u : State) (cause stage : Nat) (warm rangerRuns : Bool) (offs : List Nat) : Prop where
  now : u.now = 0
  boot : u.rd F.ID_BOOT.CAUSE = cause ∧ u.rd F.ID_BOOT.STAGE = stage ∧ u.rd F.ID_BOOT.READY = 0 ∧ u.rd F.ID_BOOT.FAIL = 0
  regs : ∀ off, ([F.ID_BOOT.STAGE.off, F.TIER_BEDROCK.SPARE.off, F.TIER_PLACE_STATUS.BEDROCK_LOW.off, F.SEC_SVN.RANGER.off] ++ offs).contains off
    = false → getReg u.regs off = if warm && F.ID_SCRATCH.SCRATCH.covers off then getReg s.regs off else regReset off
  bedrock : u.rd F.TIER_BEDROCK.SPARE = s.rd F.TIER_BEDROCK.SPARE ∧ u.rd F.TIER_BEDROCK.RETIRED = s.rd F.TIER_BEDROCK.RETIRED ∧
    u.tier = { TierState.reset with blocks := s.tier.blocks, parcels := s.tier.parcels, logHead := s.tier.logHead, stripes := s.tier.stripes }
  svn : u.rd F.SEC_SVN.RANGER = if rangerRuns then s.rd F.SEC_SVN.RANGER else 0
  emptied : u.staged = [] ∧ u.reqs = [] ∧ u.ctxs = [] ∧ u.engines = [] ∧ u.tiles = [] ∧ u.locals = [] ∧ u.conns = [] ∧ u.regions = [] ∧ u.links = []
  restarted : u.tick = TickState.reset ∧ u.itin = Itinerary.reset ∧ u.comp = CompState.reset ∧ u.dbg = { DbgState.reset with trace := s.dbg.trace }
  health : u.health = { HealthState.reset with weather := s.health.weather, latest := s.health.latest }
  sealed_ : u.nv = { s.nv with parks := u.nv.parks }
  ranger : u.ranger.anchors = s.ranger.anchors ∧ u.ranger.clock = s.ranger.clock + s.now ∧
    (if rangerRuns then u.ranger.running = s.ranger.running else u.ranger.running = false ∧ u.ranger.sessions = [])
  out : u.out = s.out

/-- Start-up has stopped in its stage with a failure code (R334). -/
def StageFailed (s u : State) (code : Nat) : Prop :=
  u.rd F.ID_BOOT.FAIL = 1 ∧ u.rd F.ID_BOOT.FAILCODE = code ∧ u.rd F.ID_BOOT.STAGE = s.rd F.ID_BOOT.STAGE ∧ u.rd F.ID_BOOT.READY = s.rd F.ID_BOOT.READY

/-- The sessions after a request on one of them at a time of Ranger (R322). -/
def touched (s : State) (id now : Nat) : List Session := lmod s.ranger.sessions (fun x => x.id == id) (fun x => { x with lastAt := now })

/-- A request that needs a role (Table 15.1): without its session nothing happens, below the role it is refused, and from the role on a
property holds. -/
def RoleChecked (s : State) (t session : Nat) (need : Role) (run : Host.Outcome State Fault Refusal) (granted : Prop) : Prop :=
  (s.session? session = none → run = .next (s.at_ t)) ∧
  (∀ x, s.session? session = some x →
    (roleRank x.role < roleRank need →
      Completes [.now, .ranger, .out] s
        (fun u => u.out = .refusedRequest :: s.out ∧ u.ranger = { s.ranger with sessions := touched s session (s.at_ t).rangerNow }) run) ∧
    (roleRank need ≤ roleRank x.role → granted))

/-- Ranger has restarted at a time of its own (R330): its sessions and the streams on them are over, the restart is remembered, and the third
within an hour leaves it in its recovery state; a staged firmware of its own is measured and runs. -/
def RangerRestarted (s u : State) (at_ : Nat) (offs : List Nat) : Prop :=
  (let recent := s.ranger.restarts.filter (fun a => decide (at_ < a + 3600000000000))
   u.ranger = { s.ranger with
    sessions := [], subs := s.ranger.subs.filter Subscription.push, restarts := recent ++ [at_], recovery := decide (2 ≤ recent.length)
    staged := s.ranger.staged.filter (fun x => x.1 != ImageKind.ranger) }) ∧
  ((∀ x ∈ s.ranger.staged, x.1 ≠ ImageKind.ranger) → u.sec = s.sec ∧ RegsKept offs s u) ∧
  (∀ x, s.ranger.staged.find? (fun x => x.1 == ImageKind.ranger) = some x →
    u.sec = { s.sec with digests := mset s.sec.digests 1 x.2.2 } ∧ u.rd F.SEC_SVN.RANGER = x.2.1 % 65536 ∧
    RegsKept (F.SEC_SVN.RANGER.off :: offs) s u)

/-- The commands at which node time starts again at 0 (16_reset.md, Table 16.1; R20). -/
def restartsTime : Instr → Bool
  | .powerOn .. => true
  | .brownout .. => true
  | .thermalTrip .. => true
  | .moduleReset .. => true
  | .moduleResetRelease .. => true
  | .holdupCharged .. => true
  | .nodeReset .. => true
  | _ => false

/-- The input voltage a command reports, in mV, of the commands that the module's absolute limit concerns (R345, R346, R348). -/
def inputOf : Instr → Option Nat
  | .powerOn _ mv => some mv
  | .vinMated _ mv _ => some mv
  | .overVoltage _ mv => some mv
  | .inputSample _ mv => some mv
  | _ => none

end Sys2Proof.Machine
end

