-- ==== Sys2Proof/Certificates/Slice0/Obligations.lean ====
section
/-! DEFINITION. Statements about the model for the provers, by chapter of the manual. -/
open Sys2Proof Sys2Proof.Machine

/-! ### The queue, the invariant, and what holds of every command -/

/-- The command at the front of the queue runs on the state that holds the rest of the queue; on an empty queue the block idles (the model's
choice, notes/assumptions/11.md). -/
def Obligations.StepRunsFrontCommand : Prop :=
  (∀ (s : State) (c : Instr) (rest : List Instr), s.pending = c :: rest → step s = exec c { s with pending := rest }) ∧
  ∀ s : State, s.pending = [] → step s = .next s

/-- The state after reset meets the invariant and holds no command. -/
def Obligations.ResetStateIsSafe : Prop := SafeState State.reset ∧ State.reset.pending = [] ∧ mwf State.reset.regs = true

/-- Every step keeps the bounds of the node's stores and the canonical form of the exchange memories. -/
def Obligations.StepKeepsSafeState : Prop := ∀ s t : State, SafeState s → step s = .next t → SafeState t

/-- Every command runs in every state and leaves the queue as it is, so that what waits behind it is taken in the order in which it came: it
answers a next state, but for an input beyond the absolute limit of 80 V (Table 17.7), at which the manual gives the module no behaviour. -/
def Obligations.EveryCommandAnswers : Prop :=
  ∀ (c : Instr) (s : State),
    let answers : Prop := ∃ t, exec c s = .next t ∧ t.pending = s.pending
    (match inputOf c with
     | some mv => if 80000 < mv then exec c s = .fault .beyondAbsoluteLimits else answers
     | none => answers)

/-- Node time never steps back but where the node starts again (R20, Table 16.1). -/
def Obligations.NodeTimeNeverStepsBack : Prop :=
  ∀ (c : Instr) (s t : State), restartsTime c = false → exec c s = .next t → s.now ≤ t.now

/-! ### Registers (18_registers.md) -/

/-- The fields of one register lie in its 64 bits, share no bit, and have reset values that fit. -/
def Obligations.RegisterFieldsAreApart : Prop :=
  ∀ (off : Nat) (f g : Field), f ∈ regFields off → g ∈ regFields off →
    f.lo ≤ f.hi ∧ f.hi < 64 ∧ f.reset < 2 ^ f.width ∧ (f = g ∨ f.hi < g.lo ∨ g.hi < f.lo)

/-- A write of a register with no row of its own is read back field by field as its access type says, and waits to take effect, but for the ID
block, where it acts at once. SEC_LOCK, HEALTH_WEATHER_SEL and HEALTH_TCC follow their own tables at once; a write of a register with a row of
its own, or of one that refuses writes now, changes nothing but the time. -/
def Obligations.RegisterWriteFollowsAccessTypes : Prop :=
  ∀ (s : State) (t off : Nat) (v : Word), off % 8 = 0 → s.barOpen off = true → regFields off ≠ [] →
    let written (u : State) : Prop :=
      ∀ f ∈ regFields off, fieldOf f (getReg u.regs off) = fieldWrite false f (fieldOf f (getReg s.regs off)) (fieldOf f v) % 2 ^ f.width
    let run := exec (.registerWrite t off 8 v) s
    let plain : Prop := [F.SEC_LOCK.LOCK.off, F.HEALTH_WEATHER_SEL.KIND.off, F.HEALTH_TCC.RELAXED.off].contains off = false
    ((ownRow off v = true ∨ s.writeShut off = true) → run = .next (s.at_ t)) ∧
    (ownRow off v = false → s.writeShut off = false →
      (plain → 0x1000 ≤ off →
        Completes [.now, .regs, .staged, .power] s
          (fun u => written u ∧
            (∃ w : StagedWrite, u.staged = s.staged ++ [w] ∧ w.time = max s.now t ∧ w.reg = off ∧ w.value = getReg u.regs off) ∧
            RegsKept [off, F.PWR_STATE.CURRENT.off] s u) run) ∧
      (off < 0x1000 →
        Completes [.now, .regs, .live] s (fun u => written u ∧ getReg u.live off = getReg u.regs off ∧ RegsKept [off] s u) run) ∧
      (off = F.SEC_LOCK.LOCK.off →
        Completes [.now, .regs, .live, .power] s
          (fun u => u.rd F.SEC_LOCK.LOCK = s.rd F.SEC_LOCK.LOCK ∧
            u.rd F.SEC_LOCK.VIOLATIONS = fieldWrite false F.SEC_LOCK.VIOLATIONS (s.rd F.SEC_LOCK.VIOLATIONS)
              (fieldOf F.SEC_LOCK.VIOLATIONS v) % 2 ^ F.SEC_LOCK.VIOLATIONS.width ∧
            RegsKept [off, F.PWR_STATE.CURRENT.off] s u) run) ∧
      (off = F.HEALTH_WEATHER_SEL.KIND.off →
        let new := regWritten false off (getReg s.regs off) v
        Completes [.now, .regs, .live] s
          (fun u => u.rd F.HEALTH_WEATHER_SEL.KIND = fieldOf F.HEALTH_WEATHER_SEL.KIND new ∧
            u.rd F.HEALTH_WEATHER_SEL.UNIT =
              (if fieldOf F.HEALTH_WEATHER_SEL.UNIT new < weatherUnits (fieldOf F.HEALTH_WEATHER_SEL.KIND new) then
                fieldOf F.HEALTH_WEATHER_SEL.UNIT new else s.rd F.HEALTH_WEATHER_SEL.UNIT) ∧
            RegsKept [off] s u) run) ∧
      (off = F.HEALTH_TCC.RELAXED.off →
        let c := s.rd F.HEALTH_TCC_SEL.CTX
        Completes [.now, .ctxs] s
          (fun u => (∀ x, x ≠ c → u.ctx x = s.ctx x) ∧
            u.ctx c = { s.ctx c with
              tccRelaxed := if fieldOf F.HEALTH_TCC.RELAXED v = 0 then 0 else (s.ctx c).tccRelaxed
              tccBackup := if fieldOf F.HEALTH_TCC.BACKUP v = 0 then 0 else (s.ctx c).tccBackup }) run))

/-- An aligned half of a register reads that half; the DBG block reads 0, the ID block reads 0 before stage 3 and every other block before
READY, and so does every offset with no register, 0xA000 and above among them, and every read that is neither an aligned register nor an
aligned half of one; and a write that is narrow, unaligned, to no register or to a block that is not open changes nothing but the time. -/
def Obligations.ClosedOffsetsAreInert : Prop :=
  let shut (s : State) (off : Nat) : Prop :=
    off / 4096 = 9 ∨ 0xA000 ≤ off ∨ (s.ready = false ∧ 0x1000 ≤ off) ∨ (s.rd F.ID_BOOT.STAGE < 3 ∧ off < 0x1000)
  (∀ (s : State) (off : Nat), off % 8 = 0 →
    s.readBar0 off 4 = s.readBar0 off 8 &&& 0xFFFFFFFF ∧ s.readBar0 (off + 4) 4 = s.readBar0 off 8 >>> 32) ∧
  (∀ (s : State) (off size : Nat),
    (shut s off ∨ regFields (off / 8 * 8) = [] ∨ (size ≠ 4 ∧ size ≠ 8) ∨ off % size ≠ 0) → s.readBar0 off size = 0) ∧
  (∀ (s : State) (t off size : Nat) (v : Word),
    (shut s off ∨ regFields off = [] ∨ size ≠ 8 ∨ off % 8 ≠ 0) → exec (.registerWrite t off size v) s = .next (s.at_ t))

/-- SEC_LOCK.LOCK is set by a 1 and by nothing cleared; while it is set, a write of a register with a locked field leaves those fields as
they are and is counted; while it is not, the write is read back, but for the window's base and size while the host tier holds pages; and
none of this happens before READY. -/
def Obligations.LockHoldsTheHostWindow : Prop :=
  ∀ (s : State) (t off : Nat) (v : Word),
    let parts : List Part := [.now, .regs, .live, .power]
    let rwl : Prop := [F.TIER_HOST_BASE.ADDR.off, F.TIER_HOST_SIZE.SIZE.off, F.TIER_HDM.EN.off].contains off = true
    let run := exec (.rwlWrite t off v) s
    ((s.ready = false ∨ fieldOf F.SEC_LOCK.LOCK v = 0) → exec (.secLockSet t v) s = .next (s.at_ t)) ∧
    ((s.ready = false ∨ ¬rwl) → run = .next (s.at_ t)) ∧
    (s.ready = true → fieldOf F.SEC_LOCK.LOCK v = 1 →
      Completes parts s
        (fun u => u.rd F.SEC_LOCK.LOCK = 1 ∧ RegsKept [F.SEC_LOCK.LOCK.off, F.PWR_STATE.CURRENT.off] s u) (exec (.secLockSet t v) s)) ∧
    (s.ready = true → rwl → s.rd F.SEC_LOCK.LOCK = 1 →
      Completes parts s
        (fun u =>
          (∀ f ∈ regFields off, f.ty = .rwl → fieldOf f (getReg u.regs off) = fieldOf f (getReg s.regs off)) ∧
          u.rd F.SEC_LOCK.LOCK = 1 ∧ u.rd F.SEC_LOCK.VIOLATIONS = min (s.rd F.SEC_LOCK.VIOLATIONS + 1) (2 ^ F.SEC_LOCK.VIOLATIONS.width - 1) ∧
          RegsKept [off, F.SEC_LOCK.LOCK.off, F.PWR_STATE.CURRENT.off] s u) run) ∧
    (s.ready = true → rwl → s.rd F.SEC_LOCK.LOCK = 0 →
      ((s.hostPages = false ∨ off = F.TIER_HDM.EN.off) →
        Completes parts s
          (fun u =>
            (∀ f ∈ regFields off, f.ty = .rwl → f.accepts (fieldOf f v) = true → fieldOf f (getReg u.regs off) = fieldOf f v) ∧
            RegsKept [off, F.PWR_STATE.CURRENT.off] s u) run) ∧
      (s.hostPages = true → off ≠ F.TIER_HDM.EN.off → Completes parts s (RegsKept [F.PWR_STATE.CURRENT.off] s) run))

/-- Losing the entropy source clears DRBG_OK and forms one error record, once; its return sets it and starts the scrubs that waited. -/
def Obligations.EntropySourceFailsAndReturns : Prop :=
  ∀ (s : State) (t : Nat),
    (s.sec.drbgOk = false → exec (.drbgFail t) s = .next (s.at_ t)) ∧
    (s.sec.drbgOk = true →
      Completes [.now, .regs, .sec, .health, .free] s
        (fun u => u.sec = { s.sec with drbgOk := false } ∧ u.health.seq = s.health.seq + 1 ∧ RegsKept [F.HEALTH_ERRCNT.LOST.off] s u)
        (exec (.drbgFail t) s)) ∧
    Completes [.now, .itin, .sec, .free] s
      (fun u => u.sec.drbgOk = true ∧
        (∀ c ∈ s.ctxs, c.2.phase = .scrubbing → c.1 ∈ u.sec.scrubs) ∧ (∀ n ∈ s.sec.scrubs, n ∈ u.sec.scrubs) ∧
        { u.sec with drbgOk := s.sec.drbgOk, scrubs := s.sec.scrubs } = s.sec)
      (exec (.entropyHealthPass t) s)

/-! ### The tick (02_tick.md) -/

/-- A period outside 5 to 1,000 µs only sets BAD_CONFIG. Accepted values of TICK_PERIOD, TICK_WINDOW and TICK_ORIGIN are read back, leave
the period, shares and origin in force as they are, and wait: for the next start when the node does not run or follows a reference, with
STAGED set, and else for the boundary of R16. Before READY the registers take nothing. -/
def Obligations.TickSetupWritesAreStaged : Prop :=
  ∀ (s : State) (t : Nat) (v : Word),
    let parts : List Part := [.now, .regs, .staged, .tick, .power]
    let free : Prop := s.running = true ∧ s.tick.source = 0
    let kept (off : Nat) (u : State) : Prop :=
      u.tick.periodUs = s.tick.periodUs ∧ u.tick.shares = s.tick.shares ∧ u.tick.origin = s.tick.origin ∧
      RegsKept [off, F.TICK_STATUS.STAGED.off, F.PWR_STATE.CURRENT.off] s u
    let p := fieldOf F.TICK_PERIOD.PERIOD_US v
    let window := regWritten false F.TICK_WINDOW.C0_SHARE.off (getReg s.regs F.TICK_WINDOW.C0_SHARE.off) v
    (s.ready = false →
      exec (.tickPeriodWrite t v) s = .next (s.at_ t) ∧ exec (.tickWindowWrite t v) s = .next (s.at_ t) ∧
      exec (.tickOriginWrite t v) s = .next (s.at_ t)) ∧
    (s.ready = true → (p < 5 ∨ 1000 < p) → exec (.tickPeriodWrite t v) s = .next ((s.at_ t).wr F.TICK_STATUS.BAD_CONFIG 1)) ∧
    (s.ready = true → 5 ≤ p → p ≤ 1000 →
      Completes parts s
        (fun u => u.rd F.TICK_PERIOD.PERIOD_US = p ∧ u.rd F.TICK_PERIOD.ACTIVE_US = s.rd F.TICK_PERIOD.ACTIVE_US ∧
          kept F.TICK_PERIOD.PERIOD_US.off u ∧
          (free → u.tick = s.tick ∧ u.staged = s.staged ++ [⟨max s.now t, F.TICK_PERIOD.PERIOD_US.off, v⟩]) ∧
          (¬free → u.tick = { s.tick with stagedPeriod := some p } ∧ u.staged = s.staged ∧ u.rd F.TICK_STATUS.STAGED = 1))
        (exec (.tickPeriodWrite t v) s)) ∧
    (s.ready = true →
      Completes parts s
        (fun u => getReg u.regs F.TICK_WINDOW.C0_SHARE.off = window ∧ kept F.TICK_WINDOW.C0_SHARE.off u ∧
          (free → u.tick = s.tick ∧ u.staged = s.staged ++ [⟨max s.now t, F.TICK_WINDOW.C0_SHARE.off, window⟩]) ∧
          (¬free → u.tick = { s.tick with stagedShares := some [fieldOf F.TICK_WINDOW.C0_SHARE window, fieldOf F.TICK_WINDOW.C1_SHARE window,
              fieldOf F.TICK_WINDOW.C2_SHARE window, fieldOf F.TICK_WINDOW.C3_SHARE window] } ∧
            u.staged = s.staged ∧ u.rd F.TICK_STATUS.STAGED = 1))
        (exec (.tickWindowWrite t v) s)) ∧
    (s.ready = true →
      Completes parts s
        (fun u => u.rd F.TICK_ORIGIN.ORIGIN = v.toNat ∧ kept F.TICK_ORIGIN.ORIGIN.off u ∧
          (free → u.tick = s.tick ∧ u.staged = s.staged ++ [⟨max s.now t, F.TICK_ORIGIN.ORIGIN.off, v⟩]) ∧
          (¬free → u.tick = { s.tick with stagedOrigin := some v.toNat } ∧ u.staged = s.staged ∧ u.rd F.TICK_STATUS.STAGED = 1))
        (exec (.tickOriginWrite t v) s))

/-- ARM sets ARMED, and re-arms a running node, which then reads ALIGNED 0; START asks for a start pulse where SYNC_OUT is enabled and the
node is no SYNC follower; TICK_ALIGN acts at once while the node does not run, and while it does, SOURCE waits for the start point, the delay
and SYNC_OUT_EN for the next boundary and HOP_NS for R16, a hop that the timing refuses being left as it was. -/
def Obligations.ArmStartAndAlign : Prop :=
  ∀ (s : State) (t : Nat) (v : Word),
    let wake := F.PWR_STATE.CURRENT.off
    let off := F.TICK_ALIGN.SOURCE.off
    let hop := (s.at_ t).wakeUp.hopWritten v
    let new := hop.2
    let src := fieldOf F.TICK_ALIGN.SOURCE new
    (s.ready = false →
      exec (.arm t) s = .next (s.at_ t) ∧ exec (.start t) s = .next (s.at_ t) ∧ exec (.tickAlignWrite t v) s = .next (s.at_ t)) ∧
    (s.ready = true →
      Completes [.now, .regs, .tick, .power] s
        (fun u => u.rd F.TICK_BARRIER.ARMED = 1 ∧ u.rd F.TICK_BARRIER.RUNNING = s.rd F.TICK_BARRIER.RUNNING ∧
          u.rd F.TICK_BARRIER.ALIGNED = (if s.running then 0 else s.rd F.TICK_BARRIER.ALIGNED) ∧
          u.tick = { s.tick with stuck := false, rearmed := s.running } ∧ RegsKept [F.TICK_BARRIER.ARMED.off, wake] s u)
        (exec (.arm t) s)) ∧
    (s.ready = true → s.lv F.TICK_ALIGN.SYNC_OUT_EN = 1 → s.tick.source ≠ 1 →
      Completes [.now, .regs, .tick, .power] s
        (fun u => u.tick = { s.tick with startDue := true } ∧ RegsKept [wake] s u) (exec (.start t) s)) ∧
    ((s.lv F.TICK_ALIGN.SYNC_OUT_EN ≠ 1 ∨ s.tick.source = 1) → exec (.start t) s = .next (s.at_ t)) ∧
    (s.ready = true →
      Completes [.now, .regs, .live, .staged, .tick, .power, .ranger] s
        (fun u => getReg u.regs off = new ∧
          (hop.1 = false → u.rd F.CTX_CLASS_STATUS.TIMING_REFUSED = 1 ∧ u.rd F.TICK_ALIGN.HOP_NS = s.rd F.TICK_ALIGN.HOP_NS) ∧
          (s.running = false → u.tick.source = src ∧ getReg u.live off = new ∧ u.staged = s.staged) ∧
          ((s.running = true ∨ src ≠ 2) → u.now = max s.now t ∧ u.ranger = s.ranger) ∧
          (s.running = true →
            u.tick = { s.tick with stagedAlign := some new, stagedSource := if src = s.tick.source then none else some src } ∧
            u.live = s.live ∧ u.staged = s.staged ++ [⟨max s.now t, off, new⟩] ∧
            (src ≠ s.tick.source → u.rd F.TICK_STATUS.STAGED = 1)) ∧
          RegsKept [off, F.TICK_STATUS.STAGED.off, F.CTX_CLASS_STATUS.TIMING_REFUSED.off, wake] s u)
        (exec (.tickAlignWrite t v) s))

/-- A boundary of a running node that is no start point comes at its time and not before: it lies where it was planned, TICK_INDEX goes up by
one, the next boundary is one period on with a correction of at most 20 ns, and nothing is published yet. A node that does not run has
boundaries too, which leave TICK_INDEX as it is. -/
def Obligations.BoundariesArePeriodic : Prop :=
  ∀ (s : State) (t : Nat) (b : BoundaryInputs),
    let parts : List Part := [.now, .regs, .live, .staged, .tick, .itin, .reqs, .ctxs, .engines, .tiles, .locals, .conns, .regions, .links, .comp,
      .tier, .health, .power, .dbg, .nv, .out, .free]
    let now := max s.now t
    let spaced (u : State) : Prop :=
      u.tick.published = false ∧ u.tick.count = s.tick.count + 1 ∧ u.tick.source = s.tick.source ∧ u.now = now ∧
      (20 ≤ u.tick.last → u.tick.last + u.tick.periodUs * 1000 ≤ u.tick.next + 20 ∧ u.tick.next ≤ u.tick.last + u.tick.periodUs * 1000 + 20)
    (s.ready = false → exec (.tickBoundary t b) s = .next (s.at_ t)) ∧
    (s.ready = true → (s.at_ t).startsNow = none →
      (s.running = true → now < s.tick.next → exec (.tickBoundary t b) s = .next (s.at_ t)) ∧
      (s.running = true → s.tick.next ≤ now →
        Completes parts s (fun u => u.tick.last = s.tick.next ∧ u.tick.index = s.tick.index + 1 ∧ spaced u) (exec (.tickBoundary t b) s)) ∧
      (s.running = false →
        Completes parts s (fun u => u.tick.last = now ∧ u.tick.index = s.tick.index ∧ spaced u) (exec (.tickBoundary t b) s)))

/-- An armed node starts at its start point, where the staged source and origin take over, nothing stays staged for a start, and TICK_INDEX has
the value that its source gives: 0 at the next boundary with SOURCE 0, the number of the period on the TICK_ORIGIN grid with PTP. -/
def Obligations.StartPointRestartsTheIndex : Prop :=
  ∀ (s : State) (t : Nat) (b : BoundaryInputs),
    let now := max s.now t
    (s.rd F.TICK_BARRIER.ARMED ≠ 1 → (s.at_ t).startsNow = none) ∧
    (s.rd F.TICK_BARRIER.ARMED = 1 → s.tick.source = 0 → (s.running = false ∨ s.tick.next ≤ now) → (s.at_ t).startsNow = some 0) ∧
    (∀ n, s.tick.source = 2 → (s.at_ t).startsNow = some n →
      s.rd F.TICK_BARRIER.ARMED = 1 ∧ ∃ p, (p = s.tick.periodUs ∨ p = s.tick.nextPeriod) ∧
        now = s.tick.stagedOrigin.getD s.tick.origin + n * (p * 1000)) ∧
    (∀ n, s.ready = true → (s.at_ t).startsNow = some n →
      Completes [.now, .regs, .live, .staged, .tick, .itin, .reqs, .ctxs, .engines, .tiles, .locals, .conns, .regions, .links, .comp, .tier,
          .health, .power, .dbg, .nv, .out, .free] s
        (fun u => u.tick.index = n ∧ u.tick.source = s.tick.stagedSource.getD s.tick.source ∧ u.tick.rearmed = false ∧ u.tick.stuck = false ∧
          u.tick.stagedSource = none ∧ u.tick.stagedOrigin = none ∧ u.tick.stagedPeriod = none ∧ u.tick.stagedShares = none ∧
          u.tick.published = false ∧ u.now = now ∧
          u.tick.last = (if s.running = true ∧ s.tick.next ≤ now ∧ s.tick.source = 0 then s.tick.next else now))
        (exec (.tickBoundary t b) s))

/-- What the references do to the tick: a sync pulse is remembered and shows the reference while the node is not in holdover, and starts an
armed follower at index 0, as far back as the delay set; a lost reference puts the node into holdover and is recorded; the clock steps up to
the reference once, before the node runs; and a returned reference ends holdover only within LIMIT_NS of a node that is not stuck. -/
def Obligations.ReferenceEvents : Prop :=
  ∀ (s : State) (t : Nat),
    let n := max s.now t
    let status := F.TICK_STATUS.REF_OK.off
    let lost (u : State) : Prop := u.rd F.TICK_STATUS.REF_OK = 0 ∧ u.rd F.TICK_STATUS.REF_LOST = 1 ∧ RegsKept [status] s u
    (∀ w : Nat, (s.tick.source ≠ 1 ∨ w = 0) → exec (.syncInPulse t w) s = .next (s.at_ t)) ∧
    (∀ w : Nat, s.tick.source = 1 → w ≠ 0 → s.rd F.TICK_BARRIER.ARMED ≠ 1 →
      Completes [.now, .regs, .tick] s
        (fun u => u.tick = { s.tick with lastEdge := some n } ∧
          u.rd F.TICK_STATUS.REF_OK = (if s.tick.holdover then s.rd F.TICK_STATUS.REF_OK else 1) ∧ RegsKept [status] s u)
        (exec (.syncInPulse t w) s)) ∧
    (∀ w : Nat, s.tick.source = 1 → w ≠ 0 → s.rd F.TICK_BARRIER.ARMED = 1 →
      Completes [.now, .regs, .live, .staged, .tick, .itin, .reqs, .ctxs, .engines, .tiles, .locals, .conns, .regions, .links, .comp, .tier,
          .health, .power, .dbg, .nv, .out, .free] s
        (fun u => u.tick.index = 0 ∧ u.tick.last = n - s.lv F.TICK_ALIGN.SYNC_DELAY_NS ∧ u.tick.lastEdge = some n ∧ u.tick.rearmed = false ∧
          u.tick.holdover = false)
        (exec (.syncInPulse t w) s)) ∧
    (let due : Prop := s.tick.source = 1 ∧ (∀ e, s.tick.lastEdge = some e → e + 2 * s.tick.periodUs * 1000 + 100 ≤ n) ∧
      (s.tick.lastEdge = none → s.running = true)
     (¬due → exec (.syncInTimeout t) s = .next (s.at_ t)) ∧
     (due → Completes [.now, .regs, .tick] s (fun u => u.tick = { s.tick with holdover := true } ∧ lost u) (exec (.syncInTimeout t) s))) ∧
    Completes [.now, .regs, .tick] s
      (fun u =>
        (s.tick.source ≠ 2 → u.tick = { s.tick with ptpLocked := false } ∧ u.regs = s.regs) ∧
        (s.tick.source = 2 → u.tick = { s.tick with ptpLocked := false, holdover := true } ∧ lost u))
      (exec (.ptpLockLost t) s) ∧
    (∀ ptp : Nat, Completes [.now, .regs, .tick, .ranger] s
      (fun u =>
        let steps : Prop := s.tick.source = 2 ∧ s.running = false ∧ s.tick.ptpStepped = false
        u.tick = { s.tick with ptpLocked := true, ptpAhead := u.tick.ptpAhead, ptpStepped := u.tick.ptpStepped } ∧
        u.tick.ptpAhead = some ((ptp : Int) - n) ∧
        (s.tick.source ≠ 2 → u.regs = s.regs) ∧
        (s.tick.source = 2 → u.rd F.TICK_STATUS.REF_OK = (if s.tick.holdover then s.rd F.TICK_STATUS.REF_OK else 1)) ∧
        (steps → u.now = max n ptp ∧ u.tick.ptpStepped = true ∧
          u.ranger = { s.ranger with clock := u.ranger.clock } ∧ u.ranger.clock + u.now = s.ranger.clock + n) ∧
        (¬steps → u.now = n ∧ u.tick.ptpStepped = s.tick.ptpStepped ∧ u.ranger = s.ranger) ∧
        RegsKept [status] s u)
      (exec (.ptpLockAcquired t ptp) s)) ∧
    (∀ off : Int,
      ((s.tick.holdover = false ∨ s.tick.source = 0) → exec (.referenceReturned t off) s = .next (s.at_ t)) ∧
      (s.tick.holdover = true → s.tick.source ≠ 0 → off.natAbs ≤ s.lv F.TICK_OFFSET.LIMIT_NS → s.tick.stuck = false →
        Completes [.now, .regs, .tick] s
          (fun u => u.tick = { s.tick with holdover := false, ptpLocked := s.tick.ptpLocked || s.tick.source == 2 } ∧
            u.rd F.TICK_STATUS.REF_OK = 1 ∧ RegsKept [status] s u)
          (exec (.referenceReturned t off) s)) ∧
      (s.tick.holdover = true → s.tick.source ≠ 0 → (s.lv F.TICK_OFFSET.LIMIT_NS < off.natAbs ∨ s.tick.stuck = true) →
        Completes [.now, .regs, .tick, .health, .free] s
          (fun u => u.tick = { s.tick with stuck := true } ∧
            (s.lv F.TICK_OFFSET.LIMIT_NS < off.natAbs → u.rd F.TICK_BARRIER.ALIGNED = 0 ∧ u.rd F.TICK_STATUS.OFFSET_EXCEEDED = 1) ∧
            RegsKept [F.TICK_OFFSET.OFFSET_NS.off, F.TICK_BARRIER.ALIGNED.off, status, F.HEALTH_ERRCNT.LOST.off] s u)
          (exec (.referenceReturned t off) s)))

/-! ### Itineraries and the engines (02_tick.md, 06_stratum_engines.md) -/

/-- A published tick whose unit is free starts the unit's next placed task when nothing gates it, an engine's not before its planned start,
and none earlier than 400 ns after the boundary; the itinerary is published once. -/
def Obligations.TasksStartInOrder : Prop :=
  ∀ (s : State) (t : Nat),
    let now := s.at_ t
    let starting : List Part := [.now, .itin, .reqs, .ctxs, .engines, .tiles, .conns, .links, .dbg, .out]
    (∀ (u : UnitId) (k : Task) (rest : List Task), (s.plan u).placed = k :: rest →
      let may : Prop := (s.plan u).running = none ∧ s.tick.published = true ∧ now.gated k = false ∧ now.planPassed u k = true
      let started (v : State) : Prop :=
        v.plan u = { s.plan u with running := some { k with startedAt := some (max now.now (s.tick.last + 400)) }, placed := rest } ∧
        v.itin.waiting = s.itin.waiting ∧ ∀ w : UnitId, w ≠ u → v.plan w = s.plan w
      (may → Completes starting s started (exec (.gatedTaskReleased t u k.id) s)) ∧
      (¬may → exec (.gatedTaskReleased t u k.id) s = .next now) ∧
      (∀ n : Nat, u = .engine n →
        (may → Completes starting s started (exec (.seCommandStart t n) s)) ∧ (¬may → exec (.seCommandStart t n) s = .next now)) ∧
      (∀ i : Nat, i ≠ k.id → exec (.gatedTaskReleased t u i) s = .next now)) ∧
    (∀ u : UnitId, (s.plan u).placed = [] →
      (∀ i, exec (.gatedTaskReleased t u i) s = .next now) ∧ ∀ n, u = .engine n → exec (.seCommandStart t n) s = .next now) ∧
    (let may : Prop := s.running = true ∧ s.tick.published = false ∧ s.tick.last ≤ now.now
     (may →
      Completes [.now, .regs, .tick, .itin, .reqs, .ctxs, .engines, .tiles, .locals, .conns, .links, .comp, .tier, .health, .dbg, .out, .free] s
        (fun u => u.tick = { s.tick with published := true } ∧ u.now = now.now) (exec (.itineraryPublished t) s)) ∧
     (¬may → exec (.itineraryPublished t) s = .next now))

/-- A task's end frees its unit, is metered, goes to the merge unit and has its effect, and lets the requests and the units go on; an engine's
end of command does what the task's end does, its cut at the boundary keeps the state in the engine, and a command returned unstarted waits
for another unit; the window's nominal end counts a spill of the task that runs and hands the tasks still gated to the next tick. -/
def Obligations.TasksEndAndSpill : Prop :=
  ∀ (s : State) (t : Nat) (u : UnitId),
    let now := s.at_ t
    let all : List Part :=
      [.now, .regs, .itin, .reqs, .ctxs, .engines, .tiles, .locals, .conns, .links, .comp, .tier, .health, .dbg, .out, .free]
    (∀ o : TaskOutcome, (s.plan u).running = none → exec (.taskComplete t u o) s = .next now) ∧
    (∀ (o : TaskOutcome) (k : Task), (s.plan u).running = some k →
      let o1 := now.outcomeOf k o
      let freed := (((((now.lateRead u k).setPlan u { s.plan u with running := none }).meterTask u k false).deliver u k (outcomeCode o1)).freeSets u
        k).threadEnd u k
      (freed.plan u).running = none ∧ (freed.plan u).placed = (s.plan u).placed ∧
      Completes all s
        (fun v =>
          (o1 = .done → v = ((freed.dropLease u k).taskDone k).goOn.startAll) ∧
          (∀ peb, o1 = .corrupt peb → v = (freed.taskCorrupt u k peb).goOn.startAll) ∧
          (∀ found, o1 = .tagFault found → v = (freed.taskTagFault u k found).goOn.startAll))
        (exec (.taskComplete t u o) s)) ∧
    (∀ n d : Nat, u = .engine n →
      exec (.seCommandComplete t n 0 d) s = exec (.taskComplete t u .done) s ∧
      exec (.seCommandComplete t n 1 d) s = exec (.taskComplete t u (.corrupt d)) s ∧
      exec (.seCommandComplete t n 2 d) s = exec (.taskComplete t u (.tagFault d)) s ∧
      ((now.now < s.tick.next ∨ (s.plan u).running = none) → exec (.seCommandComplete t n 3 d) s = .next now) ∧
      (∀ k : Task, s.tick.next ≤ now.now → (s.plan u).running = some k →
        Completes [.now, .regs, .itin, .ctxs, .engines, .tiles, .dbg] s
          (fun v => (v.plan u).running = none ∧ (v.plan u).placed = (s.plan u).placed ∧
            (∃ c : Task, (v.plan u).carry = (s.plan u).carry ++ [c] ∧ c.id = k.id ∧ c.req = k.req ∧ c.kind = k.kind ∧ c.cls = k.cls ∧
              c.carried = true ∧ c.startedAt = none ∧ c.state.isSome = true) ∧
            v.itin.waiting = s.itin.waiting ∧
            v.engine n = { s.engine n with saved := (s.engine n).saved ++ [k.id], leases := [] } ∧
            v.rd (overrunField k.cls) = min (s.rd (overrunField k.cls) + 1) 65535 ∧ RegsKept [F.TICK_OVERRUN.C0.off] s v)
          (exec (.seCommandComplete t n 3 d) s)) ∧
      ((s.plan u).placed = [] → exec (.seCommandComplete t n 4 d) s = .next now) ∧
      (∀ (k : Task) (rest : List Task), (s.plan u).placed = k :: rest →
        Completes [.now, .itin, .tiles] s
          (fun v => v.plan u = { s.plan u with placed := rest } ∧
            v.itin.waiting =
              { k with carried := true, returned := true, startedAt := none, paced := 0, paceAt := none, state := none } :: s.itin.waiting)
          (exec (.seCommandComplete t n 4 d) s)) ∧
      (∀ o, 4 < o → exec (.seCommandComplete t n o d) s = .next now)) ∧
    (∀ c : Cls,
      let due : Prop := s.running = true ∧ s.tick.last * 1000 + windowEnd s.tick.periodUs s.tick.shares (clsNum c) ≤ now.now * 1000
      (¬due → exec (.windowNominalEnd t u c) s = .next now) ∧
      (due →
        Completes [.now, .regs, .itin, .reqs, .ctxs, .engines, .tiles, .conns, .links, .dbg, .out] s
          (fun v =>
            let late := (s.plan u).placed.filter (fun k => k.cls == c && now.gated k)
            (v.plan u).carry = (s.plan u).carry ++ late.map (fun k => { k with carried := true }) ∧
            (v.plan u).placed <:+ (s.plan u).placed.filter (fun k => !(k.cls == c && now.gated k)) ∧
            (∀ k, (s.plan u).running = some k → (v.plan u).running = some k ∧
              v.rd F.TICK_EVENTS.SPILL = min (s.rd F.TICK_EVENTS.SPILL + if k.cls = c then 1 else 0) 65535) ∧
            RegsKept [F.TICK_EVENTS.SPILL.off] s v)
          (exec (.windowNominalEnd t u c) s)))

/-- The engine watchdog takes the engine's tasks back to the planner and forms an error record; the third trip within a second disables the
engine. An engine that runs nothing is not reset. -/
def Obligations.EngineWatchdog : Prop :=
  ∀ (s : State) (t n : Nat),
    ((s.plan (.engine n)).running = none → exec (.seWatchdog t n) s = .next (s.at_ t)) ∧
    ∀ k : Task, (s.plan (.engine n)).running = some k →
      let recent := (s.engine n).trips.filter (fun x => decide (max s.now t < x + 1000000000)) ++ [max s.now t]
      Completes [.now, .regs, .itin, .ctxs, .engines, .tiles, .health, .free] s
        (fun u => u.plan (.engine n) = ⟨none, [], []⟩ ∧
          u.itin.waiting = (k :: ((s.plan (.engine n)).placed ++ (s.plan (.engine n)).carry)).map (fun x =>
            { x with carried := true, returned := true, startedAt := none, paced := 0, paceAt := none, state := none }) ++ s.itin.waiting ∧
          u.engine n = { s.engine n with trips := recent, saved := [], querySets := [], leases := [] } ∧
          (∀ m, m ≠ n → u.engine m = s.engine m) ∧ s.health.seq < u.health.seq ∧
          (recent.length < 3 → RegsKept [F.HEALTH_ERRCNT.LOST.off] s u) ∧
          (3 ≤ recent.length → n < 192 → bitOf u.regs F.TIER_SE_FAULT.FAULT n = true))
        (exec (.seWatchdog t n) s)

/-- A refresh that falls due while the engine is busy is owed; at four owed one is forced in and delays the task; owed refreshes are repaid
when the engine is free; a stack that passes 85 °C in a tick inserts the extra refreshes of the rest of that tick into its engines' commands,
which are counted once. -/
def Obligations.RefreshDebt : Prop :=
  ∀ (s : State) (t n : Nat),
    let owed := (s.engine n).debt + 1
    (∀ c : Instr, (c = .refreshSlot t n ∨ c = .makeupRefreshSlot t n) →
      ((192 ≤ n ∨ s.engineBusy n = false) → exec c s = .next (s.at_ t)) ∧
      (n < 192 → s.engineBusy n = true → owed < 4 →
        Completes [.now, .regs, .engines] s
          (fun u => u.engine n = { s.engine n with debt := owed } ∧ (∀ m, m ≠ n → u.engine m = s.engine m) ∧
            u.rd F.TIER_SE_REFRESH.POSTPONED = min (s.rd F.TIER_SE_REFRESH.POSTPONED + 1) 65535 ∧
            u.rd F.TIER_SE_REFRESH.DEBT_MAX = max (s.rd F.TIER_SE_REFRESH.DEBT_MAX) owed ∧ RegsKept [F.TIER_SE_REFRESH.POSTPONED.off] s u)
          (exec c s)) ∧
      (∀ k : Task, n < 192 → (s.plan (.engine n)).running = some k → 4 ≤ owed →
        Completes [.now, .regs, .itin, .engines] s
          (fun u => u.engine n = { s.engine n with debt := owed - 1 } ∧
            u.plan (.engine n) = { s.plan (.engine n) with running := some { k with costPs := k.costPs + 160000 } } ∧
            u.rd F.TIER_SE_REFRESH.FORCED = min (s.rd F.TIER_SE_REFRESH.FORCED + 1) 65535 ∧ RegsKept [F.TIER_SE_REFRESH.POSTPONED.off] s u)
          (exec c s))) ∧
    (s.engineBusy n = false → 0 < (s.engine n).debt →
      Completes [.now, .engines] s
        (fun u => u.engine n = { s.engine n with debt := (s.engine n).debt - 1 } ∧ ∀ m, m ≠ n → u.engine m = s.engine m)
        (exec (.refreshDebtRepay t n) s)) ∧
    ((s.engineBusy n = true ∨ (s.engine n).debt = 0) → exec (.refreshDebtRepay t n) s = .next (s.at_ t)) ∧
    (let extra := s.running && !s.power.hotGrid.contains n
     ((12 ≤ n ∨ s.power.above85.contains n = true) → exec (.stackAbove85C t n) s = .next (s.at_ t)) ∧
     (n < 12 → s.power.above85.contains n = false →
      Completes [.now, .regs, .itin, .power] s
        (fun u => u.power = { s.power with above85 := s.power.above85 ++ [n] } ∧
          (extra = false → u.regs = s.regs ∧ u.itin = s.itin) ∧
          (extra = true →
            u.rd F.TIER_SE_REFRESH.INTRUSION = min (s.rd F.TIER_SE_REFRESH.INTRUSION + 16 * ((s.at_ t).midpoints (16 * n)).length) 65535 ∧
            (∀ e, e / 16 = n →
              let longer := Task.intrude (s.tick.last * 1000) ((s.at_ t).midpoints e)
              (u.plan (.engine e)).running = (s.plan (.engine e)).running.map longer ∧
              (u.plan (.engine e)).placed = (s.plan (.engine e)).placed.map longer ∧
              (u.plan (.engine e)).carry = (s.plan (.engine e)).carry) ∧
            (∀ w : UnitId, (∀ e, e / 16 = n → w ≠ .engine e) → u.plan w = s.plan w) ∧
            u.itin = { s.itin with units := u.itin.units }) ∧
          RegsKept [F.TIER_SE_REFRESH.INTRUSION.off] s u)
        (exec (.stackAbove85C t n) s)))

/-- Masks are read back at once and take effect at a boundary; a 1 clears a fault bit and that engine's trips; a self-test starts on an
idle, masked or stopped engine and is refused on any other; its end gives the digest that the manual expects of a good engine. An ENGINE value
above 191 leaves the engine named before, on which the test then runs (the model's choice, notes/assumptions/36.md). -/
def Obligations.EngineRegisters : Prop :=
  ∀ (s : State) (t n : Nat) (v : Word),
    let wake := F.PWR_STATE.CURRENT.off
    let test := F.TIER_SE_TEST.ENGINE.off
    ((s.ready = false ∨ 3 ≤ n) →
      exec (.tierSeMaskWrite t n v) s = .next (s.at_ t) ∧ exec (.tierSeFaultClear t n v) s = .next (s.at_ t)) ∧
    (s.ready = false → exec (.seSelfTest t v) s = .next (s.at_ t)) ∧
    (s.ready = true → n < 3 →
      Completes [.now, .regs, .staged, .power] s
        (fun u => getReg u.regs (F.TIER_SE_MASK.MASK.at_ n) = v ∧
          u.staged = s.staged ++ [⟨max s.now t, F.TIER_SE_MASK.MASK.at_ n, v⟩] ∧ RegsKept [F.TIER_SE_MASK.MASK.at_ n, wake] s u)
        (exec (.tierSeMaskWrite t n v) s) ∧
      Completes [.now, .regs, .engines, .power] s
        (fun u => u.rd F.TIER_SE_FAULT.FAULT n = (s.rd F.TIER_SE_FAULT.FAULT n &&& (~~~v).toNat) ∧
          (∀ m, u.engine m = if m / 64 = n ∧ bit v.toNat (m % 64) = true then { s.engine m with trips := [] } else s.engine m) ∧
          RegsKept [F.TIER_SE_FAULT.FAULT.at_ n, wake] s u)
        (exec (.tierSeFaultClear t n v) s)) ∧
    (s.ready = true →
      let e := fieldOf F.TIER_SE_TEST.ENGINE v
      let idle := s.rd F.TIER_SE_TEST.BUSY = 0
      let named := if e ≤ 191 ∧ idle then e else s.rd F.TIER_SE_TEST.ENGINE
      let may := bitOf s.live F.TIER_SE_MASK.MASK named = true ∨ s.running = false
      Completes [.now, .regs, .power] s
        (fun u => u.rd F.TIER_SE_TEST.ENGINE = named ∧
          ((fieldOf F.TIER_SE_TEST.START v = 0 ∨ ¬idle) → u.rd F.TIER_SE_TEST.BUSY = s.rd F.TIER_SE_TEST.BUSY ∧
            u.rd F.TIER_SE_TEST.DONE = s.rd F.TIER_SE_TEST.DONE ∧ u.rd F.TIER_SE_TEST.REFUSED = s.rd F.TIER_SE_TEST.REFUSED) ∧
          (fieldOf F.TIER_SE_TEST.START v = 1 → idle →
            (may → u.rd F.TIER_SE_TEST.BUSY = 1 ∧ u.rd F.TIER_SE_TEST.DONE = 0 ∧ u.rd F.TIER_SE_TEST.REFUSED = 0) ∧
            (¬may → u.rd F.TIER_SE_TEST.BUSY = 0 ∧ u.rd F.TIER_SE_TEST.DONE = s.rd F.TIER_SE_TEST.DONE ∧ u.rd F.TIER_SE_TEST.REFUSED = 1)) ∧
          RegsKept [test, wake] s u)
        (exec (.seSelfTest t v) s)) ∧
    (∀ equal : Bool,
      (s.rd F.TIER_SE_TEST.BUSY = 0 → exec (.seSelfTestDone t equal) s = .next (s.at_ t)) ∧
      (s.rd F.TIER_SE_TEST.BUSY = 1 →
        Completes [.now, .regs, .free] s
          (fun u => u.rd F.TIER_SE_TEST.BUSY = 0 ∧ u.rd F.TIER_SE_TEST.DONE = 1 ∧ u.rd F.TIER_SE_TEST.PASS = b2n equal ∧
            (equal = true → u.rd F.TIER_SE_TEST_RESULT.DIGEST = Config.selfTestDigest.toNat) ∧ RegsKept [test, F.TIER_SE_TEST_RESULT.DIGEST.off] s u)
          (exec (.seSelfTestDone t equal) s)))

/-! ### Tiers and the logical window (07_tiers_placement.md) -/

/-- A read of an enabled window answers line by line, data or poison, and counts the poison, or waits while the page's channel is leased; a
write is answered, dropped and counted; in N3 the credit of either is withheld. The lease gap serves up to 32 waiters and lengthens the
command that holds the lease; a snoop answered frees its page; a late far or host read is counted and reissued once. -/
def Obligations.WindowReadsAndWrites : Prop :=
  ∀ (s : State) (t : Nat),
    let now := s.at_ t
    let wake := F.PWR_STATE.CURRENT.off
    let answer : Out → Option (Option Bytes) := fun o => match o with
      | .hdmData b => some (some b)
      | .hdmPoison => some none
      | _ => none
    let open_ (addr : Nat) : Prop := s.rd F.TIER_HDM.EN ≠ 0 ∧ addr < 2 ^ 57 ∧ s.tier.cxlUp = true
    let asleep : Prop := 3 ≤ s.rd F.PWR_STATE.CURRENT
    let withheld (addr : Nat) (len : Option Nat) (u : State) : Prop :=
      u.tier = { s.tier with withheld := s.tier.withheld ++ [(addr, len)] } ∧ RegsKept [wake] s u
    (∀ addr len : Nat,
      (¬open_ addr → exec (.hdmRead t addr len) s = .next now) ∧
      (open_ addr → asleep → Completes [.now, .regs, .tier, .power] s (withheld addr (some len)) (exec (.hdmRead t addr len) s)) ∧
      (∀ n : Nat, open_ addr → ¬asleep → s.hdmEngine addr = some n → now.leased n = true →
        Completes [.now, .regs, .engines, .power] s
          (fun u => u.engine n = { s.engine n with waiters := (s.engine n).waiters ++ [.hdm now.now addr len] } ∧
            (∀ m, m ≠ n → u.engine m = s.engine m) ∧ RegsKept [wake] s u)
          (exec (.hdmRead t addr len) s)) ∧
      (open_ addr → ¬asleep → (∀ n, s.hdmEngine addr = some n → now.leased n = false) →
        Completes [.now, .regs, .tier, .power, .out] s
          (fun u => u.out.filterMap answer = (linesOf addr len).reverse.map s.hdmLine ++ s.out.filterMap answer ∧
            u.rd F.TIER_HDM.POISON_READS = min (s.rd F.TIER_HDM.POISON_READS + ((linesOf addr len).filter (fun a => (s.hdmLine a).isNone)).length)
              (2 ^ F.TIER_HDM.POISON_READS.width - 1) ∧
            u.tier = { s.tier with snoop := u.tier.snoop } ∧ RegsKept [F.TIER_HDM.POISON_READS.off, wake] s u)
          (exec (.hdmRead t addr len) s))) ∧
    (∀ (addr : Nat) (data : Bytes),
      (¬open_ addr → exec (.hdmWrite t addr data) s = .next now) ∧
      (open_ addr → asleep → Completes [.now, .regs, .tier, .power] s (withheld addr none) (exec (.hdmWrite t addr data) s)) ∧
      (open_ addr → ¬asleep →
        Completes [.now, .regs, .power, .out] s
          (fun u => u.out = .hdmDone :: s.out ∧
            u.rd F.TIER_HDM.WRITES_DROPPED = min (s.rd F.TIER_HDM.WRITES_DROPPED + 1) (2 ^ F.TIER_HDM.WRITES_DROPPED.width - 1) ∧
            RegsKept [F.TIER_HDM.WRITES_DROPPED.off, wake] s u)
          (exec (.hdmWrite t addr data) s))) ∧
    (∀ n : Nat,
      (now.leaseBoundary n = false → exec (.leaseGap t n) s = .next now) ∧
      (now.leaseBoundary n = true →
        Completes [.now, .regs, .itin, .engines, .tier, .out, .free] s
          (fun u => (u.engine n).waiters = (s.engine n).waiters.drop 32 ∧
            u.engine n = { s.engine n with waiters := (u.engine n).waiters, leases := (u.engine n).leases } ∧
            (u.engine n).leases.length = (s.engine n).leases.length ∧ (∀ m, m ≠ n → u.engine m = s.engine m) ∧
            (∀ k, (s.plan (.engine n)).running = some k → (u.plan (.engine n)).running = some { k with costPs := k.costPs + 80000 }) ∧
            (∀ w, (u.plan w).placed = (s.plan w).placed ∧ (u.plan w).carry = (s.plan w).carry) ∧
            u.rd F.TIER_SE_LEASE.GAPS = (if ((s.engine n).waiters.take 32).any Waiter.isHdm then
              min (s.rd F.TIER_SE_LEASE.GAPS + 1) (2 ^ F.TIER_SE_LEASE.GAPS.width - 1) else s.rd F.TIER_SE_LEASE.GAPS))
          (exec (.leaseGap t n) s))) ∧
    (∀ ctx page : Nat,
      (s.tier.invalidating.contains (ctx, page) = false → exec (.snoopComplete t ctx page) s = .next now) ∧
      (s.tier.invalidating.contains (ctx, page) = true →
        Completes [.now, .ctxs, .tier] s
          (fun u => u.tier = { s.tier with invalidating := s.tier.invalidating.filter (fun e => e != (ctx, page)) } ∧
            u.ctx ctx = { s.ctx ctx with retiring := (s.ctx ctx).retiring.filter (fun n => n != page) } ∧ ∀ c, c ≠ ctx → u.ctx c = s.ctx c)
          (exec (.snoopComplete t ctx page) s))) ∧
    (∀ (late : LateTier) (ctx page : Nat),
      let f : Field := match late with | .far => F.TIER_LATE.FAR_LATE | .host => F.TIER_LATE.HOST_LATE
      (s.tier.reissued.contains (ctx, page) = true → exec (.farReadTimeout t late ctx page) s = .next now) ∧
      (s.tier.reissued.contains (ctx, page) = false →
        Completes [.now, .regs, .tier] s
          (fun u => u.tier = { s.tier with reissued := s.tier.reissued ++ [(ctx, page)] } ∧
            u.rd f = min (s.rd f + 1) (2 ^ f.width - 1) ∧
            u.rd F.TIER_LATE.REISSUED = min (s.rd F.TIER_LATE.REISSUED + 1) (2 ^ F.TIER_LATE.REISSUED.width - 1) ∧
            RegsKept [F.TIER_LATE.REISSUED.off] s u)
          (exec (.farReadTimeout t late ctx page) s)))

/-- A failed far or stack channel aborts the moves that use it; the pages of a far channel are poisoned and recorded; the CXL link's loss
aborts its moves and sets HOST_DOWN, and its training clears it with the width and rate trained. -/
def Obligations.ChannelsAndLinkFail : Prop :=
  ∀ (s : State) (t ch : Nat),
    let here (m : Move) : Bool := m.member.isNone || m.incoming.isSome
    ((16 ≤ ch ∨ s.farDown ch = true) → exec (.farChannelFail t ch) s = .next (s.at_ t)) ∧
    (ch < 16 → s.farDown ch = false →
      Completes [.now, .regs, .ctxs, .tiles, .tier, .health, .free] s
        (fun u => u.farDown ch = true ∧ (∀ k, k < 16 → k ≠ ch → u.farDown k = s.farDown k) ∧
          (∀ x ∈ s.pagesAt 2 ch, u.pagePoisoned x.1 x.2 = true) ∧
          u.tier = { s.tier with changed := u.tier.changed, moves := s.tier.moves.filter (fun m =>
            !((m.srcTier == 2 && m.srcHome == ch && m.incoming.isNone) || (here m && m.dst.tier == 2 && m.dst.home == ch))) } ∧
          u.health.seq = s.health.seq + 1 ∧
          RegsKept [F.TIER_FAR_FAULT.CHANNEL.off, F.TIER_MOVES.ABORTS.off, F.HEALTH_ERRCNT.LOST.off] s u)
        (exec (.farChannelFail t ch) s)) ∧
    ((192 ≤ ch ∨ s.channelDown ch = true) → exec (.stackChannelFail t ch) s = .next (s.at_ t)) ∧
    (ch < 192 → s.channelDown ch = false →
      Completes [.now, .regs, .ctxs, .engines, .tiles, .tier, .health, .free] s
        (fun u => u.engine ch = { s.engine ch with channelFailed := true } ∧ u.channelDown ch = true ∧ (∀ k, k ≠ ch → u.engine k = s.engine k) ∧
          u.tier = { s.tier with moves := s.tier.moves.filter (fun m => !(here m && m.dst.tier == 1 && m.dst.home == ch)) })
        (exec (.stackChannelFail t ch) s)) ∧
    Completes [.now, .regs, .tiles, .tier] s
      (fun u => u.rd F.TIER_PLACE_STATUS.HOST_DOWN = 1 ∧
        u.tier = { s.tier with cxlUp := false, moves := s.tier.moves.filter (fun m =>
          !((m.dst.tier == 4 && m.member.isNone) || (m.srcTier == 4 && m.incoming.isNone))) } ∧
        RegsKept [F.TIER_PLACE_STATUS.HOST_DOWN.off, F.TIER_MOVES.ABORTS.off] s u)
      (exec (.hostLinkDown t) s) ∧
    (∀ width rate : Nat,
      ((s.pins.perstLow = true ∨ s.rd F.ID_BOOT.STAGE < 3) → exec (.hostLinkUp t width rate) s = .next (s.at_ t)) ∧
      (s.pins.perstLow = false → 3 ≤ s.rd F.ID_BOOT.STAGE →
        Completes [.now, .regs, .tier] s
          (fun u => u.rd F.TIER_PLACE_STATUS.HOST_DOWN = 0 ∧ u.tier = { s.tier with cxlUp := true, cxlWidth := width, cxlRate := rate } ∧
            RegsKept [F.TIER_PLACE_STATUS.HOST_DOWN.off] s u)
          (exec (.hostLinkUp t width rate) s)))

/-- Collecting, relocating, retiring and erasing keep every page parked that was parked; a block collected or erased counts one erase and a
relocation for reads is counted; a retired block stays retired and the spare left is shown; an erased block holds no tombstone, and a key
whose last tombstone it held is gone. -/
def Obligations.BedrockBlocks : Prop :=
  ∀ (s : State) (t b : Nat),
    let now := s.at_ t
    let parked (u : State) : Prop := ∀ c p : Nat,
      (∃ x ∈ u.tier.parcels, x.ctx = c ∧ x.page = p) ↔ ∃ x ∈ s.tier.parcels, x.ctx = c ∧ x.page = p
    let rested := 3 ≤ s.rd F.PWR_STATE.CURRENT ∨ now.now < s.tier.gcUntil
    (rested → exec (.bedrockGc t) s = .next now) ∧
    (¬rested → s.mostGarbage = none →
      Completes [.now, .tier] s (fun u => parked u ∧ u.tier.gcUntil = s.tier.gcUntil) (exec (.bedrockGc t) s)) ∧
    (¬rested → s.mostGarbage = some b → mwf s.tier.blocks = true →
      Completes [.now, .tier] s
        (fun u => parked u ∧ u.tier.gcUntil = now.now + gcTime (2 * s.liveBytes b) ∧
          ∃ e x, mget s.tier.blocks b = some e ∧ mget u.tier.blocks b = some x ∧ x.erases = e.erases + 1 ∧ x.tombs = [] ∧ x.retired = false)
        (exec (.bedrockGc t) s)) ∧
    (s.liveBytes b = 0 → exec (.readDisturbRelocate t b) s = .next now) ∧
    (s.liveBytes b ≠ 0 →
      Completes [.now, .regs, .tier] s
        (fun u => parked u ∧ (∃ x, mget u.tier.blocks b = some x ∧ x.reads = 0 ∧
            ∀ e, mget s.tier.blocks b = some e → x.tombs = e.tombs ∧ x.erases = e.erases ∧ x.retired = e.retired) ∧
          u.rd F.TIER_BEDROCK.DISTURB = min (s.rd F.TIER_BEDROCK.DISTURB + 1) (2 ^ F.TIER_BEDROCK.DISTURB.width - 1) ∧
          RegsKept [F.TIER_BEDROCK.DISTURB.off] s u)
        (exec (.readDisturbRelocate t b) s)) ∧
    (∀ spare : Nat,
      let gone := ((mget s.tier.blocks b).map EraseBlock.retired).getD false
      (gone = true → exec (.blockRetire t b spare) s = .next now) ∧
      (gone = false →
        Completes [.now, .regs, .tier, .health, .free] s
          (fun u => parked u ∧ (∃ x, mget u.tier.blocks b = some x ∧ x.retired = true ∧ x.stripe = none ∧
              ∀ e, mget s.tier.blocks b = some e → x.tombs = e.tombs ∧ x.erases = e.erases) ∧
            u.rd F.TIER_BEDROCK.RETIRED = min (s.rd F.TIER_BEDROCK.RETIRED + 1) (2 ^ F.TIER_BEDROCK.RETIRED.width - 1) ∧
            u.rd F.TIER_BEDROCK.SPARE = spare % 2 ^ F.TIER_BEDROCK.SPARE.width ∧
            (spare < 40 → u.rd F.TIER_PLACE_STATUS.BEDROCK_LOW = 1) ∧ (spare < 20 → u.rd F.TIER_BEDROCK.READ_ONLY = 1))
          (exec (.blockRetire t b spare) s))) ∧
    (mget s.tier.blocks b = none → exec (.bedrockBlockErased t b) s = .next now) ∧
    (∀ e, mget s.tier.blocks b = some e →
      Completes [.now, .regs, .tier, .nv] s
        (fun u => parked u ∧ mget u.tier.blocks b = some { e with reads := 0, stripe := none, erases := e.erases + 1, tombs := [] } ∧
          ∀ c ∈ e.tombs, (s.ctx c).phase = .free → (∃ k, mget s.nv.keyStore c = some k ∧ k.tombstone = true) →
            (∀ x ∈ s.tier.blocks, x.1 ≠ b → c ∉ x.2.tombs) → mget u.nv.keyStore c = none)
        (exec (.bedrockBlockErased t b) s))

/-- A move's copy that ends is copied, or poisons its page and is recorded; a demotion that ends rewrites the page, or poisons it, and lets
the requests that waited for it go on. Neither ends before its task or its rate limit. -/
def Obligations.CopiesAndDemotionsEnd : Prop :=
  ∀ (s : State) (t : Nat),
    let now := s.at_ t
    (∀ (id : Nat) (bad : Option Nat),
      let found := s.tier.moves.find? (fun m => m.id == id && m.incoming.isNone && m.member.isNone && m.phase == .copying)
      (found = none → exec (.moveCopyComplete t id bad) s = .next now) ∧
      (∀ m : Move, found = some m →
        ((now.now < m.ready ∨ s.hkDue (.move id) = true) → exec (.moveCopyComplete t id bad) s = .next now) ∧
        (m.ready ≤ now.now → s.hkDue (.move id) = false →
          let wrong := bad.or ((mget (s.ctx m.ctx).pages m.page).bind Page.badPeb)
          Completes [.now, .regs, .ctxs, .tiles, .tier, .health, .free] s
            (fun u => u.tier.moves = s.tier.moves.map (fun x => if x.id == id && x.incoming.isNone then { x with phase := .copied } else x) ∧
              (wrong = none → u.ctxs = s.ctxs ∧ u.health = s.health ∧ u.regs = s.regs) ∧
              (wrong.isSome = true → u.pagePoisoned m.ctx m.page = true ∧ u.health.seq = s.health.seq + 1 ∧
                RegsKept [F.HEALTH_ERRCNT.LOST.off] s u))
            (exec (.moveCopyComplete t id bad) s)))) ∧
    (∀ (ctx page : Nat) (bad : Option Nat),
      let waits := s.assayOn ctx page || !s.scannable ctx page
      (waits = true → exec (.demotionComplete t ctx page bad) s = .next now) ∧
      (waits = false →
        Completes [.now, .regs, .itin, .reqs, .ctxs, .engines, .tiles, .locals, .conns, .links, .comp, .tier, .health, .dbg, .out, .free] s
          (fun u =>
            let done := now.demoteNow ctx page bad (now.scanUnit ctx page)
            u = done.demotionOver ctx page (!done.pagePoisoned ctx page) ∧
            (∀ (pg : Page) (p : Profile), mget (s.ctx ctx).pages page = some pg → (s.ctx ctx).profile = some p → pg.demotePending = true →
              (∃ q, mget (done.ctx ctx).pages page = some q ∧ q.pass = 0 ∧ q.demotePending = false ∧
                (bad = none → pg.badPeb = none → q.format = pg.passFmt ∧ q.rung = pg.pass)) ∧
              ((bad.isSome = true ∨ pg.badPeb.isSome = true) → done.pagePoisoned ctx page = true ∧ done.health.seq = s.health.seq + 1)))
          (exec (.demotionComplete t ctx page bad) s)))

/-! ### Requests and their operations (03_attention.md, 08_rings.md) -/

/-- Operands of the right length land once: kept, or, where they fail their check, the request's error; the anchor scan's end forms the
block's skip masks, and lets the other page-tasks start, once every bound pass and anchor page of the block is done. -/
def Obligations.OperandsLand : Prop :=
  ∀ (s : State) (t id : Nat),
    let now := s.at_ t
    let parts : List Part := [.now, .itin, .reqs, .ctxs, .engines, .tiles, .locals, .conns, .links, .health, .dbg, .out]
    (∀ (b : Nat) (data : Bytes),
      (s.req? id = none → exec (.operandsLanded t id b data) s = .next now) ∧
      (∀ (r : Req) (p : Profile), s.req? id = some r → r.profile.or (s.ctx r.ctx).profile = some p →
        let r1 := { r with operands := mset r.operands b data }
        ((r.operandBytes p.attn b ≠ some data.length ∨ mhas r.operands b = true) → exec (.operandsLanded t id b data) s = .next now) ∧
        (r.operandBytes p.attn b = some data.length → mhas r.operands b = false →
          (r.desc.isAttend = true → now.queryBad r1 b = true →
            Completes parts s (Answered s id 5 cQueryValue r.progress) (exec (.operandsLanded t id b data) s)) ∧
          (r.desc.isAttend = false → now.sourceBad r1 p data = true →
            Completes parts s (Answered s id 5 cKvValue 0) (exec (.operandsLanded t id b data) s)) ∧
          ((r.desc.isAttend = true → now.queryBad r1 b = false) → (r.desc.isAttend = false → now.sourceBad r1 p data = false) →
            Completes parts s
              (fun u => ∃ q, u.req? id = some q ∧ mget q.operands b = some data ∧ q.desc = r.desc ∧ q.admittedAt = r.admittedAt)
              (exec (.operandsLanded t id b data) s))))) ∧
    (∀ w : Work, now.workOf id = some w →
      ((w.skip = false ∨ ∀ b ∈ now.blocksOf id, now.skipReady id b = true ∨ now.anchorsDone w b = false) →
        Completes parts s (fun u => u = now.startAll) (exec (.anchorScanComplete t id) s)) ∧
      (∀ b, now.blocksOf id = [b] → w.skip = true → now.skipReady id b = false → now.anchorsDone w b = true →
        (now.formMasks id b).allTasks.filter ((now.formMasks id b).allSkip w b) = [] →
        Completes [.now, .itin, .reqs, .ctxs, .engines, .tiles, .conns, .links, .comp, .dbg, .out] s
          (fun u => u.skipReady id b = true) (exec (.anchorScanComplete t id) s)))

/-- ATTEND and ATTEND_CHUNK run their blocks in order; a block that has no task left, may run and whose shares this node can complete is
merged and marked done, and operands that fail their check end the request. -/
def Obligations.AttentionRuns : Prop :=
  ∀ (s : State) (t id : Nat) (r : Req), s.req? id = some r →
    let at_ := s.at_ t
    let parts : List Part := [.now, .regs, .itin, .reqs, .ctxs, .engines, .locals, .conns, .links, .tier, .health, .dbg, .out, .free]
    let all := (List.range r.desc.blocks).foldl (fun v b => v.advanceBlock id b) at_
    (r.desc.opcode = 1 →
      Completes parts s (fun u => u = all) (exec (.attend t id) s) ∧ exec (.attendChunk t id) s = .next at_) ∧
    (r.desc.opcode = 2 →
      Completes parts s (fun u => u = all) (exec (.attendChunk t id) s) ∧ exec (.attend t id) s = .next at_) ∧
    (r.desc.opcode = 1 → r.desc.blocks = 1 → exec (.attend t id) s = exec (.queryBlockComplete t id 0) s) ∧
    (∀ b, at_.scanBusy id b = true → exec (.queryBlockComplete t id b) s = .next at_) ∧
    (∀ (b : Nat) (q : Req) (p : Profile) (c : Conv),
      let now := at_.homeLeaves id b
      at_.scanBusy id b = false →
      (now.blockBusy id b = true → Completes parts s (fun u => u = now) (exec (.queryBlockComplete t id b) s)) ∧
      (now.blockBusy id b = false →
        now.req? id = some q → q.profile = some p → now.conv? q.ctx q.desc.conv = some c →
        q.desc.isAttend = true → now.mayAct q = true → b < q.desc.blocks → q.doneBlocks.contains b = false →
        (q.cancelledBy = none ∨ q.startedBlocks.contains b = true) →
        (now.blockRows q p b = none → mhas q.operands b = true →
          Completes parts s (Answered now id 5 cQueryValue q.progress) (exec (.queryBlockComplete t id b) s)) ∧
        (now.blockRows q p b = none → mhas q.operands b = false → Completes parts s (fun u => u = now) (exec (.queryBlockComplete t id b) s)) ∧
        (∀ rows, now.blockRows q p b = some rows →
          let begun := (now.openShares q p b).startBlock id b
          let shares := begun.homeShares q p c b rows
          Completes parts s
            (fun u => (shares.1 = false → u = shares.2) ∧
              (∀ x, shares.1 = true → shares.2.req? id = some x →
                (x.shares.filter (fun y => y.block == b)).isEmpty = false → (∀ y ∈ x.shares, y.block = b → y.rows.isSome = true) →
                u.req? id = none ∨ ∃ z, u.req? id = some z ∧ z.doneBlocks.contains b = true))
            (exec (.queryBlockComplete t id b) s))))

/-- What an operation has when its effect is written: without a demotion or an acknowledgement to wait for it is answered with STATE 4 and
its PROGRESS at once, else it stays tracked with that PROGRESS. -/
def Obligations.EffectsAreAnswered : Prop :=
  ∀ (s : State) (id progress : Nat) (ds : List Nat) (r : Req), s.req? id = some r →
    (ds = [] → Unhindered s r → Answered s id 4 0 (if r.desc.opcode = 8 then r.demoted else progress) (s.effect id progress ds)) ∧
    ((ds ≠ [] ∨ ¬Unhindered s r) →
      (s.effect id progress ds).req? id = some { r with effectDone := true, progress := progress, demotions := r.demotions ++ ds } ∧
      (s.effect id progress ds).out = s.out)

/-- APPEND, SEAL, FORK, TRIM, RELEASE and HINT act on an admitted request that nothing before it holds back: on the checks' failure the
request ends with the check's code, and else with the lengths, seals, references, pins and park records that the manual gives. -/
def Obligations.OperationsChangeConversations : Prop :=
  ∀ (s : State) (t id op : Nat) (c : Instr),
    [(3, Instr.append t id), (4, .seal t id), (5, .fork t id), (6, .trim t id), (7, .release t id), (8, .hint t id)].contains (op, c) = true →
    let now := s.at_ t
    (now.acting id op = none → exec c s = .next now) ∧
    (∀ (r : Req) (p : Profile) (v : Conv), now.acting id op = some (r, p, v) →
      let parts : List Part :=
        [.now, .regs, .itin, .reqs, .ctxs, .engines, .tiles, .locals, .conns, .links, .tier, .health, .dbg, .out] ++
          (if op = 8 then [.nv] else [.comp]) ++ (if op = 3 ∨ op = 6 then [.free] else [])
      let data := (mget r.operands 0).getD []
      let heads := (List.range r.desc.kvhCount).map (now.planHead r p v data)
      let away := heads.any (fun h => match h with | .away _ => true | _ => false)
      (op = 3 → data.length < r.sourceBytes p.attn → exec c s = .next now) ∧
      (op = 3 → r.sourceBytes p.attn ≤ data.length →
        (∀ code bad, firstFail heads = some (code, bad) → Completes parts s (Answered s id 5 code 0) (exec c s)) ∧
        (firstFail heads = none → away = true → Completes parts s (fun u => u = now.askBack r heads) (exec c s)) ∧
        (firstFail heads = none → away = false →
          let plans := okPlans heads
          let new := plans.flatMap (·.2)
          let fits := (now.ctx r.ctx).quotaOk ((now.ctx r.ctx).pinnedConv v) (new.filter PagePlan.starts).length = true ∧
            (new.filter PagePlan.numbers).length ≤ (now.ctx r.ctx).freeNumbers
          (¬fits → Completes parts s (Answered s id 5 cQuota 0) (exec c s)) ∧
          (fits → now.applyPlans r p plans = none → exec c s = .next now) ∧
          (fits → (now.applyPlans r p plans).isSome = true →
            Completes parts s
              (fun u => ∃ w : State, u = w.effect id r.desc.tokenSpan [] ∧
                ∀ x ∈ plans, ∃ y, w.conv? r.ctx r.desc.conv = some y ∧ y.len x.1 = r.desc.tokenFirst + r.desc.tokenSpan)
              (exec c s)))) ∧
      (op = 4 →
        let asked := v.pageMap.any (fun e => e.2.asked && !e.2.poisoned && !e.2.lost)
        (asked = true → exec c s = .next now) ∧
        (asked = false →
          Completes parts s
            (fun u => ∃ (w : State) (ds : List Nat), u = w.effect id (now.sealable r.ctx v).length ds ∧
              ∀ x ∈ now.sealable r.ctx v, ∃ q, mget (w.ctx r.ctx).pages x.2.1 = some q ∧ q.isSealed = true)
            (exec c s))) ∧
      (op = 5 → now.conv? r.ctx r.desc.queryRkey = none → Completes parts s (Answered s id 5 cNoConv 0) (exec c s)) ∧
      (∀ src, op = 5 → now.conv? r.ctx r.desc.queryRkey = some src →
        let span := forkSpan p.attn r.desc src
        (∀ code, now.forkCode r.ctx p.attn src span = some code → Completes parts s (Answered s id 5 code 0) (exec c s)) ∧
        (now.forkCode r.ctx p.attn src span = none →
          Completes parts s
            (fun u => ∃ w : State, u = w.effect id (forkEntries p.attn src span).length [] ∧
              (∃ y, w.conv? r.ctx r.desc.conv = some y ∧ y.creator = none ∧ (∀ hk ∈ allHeads p.attn, y.len hk = span) ∧
                y.pageMap.map Prod.fst = (forkEntries p.attn src span).map Prod.fst) ∧
              ∀ e ∈ forkEntries p.attn src span, now.ownsSlot e.2.member = true → ∀ pg, mget (now.ctx r.ctx).pages e.2.page = some pg →
                ∃ q, mget (w.ctx r.ctx).pages e.2.page = some q ∧ pg.refs < q.refs ∧ q.shared = true)
            (exec c s))) ∧
      (op = 6 → (∀ x ∈ v.pageMap, now.assayOn r.ctx x.2.page = false) →
        let cut (u : State) : Prop := ∃ (w : State) (n : Nat), u = w.effect id n [] ∧
          ∃ y, w.conv? r.ctx r.desc.conv = some y ∧ ∀ hk, y.len hk = min (v.len hk) r.desc.tokenFirst
        ((∀ e ∈ trimmed v r.desc.tokenFirst, r.desc.tokenFirst ≤ 128 * (e.1 % 2 ^ 25)) → Completes parts s cut (exec c s)) ∧
        Completes parts s (fun u => cut u ∨ (u.reqs = s.reqs ∧ u.ctxs = s.ctxs)) (exec c s)) ∧
      (op = 7 →
        Completes parts s
          (fun u => ∃ w : State, u = (w.effect id v.pageMap.length []).settleAll ∧ w.conv? r.ctx r.desc.conv = none)
          (exec c s)) ∧
      (op = 8 →
        ((r.desc.qgroup = 1 ∨ r.desc.qgroup = 2) →
          Completes parts s (fun u => u = now.effect id 0 [] ∧ (Unhindered s r → Answered s id 4 0 r.demoted u)) (exec c s)) ∧
        (r.desc.qgroup = 3 →
          Completes parts s
            (fun u => (∃ (w : State) (ds : List Nat), u = w.effect id ds.length ds) ∧
              (striped (pagesOf ((v.lens.map Prod.snd).foldl max 0)) now.nc p.place = false →
                ∃ k ∈ u.nv.parks, k.ctx = r.ctx ∧ k.conv = r.desc.conv))
            (exec c s)) ∧
        (r.desc.qgroup ≠ 1 → r.desc.qgroup ≠ 2 → r.desc.qgroup ≠ 3 → Completes parts s (Answered s id 5 cHintOp 0) (exec c s))))

/-- EXPORT writes the parcels from the first page on and ends at the first that is poisoned or fails its check; IMPORT takes parcels until
one fails, which ends it, or all have come, when the conversation has its lengths; PROBE writes the report taken at its admission. -/
def Obligations.OperationsCopyPages : Prop :=
  ∀ (s : State) (t id op : Nat) (parcels : List Bytes) (c : Instr),
    [(9, Instr.exportPages t id), (10, .importPages t id parcels), (12, .probe t id)].contains (op, c) = true →
    let now := s.at_ t
    (now.acting id op = none → exec c s = .next now) ∧
    (∀ (r : Req) (p : Profile) (v : Conv), now.acting id op = some (r, p, v) →
      let base : List Part := [.now, .itin, .reqs, .ctxs, .engines, .locals, .conns, .links, .health, .dbg, .out]
      let entries := exportEntries p.attn r.desc v
      (op = 9 →
        Completes (base ++ [.regs, .tier, .free]) s
          (fun u => u = now.exportFrom r p r.desc.resultAddr 0 entries ∧
            (entries = [] → Unhindered s r → Answered s id 4 0 0 u) ∧
            (∀ e es, entries = e :: es →
              (∀ peb w, now.exportOne r.ctx p e.2 = (.inr peb, w) → Answered s id 5 cPageCorrupt 0 u) ∧
              (∀ data w, now.exportOne r.ctx p e.2 = (.inl data, w) → Out.result (ringDest r.ring) r.desc.resultAddr data ∈ u.out)))
          (exec c s)) ∧
      (op = 10 →
        let parts := base ++ [.regs, .tiles, .comp, .tier, .free]
        let total := importCount p.attn r.desc.tokenSpan
        let fits := (now.ctx r.ctx).quotaOk ((now.ctx r.ctx).pinnedConv v) total = true ∧ total ≤ (now.ctx r.ctx).freeNumbers
        (r.progress = 0 → ¬fits → Completes parts s (Answered s id 5 cQuota 0) (exec c s)) ∧
        ((r.progress ≠ 0 ∨ fits) →
          let took := now.importFrom r p v r.progress parcels
          (took.1 = none → took.2.1 < total → Completes parts s (fun u => u = took.2.2.partialWord id took.2.1) (exec c s)) ∧
          (∀ n, took.1 = some n → Completes parts s (Answered s id 5 cImportFormat n) (exec c s)) ∧
          (took.1 = none → total ≤ took.2.1 →
            Completes parts s
              (fun u => ∃ w : State, u = w.effect id total [] ∧ ∃ y, w.conv? r.ctx r.desc.conv = some y ∧ y.creator = none ∧
                ∀ hk ∈ allHeads p.attn, y.len hk = r.desc.tokenSpan)
              (exec c s)))) ∧
      (op = 12 →
        Completes base s
          (fun u => u = (now.writeResult (ringDest r.ring) r.order r.desc.resultRkey r.desc.resultAddr (clsNum r.cls)
            ((mget r.operands 0).getD (now.probeReport r.ctx p r.desc v))).effect id (namedHeads p.attn r.desc).length [])
          (exec c s)))

/-- A mode-0 FENCE is admitted when it is eligible and the node admits, and is answered once nothing fetched before it in its ring and context
is left; a mode 1 or 2 FENCE ends the requests it cancels that are not admitted with STATE 6, and is answered with their number when it stops
none that runs. -/
def Obligations.FencesWaitAndCancel : Prop :=
  ∀ (s : State) (t id : Nat),
    let now := s.at_ t
    let ended : List Part := [.now, .itin, .reqs, .ctxs, .engines, .locals, .conns, .links, .health, .dbg, .out]
    (s.req? id = none →
      exec (.fence t id) s = .next now ∧ exec (.fenceComplete t id) s = .next now ∧ exec (.fenceCancel t id) s = .next now) ∧
    (∀ r : Req, s.req? id = some r →
      let plain : Prop := r.desc.opcode = 11 ∧ r.desc.qgroup = 0
      let comes : Prop := now.fenceReady r = true ∧ now.admitting = true
      (¬plain → exec (.fence t id) s = .next now ∧ exec (.fenceComplete t id) s = .next now) ∧
      (plain →
        (r.admittedAt = none → ¬comes → exec (.fence t id) s = .next now) ∧
        ((r.admittedAt.isSome = true ∨ comes) →
          (s.fencedBefore r = [] → Completes ended s (Answered s id 4 0 0) (exec (.fence t id) s)) ∧
          (s.fencedBefore r ≠ [] →
            Completes [.now, .reqs] s
              (fun u => (∃ q, u.req? id = some q ∧ q = { r with admittedAt := some (r.admittedAt.getD now.now) }) ∧
                ∀ i, i ≠ id → u.req? i = s.req? i)
              (exec (.fence t id) s))) ∧
        ((r.admittedAt = none ∨ s.fencedBefore r ≠ []) → exec (.fenceComplete t id) s = .next now) ∧
        (r.admittedAt.isSome = true → s.fencedBefore r = [] → Completes ended s (Answered s id 4 0 0) (exec (.fenceComplete t id) s))) ∧
      (let cancels : Prop := (r.desc.qgroup = 1 ∨ r.desc.qgroup = 2) ∧ comes
       let hit := (s.fencedBefore r).filter (fun q => r.desc.qgroup == 1 || q.desc.conv == r.desc.conv)
       (¬cancels → exec (.fenceCancel t id) s = .next now) ∧
       (cancels →
        Completes (ended ++ [.regs, .tiles, .comp, .tier]) s
          (fun u => (∀ q ∈ hit, q.admittedAt = none → u.req? q.id = none ∧ (s.req? q.id = some q → Answered s q.id 6 cCancelled 0 u)) ∧
            ((∀ q ∈ hit, q.admittedAt = none ∧ q.id ≠ id) → (∀ q ∈ s.reqs, q.cancelledBy ≠ some id) →
              Answered s id 4 0 (r.progress + hit.length) u))
          (exec (.fenceCancel t id) s))))

/-! ### Rings (08_rings.md) -/

/-- A doorbell moves a running ring's producer index when it is new and fits the ring, puts the ring into BAD_BELL and tells so when it does
not fit, and does nothing to a ring that is off; a BELL with RESYNC at the consumer index starts a stopped ring again; one for a context not
in service is answered with a NAK, and one that must wait is held. -/
def Obligations.DoorbellsMoveTheProducer : Prop :=
  ∀ (s : State) (t : Nat),
    let dist (a b : Nat) : Nat := (a + 2 ^ 32 - b % 2 ^ 32) % 2 ^ 32
    let new (r : RingState) (pi : Nat) : Prop := r.rstate = 0 ∧ 0 < dist pi r.pi ∧ dist pi r.pi < 2 ^ 31
    (∀ (n : Nat) (v : Word), s.ready = false → exec (.ringDbWrite t n v) s = .next (s.at_ t)) ∧
    (∀ (n : Nat) (v : Word), s.ready = true →
      let r := s.ring (.localRing n)
      let pi := fieldOf F.RING_DB.PI v
      let size := 2 ^ (s.ringConf (.localRing n)).log2
      let parts : List Part := [.now, .regs, .itin, .ctxs, .locals, .conns, .links, .power, .dbg, .out]
      (¬new r pi → exec (.ringDbWrite t n v) s = .next (s.at_ t).wakeUp) ∧
      (new r pi → dist pi r.consumer ≤ size →
        Completes parts s (fun u => (u.ring (.localRing n)).pi = pi ∧ (u.ring (.localRing n)).bells = r.bells ++ [(pi, false, s.comp.epoch)] ∧
          (u.ring (.localRing n)).consumer = r.consumer ∧ RegsKept [F.PWR_STATE.CURRENT.off] s u)
        (exec (.ringDbWrite t n v) s)) ∧
      (new r pi → size < dist pi r.consumer →
        Completes parts s (fun u => u.ring (.localRing n) = { r with rstate := 1 } ∧
          u.rd F.RING_EVENTS.BAD_BELL = min (s.rd F.RING_EVENTS.BAD_BELL + 1) (2 ^ F.RING_EVENTS.BAD_BELL.width - 1) ∧
          RegsKept [F.RING_EVENTS.BAD_BELL.off, F.PWR_STATE.CURRENT.off] s u)
        (exec (.ringDbWrite t n v) s))) ∧
    (∀ (p : Pkt) (x : RxPkt) (w : State) (c : Conn), (s.at_ t).arrives p [8] = some (x, w) → w.conn? x.slot = some c →
      let b := parseBell x.p.payload
      let ring : RingRef := .partner x.slot b.ring
      let r := w.ring ring
      let size := 2 ^ (w.ringConf ring).log2
      let parts : List Part := [.now, .regs, .itin, .ctxs, .locals, .conns, .links, .comp, .health, .power, .dbg, .out, .free]
      let known := (c.rxMsg? x.h.msg).isSome
      let served := w.inService c.entry.ctx
      let waits := x.h.isRelease && c.mustWait x.h.msg
      (known = true → Completes parts s (fun u => u = w.noteArrival x (w.hasPacket x)) (exec (.bell t p) s)) ∧
      (known = false → served = false →
        Completes parts s (fun u => u = (w.answerNak x 0x0A).noteArrival x (w.hasPacket x)) (exec (.bell t p) s)) ∧
      (known = false → served = true → waits = true →
        Completes parts s
          (fun u => u = (w.holdMsg x).noteArrival x (w.hasPacket x) ∧
            ∀ i, (u.ring (.partner x.slot i)).pi = (w.ring (.partner x.slot i)).pi)
          (exec (.bell t p) s)) ∧
      (known = false → served = true → waits = false → c.state = 3 →
        (new r b.pi → b.ring < c.rings.length →
          Completes parts s
            (fun u => (u.ring ring).consumer = r.consumer ∧
              (dist b.pi r.consumer ≤ size → (u.ring ring).pi = b.pi ∧ (u.ring ring).rstate = 0) ∧
              (size < dist b.pi r.consumer → (u.ring ring).pi = r.pi ∧ (u.ring ring).rstate = 1))
            (exec (.bell t p) s)) ∧
        (b.resync = true → r.rstate ≠ 0 → r.rstate ≠ 3 → b.pi = r.consumer →
          Completes parts s (fun u => (u.ring ring).rstate = 0 ∧ (u.ring ring).pi = r.consumer) (exec (.bell t p) s)) ∧
        (r.rstate ≠ 0 → (b.resync = false ∨ b.pi ≠ r.consumer ∨ r.rstate = 3) →
          Completes parts s (fun u => (u.ring ring).rstate = r.rstate ∧ (u.ring ring).pi = r.pi) (exec (.bell t p) s))))

/-- Enabling a local ring that is off starts it at index 0 and tells so; disabling one that is on turns it off and drops what it has fetched;
a descriptor fetched is kept until its turn, and the entry at the consumer index is passed, with those behind it. -/
def Obligations.RingsStartStopAndPass : Prop :=
  ∀ (s : State) (t : Nat),
    (∀ (n : Nat) (v : Word),
      let ring : RingRef := .localRing n
      let parts : List Part := [.now, .regs, .live, .itin, .ctxs, .locals, .conns, .links, .power, .dbg, .out]
      let kept : State → Prop := RegsKept [F.RING_LCTL.EN.at_ n, F.PWR_STATE.CURRENT.off] s
      ((s.ready = false ∨ 16 ≤ n) → exec (.ringEnable t n v) s = .next (s.at_ t) ∧ exec (.ringDisable t n v) s = .next (s.at_ t)) ∧
      (s.ready = true → n < 16 →
        (s.rd F.RING_LCTL.EN n = 1 → exec (.ringEnable t n v) s = .next (s.at_ t).wakeUp) ∧
        (s.rd F.RING_LCTL.EN n = 0 →
          Completes parts s
            (fun u => u.rd F.RING_LCTL.EN n = 1 ∧ u.ring ring = { RingState.off with rstate := 0 } ∧
              (∀ m, m ≠ n → u.ring (.localRing m) = s.ring (.localRing m)) ∧
              (s.comp.isolated = false → ∃ w, Out.ringStatus .host (u.ringConf ring).rswAddr w ∈ u.out) ∧ kept u)
            (exec (.ringEnable t n v) s) ∧
          Completes [.now, .regs, .live, .power] s (fun u => u.rd F.RING_LCTL.EN n = 0 ∧ kept u) (exec (.ringDisable t n v) s)) ∧
        (s.rd F.RING_LCTL.EN n = 1 →
          Completes parts s
            (fun u => u.rd F.RING_LCTL.EN n = 0 ∧ (u.ring ring).rstate = 3 ∧ (u.ring ring).fetches = [] ∧
              (∀ i, mget (u.ring ring).ready i = none) ∧ kept u)
            (exec (.ringDisable t n v) s)))) ∧
    (∀ (ring : RingRef) (i : Nat) (entry : Bytes),
      let r := s.ring ring
      let taken : Prop := r.rstate ≠ 3 ∧ r.fetching i = true ∧ mhas r.ready i = false ∧ entry.length = 64
      (¬taken → exec (.descriptorFetched t ring i entry) s = .next (s.at_ t)) ∧
      (taken →
        Completes [.now, .regs, .itin, .reqs, .nextOrder, .nextSeq, .ctxs, .engines, .locals, .conns, .links, .health, .dbg, .out] s
          (fun u =>
            (mhas r.ready r.consumer = false → i ≠ r.consumer →
              (u.ring ring).consumer = r.consumer ∧ mget (u.ring ring).ready i = some entry ∧ u.reqs = s.reqs) ∧
            (i = r.consumer → ∃ k, 1 ≤ k ∧ k ≤ 65536 ∧ (u.ring ring).consumer = (r.consumer + k) % 2 ^ 32))
          (exec (.descriptorFetched t ring i entry) s)))

/-! ### The trail: packets that read and write exchange memory (09_trail.md) -/

/-- A WRITE packet that may be placed stores its payload at its message's address plus its offset and changes no other byte; one whose key
fails is answered with a NAK, one that must wait is held, and neither stores anything. -/
def Obligations.WritesStoreTheirPayload : Prop :=
  ∀ (s w : State) (t : Nat) (p : Pkt) (x : RxPkt) (c : Conn), (s.at_ t).arrives p [1] = some (x, w) → w.conn? x.slot = some c →
    let parts : List Part := [.now, .regs, .ctxs, .conns, .links, .comp, .health, .dbg, .out, .free]
    let code := w.regionCode c.entry.ctx 1 x.h.rkey x.h.addr x.h.len
    let waits := x.h.isRelease && c.mustWait x.h.msg
    (∀ m, c.rxMsg? x.h.msg = some m → m.held = false → m.abandoned = false →
      Completes parts s (fun u => Stored s u c.entry.ctx (m.addr + x.h.off) x.p.payload) (exec (.write t p) s)) ∧
    (c.rxMsg? x.h.msg = none → code = 0 → waits = false →
      Completes parts s (fun u => Stored s u c.entry.ctx (x.h.addr + x.h.off) x.p.payload) (exec (.write t p) s)) ∧
    (c.rxMsg? x.h.msg = none → code ≠ 0 →
      Completes parts s (fun u => XmemKept s u ∧ u = (w.answerNak x code).noteArrival x (w.hasPacket x)) (exec (.write t p) s)) ∧
    ((∀ m, c.rxMsg? x.h.msg = some m → m.held = true ∨ m.abandoned = true) →
      (c.rxMsg? x.h.msg = none → code ≠ 0 ∨ waits = true) →
      Completes parts s (fun u => XmemKept s u) (exec (.write t p) s)) ∧
    (c.rxMsg? x.h.msg = none → code = 0 → waits = true → c.heldCount < 256 →
      Completes parts s
        (fun u => ∃ c' m, u.conn? x.slot = some c' ∧ c'.rxMsg? x.h.msg = some m ∧ m.held = true ∧ m.buf = [(0, x.p.payload)])
        (exec (.write t p) s))

/-- A READ_REQ that may be served answers the bytes as they are and changes none; an atomic reads 8 bytes, answers what it read, and stores
the sum, or the swap where the comparison holds. -/
def Obligations.ReadsAndAtomics : Prop :=
  ∀ (s w : State) (t : Nat) (p : Pkt) (x : RxPkt) (c : Conn) (type : Nat) (cmd : Instr),
    [(2, Instr.readReq t p), (5, .atomicAdd t p), (6, .atomicCas t p)].contains (type, cmd) = true →
    (s.at_ t).arrives p [type] = some (x, w) → w.conn? x.slot = some c →
    let parts : List Part := [.now, .regs, .ctxs, .conns, .links, .comp, .health, .dbg, .out, .free] ++ (if type = 2 then [.itin] else [])
    let ctx := c.entry.ctx
    let code := w.regionCode ctx type x.h.rkey x.h.addr x.h.len
    let waits := x.h.isRelease && c.mustWait x.h.msg
    let known := (c.rxMsg? x.h.msg).isSome
    let old := le (Memory.readN (s.xmem ctx) x.h.addr 8) 0 8
    ((known = true ∨ code ≠ 0 ∨ waits = true) → Completes parts s (fun u => XmemKept s u) (exec cmd s)) ∧
    (type = 2 → known = false → code = 0 → waits = false →
      Completes parts s
        (fun u => XmemKept s u ∧ .readResp x.slot x.h.msg (Memory.readN (s.xmem ctx) x.h.addr x.h.len) ∈ u.out) (exec cmd s)) ∧
    (type = 5 → known = false → code = 0 → waits = false →
      Completes parts s
        (fun u => Stored s u ctx x.h.addr (leBytes 8 ((old + le x.p.payload 0 8) % 2 ^ 64)) ∧
          .atomicResp x.slot x.h.msg (BitVec.ofNat 64 old) ∈ u.out) (exec cmd s)) ∧
    (type = 6 → known = false → code = 0 → waits = false →
      Completes parts s
        (fun u => Stored s u ctx x.h.addr (leBytes 8 (if old = le x.p.payload 0 8 then le x.p.payload 8 8 else old)) ∧
          .atomicResp x.slot x.h.msg (BitVec.ofNat 64 old) ∈ u.out) (exec cmd s))

/-! ### The trail: acknowledgements, repair, links (09_trail.md) -/

/-- What an authenticated answer does at the sender: a READ_RESP fills its read, which is over when every packet has come; a SACK moves the
acknowledged point and the credits; a NAK with code 5 to 10 fails the connection; POLICED holds a class back. One that fails its checks has
no other effect. -/
def Obligations.AnswersReachTheSender : Prop :=
  ∀ (s w : State) (t : Nat) (p : Pkt) (type : Nat) (cmd : Instr),
    [(3, Instr.readResp t p), (9, .sack t p), (10, .nak t p), (11, .policed t p)].contains (type, cmd) = true →
    let checked : List Part := [.now, .regs, .conns, .links, .comp, .health, .out, .free]
    ((s.at_ t).checks p [type] = (none, w) → Completes checked s (fun u => u = w) (exec cmd s)) ∧
    (∀ (x : RxPkt) (c : Conn), (s.at_ t).checks p [type] = (some x, w) → w.conn? x.slot = some c →
      let parts := checked ++ (if type = 9 ∨ type = 10 then [.itin, .reqs, .ctxs, .engines, .locals, .dbg] else [])
      (type = 3 →
        Completes parts s
          (fun u => ∃ v, u.conn? x.slot = some v ∧ (∀ r ∈ v.tx.reads, r.got.length < packetCount r.len) ∧
            (∀ r ∈ c.tx.reads, (r.msg % 2 ^ 32 ≠ x.h.msg ∨ r.len ≠ x.h.len) → r.got.length < packetCount r.len → r ∈ v.tx.reads) ∧
            (∀ r ∈ c.tx.reads, r.msg % 2 ^ 32 = x.h.msg → r.len = x.h.len → r.got.any (fun g => g.1 == x.h.off) = false →
              r.got.length + 1 < packetCount r.len →
              { r with lastAt := u.now, got := r.got ++ [(x.h.off, x.p.payload)] } ∈ v.tx.reads))
          (exec cmd s)) ∧
      (type = 9 →
        let b := parseSack x.p.payload
        let d := msgDist b.cum c.tx.cum
        Completes parts s
          (fun u => ∃ v, u.conn? x.slot = some v ∧
            (v.state = 5 ∨ (v.tx.cum = (if d ≤ c.tx.nextMsg - c.tx.cum then c.tx.cum + d else c.tx.cum) ∧ v.tx.credits = b.credits)))
          (exec cmd s)) ∧
      (type = 10 →
        let code := be x.p.payload 0 1
        let msg := be x.p.payload 4 4
        (c.sentKind msg = none → Completes parts s (fun u => u = w) (exec cmd s)) ∧
        (∀ kind, c.sentKind msg = some kind →
          (5 ≤ code → code ≤ 10 → 2 ≤ c.state → c.state ≠ 5 → Completes parts s (fun u => ConnFailed w u x.slot) (exec cmd s)) ∧
          (5 ≤ code → code ≤ 10 → (c.state < 2 ∨ c.state = 5) → Completes parts s (fun u => u = w) (exec cmd s)) ∧
          (code = 11 → Completes parts s (fun u => u = (w.onEpochMoved x.slot msg c).flushConn x.slot) (exec cmd s)) ∧
          (1 ≤ code → code ≤ 4 →
            Completes parts s (fun u => u = (((w.dropSent x.slot msg).onRegionNak x.slot msg kind).settleAll).flushConn x.slot) (exec cmd s)) ∧
          ((code = 0 ∨ 11 < code) → Completes parts s (fun u => u = w) (exec cmd s)))) ∧
      (type = 11 →
        Completes parts s
          (fun u => u.conn? x.slot =
              some { c with tx := { c.tx with waitUntil := mset c.tx.waitUntil (be x.p.payload 0 1) (u.now + be x.p.payload 8 4) } } ∧
            ∀ i, i ≠ x.slot → u.conn? i = w.conn? i)
          (exec cmd s)))

/-- The timers of a connection do nothing before they are due; then a SACK goes out, a read asks again for what it misses, a path's expiries
count and suspend it, a packet goes again, or the connection fails. -/
def Obligations.ConnectionTimers : Prop :=
  ∀ (s : State) (t slot : Nat),
    let now := s.at_ t
    (s.conn? slot = none → ∀ a b : Nat,
      exec (.sackDelayExpiry t slot) s = .next now ∧ exec (.readRespRerequest t slot a) s = .next now ∧
      exec (.rtoExpiry t slot a) s = .next now ∧ exec (.pathProbe t slot a) s = .next now ∧ exec (.deadTimer t slot) s = .next now ∧
      exec (.reorderAllowanceExpiry t slot a b) s = .next now ∧ exec (.operationBucketRefill t slot) s = .next now) ∧
    (∀ c : Conn, s.conn? slot = some c →
    let talking : List Part := [.now, .itin, .ctxs, .conns, .links, .dbg, .out]
    let failed : List Part := [.now, .regs, .reqs, .ctxs, .conns, .comp, .health, .free]
    let sending : List Part := [.now, .regs, .itin, .reqs, .ctxs, .conns, .links, .comp, .health, .dbg, .out, .free]
    let failing : Prop := 2 ≤ c.state ∧ c.state ≠ 5
    let retx (u : State) : Prop := u.rd F.NET_EVENTS.RETX = min (s.rd F.NET_EVENTS.RETX + 1) (2 ^ F.NET_EVENTS.RETX.width - 1)
    ((∀ a, c.rx.sinceAt = some a → now.now < a + s.lv F.NET_ACK.SACK_NS) → exec (.sackDelayExpiry t slot) s = .next now) ∧
    (∀ a, c.rx.sinceAt = some a → a + s.lv F.NET_ACK.SACK_NS ≤ now.now →
      Completes [.now, .ctxs, .conns, .links, .dbg, .out] s
        (fun u => (now.openPaths c ≠ [] → ∃ path body rest, u.out = .control slot 9 path body :: rest) ∧
          ∃ v, u.conn? slot = some v ∧ v.rx.sincePkts = 0 ∧ v.rx.sinceAt = none ∧ v.rx.cum = c.rx.cum ∧ v.rx.msgs = c.rx.msgs)
        (exec (.sackDelayExpiry t slot) s)) ∧
    (∀ (msg : Nat) (r : ReadOut), c.tx.reads.find? (fun r => r.msg == msg) = some r →
      let miss := missingRanges (r.got.map Prod.fst) r.len
      let later := r.got.any (fun g => match miss with | m :: _ => decide (m.1 < g.1) | [] => false)
      let due := r.lastAt + (if later then s.lv F.NET_RETX.REO_NS else s.rto (c.path r.path))
      (now.now < due → exec (.readRespRerequest t slot msg) s = .next now) ∧
      (due ≤ now.now → s.lv F.NET_RETX.RETX_MAX ≤ r.tries → failing →
        Completes failed s (fun u => ConnFailed s u slot) (exec (.readRespRerequest t slot msg) s)) ∧
      (due ≤ now.now → r.tries < s.lv F.NET_RETX.RETX_MAX →
        Completes talking s
          (fun u => ∃ v, u.conn? slot = some v ∧
            v.tx.reads.map (fun q => (q.rkey, q.addr, q.len, q.tries)) =
              (c.tx.reads.filter (fun q => q.msg != msg)).map (fun q => (q.rkey, q.addr, q.len, q.tries)) ++
                miss.map (fun m => (r.rkey, r.addr + m.1, m.2, r.tries + 1)))
          (exec (.readRespRerequest t slot msg) s))) ∧
    (∀ path : Nat,
      let due := c.tx.pkts.filter (fun k => !k.held && !k.lost && k.path == path && decide (k.sentAt + s.rto (c.path path) ≤ now.now))
      (due = [] → exec (.rtoExpiry t slot path) s = .next now) ∧
      (due ≠ [] → path < c.tx.paths.length →
        Completes sending s
          (fun u => u.rd F.NET_EVENTS.RTO = min (s.rd F.NET_EVENTS.RTO + 1) (2 ^ F.NET_EVENTS.RTO.width - 1) ∧
            ∃ v, u.conn? slot = some v ∧ (v.state = 5 ∨ ((v.path path).expiries = (c.path path).expiries + 1 ∧
              (3 ≤ (c.path path).expiries + 1 → (v.path path).suspendedUntil = some (now.now + 1000000)))))
          (exec (.rtoExpiry t slot path) s)) ∧
      ((∀ a, (c.path path).suspendedUntil = some a → now.now < a) → exec (.pathProbe t slot path) s = .next now) ∧
      (∀ a, (c.path path).suspendedUntil = some a → a ≤ now.now →
        let free (k : TxPkt) : Bool :=
          !k.held && (now.openLinks c.entry).contains (pathLink (now.linkList c.entry) path) && !now.classHeld c k.cls
        Completes ([.now, .regs] ++ talking) s
          (fun u => (∃ v, u.conn? slot = some v ∧ (v.path path).suspendedUntil = none) ∧
            (c.tx.pkts.filter free = [] → u.out = s.out ∧ u.regs = s.regs) ∧
            (c.tx.pkts.filter free ≠ [] →
              retx u ∧ ∃ k ∈ c.tx.pkts, ∃ l rest, u.out = .retransmit slot (k.msg % 2 ^ 32) k.off l path :: rest))
          (exec (.pathProbe t slot path) s))) ∧
    (let dead := c.tx.pkts.any (fun k => !k.held) && decide (c.tx.progressAt + s.lv F.NET_RETX.DEAD_MS * 1000000 ≤ now.now)
     (dead = false → exec (.deadTimer t slot) s = .next now) ∧
     (dead = true → failing → Completes failed s (fun u => ConnFailed s u slot) (exec (.deadTimer t slot) s))) ∧
    (∀ msg off : Nat,
      let due := c.tx.pkts.filter (fun k => k.msg == msg && k.off == off && now.reordered k)
      (due = [] → exec (.reorderAllowanceExpiry t slot msg off) s = .next now) ∧
      (∀ k, due = [k] →
        (s.lv F.NET_RETX.RETX_MAX ≤ k.count → failing →
          Completes failed s (fun u => ConnFailed s u slot) (exec (.reorderAllowanceExpiry t slot msg off) s)) ∧
        (k.count < s.lv F.NET_RETX.RETX_MAX → now.classHeld c k.cls = true →
          Completes [.now, .conns] s
            (fun u => ∃ v, u.conn? slot = some v ∧ ∀ q ∈ v.tx.pkts, q.msg = msg → q.off = off → q.lost = true)
            (exec (.reorderAllowanceExpiry t slot msg off) s)) ∧
        (k.count < s.lv F.NET_RETX.RETX_MAX → now.classHeld c k.cls = false →
          Completes ([.now, .regs] ++ talking) s
            (fun u => (∃ l q rest, u.out = .retransmit slot (k.msg % 2 ^ 32) k.off l q :: rest) ∧ retx u)
            (exec (.reorderAllowanceExpiry t slot msg off) s)))) ∧
    (c.entry.policer.mode = 0 → exec (.operationBucketRefill t slot) s = .next now) ∧
    (c.entry.policer.mode ≠ 0 →
      Completes [.now, .itin, .ctxs, .locals, .conns, .links, .dbg, .out] s
        (fun u => u = (now.modConn slot (fun v => v.refill now.now)).issueFetches ∧
          ((∀ r ∈ s.allRings, s.fetchable r = false) → u.conn? slot = some (c.refill now.now) ∧ u.out = s.out))
        (exec (.operationBucketRefill t slot) s)))

/-- A link that goes down leaves the lists of links, and what was placed on it and has not gone is placed again; one that comes up in a port
that has it joins them, as LINK_UP shows; a PFC frame of the port's priority pauses or resumes both links of a port that honours it; discovery
frames keep one address a neighbour. -/
def Obligations.LinkEvents : Prop :=
  ∀ (s : State) (t l : Nat),
    let now := s.at_ t
    let sending : List Part := [.now, .regs, .itin, .reqs, .ctxs, .conns, .links, .comp, .health, .dbg, .out, .free]
    (16 ≤ l → exec (.linkDown t l) s = .next now ∧ exec (.linkUp t l) s = .next now ∧
      ∀ f, exec (.neighborDiscoveryFrame t l f) s = .next now) ∧
    (l < 16 →
      Completes [.now, .regs, .conns, .links] s
        (fun u => u.link l = { s.link l with up := false, busy := [] } ∧ (∀ k, k ≠ l → u.link k = s.link k) ∧
          bit (u.rd F.NET_PCFG.LINK_UP (l / 2)) (l % 2) = false ∧
          bit (u.rd F.NET_PCFG.LINK_UP (l / 2)) (1 - l % 2) = bit (s.rd F.NET_PCFG.LINK_UP (l / 2)) (1 - l % 2) ∧
          (∀ i c, s.conn? i = some c → ∃ v, u.conn? i = some v ∧ v.state = c.state ∧
            ∀ k ∈ v.tx.pkts, k.link = l → now.now < k.sentAt → k.held = true) ∧
          RegsKept [F.NET_PCFG.LINK_UP.at_ (l / 2)] s u)
        (exec (.linkDown t l) s) ∧
      (s.linkExists l = false → exec (.linkUp t l) s = .next now) ∧
      (s.linkExists l = true →
        Completes sending s
          (fun u => (u.link l).up = true ∧ (∀ k, k ≠ l → (u.link k).up = (s.link k).up) ∧ (∀ k, (u.link k).paused = (s.link k).paused) ∧
            bit (u.rd F.NET_PCFG.LINK_UP (l / 2)) (l % 2) = true ∧
            bit (u.rd F.NET_PCFG.LINK_UP (l / 2)) (1 - l % 2) = bit (s.rd F.NET_PCFG.LINK_UP (l / 2)) (1 - l % 2))
          (exec (.linkUp t l) s)) ∧
      (∀ (f : NdFrame) (a m : Bytes), (f = .neighbor a m ∨ f = .arp a m) →
        Completes [.now, .links] s
          (fun u => u.link l = { s.link l with neighbors := (s.link l).neighbors.filter (fun e => e.1 != a) ++ [(a, m)] } ∧
            ∀ k, k ≠ l → u.link k = s.link k)
          (exec (.neighborDiscoveryFrame t l f) s)) ∧
      (∀ r, Completes [.now, .links] s (fun u => u.link l = { s.link l with router := r } ∧ ∀ k, k ≠ l → u.link k = s.link k)
        (exec (.neighborDiscoveryFrame t l (.routerAdvert r)) s)) ∧
      exec (.neighborDiscoveryFrame t l .other) s = .next now.headerDrop) ∧
    (∀ (port prio : Nat) (pause : Bool),
      let honoured : Prop := port < 8 ∧ s.lv F.NET_PCFG.PFC_EN port = 1 ∧ s.lv F.NET_PCFG.PCP port = prio
      let set (u : State) : Prop :=
        (u.link (2 * port)).paused = pause ∧ (u.link (2 * port + 1)).paused = pause ∧ ∀ k, k / 2 ≠ port → (u.link k).paused = (s.link k).paused
      (honoured → pause = true →
        Completes [.now, .links] s (fun u => set u ∧ ∀ k, u.link k = { s.link k with paused := (u.link k).paused })
          (exec (.pfcFrame t port prio pause) s)) ∧
      (honoured → pause = false → Completes sending s set (exec (.pfcFrame t port prio pause) s)) ∧
      (¬honoured → exec (.pfcFrame t port prio pause) s = .next now))

/-! ### The trail: handshakes, keys and closing (09_trail.md) -/

/-- A handshake message of the wrong form, for no connection the node holds, or that the slot's state does not expect is dropped and counted. A
HELLO that stands makes a responder with keys and entropy answer and wait for FINISH, a repeated one is answered as before, and one on an open
connection ends that connection first. ACCEPT and FINISH open the connection under a key of its own with full buckets and the node's credits,
and ACCEPT is answered by FINISH. An answer goes out at once while a link of the connection is open, and waits for one otherwise. -/
def Obligations.HandshakesOpenConnections : Prop :=
  ∀ (s : State) (t : Nat) (h : Handshake),
    let now := s.at_ t
    let placed := s.slotOf (le h.bytes 4 4)
    ((s.handshakeForm h 0x0200 = false ∨ placed = none) → exec (.hello t h) s = .next now.headerDrop) ∧
    ((s.handshakeForm h 0x0201 = false ∨ placed = none) → exec (.accept t h) s = .next now.headerDrop) ∧
    ((s.handshakeForm h 0x0202 = false ∨ placed = none) → exec (.finish t h) s = .next now.headerDrop) ∧
    (∀ (slot : Nat) (c : Conn), placed = some slot → s.conn? slot = some c →
      let answers : List Part := [.now, .ctxs, .conns, .links, .dbg, .out]
      let opens : List Part := [.now, .regs, .itin, .reqs, .ctxs, .conns, .links, .comp, .sec, .dbg, .out]
      let sent (u : State) (b : Bytes) : Prop :=
        (now.openPaths c = [] → ∃ v, u.conn? slot = some v ∧ v.tx.waiting.getLast? = some (.handshake b)) ∧
        (now.openPaths c ≠ [] → u.out.head? = some (.handshake slot b))
      let opened (u : State) : Prop := ∃ v, u.conn? slot = some v ∧ v.state = 3 ∧ v.tx.credits = s.lv F.NET_ACK.SEND_CREDITS ∧
        v.rx.otok = c.entry.policer.opBurst * 1000000 ∧ v.rx.btok = c.entry.policer.bBurst * 8000 ∧ v.rx.cum = 0 ∧ v.entry = c.entry ∧
        v.keys.key = s.sec.nextKey ∧ u.sec.nextKey = s.sec.nextKey + 1
      let waits (u : State) : Prop := ∃ v, u.conn? slot = some v ∧ v.state = 2 ∧ v.keys.helloBytes = h.bytes ∧ le v.keys.acceptBytes 0 2 = 0x0201 ∧
        v.entry = c.entry ∧ sent u v.keys.acceptBytes
      (s.handshakeForm h 0x0200 = true →
        let again : Bool := (c.state == 2 || c.state == 3) && !c.entry.initiator && c.keys.helloBytes == h.bytes
        let stands : Bool := (c.state == 1 || c.state == 3) && !c.entry.initiator && peerIdOk c h.bytes && h.sigOk
        (again = true → Completes answers s (fun u => sent u c.keys.acceptBytes) (exec (.hello t h) s)) ∧
        (again = false → stands = false → exec (.hello t h) s = .next now.headerDrop) ∧
        (again = false → stands = true → s.canHandshake = false → exec (.hello t h) s = .next now) ∧
        (again = false → stands = true → s.canHandshake = true →
          (c.state = 1 → Completes (.free :: answers) s waits (exec (.hello t h) s)) ∧
          (c.state = 3 →
            Completes [.now, .regs, .itin, .reqs, .ctxs, .conns, .links, .comp, .dbg, .out, .free] s
              (fun u => waits u ∧ .send slot 0x0102 (leBytes 4 2) ∈ u.out ∧
                ∀ v, u.conn? slot = some v → ∀ r ∈ v.rings, r.rstate = 2 ∨ r.rstate = 3)
              (exec (.hello t h) s)))) ∧
      (s.handshakeForm h 0x0201 = true →
        let stands : Bool := c.state == 2 && c.entry.initiator && peerIdOk c h.bytes && h.sigOk
        (stands = false → exec (.accept t h) s = .next now.headerDrop) ∧
        (stands = true →
          Completes (.free :: opens) s (fun u => opened u ∧ ∃ b, b.length = 440 ∧ le b 0 2 = 0x0202 ∧ sent u b) (exec (.accept t h) s))) ∧
      (s.handshakeForm h 0x0202 = true →
        let stands : Bool := c.state == 2 && !c.entry.initiator && h.sigOk
        (stands = false → exec (.finish t h) s = .next now.headerDrop) ∧
        (stands = true → Completes opens s opened (exec (.finish t h) s))))

/-- An initiator with keys and entropy sends HELLO when its slot may connect, repeats it every millisecond for a second, and starts again 10 ms
after a failure; a responder's failed slot is ready again after 1 ms. A slot with no connection entry, and one whose time has not come, stays as
it is. -/
def Obligations.SlotsConnectAgain : Prop :=
  ∀ (s : State) (t slot : Nat),
    let now := s.at_ t
    (s.conn? slot = none → exec (.helloResend t slot) s = .next now ∧ exec (.failedSlotRecover t slot) s = .next now) ∧
    (∀ c : Conn, s.conn? slot = some c →
      let sending : List Part := [.now, .ctxs, .conns, .links, .dbg, .out]
      let sent (u : State) (b : Bytes) : Prop :=
        (now.openPaths c = [] → ∃ v, u.conn? slot = some v ∧ v.tx.waiting.getLast? = some (.handshake b)) ∧
        (now.openPaths c ≠ [] → u.out.head? = some (.handshake slot b))
      let greets (u : State) : Prop := ∃ v, u.conn? slot = some v ∧ v.state = 2 ∧ v.keys.helloFirstAt = some now.now ∧
        v.keys.helloLastAt = some now.now ∧ v.entry = c.entry ∧ le v.keys.helloBytes 0 2 = 0x0200 ∧
        sent u v.keys.helloBytes
      let due : Bool := match c.closedAt with
        | some a => decide (a + 10000000 ≤ now.now)
        | none => true
      ((c.entry.initiator = false ∨ (c.state ≠ 1 ∧ c.state ≠ 2) ∨ (c.state = 1 ∧ (due = false ∨ s.canHandshake = false))) →
        exec (.helloResend t slot) s = .next now) ∧
      (c.entry.initiator = true → c.state = 1 → due = true → s.canHandshake = true →
        Completes (.free :: sending) s greets (exec (.helloResend t slot) s)) ∧
      (∀ first last, c.entry.initiator = true → c.state = 2 → c.keys.helloFirstAt = some first → c.keys.helloLastAt = some last →
        (last + 1000000 ≤ now.now → now.now < first + 1000000000 →
          Completes sending s
            (fun u => sent u c.keys.helloBytes ∧ ∃ v, u.conn? slot = some v ∧ v.keys = { c.keys with helloLastAt := some now.now })
            (exec (.helloResend t slot) s)) ∧
        ((now.now < last + 1000000 ∨ first + 1000000000 ≤ now.now) → exec (.helloResend t slot) s = .next now)) ∧
      (∀ a, c.state = 5 → c.failedAt = some a →
        (c.entry.initiator = true → a + 10000000 ≤ now.now → s.canHandshake = true →
          Completes (.free :: sending) s greets (exec (.failedSlotRecover t slot) s)) ∧
        (c.entry.initiator = true → a + 10000000 ≤ now.now → s.canHandshake = false →
          Completes [.now, .conns] s (fun u => u.conn? slot = some { c with state := 1 }) (exec (.failedSlotRecover t slot) s)) ∧
        (c.entry.initiator = false → a + 1000000 ≤ now.now →
          Completes [.now, .conns] s (fun u => u.conn? slot = some { c with state := 1, failedAt := none }) (exec (.failedSlotRecover t slot) s)) ∧
        (now.now < a + (if c.entry.initiator then 10000000 else 1000000) → exec (.failedSlotRecover t slot) s = .next now)) ∧
      (c.state ≠ 5 → exec (.failedSlotRecover t slot) s = .next now))

/-- A key update starts once on an open connection that has entropy; a previous key ends at its time; a close by the node sends CLOSE, stops
the rings' fetches and waits, and its wait's end leaves the slot ready for a new handshake; a region withdrawn that nothing uses any more is
answered. A slot with no connection entry stays as it is. -/
def Obligations.KeysAndClosing : Prop :=
  ∀ (s : State) (t slot : Nat),
    let now := s.at_ t
    let sending : List Part := [.now, .itin, .ctxs, .conns, .links, .dbg, .out]
    (s.conn? slot = none →
      exec (.keyUpdateTrigger t slot) s = .next now ∧ exec (.previousKeyExpiry t slot) s = .next now ∧
      exec (.closeWaitEnd t slot) s = .next now ∧
      ∀ n, exec (.close t slot none n) s = .next now ∧ exec (.regionWdDone t slot n) s = .next now) ∧
    ∀ c : Conn, s.conn? slot = some c →
    let mayUpdate := c.state == 3 && !c.keys.rekeyStarted && !c.keys.rekeyAnswered && s.sec.drbgOk
    (mayUpdate = false → exec (.keyUpdateTrigger t slot) s = .next now) ∧
    (mayUpdate = true →
      Completes (.free :: sending) s
        (fun u => (∃ body, body.length = 133 ∧ .send slot 0x0100 body ∈ u.out) ∧
          ∃ v, u.conn? slot = some v ∧ v.keys.rekeyStarted = true ∧ v.keys.key = c.keys.key ∧ v.state = 3)
        (exec (.keyUpdateTrigger t slot) s)) ∧
    ((∀ a, c.keys.prevUntil = some a → now.now < a) → exec (.previousKeyExpiry t slot) s = .next now) ∧
    (∀ a, c.keys.prevUntil = some a → a ≤ now.now →
      Completes [.now, .conns] s (fun u => u.conn? slot = some { c with keys := { c.keys with prev := 0, prevUntil := none } })
        (exec (.previousKeyExpiry t slot) s)) ∧
    (∀ reason : Nat,
      (c.state ≠ 3 → exec (.close t slot none reason) s = .next now) ∧
      (c.state = 3 →
        Completes (.reqs :: sending) s
          (fun u => .send slot 0x0102 (leBytes 4 reason) ∈ u.out ∧
            ∃ v, u.conn? slot = some v ∧ v.state = 4 ∧ v.closedAt = some now.now ∧ v.entry = c.entry ∧ ∀ r ∈ v.rings, r.fetches = [])
          (exec (.close t slot none reason) s))) ∧
    (c.state ≠ 4 → exec (.closeWaitEnd t slot) s = .next now) ∧
    (∀ a, c.state = 4 → c.closedAt = some a →
      (c.tx.pkts.any (fun k => !k.held) = true → now.now < a + 1000000 → exec (.closeWaitEnd t slot) s = .next now) ∧
      ((c.tx.pkts.any (fun k => !k.held) = false ∨ a + 1000000 ≤ now.now) →
        Completes [.now, .reqs, .ctxs, .conns, .comp] s
          (fun u => ∃ v, u.conn? slot = some v ∧ v.state = 1 ∧ v.closedAt = (if c.entry.initiator then some now.now else none) ∧
            v.keys = ConnKeys.empty ∧ v.tx = ConnTx.empty ∧ v.rx = ConnRx.empty ∧ v.entry = c.entry ∧ ∀ r ∈ v.rings, r.rstate = 2 ∨ r.rstate = 3)
          (exec (.closeWaitEnd t slot) s))) ∧
    (∀ rkey : Nat,
      let ended := c.withdrawn.contains rkey && c.state == 3 && !now.regionInUse slot rkey
      (ended = false → exec (.regionWdDone t slot rkey) s = .next now) ∧
      (ended = true →
        Completes sending s
          (fun u => .send slot 0x0112 (leBytes 4 rkey) ∈ u.out ∧ ∃ v, u.conn? slot = some v ∧ v.withdrawn = c.withdrawn.filter (· != rkey))
          (exec (.regionWdDone t slot rkey) s)))

/-! ### SENDs (09_trail.md, 13_fabric.md) -/

/-- A SEND of one packet that passes check 9 and need not wait completes its message and is taken by its kind: REKEY is answered with a key
for later, REKEY_ACK changes keys, REGION_ADV and REGION_WD change the regions, SUBREQ is kept for the planner, a MOVE is staged or refused,
and the others do what their handlers do; one that fails check 9 is answered with a NAK. -/
def Obligations.SendsAreTakenByKind : Prop :=
  ∀ (s : State) (t : Nat) (p : Pkt) (slot reason kind : Nat) (cmd : Instr),
    [(0x100, Instr.rekey t p), (0x101, .rekeyAck t p), (0x110, .regionAdv t p), (0x111, .regionWd t p), (1, .subreq t p), (2, .partialMsg t p),
      (3, .leaf t p), (4, .journal t p), (5, .move t p), (6, .moveAck t p), (7, .moveCommitMsg t p), (8, .pageOp t p), (9, .pageOpDone t p),
      (10, .inventory t p), (10, .inventoryResponse t p), (0x102, .close t slot (some p) reason)].contains (kind, cmd) = true →
    let parts : List Part := [.now, .regs, .itin, .reqs, .ctxs, .engines, .tiles, .locals, .conns, .links, .comp, .tier, .sec, .health, .power,
      .dbg, .out, .free]
    ((s.at_ t).arrives p [4] = none →
      Completes [.now, .regs, .ctxs, .conns, .links, .comp, .health, .dbg, .out, .free] s (XmemKept s) (exec cmd s)) ∧
    ∀ (w : State) (x : RxPkt) (c : Conn),
    (s.at_ t).arrives p [4] = some (x, w) → w.conn? x.slot = some c → c.rxMsg? x.h.msg = none → le x.p.payload 0 2 = kind →
    let code := w.sendCode c x.sendKind
    let body := x.p.payload
    let held := (w.openMsg x).2
    let whole := held.msgDone x.slot x.h.msg .ok
    let conn (u : State) (f : Conn → Prop) : Prop := ∃ v, u.conn? x.slot = some v ∧ f v
    (code ≠ 0 → Completes parts s (fun u => u = (w.answerNak x code).noteArrival x false) (exec cmd s)) ∧
    (code = 0 → (x.h.isRelease && c.mustWait x.h.msg) = true →
      Completes parts s (fun u => u = (w.holdMsg x).noteArrival x false) (exec cmd s)) ∧
    (code = 0 → (x.h.isRelease && c.mustWait x.h.msg) = false → 1 < packetCount x.h.len →
      Completes parts s (fun u => conn u (fun v => ∃ m ∈ v.rx.msgs, m.id = x.h.msg ∧ m.got = [x.h.off / 4096]) ∧ u.comp = w.comp) (exec cmd s)) ∧
    (code = 0 → (x.h.isRelease && c.mustWait x.h.msg) = false → packetCount x.h.len = 1 →
      (held.sendFits body = false →
        Completes parts s (fun u => u.comp = w.comp ∧ conn u (fun v => ∃ m ∈ v.rx.msgs, m.id = x.h.msg) ∧
          (kind = 4 →
            u.rd F.NET_JOURNAL.REFUSED = min (w.rd F.NET_JOURNAL.REFUSED + 1) (2 ^ F.NET_JOURNAL.REFUSED.width - 1))) (exec cmd s)) ∧
      (held.sendFits body = true →
        Completes parts s
          (fun u => u = (whole.onSend x.slot x.h.epoch body).noteArrival x false ∧
            (kind = 0x100 → w.sec.drbgOk = true → (c.keys.rekeyStarted && c.entry.initiator) = false → c.keys.rekeyAnswered = false →
              (∃ b, b.length = 133 ∧ .send x.slot 0x0101 b ∈ u.out) ∧
              conn u (fun v => v.keys.rekeyAnswered = true ∧ v.keys.next = w.sec.nextKey ∧ v.keys.key = c.keys.key)) ∧
            (kind = 0x101 → c.keys.rekeyStarted = true →
              conn u (fun v => v.keys.key = w.sec.nextKey ∧ v.keys.prev = c.keys.key ∧ v.keys.phase = !c.keys.phase ∧ v.keys.rekeyStarted = false)) ∧
            (kind = 0x102 → c.state = 3 → conn u (fun v => v.state = 4)) ∧
            (kind = 0x110 → c.regions.length + (advEntries body).length ≤ 256 →
              conn u (fun v => ∀ a ∈ advEntries body, ∃ r ∈ v.regions, r.rkey = a.rkey)) ∧
            (kind = 0x111 → conn u (fun v => ∀ r ∈ v.regions, r.rkey ≠ le body 8 4)) ∧
            (kind = 1 → ∃ q, u.comp.subs = w.comp.subs ++ [q] ∧ q.ctx = c.entry.ctx ∧ q.slot = some x.slot ∧ q.epoch = x.h.epoch ∧ q.body = body ∧
              q.hreq = (parseSub body).hreq ∧ q.admittedAt = none) ∧
            (kind = 5 → (w.ctx c.entry.ctx).profile = none → .send x.slot 6 (leBytes 4 (le body 8 4) ++ leBytes 1 2) ∈ u.out ∧
              u.tier.moves = w.tier.moves) ∧
            (kind = 6 → ∀ m, w.tier.moves.find? (fun m => m.id == le body 8 4 && m.incoming.isNone && m.member.isSome && m.phase == .copying &&
                m.ctx == c.entry.ctx) = some m → le body 12 1 = 0 →
              u.tier.moves = w.tier.moves.map (fun y => if y.id == le body 8 4 && y.incoming.isNone then { y with phase := .acked } else y)))
          (exec cmd s)))

/-- A held release message is executed when every message before it is complete, as if it had come then, and not before. -/
def Obligations.HeldMessagesExecuteInTurn : Prop :=
  ∀ (s : State) (t slot msg : Nat),
    ((∀ c, s.conn? slot = some c → c.rxMsg? msg = none) → exec (.releaseMessageExecute t slot msg) s = .next (s.at_ t)) ∧
    ∀ (c : Conn) (m : RxMsg), s.conn? slot = some c → c.rxMsg? msg = some m →
    let parts : List Part := [.now, .regs, .itin, .reqs, .ctxs, .engines, .tiles, .locals, .conns, .links, .comp, .tier, .sec, .health, .power,
      .dbg, .out, .free]
    let ctx := c.entry.ctx
    let run := exec (.releaseMessageExecute t slot msg) s
    let old := le (Memory.readN (s.xmem ctx) m.addr 8) 0 8
    ((m.held = false ∨ c.rx.cum ≠ msg) → run = .next (s.at_ t)) ∧
    (m.held = true → c.rx.cum = msg →
      (m.type = 1 → Completes parts s (fun u => Stored s u ctx m.addr m.body) run) ∧
      (m.type = 2 → Completes parts s (fun u => XmemKept s u ∧ .readResp slot m.id (Memory.readN (s.xmem ctx) m.addr m.len) ∈ u.out) run) ∧
      (m.type = 4 → s.sendFits m.body = true →
        Completes parts s (fun u => u = ((s.at_ t).msgDone slot m.id .ok).onSend slot m.epoch m.body) run) ∧
      (m.type = 4 → s.sendFits m.body = false → Completes [.now, .regs] s (RegsKept [F.NET_JOURNAL.REFUSED.off] s) run) ∧
      (m.type = 5 → Completes parts s (fun u => Stored s u ctx m.addr (leBytes 8 ((old + le m.body 0 8) % 2 ^ 64)) ∧
        .atomicResp slot m.id (BitVec.ofNat 64 old) ∈ u.out) run) ∧
      (m.type = 6 → Completes parts s (fun u => Stored s u ctx m.addr (leBytes 8 (if old = le m.body 0 8 then le m.body 8 8 else old)) ∧
        .atomicResp slot m.id (BitVec.ofNat 64 old) ∈ u.out) run) ∧
      (m.type = 8 → Completes parts s (fun u => u = (s.at_ t).runBell slot m.id m.epoch m.marked m.body ∧ XmemKept s u) run))

/-! ### Connection and region registers (09_trail.md) -/

/-- Loading a slot checks the entry, ends with its code, and gives the slot a fresh connection, which an initiator opens, or updates an open
one; removing it sends CLOSE on an open connection and empties the slot. Registering a region shows its key's index under the generation it
has; revoking one ends its key at once and is over when nothing bound to it is left, or 100 ms later. -/
def Obligations.ConnectionAndRegionOperations : Prop :=
  ∀ (s : State) (t : Nat) (ctl : Word),
    let conns : List Part := [.now, .regs, .live, .itin, .reqs, .ctxs, .conns, .links, .comp, .power, .dbg, .out, .free]
    let regions : List Part := [.now, .regs, .live, .regions, .power]
    let slot := fieldOf F.NET_CONN_CTL.SLOT ctl
    let rop := (s.at_ t).ctlWrite F.NET_REGION_CTL.INDEX.off ctl
    let idx := fieldOf F.NET_REGION_CTL.INDEX ctl
    (s.ready = false → exec (.connRemove t ctl) s = .next (s.at_ t) ∧ (∀ mem, exec (.connLoad t ctl mem) s = .next (s.at_ t)) ∧
      exec (.regionRegister t ctl) s = .next (s.at_ t) ∧ exec (.regionRevoke t ctl) s = .next (s.at_ t)) ∧
    (s.ready = true →
    (∀ mem : Option Bytes, s.connLoadCode slot mem ≠ 0 →
      Completes conns s (fun u => OpEnded opConn (s.connLoadCode slot mem) u ∧ u.conns = s.conns ∧
        RegsKept [F.NET_CONN_CTL.SLOT.off, F.PWR_STATE.CURRENT.off] s u) (exec (.connLoad t ctl mem) s)) ∧
    (∀ b : Bytes, s.connLoadCode slot (some b) = 0 →
      Completes conns s
        (fun u => OpEnded opConn 0 u ∧ (∀ i, i ≠ slot → u.conn? i = s.conn? i) ∧
          (∃ v, u.conn? slot = some v ∧ v.entry = parseConnEntry b) ∧
          ((∀ c, s.conn? slot = some c → c.isOpen = false) → ((parseConnEntry b).initiator = false ∨ s.canHandshake = false) →
            u.conn? slot = some (Conn.fresh (parseConnEntry b)) ∧ u.out = s.out) ∧
          ((∀ c, s.conn? slot = some c → c.isOpen = false) → (parseConnEntry b).initiator = true → s.canHandshake = true →
            ∃ v, u.conn? slot = some v ∧ v.state = 2 ∧
              (s.openPaths (Conn.fresh (parseConnEntry b)) = [] → v.tx.waiting = [.handshake v.keys.helloBytes]) ∧
              (s.openPaths (Conn.fresh (parseConnEntry b)) ≠ [] → u.out.head? = some (.handshake slot v.keys.helloBytes))))
        (exec (.connLoad t ctl (some b)) s)) ∧
    Completes conns s
      (fun u => OpEnded opConn 0 u ∧ u.conn? slot = none ∧ (∀ q ∈ u.comp.subs, q.slot ≠ some slot) ∧
        (∀ c, s.conn? slot = some c → c.state = 3 → .send slot 0x0102 (leBytes 4 0) ∈ u.out))
      (exec (.connRemove t ctl) s) ∧
    (s.regionBusy = true → exec (.regionRegister t ctl) s = .next rop ∧ exec (.regionRevoke t ctl) s = .next rop) ∧
    (s.regionBusy = false →
      (let code := rop.registerCode (fieldOf F.NET_REGION_CTL.CTX ctl) idx (s.rd F.NET_REGION_ADDR.OFFSET) (s.rd F.NET_REGION_ADDR.LENGTH)
       (code ≠ 0 → Completes regions s (fun u => OpEnded opRegion code u ∧ u.regions = s.regions) (exec (.regionRegister t ctl) s)) ∧
       (code = 0 →
        Completes regions s
          (fun u => OpEnded opRegion 0 u ∧ (∀ i, i ≠ idx → mget u.regions i = mget s.regions i) ∧
            ∃ r, mget u.regions idx = some r ∧ r.valid = true ∧ r.ctx = fieldOf F.NET_REGION_CTL.CTX ctl ∧
              r.off = s.rd F.NET_REGION_ADDR.OFFSET ∧ r.len = s.rd F.NET_REGION_ADDR.LENGTH ∧
              r.gen = ((mget s.regions idx).map Region.gen).getD 1 ∧ r.rd = (fieldOf F.NET_REGION_CTL.RD ctl == 1) ∧
              r.wr = (fieldOf F.NET_REGION_CTL.WR ctl == 1) ∧ r.at_ = (fieldOf F.NET_REGION_CTL.AT ctl == 1))
          (exec (.regionRegister t ctl) s))) ∧
      ((∀ r, mget s.regions idx = some r → r.valid = false) →
        Completes regions s (fun u => OpEnded opRegion 3 u ∧ u.regions = s.regions) (exec (.regionRevoke t ctl) s)) ∧
      (∀ r, mget s.regions idx = some r → r.valid = true →
        Completes regions s
          (fun u => (∀ i, i ≠ idx → mget u.regions i = mget s.regions i) ∧
            ∃ v, mget u.regions idx = some v ∧ v.valid = false ∧ v.gen = (if r.gen = 255 then 1 else r.gen + 1) ∧ v.revoked = true ∧
              (s.boundTo idx = [] → v.fenceAt = none ∧ OpEnded opRegion 0 u) ∧
              (s.boundTo idx ≠ [] → v.fenceAt = some (max s.now t) ∧ u.regionBusy = true))
          (exec (.regionRevoke t ctl) s)))) ∧
    (∀ i, (∀ r, mget s.regions i = some r → r.fenceAt = none) →
      exec (.revocationComplete t i) s = .next (s.at_ t) ∧ exec (.revocationAbandon t i) s = .next (s.at_ t)) ∧
    (∀ (i a : Nat) (r : Region), mget s.regions i = some r → r.fenceAt = some a →
      (s.boundTo i ≠ [] → exec (.revocationComplete t i) s = .next (s.at_ t)) ∧
      (s.boundTo i = [] →
        Completes [.now, .regs, .regions] s
          (fun u => mget u.regions i = some { r with fenceAt := none } ∧ OpEnded opRegion 0 u) (exec (.revocationComplete t i) s)) ∧
      (max s.now t < a + 100000000 → exec (.revocationAbandon t i) s = .next (s.at_ t)) ∧
      (a + 100000000 ≤ max s.now t → mwf s.conns = true →
        Completes [.now, .regs, .ctxs, .conns, .regions, .links, .dbg, .out] s
          (fun u => mget u.regions i = some { r with fenceAt := none } ∧ OpEnded opRegion 0 u ∧ u.boundTo i = [])
          (exec (.revocationAbandon t i) s)))

/-! ### Contexts, keys, geodes and programs (05_shale.md, 11_isolation.md) -/

/-- Creating a context takes its checks' code or gives it a key store entry and state 1; a profile accepted and a teardown asked for wait for
their boundary. -/
def Obligations.ContextsAreMade : Prop :=
  ∀ (s : State) (t : Nat) (ctl : Word),
    (s.ready = false → exec (.ctxTeardown t ctl) s = .next (s.at_ t) ∧
      ∀ mem, exec (.ctxCreate t ctl mem) s = .next (s.at_ t) ∧ exec (.ctxLoadProfile t ctl mem) s = .next (s.at_ t)) ∧
    (s.ready = true →
    let now := (s.at_ t).ctlWrite F.CTX_CTL.CTX.off ctl
    let ctx := fieldOf F.CTX_CTL.CTX ctl
    let others (u : State) : Prop := ∀ c, c ≠ ctx → u.ctx c = s.ctx c
    (∀ mem : Option Bytes, s.createCode ctx mem ≠ 0 →
      Completes [.now, .regs, .live, .power] s (fun u => OpEnded opCtx (s.createCode ctx mem) u) (exec (.ctxCreate t ctl mem) s)) ∧
    (∀ b : Bytes, s.createCode ctx (some b) = 0 →
      Completes [.now, .regs, .live, .ctxs, .power, .nv, .free] s
        (fun u => OpEnded opCtx 0 u ∧ others u ∧ (u.ctx ctx).phase = .created ∧ (u.ctx ctx).tenant = slice b 8 16 ∧
          (u.ctx ctx).issuer = slice b 0x20 64 ∧ (u.ctx ctx).keyLoaded = true ∧ (u.ctx ctx).creation = s.nv.creations + 1 ∧ u.xmem ctx = [] ∧
          u.nv.creations = s.nv.creations + 1 ∧ (∃ e, mget u.nv.keyStore ctx = some e ∧ e.tombstone = false ∧ e.creation = s.nv.creations + 1) ∧
          ∀ c, c ≠ ctx → mget u.nv.keyStore c = mget s.nv.keyStore c)
        (exec (.ctxCreate t ctl (some b)) s)) ∧
    (∀ mem : Option Bytes,
      let code := (now.profileCode ctx mem).1
      (code ≠ 0 → Completes [.now, .regs, .live, .power] s
        (fun u => OpEnded opCtx code u ∧
          ((now.profileCode ctx mem).2.1 = true → u.rd F.TIER_PLACE_STATUS.C0_REFUSED = 1) ∧
          ((now.profileCode ctx mem).2.2 = true → u.rd F.CTX_CLASS_STATUS.TIMING_REFUSED = 1))
        (exec (.ctxLoadProfile t ctl mem) s)) ∧
      (∀ b, mem = some b → code = 0 →
        Completes [.now, .regs, .live, .ctxs, .power] s
          (fun u => OpEnded opCtx 0 u ∧ others u ∧ u.ctx ctx = { s.ctx ctx with pendingProfile := some (max s.now t, parseProfile b) })
          (exec (.ctxLoadProfile t ctl mem) s))) ∧
    ((s.ctx ctx).loadable = false →
      Completes [.now, .regs, .live, .power] s (fun u => OpEnded opCtx 3 u) (exec (.ctxTeardown t ctl) s)) ∧
    ((s.ctx ctx).loadable = true →
      Completes [.now, .regs, .live, .ctxs, .power] s
        (fun u => OpEnded opCtx 0 u ∧ others u ∧ u.ctx ctx = { s.ctx ctx with teardownAsked := some (max s.now t), pendingProfile := none })
        (exec (.ctxTeardown t ctl) s)))

/-- Teardown goes on in steps, none before its time: connections whose last words are acknowledged close, or all after 10 ms; the key goes and
leaves a tombstone when nothing of the context is left; the context's parcels become garbage and its memory is scrubbed; and the context is
free again. -/
def Obligations.ContextsAreTornDown : Prop :=
  ∀ (s : State) (t ctx : Nat),
    let now := s.at_ t
    let x := s.ctx ctx
    (∀ a, x.phase = .draining → x.teardownAt = some a →
      let due (c : Nat × Conn) : Bool := c.2.entry.ctx == ctx && (!c.2.statusPending || decide (a + 10000000 ≤ now.now))
      Completes [.now, .itin, .ctxs, .conns, .links, .comp, .dbg, .out] s
        (fun u => (∀ c ∈ s.conns, due c = true → u.conn? c.1 = none) ∧
          (∀ i, (∀ c ∈ s.conns, c.1 = i → due c = false) → u.conn? i = s.conn? i))
        (exec (.teardownClose t ctx) s)) ∧
    (x.phase ≠ .draining → exec (.teardownClose t ctx) s = .next now ∧ exec (.keyZeroise t ctx) s = .next now ∧
      exec (.tombstoneDurable t ctx) s = .next now) ∧
    ((s.drained ctx = false ∨ s.tick.published = true) → exec (.keyZeroise t ctx) s = .next now) ∧
    (x.phase = .draining → s.drained ctx = true → s.tick.published = false →
      Completes [.now, .regs, .ctxs, .nv] s
        (fun u => u.ctx ctx = { x with keyLoaded := false } ∧ (∀ c, c ≠ ctx → u.ctx c = s.ctx c) ∧
          (∀ e, mget s.nv.keyStore ctx = some e → mget u.nv.keyStore ctx = some { e with tombstone := true }) ∧
          (∀ k ∈ u.nv.parks, k.ctx ≠ ctx))
        (exec (.keyZeroise t ctx) s)) ∧
    ((∀ e, mget s.nv.keyStore ctx = some e → e.tombstone = false) → exec (.tombstoneDurable t ctx) s = .next now) ∧
    (∀ e, x.phase = .draining → mget s.nv.keyStore ctx = some e → e.tombstone = true →
      Completes [.now, .regs, .itin, .ctxs, .comp, .tier, .sec, .free] s
        (fun u => u.ctx ctx = { x with phase := .scrubbing } ∧ (∀ c, c ≠ ctx → u.ctx c = s.ctx c) ∧
          u.tier.parcels = s.tier.parcels.filter (fun p => p.ctx != ctx) ∧ (∀ j ∈ u.comp.journals, j.ctx ≠ ctx) ∧ (∀ j ∈ u.comp.streams, j.ctx ≠ ctx) ∧
          u.sec.scrubs = (if s.sec.drbgOk then s.sec.scrubs ++ [ctx] else s.sec.scrubs))
        (exec (.tombstoneDurable t ctx) s)) ∧
    ((x.phase ≠ .scrubbing ∨ s.sec.scrubs.contains ctx = false ∨ now.hkDue (.scrub ctx) = true) → exec (.scrubComplete t ctx) s = .next now) ∧
    (x.phase = .scrubbing → s.sec.scrubs.contains ctx = true → now.hkDue (.scrub ctx) = false →
      Completes [.now, .regs, .ctxs, .sec, .nv] s
        (fun u => u.ctx ctx = Ctx.free ∧ (∀ c, c ≠ ctx → u.ctx c = s.ctx c) ∧ u.sec.scrubs.contains ctx = false ∧
          (∀ e, mget s.nv.keyStore ctx = some e → e.tombstone = true → (∀ b ∈ s.tier.blocks, ctx ∉ b.2.tombs) → mget u.nv.keyStore ctx = none))
        (exec (.scrubComplete t ctx) s))

/-- Geodes and programs: the code of the first check that fails, or the slot filled or emptied, a program at its boundary; CTX_CLASS is read
back and staged, its margin only where the timing still holds. -/
def Obligations.GeodesAndPrograms : Prop :=
  ∀ (s : State) (t : Nat) (ctl : Word),
    (s.ready = false → exec (.geodeUnload t ctl) s = .next (s.at_ t) ∧ exec (.progUnload t ctl) s = .next (s.at_ t) ∧
      exec (.ctxClassWrite t ctl) s = .next (s.at_ t) ∧ (∀ mem, exec (.geodeLoad t ctl mem) s = .next (s.at_ t)) ∧
      ∀ mem, exec (.progLoad t ctl mem) s = .next (s.at_ t)) ∧
    (s.ready = true →
    let gnow := (s.at_ t).ctlWrite F.CTX_GEODE_CTL.CTX.off ctl
    let gctx := fieldOf F.CTX_GEODE_CTL.CTX ctl
    let gslot := fieldOf F.CTX_GEODE_CTL.SLOT ctl
    let pnow := (s.at_ t).ctlWrite F.CTX_PROG_CTL.CTX.off ctl
    let pctx := fieldOf F.CTX_PROG_CTL.CTX ctl
    let pslot := fieldOf F.CTX_PROG_CTL.SLOT ctl
    let none_ : List Part := [.now, .regs, .live, .power]
    let some_ : List Part := [.now, .regs, .live, .ctxs, .power]
    let live (c : Nat) : Prop := (s.ctx c).phase = .created ∨ (s.ctx c).phase = .inService
    (∀ mem, gnow.geodeLoadCode gctx gslot mem ≠ 0 →
      Completes none_ s (fun u => OpEnded opGeode (gnow.geodeLoadCode gctx gslot mem) u) (exec (.geodeLoad t ctl mem) s)) ∧
    (∀ g, gnow.geodeLoadCode gctx gslot (some g) = 0 →
      Completes some_ s
        (fun u => OpEnded opGeode 0 u ∧ u.ctx gctx = { s.ctx gctx with geodes := mset (s.ctx gctx).geodes gslot (geodeOf g) } ∧
          ∀ c, c ≠ gctx → u.ctx c = s.ctx c)
        (exec (.geodeLoad t ctl (some g)) s)) ∧
    (¬live gctx → Completes none_ s (fun u => OpEnded opGeode 8 u) (exec (.geodeUnload t ctl) s)) ∧
    (live gctx → (s.ctx gctx).geodeInUse gslot = true → Completes none_ s (fun u => OpEnded opGeode 7 u) (exec (.geodeUnload t ctl) s)) ∧
    (live gctx → (s.ctx gctx).geodeInUse gslot = false →
      Completes some_ s
        (fun u => OpEnded opGeode 0 u ∧ mget (u.ctx gctx).geodes gslot = none ∧
          u.ctx gctx = { s.ctx gctx with geodes := (u.ctx gctx).geodes } ∧ ∀ c, c ≠ gctx → u.ctx c = s.ctx c)
        (exec (.geodeUnload t ctl) s)) ∧
    (∀ mem, pnow.progLoadCode pctx pslot mem ≠ 0 →
      Completes none_ s (fun u => OpEnded opProg (pnow.progLoadCode pctx pslot mem) u) (exec (.progLoad t ctl mem) s)) ∧
    (∀ b, pnow.progLoadCode pctx pslot (some b) = 0 →
      Completes some_ s
        (fun u => OpEnded opProg 0 u ∧
          (⟨max s.now t, pslot, some (progOfImage (sha512 b) b (max s.now t))⟩ : PendingProg) ∈ (u.ctx pctx).pendingProgs ∧
          u.ctx pctx = { s.ctx pctx with pendingProgs := (u.ctx pctx).pendingProgs } ∧
          ∀ n, n < 8 → u.rd F.CTX_PROG_DIGEST.DIGEST n = le (sha512 b) (8 * n) 8)
        (exec (.progLoad t ctl (some b)) s)) ∧
    (¬live pctx → Completes none_ s (fun u => OpEnded opProg 5 u) (exec (.progUnload t ctl) s)) ∧
    (let empty := ((s.ctx pctx).prog pslot).image.isNone && !(s.ctx pctx).pendingProgs.any (fun q => q.slot == pslot)
     (live pctx → empty = true → Completes none_ s (fun u => OpEnded opProg 0 u) (exec (.progUnload t ctl) s)) ∧
     (live pctx → empty = false → pnow.retireCode pctx pslot ≠ 0 →
      Completes none_ s (fun u => OpEnded opProg (pnow.retireCode pctx pslot) u) (exec (.progUnload t ctl) s)) ∧
     (live pctx → empty = false → pnow.retireCode pctx pslot = 0 →
      Completes some_ s
        (fun u => OpEnded opProg 0 u ∧ (⟨max s.now t, pslot, none⟩ : PendingProg) ∈ (u.ctx pctx).pendingProgs ∧
          u.ctx pctx = { s.ctx pctx with pendingProgs := (u.ctx pctx).pendingProgs })
        (exec (.progUnload t ctl) s))) ∧
    (let off := F.CTX_CLASS.C0_MARGIN_NS.off
     let new := regWritten false off (getReg s.regs off) ctl
     let wake := (s.at_ t).wakeUp
     let ok := wake.timingAtWrite (wake.reserving true) (fieldOf F.CTX_CLASS.C0_MARGIN_NS ctl) wake.worstHop
     Completes [.now, .regs, .staged, .power] s
      (fun u =>
        (ok = true → getReg u.regs off = new ∧ RegsKept [off, F.PWR_STATE.CURRENT.off] s u) ∧
        (ok = false → u.rd F.CTX_CLASS.C0_MARGIN_NS = s.rd F.CTX_CLASS.C0_MARGIN_NS ∧
          u.rd F.CTX_CLASS.HK_WEIGHT = fieldOf F.CTX_CLASS.HK_WEIGHT new ∧ u.rd F.CTX_CLASS_STATUS.TIMING_REFUSED = 1) ∧
        ∃ w : StagedWrite, u.staged = s.staged ++ [w] ∧ w.time = max s.now t ∧ w.reg = off ∧ w.value = getReg u.regs off)
      (exec (.ctxClassWrite t ctl) s)))

/-! ### Assays (12_integrity.md) -/

/-- A re-execution that matches is counted and over; one that differs is counted, recorded, given a third unit, and, where a result was held
for it, ends its request; the third execution attributes the fault, and a second fault of a unit within an hour disables it. -/
def Obligations.AssaysCompareAndAttribute : Prop :=
  ∀ (s : State) (t id : Nat),
    let now := s.at_ t
    let known := s.health.assays.find? (fun a => a.id == id)
    (known = none → (∀ diff, exec (.assayCompare t id diff) s = .next now) ∧
      ∀ first second, exec (.assayAttribution t id first second) s = .next now) ∧
    ∀ a : Assay, known = some a →
    let gone (u : State) : Prop := u.health.assays = s.health.assays.filter (fun x => x.id != id)
    let idle := a.placed && !s.assayRuns id
    let compare : List Part := [.now, .regs, .itin, .reqs, .ctxs, .engines, .tiles, .locals, .conns, .links, .comp, .tier, .health,
      .dbg, .out, .free]
    let attribution : List Part := [.now, .regs, .ctxs, .health, .free]
    let blamed (u : State) (unit : UnitId) : Prop :=
      gone u ∧ u.health.faults = s.health.faults ++ [(unit, now.now)] ∧
      (∀ n, unit = .tile n → n < 1536 → (∃ f ∈ s.health.faults, f.1 = unit ∧ now.now < f.2 + 3600000000000) →
        bitOf u.regs F.HEALTH_TILEF.FAULT n = true) ∧
      (∀ n, unit = .engine n → n < 192 → (∃ f ∈ s.health.faults, f.1 = unit ∧ now.now < f.2 + 3600000000000) →
        bitOf u.regs F.TIER_SE_FAULT.FAULT n = true)
    (∀ diff, (a.mismatch.isSome = true ∨ idle = false) → exec (.assayCompare t id diff) s = .next now) ∧
    (a.mismatch = none → idle = true → a.held = false →
      Completes compare s
        (fun u => gone u ∧ u.rd F.HEALTH_ASSAY_STAT.MATCHED =
          min (s.rd F.HEALTH_ASSAY_STAT.MATCHED + 1) (2 ^ F.HEALTH_ASSAY_STAT.MATCHED.width - 1))
        (exec (.assayCompare t id none) s)) ∧
    (a.mismatch = none → idle = true → a.held = true →
      Completes compare s (fun u => u = ((now.dropAssay id).bump F.HEALTH_ASSAY_STAT.MATCHED).assayReleased a) (exec (.assayCompare t id none) s)) ∧
    (∀ row elem, a.mismatch = none → idle = true →
      (a.held = false →
        Completes compare s
          (fun u => (∃ b ∈ u.health.assays, b.id = id ∧ b.mismatch = some (row, elem) ∧ b.placed = false ∧ b.third.isSome = true) ∧
            u.health.seq = s.health.seq + 1 ∧ u.rd F.HEALTH_ASSAY_STAT.MISMATCHED =
              min (s.rd F.HEALTH_ASSAY_STAT.MISMATCHED + 1) (2 ^ F.HEALTH_ASSAY_STAT.MISMATCHED.width - 1))
          (exec (.assayCompare t id (some (row, elem))) s)) ∧
      (∀ r, a.held = true → s.req? a.req = some r →
        Completes compare s (Answered s r.id 5 cAssayMismatch r.progress) (exec (.assayCompare t id (some (row, elem))) s))) ∧
    (∀ first second, (a.mismatch = none ∨ idle = false ∨ (first = true ∧ second = true)) →
      exec (.assayAttribution t id first second) s = .next now) ∧
    (a.mismatch.isSome = true → idle = true →
      Completes attribution s (fun u => blamed u a.second) (exec (.assayAttribution t id true false) s) ∧
      Completes attribution s (fun u => blamed u a.first) (exec (.assayAttribution t id false true) s) ∧
      Completes attribution s
        (fun u => gone u ∧ u.health.faults = s.health.faults ∧ u.rd F.HEALTH_ASSAY_STAT.UNRESOLVED =
          min (s.rd F.HEALTH_ASSAY_STAT.UNRESOLVED + 1) (2 ^ F.HEALTH_ASSAY_STAT.UNRESOLVED.width - 1))
        (exec (.assayAttribution t id false false) s))

/-- HEALTH_ASSAY.RATE is read back, staged, and draws a new seed, and a rate above 4,096 is ignored; a 1 in HEALTH_TILEF clears its tile's
fault and the faults remembered of it. -/
def Obligations.HealthRegisters : Prop :=
  ∀ (s : State) (t : Nat) (v : Word),
    (s.ready = false → exec (.healthAssayWrite t v) s = .next (s.at_ t) ∧ ∀ n, exec (.healthTilefClear t n v) s = .next (s.at_ t)) ∧
    (s.ready = true →
    (4096 < fieldOf F.HEALTH_ASSAY.RATE v → exec (.healthAssayWrite t v) s = .next (s.at_ t)) ∧
    (fieldOf F.HEALTH_ASSAY.RATE v ≤ 4096 →
      Completes [.now, .regs, .staged, .health, .free] s
        (fun u => u.rd F.HEALTH_ASSAY.RATE = fieldOf F.HEALTH_ASSAY.RATE v ∧ u.rd F.HEALTH_ASSAY.PENDING = s.rd F.HEALTH_ASSAY.PENDING ∧
          u.health = { s.health with assaySeed := u.health.assaySeed } ∧
          (∃ w : StagedWrite, u.staged = s.staged ++ [w] ∧ w.time = max s.now t ∧ w.reg = F.HEALTH_ASSAY.RATE.off) ∧
          RegsKept [F.HEALTH_ASSAY.RATE.off] s u)
        (exec (.healthAssayWrite t v) s)) ∧
    (∀ n,
      (24 ≤ n → exec (.healthTilefClear t n v) s = .next (s.at_ t)) ∧
      (n < 24 →
        Completes [.now, .regs, .health] s
          (fun u => u.rd F.HEALTH_TILEF.FAULT n = (s.rd F.HEALTH_TILEF.FAULT n &&& (~~~v).toNat) ∧
            (∀ f ∈ u.health.faults, ∀ k, f.1 = .tile k → k / 64 = n → bit v.toNat (k % 64) = false) ∧
            (∀ f ∈ s.health.faults, (∀ k, f.1 = .tile k → k / 64 = n → bit v.toNat (k % 64) = false) → f ∈ u.health.faults) ∧
            RegsKept [F.HEALTH_TILEF.FAULT.at_ n] s u)
          (exec (.healthTilefClear t n v) s))))

/-! ### The fabric (13_fabric.md) -/

/-- A composition map is staged or refused with its check's code and may be withdrawn; it comes into force at a boundary at or after its time
and 400 ns after the staging, unless requests under an older map hold it back, which end at the drain's end. -/
def Obligations.MapsAreStagedAndActivated : Prop :=
  ∀ (s : State) (t : Nat),
    let now := s.at_ t
    (s.ready = false → ∀ ctl, exec (.compWithdraw t ctl) s = .next now ∧ ∀ mem, exec (.compStage t ctl mem) s = .next now) ∧
    (∀ (ctl : Word) (mem : Option Bytes), s.ready = true →
      let stage : List Part := [.now, .regs, .live, .comp, .power]
      (s.compCode mem ≠ 0 →
        Completes stage s (fun u => OpEnded opComp (s.compCode mem) u ∧ u.comp = s.comp) (exec (.compStage t ctl mem) s)) ∧
      (∀ b, mem = some b → s.compCode mem = 0 →
        Completes stage s
          (fun u => OpEnded opComp 0 u ∧ u.comp = { s.comp with staged := some (now.now, parseCompMap b), firstQualified := none } ∧
            u.rd F.NET_COMP_CTL.STAGED = 1 ∧ u.rd F.NET_COMP_CTL.STAGED_EPOCH = (parseCompMap b).epoch % 65536 ∧ u.rd F.NET_COMP_CTL.DEFERRED = 0)
          (exec (.compStage t ctl mem) s)) ∧
      Completes stage s
        (fun u => OpEnded opComp 0 u ∧ u.comp = { s.comp with staged := none, firstQualified := none } ∧
          u.rd F.NET_COMP_CTL.STAGED = 0 ∧ u.rd F.NET_COMP_CTL.DEFERRED = 0)
        (exec (.compWithdraw t ctl) s)) ∧
    ((∀ a m, s.comp.staged = some (a, m) → s.tick.last < m.actTime ∨ s.tick.last < a + 400) → exec (.mapActivation t) s = .next now) ∧
    (∀ a m, s.comp.staged = some (a, m) → m.actTime ≤ s.tick.last → a + 400 ≤ s.tick.last →
      (s.blocking ≠ [] →
        Completes [.now, .regs, .comp] s
          (fun u => u.comp = { s.comp with firstQualified := s.comp.firstQualified.or (some s.tick.last) } ∧ u.rd F.NET_COMP_CTL.DEFERRED = 1 ∧
            RegsKept [F.NET_COMP_CTL.DEFERRED.off] s u)
          (exec (.mapActivation t) s)) ∧
      (s.blocking = [] →
        Completes [.now, .regs, .itin, .reqs, .ctxs, .engines, .tiles, .locals, .conns, .links, .comp, .tier, .health, .power, .ranger,
          .dbg, .out, .free] s
          (fun u => u.comp.current = some m ∧ u.comp.previous = s.comp.current ∧ u.comp.epoch = m.epoch ∧ u.comp.staged = none ∧
            u.comp.isolated = false)
          (exec (.mapActivation t) s))) ∧
    ((∀ f, s.comp.firstQualified = some f → now.now < f + s.lv F.NET_FAB.DRAIN_MS * 1000000) → exec (.drainTimeout t) s = .next now) ∧
    (∀ f, s.comp.firstQualified = some f → f + s.lv F.NET_FAB.DRAIN_MS * 1000000 ≤ now.now →
      Completes [.now, .itin, .reqs, .ctxs, .engines, .locals, .conns, .links, .health, .dbg, .out] s
        (fun u => ∀ r ∈ s.blocking, u.req? r.id = none) (exec (.drainTimeout t) s))

/-- A rebuilt page commits in the far tier; a node that has heard nothing from its peers for ISOLATE_MS isolates itself; a suspicion window's
end declares candidates up to BUDGET, and more of them are a storm for as long as that lasts. -/
def Obligations.RebuildIsolationAndSuspects : Prop :=
  ∀ (s : State) (t : Nat),
    let now := s.at_ t
    (∀ ctx conv layer head index : Nat,
      let found := s.comp.rebuilds.find? (fun b => b.ctx == ctx && b.key == imageKey conv (headKey layer head) index)
      (found = none → exec (.rebuildPageCommit t ctx conv layer head index) s = .next now) ∧
      (∀ b, found = some b →
        let run := exec (.rebuildPageCommit t ctx conv layer head index) s
        let ahead (x : Rebuild) : Prop := now.rebuildOrder x < now.rebuildOrder b
        let left : State := { now with comp := { s.comp with rebuilds := s.comp.rebuilds.filter (fun x => x != b) } }
        let wanted := b.page.refs == 0 || !(now.rebuiltEntries b).isEmpty
        ((∃ x ∈ s.comp.rebuilds, ahead x) → run = .next now) ∧
        ((∀ x ∈ s.comp.rebuilds, ¬ahead x) →
          (((s.ctx b.ctx).profile = none ∨ wanted = false) → run = .next left) ∧
          (∀ p, (s.ctx b.ctx).profile = some p → wanted = true →
            let c := ((s.ctx b.ctx).conv? b.page.conv).getD (Conv.remote b.slot)
            let due := s.comp.recoverFrom + now.recoverTime p b
            let place := left.newPage b.ctx p { c with placed := 2 } (b.page.index + 1)
              { b.page with refs := max 1 (now.rebuiltEntries b).length, rebuilt := true }
            ((now.now < due ∨ place = none) → run = .next now) ∧
            (∀ num v, due ≤ now.now → place = some (num, v) →
              Completes [.now, .regs, .ctxs, .tiles, .comp, .tier, .free] s
                (fun u => b ∉ u.comp.rebuilds ∧ u.comp.recoverFrom = due ∧
                  ∃ pg, mget (u.ctx b.ctx).pages num = some pg ∧ pg.tier = 2 ∧ pg.conv = b.page.conv ∧ pg.layer = b.page.layer ∧
                    pg.head = b.page.head ∧ pg.index = b.page.index ∧ pg.pebbles = b.page.pebbles ∧ pg.rebuilt = true)
                run))))) ∧
    (let quiet := s.hasPeers && !s.comp.isolated && decide (s.comp.heard + s.lv F.NET_FAB.ISOLATE_MS * 1000000 ≤ now.now)
     (quiet = false → exec (.isolationTimeout t) s = .next now) ∧
     (quiet = true →
      Completes [.now, .regs, .comp] s
        (fun u => u.comp = { s.comp with isolated := true } ∧ u.rd F.NET_COMP_CTL.ISOLATED = 1 ∧ RegsKept [F.NET_COMP_CTL.ISOLATED.off] s u)
        (exec (.isolationTimeout t) s))) ∧
    (let due := s.comp.windowStart + s.lv F.NET_SUSPECT.WINDOW_MS * 1000000
     let new := now.candidates.filter (fun c => !s.comp.suspects.contains c.1)
     let budget := s.lv F.NET_SUSPECT.BUDGET
     let declared := if s.comp.storm then [] else new.take budget
     (now.now < due → exec (.suspectWindowEnd t) s = .next now) ∧
     (due ≤ now.now →
      Completes [.now, .regs, .comp, .health, .free] s
        (fun u => u.comp.arrivals = [] ∧ u.comp.windowStart = now.now ∧ (∀ c ∈ declared, c.1 ∈ u.comp.suspects) ∧
          (∀ k ∈ u.comp.suspects, ∃ c ∈ now.candidates, c.1 = k) ∧
          u.comp.storm = decide (budget < new.length) ∧
          u.rd F.NET_SUSPECT_STAT.DECLARED =
            min (s.rd F.NET_SUSPECT_STAT.DECLARED + declared.length) (2 ^ F.NET_SUSPECT_STAT.DECLARED.width - 1))
        (exec (.suspectWindowEnd t) s)))

/-! ### Power, supply and heat (14_power_health.md) -/

/-- An exit that is over leaves N0 or N1, and set-up writes that waited count their 400 ns from there; the supply warning begins a hold with
its record, which reports FLUSHED when its journals are acknowledged, and its end waits for the recovery, which another warning puts off;
input samples up to the absolute limit of 80 V set the voltage bands, and the power average its register and the time it has been clear of the cap. -/
def Obligations.PowerAndSupply : Prop :=
  ∀ (s : State) (t : Nat),
    let now := s.at_ t
    let bands (mv : Nat) (u : State) : Prop :=
      u.rd F.PWR_SUPPLY.INPUT_MV = min mv 65535 ∧ u.rd F.PWR_SUPPLY.MIN_MV = min mv (s.rd F.PWR_SUPPLY.MIN_MV) ∧
      u.rd F.PWR_SUPPLY.LOW = b2n (decide (44000 ≤ mv ∧ mv < 46000)) ∧ u.rd F.PWR_SUPPLY.OVER = b2n (decide (58000 < mv))
    (s.power.exiting = false → exec (.powerExitComplete t) s = .next now) ∧
    (s.power.exiting = true →
      Completes [.now, .regs, .staged, .engines, .tier, .power, .out] s
        (fun u => u.rd F.PWR_STATE.EXITING = 0 ∧ u.rd F.PWR_STATE.CURRENT = min s.selectedPower 1 ∧
          u.power = { s.power with exiting := false, exitFrom := 0, quietTicks := 0 } ∧
          u.staged = s.staged.map (fun w =>
            if w.reg < 0x1000 ∨ (0x7000 ≤ w.reg ∧ w.reg < 0x9000) then w else { w with time := max w.time now.now }) ∧
          (s.tier.withheld = [] → u.engines = s.engines ∧ u.tier = s.tier ∧ u.out = s.out) ∧ RegsKept [F.PWR_STATE.CURRENT.off] s u)
        (exec (.powerExitComplete t) s)) ∧
    (∀ mv, (44000 < mv ∨ mv ≤ 40000) → exec (.supplyWarning t mv) s = .next now) ∧
    (∀ mv, 40000 < mv → mv ≤ 44000 → s.power.hold = true →
      Completes [.now, .regs, .power] s
        (fun u => bands mv u ∧ u.power = { s.power with recovered := false } ∧ RegsKept [F.PWR_SUPPLY.INPUT_MV.off] s u)
        (exec (.supplyWarning t mv) s)) ∧
    (∀ mv, 40000 < mv → mv ≤ 44000 → s.power.hold = false →
      Completes [.now, .regs, .health, .power, .free] s
        (fun u => bands mv u ∧ u.rd F.PWR_SUPPLY.WARN = 1 ∧ u.rd F.PWR_SUPPLY.FLUSHED = 0 ∧
          u.rd F.PWR_SUPPLY.HOLDS = min (s.rd F.PWR_SUPPLY.HOLDS + 1) (2 ^ F.PWR_SUPPLY.HOLDS.width - 1) ∧
          u.power = { s.power with hold := true, flushSent := false, recovered := false } ∧ u.health.seq = s.health.seq + 1 ∧
          RegsKept [F.PWR_SUPPLY.WARN.off, F.HEALTH_ERRCNT.LOST.off] s u)
        (exec (.supplyWarning t mv) s)) ∧
    (let acknowledged : Prop := s.power.hold = true ∧ s.power.flushSent = true ∧ s.journalPending = false
     (¬acknowledged → exec (.flushAcknowledged t) s = .next now) ∧
     (acknowledged →
      Completes [.now, .regs] s
        (fun u => u.rd F.PWR_SUPPLY.FLUSHED = 1 ∧ u.rd F.PWR_SUPPLY.WARN = s.rd F.PWR_SUPPLY.WARN ∧ RegsKept [F.PWR_SUPPLY.FLUSHED.off] s u)
        (exec (.flushAcknowledged t) s))) ∧
    (s.power.hold = false → exec (.supplyRecovery t) s = .next now) ∧
    (s.power.hold = true →
      Completes [.now, .power] s (fun u => u.power = { s.power with recovered := true }) (exec (.supplyRecovery t) s)) ∧
    (∀ mv, 80000 < mv → exec (.inputSample t mv) s = .fault .beyondAbsoluteLimits) ∧
    (∀ mv, mv ≤ 80000 →
      Completes [.now, .regs] s (fun u => bands mv u ∧ RegsKept [F.PWR_SUPPLY.INPUT_MV.off] s u) (exec (.inputSample t mv) s)) ∧
    (∀ watts,
      Completes [.now, .regs, .power] s
        (fun u => u.rd F.PWR_CAP.POWER_W = min watts 2047 ∧ u.rd F.PWR_CAP.CAPPED = s.rd F.PWR_CAP.CAPPED ∧
          u.power = { s.power with
            cap95Since := if watts * 100 < s.effectiveCap * 95 then some (s.power.cap95Since.getD now.now) else none } ∧
          RegsKept [F.PWR_CAP.POWER_W.off] s u)
        (exec (.powerAverage t watts) s))

/-- A half-column at 105 °C drops to 900 MHz at once, one that is slower staying, and the emergency is counted and recorded until it
ends, its running tasks lasting longer; a stack above 95 °C is hot and on the finer refresh grid, whose refreshes lengthen its engines'
commands for the rest of the tick. -/
def Obligations.EmergenciesAndHotStacks : Prop :=
  ∀ (s : State) (t n : Nat) (temp : Int),
    let now := s.at_ t
    let fresh : Prop := n < 96 ∧ 840 ≤ temp ∧ mhas s.power.emergencies n = false
    (¬fresh → exec (.thermalEmergency t n temp) s = .next now) ∧
    (fresh →
      Completes [.now, .regs, .itin, .health, .power, .free] s
        (fun u => u.rd F.PWR_HC.FREQ_MHZ n = min (s.rd F.PWR_HC.FREQ_MHZ n) 900 ∧ u.rd F.PWR_HC.TJ n = (temp % 65536).toNat ∧
          u.rd F.PWR_HC.MAX_MHZ n = s.rd F.PWR_HC.MAX_MHZ n ∧
          u.rd F.PWR_THERM.EMERGENCIES = min (s.rd F.PWR_THERM.EMERGENCIES + 1) (2 ^ F.PWR_THERM.EMERGENCIES.width - 1) ∧
          u.power = { s.power with
            emergencies := mset s.power.emergencies n (s.rd F.PWR_HC.FREQ_MHZ n), hcCoolSince := mdel s.power.hcCoolSince n } ∧
          u.health.seq = s.health.seq + 1 ∧
          (∀ (k : Nat) (r : Task), halfColumn k = n → (s.plan (.tile k)).running = some r →
            let left := now.costLeft r
            ∃ v, (u.plan (.tile k)).running = some v ∧ v.id = r.id ∧
              v.costPs = r.costPs - left + ceilDiv (left * s.rd F.PWR_HC.FREQ_MHZ n) (max 1 (min (s.rd F.PWR_HC.FREQ_MHZ n) 900))) ∧
          (∀ (k : Nat) (p : UnitPlan), (match p.running with | none => True | some _ => halfColumn k ≠ n) →
            (UnitId.tile k, p) ∈ s.itin.units → (UnitId.tile k, p) ∈ u.itin.units) ∧
          RegsKept [F.PWR_HC.FREQ_MHZ.at_ n, F.PWR_THERM.MAX_TJ.off, F.HEALTH_ERRCNT.LOST.off] s u)
        (exec (.thermalEmergency t n temp) s)) ∧
    ((12 ≤ n ∨ temp ≤ 760) → exec (.stackHot t n temp) s = .next now) ∧
    (n < 12 → 760 < temp →
      let fine := s.running && !s.power.hotGrid.contains n && !s.power.above85.contains n
      Completes [.now, .regs, .itin, .power] s
        (fun u => (∀ k, k < 12 → bit (u.rd F.PWR_STACK.HOT) k = (decide (k = n) || bit (s.rd F.PWR_STACK.HOT) k)) ∧
          mget u.power.stackTemps n = some temp ∧ u.power.above85.contains n = true ∧
          (∀ k, k ≠ n → u.power.above85.contains k = s.power.above85.contains k) ∧
          u.power = { s.power with stackTemps := u.power.stackTemps, above85 := u.power.above85 } ∧
          (fine = false → u.itin = s.itin ∧ u.rd F.TIER_SE_REFRESH.INTRUSION = s.rd F.TIER_SE_REFRESH.INTRUSION) ∧
          (fine = true → u.itin = (now.stackWarm n).itin ∧
            u.rd F.TIER_SE_REFRESH.INTRUSION = min (s.rd F.TIER_SE_REFRESH.INTRUSION + 16 * (now.midpoints (16 * n)).length) 65535) ∧
          RegsKept [F.PWR_STACK.HOT.off, F.TIER_SE_REFRESH.INTRUSION.off] s u)
        (exec (.stackHot t n temp) s))

/-! ### Resets (16_reset.md, 17_module.md) -/

/-- Power-on, brownout, thermal trip, module reset and node reset restart the node from their stage with their cause; power-on and a module
reset after a thermal trip report the trip. -/
def Obligations.NodeWideResets : Prop :=
  ∀ (s : State) (t : Nat),
    let now := s.at_ t
    let supply := [F.PWR_SUPPLY.INPUT_MV.off]
    let sampled (mv : Nat) (u : State) : Prop := u.rd F.PWR_SUPPLY.INPUT_MV = mv ∧ u.rd F.PWR_SUPPLY.MIN_MV = mv
    let cold := if s.power.tripped then 2 else 0
    let powered (u : State) : Prop := u.power.packageOn = true ∧ u.power.tripped = false ∧ u.pins.thermTrip = false
    (∀ mv, 80000 < mv → exec (.powerOn t mv) s = .fault .beyondAbsoluteLimits) ∧
    (∀ mv, mv ≤ 80000 → (mv < 46000 ∨ 58000 < mv) → exec (.powerOn t mv) s = .next now) ∧
    (∀ mv, 46000 ≤ mv → mv ≤ 58000 →
      ∃ u, exec (.powerOn t mv) s = .next u ∧ Restarted now u cold 0 false false supply ∧ sampled mv u ∧ powered u) ∧
    (s.power.charging = false → exec (.holdupCharged t) s = .next now) ∧
    (s.power.charging = true →
      ∃ u, exec (.holdupCharged t) s = .next u ∧ Restarted now u cold 0 false false [] ∧ powered u ∧ u.power.charging = false) ∧
    (∀ mv, 40000 < mv → exec (.brownout t mv) s = .next now) ∧
    (∀ mv, mv ≤ 40000 → s.power.tripped = true →
      Completes [.now, .regs] s (fun u => u.rd F.PWR_SUPPLY.INPUT_MV = mv ∧ RegsKept supply s u) (exec (.brownout t mv) s)) ∧
    (∀ mv, mv ≤ 40000 → s.power.tripped = false →
      ∃ u, exec (.brownout t mv) s = .next u ∧ Restarted now u 1 0 false false supply ∧ sampled mv u ∧
        (if s.rangerUp then ∃ r, u.ranger.log.getLast? = some r ∧ r.kind = ErrKind.brownoutReset.code ∧ r.detail = mv
         else u.ranger.log = s.ranger.log)) ∧
    (∀ temp : Int, temp < 920 → exec (.thermalTrip t temp) s = .next now) ∧
    (∀ temp : Int, 920 ≤ temp →
      ∃ u, exec (.thermalTrip t temp) s = .next u ∧ Restarted now u 2 0 false false [] ∧ u.pins.thermTrip = true ∧ u.power.packageOn = false ∧
        u.power.tripped = true ∧ u.ranger.trips = s.ranger.trips ++ [(s.ranger.clock + (max s.now t : Nat)).toNat]) ∧
    (∀ samples, samples < 50 → exec (.moduleReset t samples) s = .next now) ∧
    (∀ samples, 50 ≤ samples →
      let brown := s.rd F.ID_BOOT.CAUSE = 1 ∧ s.rd F.ID_BOOT.STAGE = 0 ∧ max s.now t = 0
      ∃ u, exec (.moduleReset t samples) s = .next u ∧ u.pins.moduleResetLow = true ∧
        (s.power.tripped = true → Restarted now u 2 0 false false [] ∧ powered u) ∧
        (s.power.tripped = false → brown → Restarted now u 1 0 true false []) ∧
        (s.power.tripped = false → ¬brown → Restarted now u 3 0 true false [])) ∧
    (∀ session,
      RoleChecked s t session .operator (exec (.nodeReset t session) s)
        (∃ u, exec (.nodeReset t session) s = .next u ∧ Restarted now u 4 2 true true []))

/-- The resets of the host's side: an FLR and a hot reset drop the requests of local rings not yet admitted, silence the others and return
the RING block to its reset state; a hot reset takes the link down; PERST_N and MODULE_RESET_N going high end what they held. -/
def Obligations.HostSideResetsAndPins : Prop :=
  ∀ (s : State) (t : Nat),
    let now := s.at_ t
    let mine (r : Req) : Bool := match r.ring with
      | .partner _ _ => false
      | .localRing _ => true
    let hostSide (u : State) : Prop :=
      u.locals = [] ∧ (∀ off, off / 4096 = 4 → getReg u.regs off = regReset off) ∧ (∀ w ∈ u.staged, w.reg / 4096 ≠ 4) ∧
      (∀ r ∈ u.reqs, mine r = true → r.silent = true ∧ r.admittedAt.isSome = true) ∧
      (∀ r ∈ s.reqs, (mine r = false → r ∈ u.reqs) ∧ (mine r = true → r.admittedAt.isSome = true → { r with silent := true } ∈ u.reqs))
    let hostMove (m : Move) : Bool := (m.dst.tier == 4 && m.member.isNone) || (m.srcTier == 4 && m.incoming.isNone)
    Completes [.now, .regs, .live, .staged, .reqs, .locals] s
      (fun u => hostSide u ∧ ∀ off, off / 4096 ≠ 4 → getReg u.regs off = getReg s.regs off) (exec (.flr t) s) ∧
    (∀ perst,
      Completes [.now, .regs, .live, .staged, .reqs, .tiles, .locals, .tier, .pins] s
        (fun u => hostSide u ∧ u.tier.cxlUp = false ∧ u.rd F.TIER_PLACE_STATUS.HOST_DOWN = 1 ∧
          u.pins = { s.pins with perstLow := s.pins.perstLow || perst } ∧
          u.tier.moves = s.tier.moves.filter (fun m => !hostMove m) ∧
          (∀ off, off / 4096 ≠ 4 → off ≠ F.TIER_PLACE_STATUS.HOST_DOWN.off → off ≠ F.TIER_MOVES.ABORTS.off →
            getReg u.regs off = getReg s.regs off))
        (exec (.cxlHotReset t perst) s)) ∧
    (s.pins.perstLow = false → exec (.perstNRelease t) s = .next now) ∧
    (s.pins.perstLow = true →
      Completes [.now, .regs, .tier, .pins, .free] s
        (fun u => u.pins = { s.pins with perstLow := false } ∧ RegsKept [F.TIER_PLACE_STATUS.HOST_DOWN.off] s u ∧
          (3 ≤ s.rd F.ID_BOOT.STAGE → u.tier.cxlUp = true ∧ u.rd F.TIER_PLACE_STATUS.HOST_DOWN = 0) ∧
          (s.rd F.ID_BOOT.STAGE < 3 → u.tier = s.tier ∧ u.regs = s.regs))
        (exec (.perstNRelease t) s)) ∧
    (s.pins.moduleResetLow = false → exec (.moduleResetRelease t) s = .next now) ∧
    (s.pins.moduleResetLow = true →
      Completes [.now, .pins, .ranger] s
        (fun u => u.now = 0 ∧ u.pins = { s.pins with moduleResetLow := false } ∧
          u.ranger = { s.ranger with clock := s.ranger.clock + (max s.now t : Nat) })
        (exec (.moduleResetRelease t) s))

/-! ### Start-up (16_reset.md, Table 16.2) -/

/-- Each stage of start-up ends with its result: the next stage, READY after the last, or FAIL with its code, at which start-up stops; no
stage ends out of its turn. The input switch closes and opens as the raw input says. -/
def Obligations.StartUpRunsInStages : Prop :=
  ∀ (s : State) (t : Nat),
    let now := s.at_ t
    let parts : List Part := [.now, .regs, .itin, .ctxs, .tiles, .links, .tier, .sec, .health, .pins, .ranger, .nv, .free]
    let going : Prop := s.rd F.ID_BOOT.FAIL = 0 ∧ s.ready = false ∧ s.power.packageOn = true ∧ s.pins.moduleResetLow = false
    let stage := s.rd F.ID_BOOT.STAGE
    let boot := F.ID_BOOT.STAGE.off
    (∀ r, ¬going → exec (.startupStageComplete t r) s = .next now) ∧
    (∀ r, (match r with
        | .rails => stage ≠ 0
        | .ranger .. => stage ≠ 1
        | .identity .. => stage ≠ 2
        | .training .. => stage ≠ 3
        | .images .. => stage ≠ 4
        | .restore .. => stage ≠ 5) → exec (.startupStageComplete t r) s = .next now) ∧
    (going → stage = 0 →
      Completes parts s (fun u => u.rd F.ID_BOOT.STAGE = 1 ∧ u.pins = { s.pins with pwrOk := true } ∧ RegsKept [boot] s u)
        (exec (.startupStageComplete t .rails) s)) ∧
    (going → stage = 1 → ∀ ok svn straps,
      Completes parts s
        (fun u => u.rd F.ID_BOOT.STAGE = 2 ∧ u.pins = { s.pins with slotId := straps } ∧ RegsKept [boot, F.SEC_SVN.RANGER.off] s u ∧
          (ok = true → u.ranger.running = true ∧ u.ranger.straps = straps ∧ u.rd F.SEC_SVN.RANGER = svn % 65536) ∧
          (ok = false → u.ranger = { s.ranger with recovery := true }))
        (exec (.startupStageComplete t (.ranger ok svn straps)) s)) ∧
    (going → stage = 2 → ∀ config svn helper key drbg,
      Completes parts s
        (fun u =>
          RegsKept ([boot, F.SEC_SVN.SECURITY.off, F.SEC_STATUS.HELPER_VALID.off, F.HEALTH_ERRCNT.LOST.off] ++
            (List.range 2).map F.ID_SERIAL.SERIAL.at_ ++ (List.range 96).map F.PWR_HC.FREQ_MHZ.at_) s u ∧
          (config = none → StageFailed s u 1 ∧ u.health.seq = s.health.seq + 1) ∧
          (∀ c, config = some c → u.sec.configValid = true ∧ u.sec.record = some c ∧ u.sec.drbgOk = drbg ∧ u.rd F.SEC_SVN.SECURITY = svn % 65536 ∧
            (∀ h, h < 96 → u.rd F.PWR_HC.MAX_MHZ h = lget c.speedGrades h 1800 % 4096) ∧
            ((helper.any id = false ∨ key ≠ c.publicKey) → StageFailed s u 2 ∧ u.health.seq = s.health.seq + 1) ∧
            (helper.any id = true → key = c.publicKey →
              u.rd F.ID_BOOT.STAGE = 3 ∧ u.rd F.ID_BOOT.FAIL = 0 ∧ u.sec.keysDerived = true ∧ u.sec.publicKey = key ∧ u.sec.identity = sha512 key)))
        (exec (.startupStageComplete t (.identity config svn helper key drbg)) s)) ∧
    (going → stage = 3 → ∀ trained far eng ls cxl,
      Completes parts s
        (fun u => (trained = false → StageFailed s u 3) ∧
          (∀ l ∈ ls, s.linkExists l = true → (u.link l).up = true) ∧
          (cxl = true → s.pins.perstLow = false → u.tier.cxlUp = true ∧ u.rd F.TIER_PLACE_STATUS.HOST_DOWN = 0) ∧
          ((cxl = false ∨ s.pins.perstLow = true) → u.tier.cxlUp = s.tier.cxlUp ∧ u.rd F.TIER_PLACE_STATUS.HOST_DOWN = 1) ∧
          (trained = true → u.rd F.ID_BOOT.STAGE = 4 ∧ u.rd F.ID_BOOT.FAIL = 0 ∧
            (∀ ch ∈ far, ch < 16 → u.farDown ch = true) ∧ (∀ n ∈ eng, n < 192 → bitOf u.regs F.TIER_SE_FAULT.FAULT n = true)))
        (exec (.startupStageComplete t (.training trained far eng ls cxl)) s)) ∧
    (going → stage = 4 → ∀ code kernel asvn ksvn map copies,
      Completes parts s
        (fun u => RegsKept ([boot, F.SEC_SVN.KERNEL.off, F.SEC_STATUS.KEYSTORE_VALID.off, F.SEC_KEYSTORE.SEALED.off] ++
            (List.range 8).map F.ID_KERNEL.DIGEST.at_) s u ∧
          (code = false → StageFailed s u 4) ∧
          (code = true →
            u.rd F.SEC_SVN.ASSIST = asvn % 65536 ∧ u.rd F.SEC_SVN.KERNEL = ksvn % 65536 ∧ u.sec.kernel = kernel ∧
            (∀ n, n < 8 → u.rd F.ID_KERNEL.DIGEST n = le kernel (8 * n) 8) ∧
            (map = false → StageFailed s u 5) ∧ (map = true → copies.any id = false → StageFailed s u 6) ∧
            (map = true → copies.any id = true → u.rd F.ID_BOOT.STAGE = 5 ∧ u.rd F.ID_BOOT.FAIL = 0)))
        (exec (.startupStageComplete t (.images code kernel asvn ksvn map copies)) s)) ∧
    (going → stage = 5 → ∀ tagOk,
      let torn (e : KeyEntry) : Bool := e.tombstone || e.marked (s.rd F.SEC_STATUS.KEYSTORE_VALID)
      let whole (im : SealedImage) : Bool := tagOk && im.complete
      Completes parts s
        (fun u => u.rd F.ID_BOOT.READY = 1 ∧ u.rd F.ID_BOOT.STAGE = 5 ∧ u.nv.image = none ∧
          u.rd F.ID_BOOT.RESTORED = (s.nv.keyStore.filter (fun e => !torn e.2)).length % 1024 ∧
          u.rd F.ID_BOOT.IMAGE = b2n (s.nv.image.any whole) ∧
          (mwf s.nv.keyStore = true → ∀ c e, mget s.nv.keyStore c = some e →
            (e.tombstone = true → (u.ctx c).phase = .scrubbing ∧ (u.ctx c).keyLoaded = false) ∧
            (e.tombstone = false → torn e = true → (u.ctx c).phase = .draining ∧ (u.ctx c).teardownAt = some 0) ∧
            (torn e = false → (u.ctx c).keyLoaded = true ∧
              ((u.ctx c).phase = .created ∨ (u.ctx c).phase = .inService)) ∧
            (torn e = false → (s.nv.image.any whole = false) → (u.ctx c).phase = .created ∧ (u.ctx c).tenant = e.tenant ∧
              (u.ctx c).creation = e.creation)))
        (exec (.startupStageComplete t (.restore tagOk)) s)) ∧
    (∀ mv, 80000 < mv → exec (.overVoltage t mv) s = .fault .beyondAbsoluteLimits ∧
      ∀ ms, exec (.vinMated t mv ms) s = .fault .beyondAbsoluteLimits) ∧
    (∀ mv ms, mv ≤ 80000 →
      let closes := 46000 ≤ mv ∧ 100 ≤ ms ∧ s.power.charging = false ∧ (s.power.switchClosed = false ∨ stage = 0)
      (¬closes → exec (.vinMated t mv ms) s = .next now) ∧
      (closes →
        Completes [.now, .power] s (fun u => u.power = { s.power with switchClosed := true, charging := true }) (exec (.vinMated t mv ms) s))) ∧
    (∀ mv, mv ≤ 60000 → exec (.overVoltage t mv) s = .next now) ∧
    (∀ mv, 60000 < mv → mv ≤ 80000 →
      Completes [.now, .power] s (fun u => u.power = { s.power with switchClosed := false }) (exec (.overVoltage t mv) s)) ∧
    (∀ mv, 59000 < mv → exec (.overVoltageClear t mv) s = .next now) ∧
    (∀ mv, mv ≤ 59000 →
      Completes [.now, .power] s (fun u => u.power = { s.power with switchClosed := true }) (exec (.overVoltageClear t mv) s))

/-! ### Ranger (15_ranger.md) -/

/-- A TLS connection opens a session under the least-privileged role its certificate chains to, is counted when 16 are open, and opens none
otherwise, a certificate that chains to no anchor ending it with an alert; an hour without traffic closes a session with its streams; a
ForceRestart, the watchdog, a failed self-test and an uncorrectable error restart Ranger. -/
def Obligations.SessionsAndRestarts : Prop :=
  ∀ (s : State) (t : Nat),
    let now := s.at_ t
    let at_ := now.rangerNow
    let restart : List Part := [.now, .regs, .sec, .ranger]
    let run (o : Host.Outcome State Fault Refusal) : Prop :=
      (s.rangerUp = false → o = .next now) ∧ (s.rangerUp = true → Completes restart s (fun u => RangerRestarted s u at_ []) o)
    (∀ o : TlsOffer,
      let serves := s.rangerUp = true ∧ o.tcpPort = 443
      let offered := o.tls13 = true ∧ o.parameters = true ∧ o.refusedFeature = false
      let here (a : Anchor) : Prop := a ∈ s.ranger.anchors ∧ a.id ∈ o.anchors
      (¬serves → exec (.tlsSession t o) s = .next now) ∧
      (serves → 16 ≤ s.ranger.sessions.length →
        Completes [.now, .ranger] s (fun u => u.ranger = { s.ranger with refused := s.ranger.refused + 1 }) (exec (.tlsSession t o) s)) ∧
      (serves → s.ranger.sessions.length < 16 → ¬offered → exec (.tlsSession t o) s = .next now) ∧
      (serves → s.ranger.sessions.length < 16 → offered → (∀ a, ¬here a) →
        Completes [.now, .out] s (fun u => u.out = .tlsAlert :: s.out) (exec (.tlsSession t o) s)) ∧
      (serves → s.ranger.sessions.length < 16 → offered → (∃ a, here a) →
        Completes [.now, .ranger] s
          (fun u => ∃ role, (∃ a, here a ∧ a.role = role) ∧ (∀ a, here a → roleRank role ≤ roleRank a.role) ∧
            u.ranger = { s.ranger with
              sessions := s.ranger.sessions ++ [⟨s.ranger.nextSession, role, at_, o.subject⟩], nextSession := s.ranger.nextSession + 1 })
          (exec (.tlsSession t o) s))) ∧
    (∀ o u, s.ranger.sessions.length ≤ 16 → exec (.tlsSession t o) s = .next u → u.ranger.sessions.length ≤ 16) ∧
    (∀ session,
      (s.session? session = none → exec (.sessionIdleTimeout t session) s = .next now) ∧
      (∀ x, s.session? session = some x →
        (at_ < x.lastAt + 3600000000000 → exec (.sessionIdleTimeout t session) s = .next now) ∧
        (x.lastAt + 3600000000000 ≤ at_ →
          Completes [.now, .ranger] s
            (fun u => (∀ y, y ∈ u.ranger.sessions ↔ y ∈ s.ranger.sessions ∧ y.id ≠ session) ∧
              (∀ v, v ∈ u.ranger.subs ↔ v ∈ s.ranger.subs ∧ (v.push = true ∨ v.owner ≠ session)) ∧
              u.ranger = { s.ranger with sessions := u.ranger.sessions, subs := u.ranger.subs })
            (exec (.sessionIdleTimeout t session) s)))) ∧
    (∀ session,
      RoleChecked s t session .operator (exec (.managerReset t session) s)
        (Completes [.now, .regs, .sec, .power, .ranger] s (fun u => RangerRestarted s u at_ [F.PWR_STATE.EXITING.off])
          (exec (.managerReset t session) s))) ∧
    run (exec (.rangerWatchdog t) s) ∧ run (exec (.rangerEccError t) s) ∧ run (exec (.rangerSelfTest t false) s) ∧
    exec (.rangerSelfTest t true) s = .next now

/-- Ranger takes the oldest buffered record to its log, sends one of severity 2 or 3 over MCTP, and delivers each subscription its next record
in order: a POST that fails is tried again a second later, for an hour, and a stream that fails ends. -/
def Obligations.RecordsAndEvents : Prop :=
  ∀ (s : State) (t : Nat),
    let now := s.at_ t
    let at_ := now.rangerNow
    ((s.rangerUp = false ∨ s.health.buffer = []) → exec (.rangerTakeRecord t) s = .next now) ∧
    (∀ r rest, s.rangerUp = true → s.health.buffer = r :: rest →
      Completes [.now, .health, .ranger, .out] s
        (fun u => u.health = { s.health with buffer := rest } ∧
          u.ranger.log = (if s.ranger.log.length < 65536 then s.ranger.log else s.ranger.log.drop 1) ++ [r] ∧
          (s.ranger.log.length < 65536 → u.ranger.subs = s.ranger.subs) ∧
          u.ranger = { s.ranger with log := u.ranger.log, subs := u.ranger.subs } ∧
          u.out = (if 2 ≤ r.severity then .alertOverMctp r.kind :: s.out else s.out))
        (exec (.rangerTakeRecord t) s)) ∧
    (∀ sub : Nat,
      let others (u : State) : Prop :=
        u.ranger = { s.ranger with subs := u.ranger.subs } ∧ ∀ v : Subscription, v.id ≠ sub → (v ∈ u.ranger.subs ↔ v ∈ s.ranger.subs)
      let mine (u : State) (p : Subscription → Prop) : Prop := ∀ v ∈ u.ranger.subs, v.id = sub → p v
      let delivers (ok : Bool) (w : Subscription) (o : Host.Outcome State Fault Refusal) : Prop :=
        Completes [.now, .ranger, .out] s
          (fun u => others u ∧
            (s.ranger.nextFor w = none → u.out = s.out ∧ mine u (fun v => v.position = s.ranger.log.length)) ∧
            (∀ i r, s.ranger.nextFor w = some (i, r) →
              (ok = true → u.out = .event sub r.seq :: s.out ∧ mine u (fun v => v.position = i + 1 ∧ v.failingSince = none)) ∧
              (ok = false → u.out = s.out) ∧
              (ok = false → w.push = true → mine u (fun v => v.failingSince = some (w.failingSince.getD at_) ∧ v.failedAt = at_)) ∧
              (ok = false → w.push = false → mine u (fun _ => False)))) o
      (s.liveSub sub = none →
        (∀ ok, exec (.eventDelivery t sub ok) s = .next now ∧ exec (.postRetry t sub ok) s = .next now) ∧
        exec (.subscriptionSuspend t sub) s = .next now) ∧
      (∀ w, s.liveSub sub = some w →
        (∀ ok, delivers ok w (exec (.eventDelivery t sub ok) s)) ∧
        (w.failingSince = none →
          (∀ ok, exec (.postRetry t sub ok) s = .next now) ∧ exec (.subscriptionSuspend t sub) s = .next now) ∧
        (∀ a, w.failingSince = some a →
          (∀ ok, (at_ < w.failedAt + 1000000000 → exec (.postRetry t sub ok) s = .next now) ∧
            (w.failedAt + 1000000000 ≤ at_ → delivers ok w (exec (.postRetry t sub ok) s))) ∧
          ((w.push = false ∨ at_ < a + 3600000000000) → exec (.subscriptionSuspend t sub) s = .next now) ∧
          (w.push = true → a + 3600000000000 ≤ at_ →
            Completes [.now, .ranger] s (fun u => others u ∧ mine u (fun v => v.suspended = true) ∧ u.liveSub sub = none)
              (exec (.subscriptionSuspend t sub) s))))) ∧
    (∀ session push minSeverity cert,
      let full := 8 ≤ s.ranger.subs.length ∨ 3 < minSeverity ∨ (push = true ∧ cert = [])
      RoleChecked s t session .auditor (exec (.eventSubscriptionCreate t session push minSeverity cert) s)
        (Completes [.now, .regs, .power, .ranger, .out] s
          (fun u => RegsKept [F.PWR_STATE.EXITING.off] s u ∧ (full → u.out = .refusedRequest :: s.out ∧ u.ranger = { s.ranger with sessions := touched s session at_ }) ∧
            (¬full → u.out = s.out ∧ u.ranger = { s.ranger with
              sessions := touched s session at_, nextSub := s.ranger.nextSub + 1
              subs := s.ranger.subs ++ [⟨s.ranger.nextSub, session, push, minSeverity, cert, s.ranger.log.length, none, 0, false⟩] }))
          (exec (.eventSubscriptionCreate t session push minSeverity cert) s)))

/-- A weathering sample sets its unit's index and is kept with those of the last 30 days; a report with every index, the module index and
the end-of-life days goes out each day, and when the module index crosses a multiple of 100. -/
def Obligations.WeatheringIsSampledAndReported : Prop :=
  ∀ (s : State) (t : Nat),
    let now := s.at_ t
    let reported (u : State) : Prop :=
      (∃ days, u.out = .report u.health.latest u.moduleIndex days :: s.out ∧
        ∀ d, d ∈ days ↔ ∃ x ∈ u.health.latest, d.1 = x.1 ∧ u.eolDay x.1 = some d.2) ∧
      (∃ r, u.ranger.log.getLast? = some r ∧ r.kind = weatheringEvent ∧ r.severity = 0) ∧
      u.ranger = { s.ranger with log := u.ranger.log, subs := u.ranger.subs }
    (s.rangerUp = false → exec (.weatheringReport t) s = .next now) ∧
    (s.rangerUp = true → Completes [.now, .ranger, .out] s reported (exec (.weatheringReport t) s)) ∧
    (∀ day w,
      let (kind, n, index) := weatherIndex w
      (weatherUnits kind ≤ n → exec (.weatheringSample t day w) s = .next now) ∧
      (n < weatherUnits kind →
        Completes [.now, .health, .ranger, .out] s
          (fun u => mget u.health.latest (kind * 256 + n) = some (min index 1000) ∧
            (∀ k, k ≠ kind * 256 + n → mget u.health.latest k = mget s.health.latest k) ∧
            (∀ x, x ∈ u.health.weather ↔ x = (kind * 256 + n, day, min index 1000) ∨ (x ∈ s.health.weather ∧ day < x.2.1 + 30)) ∧
            u.health = { s.health with weather := u.health.weather, latest := u.health.latest } ∧
            ((s.moduleIndex / 100 = u.moduleIndex / 100 ∨ s.rangerUp = false) → u.ranger = s.ranger ∧ u.out = s.out) ∧
            (s.moduleIndex / 100 ≠ u.moduleIndex / 100 → s.rangerUp = true → reported u))
          (exec (.weatheringSample t day w) s)))

/-- What an Administrator may install, remove, update and set, each with its refusals; the first anchor, which the carrier installs while there
is none; and the signed measurement blocks. -/
def Obligations.AnchorsImagesAndEvidence : Prop :=
  ∀ (s : State) (t : Nat),
    let now := s.at_ t
    let parts : List Part := [.now, .regs, .power, .ranger, .out]
    (∀ session,
      let admin (o : Host.Outcome State Fault Refusal) (p : Ranger → State → Prop) : Prop :=
        RoleChecked s t session .administrator o
          (Completes parts s
            (fun u => p { s.ranger with sessions := touched s session now.rangerNow } u ∧ RegsKept [F.PWR_STATE.EXITING.off] s u) o)
      (∀ role cert,
        admin (exec (.trustAnchorInstall t session role cert) s) (fun r u =>
          (8 ≤ s.ranger.anchors.length → u.out = .refusedRequest :: s.out ∧ u.ranger = r) ∧
          (s.ranger.anchors.length < 8 → u.out = s.out ∧
            u.ranger = { r with anchors := r.anchors ++ [⟨r.nextAnchor, role, cert⟩], nextAnchor := r.nextAnchor + 1 }))) ∧
      (∀ anchor,
        let known := ∃ a ∈ s.ranger.anchors, a.id = anchor
        let left := ∃ a ∈ s.ranger.anchors, a.id ≠ anchor ∧ a.role = .administrator
        admin (exec (.trustAnchorRemove t session anchor) s) (fun r u =>
          (¬known → u.out = .refusedRequest :: s.out ∧ u.ranger = r) ∧
          (known → ¬left → u.out = .http 409 :: s.out ∧ u.ranger = r) ∧
          (known → left → u.out = s.out ∧ (∀ a, a ∈ u.ranger.anchors ↔ a ∈ s.ranger.anchors ∧ a.id ≠ anchor) ∧
            u.ranger = { r with anchors := u.ranger.anchors }))) ∧
      (∀ slot1 identity cert,
        admin (exec (.certificateInstall t session slot1 identity cert) s) (fun r u =>
          (identity = false → u.out = .refusedRequest :: s.out ∧ u.ranger = r) ∧
          (identity = true → u.out = s.out ∧
            u.ranger = if slot1 then { r with spdmSlot1 := some cert } else { r with certificates := r.certificates ++ [cert] }))) ∧
      (∀ kind svn digest sigOk,
        admin (exec (.updateImage t session kind svn digest sigOk) s) (fun r u =>
          (sigOk = false → u.out = .http 400 :: s.out ∧ u.ranger = r) ∧
          (sigOk = true → u.out = s.out ∧ u.ranger = { r with staged := u.ranger.staged } ∧
            (∀ x, x ∈ u.ranger.staged ↔ x = (kind, svn, digest) ∨ (x ∈ s.ranger.staged ∧ x.1 ≠ kind))))) ∧
      (∀ ip6 ip4 gateway dhcp6 dhcp4,
        admin (exec (.networkProtocolWrite t session ip6 ip4 gateway dhcp6 dhcp4) s) (fun r u => u.out = s.out ∧
          u.ranger = { r with ip6 := ip6, ip4 := ip4, gateway := gateway, dhcp6 := dhcp6, dhcp4 := dhcp4 }))) ∧
    (∀ role cert,
      (s.rangerUp = false → exec (.firstAnchorInstall t role cert) s = .next now) ∧
      (s.rangerUp = true →
        Completes [.now, .ranger, .out] s
          (fun u =>
            (s.ranger.anchors = [] → u.out = s.out ∧
              u.ranger = { s.ranger with anchors := [⟨s.ranger.nextAnchor, role, cert⟩], nextAnchor := s.ranger.nextAnchor + 1 }) ∧
            (s.ranger.anchors ≠ [] → u.out = .refusedRequest :: s.out ∧ u.ranger = s.ranger))
          (exec (.firstAnchorInstall t role cert) s))) ∧
    (∀ nonce,
      let answers := (s.ranger.running = true ∨ s.ranger.recovery = true) ∧ s.sec.keysDerived = true
      (¬answers → exec (.spdmMeasurements t nonce) s = .next now) ∧
      (answers →
        Completes [.now, .out, .free] s (fun u => ∃ sig, u.out = .spdm nonce s.measurements sig :: s.out) (exec (.spdmMeasurements t nonce) s)))

/-- A debug or profiling request is recorded with its client and then served by its role; traces are armed and stop; a debug read answers a
code, zeros for tile SRAM, eight words elsewhere, or waits for a leased bank; a unit taken out or returned changes at the next boundary;
and the frequency ceiling takes its accepted values alone. -/
def Obligations.DebugReadsTracesAndUnits : Prop :=
  ∀ (s : State) (t : Nat) (v : Word),
    let now := s.at_ t
    let at_ := now.rangerNow
    let wake := F.PWR_STATE.EXITING.off
    let idle (o : Host.Outcome State Fault Refusal) : Prop := s.rangerUp = false → o = .next now
    (∀ session op,
      let o := exec (.debugRequest t session op) s
      (s.session? session = none → o = .next now) ∧
      (∀ x, s.session? session = some x →
        let logged : Ranger := { s.ranger with audit := s.ranger.audit ++ [(at_, x.subject)], sessions := touched s session at_ }
        (roleRank x.role < roleRank (debugRole op) →
          Completes [.now, .ranger, .out] s (fun u => u.ranger = logged ∧ u.out = .refusedRequest :: s.out) o) ∧
        (roleRank (debugRole op) ≤ roleRank x.role →
          Completes [.now, .regs, .live, .staged, .engines, .power, .ranger, .dbg, .out, .free] s
            (fun u => u.ranger = logged ∧
              (∀ off, op = .read off → (off / 4096 = 9 → regFields off ≠ [] → u.out = .debugValue (u.readDbg off) :: s.out) ∧
                ((off / 4096 ≠ 9 ∨ regFields off = []) → u.out = .refusedRequest :: s.out) ∧
                u.dbg = s.dbg ∧ RegsKept [wake] s u) ∧
              (op = .counters → (∃ ws, u.out = .counters ws :: s.out) ∧ u.dbg = s.dbg ∧ RegsKept [wake] s u) ∧
              (∀ off w, op = .write off w → u.out = s.out ∧
                (off / 4096 ≠ 9 → u.dbg = s.dbg ∧ u.staged = s.staged ∧ RegsKept [wake] s u) ∧
                (off = F.DBG_SEQ_SEL.ENGINE.off → u.rd F.DBG_SEQ_SEL.ENGINE = fieldOf F.DBG_SEQ_SEL.ENGINE w ∧
                  u.rd F.DBG_SEQ_SEL.ENTRY = fieldOf F.DBG_SEQ_SEL.ENTRY w ∧ RegsKept [wake, off] s u))) o))) ∧
    (let o := exec (.traceArm t v) s
     let ticks := fieldOf F.DBG_TRACE_CTL.TICKS v
     idle o ∧
     (s.rangerUp = true →
      Completes [.now, .regs, .live, .power, .dbg] s
        (fun u => u.rd F.DBG_TRACE_CTL.TICKS = (if 1 ≤ ticks ∧ ticks ≤ 4096 then ticks else s.rd F.DBG_TRACE_CTL.TICKS) ∧
          u.dbg = (if fieldOf F.DBG_TRACE_CTL.ARM v = 1 ∧ s.rd F.DBG_TRACE_CTL.RUNNING = 0 then { s.dbg with traceLeft := u.rd F.DBG_TRACE_CTL.TICKS }
            else s.dbg) ∧
          RegsKept [wake, F.DBG_TRACE_CTL.TICKS.off] s u) o)) ∧
    (let stops := s.dbg.traceArmed = true ∧ traceDepth ≤ s.dbg.trace.length
     (¬stops → exec (.traceEnd t) s = .next now) ∧
     (stops →
      Completes [.now, .regs, .dbg] s
        (fun u => u.rd F.DBG_TRACE_CTL.RUNNING = 0 ∧ u.dbg = { s.dbg with traceArmed := false, traceLeft := 0 } ∧
          RegsKept [F.DBG_TRACE_CTL.RUNNING.off] s u)
        (exec (.traceEnd t) s))) ∧
    (let o := exec (.dbgRead t v) s
     let sel := now.wakeUp.writeDbg F.DBG_RD_SEL.TIER.off v
     let tier := fieldOf F.DBG_RD_SEL.TIER v
     let waits := tier = 1 ∧ sel.leased sel.dbgSelected.2.1 = true
     idle o ∧
     (s.rangerUp = true →
      Completes [.now, .regs, .live, .engines, .power, .free] s
        (fun u => u.rd F.DBG_RD_SEL.TIER = tier ∧ u.rd F.DBG_RD_SEL.UNIT = fieldOf F.DBG_RD_SEL.UNIT v ∧
          u.rd F.DBG_RD_SEL.LINE = fieldOf F.DBG_RD_SEL.LINE v ∧
          RegsKept ([wake, F.DBG_RD_SEL.TIER.off, F.DBG_RD_CTL.BUSY.off] ++ (List.range 8).map F.DBG_RD_DATA.DATA.at_) s u ∧
          (s.rd F.DBG_RD_CTL.BUSY = 1 → u.engines = s.engines ∧ RegsKept [wake, F.DBG_RD_SEL.TIER.off] s u) ∧
          (s.rd F.DBG_RD_CTL.BUSY = 0 → u.rd F.DBG_RD_CTL.ERRCODE = sel.dbgCode ∧
            (sel.dbgCode ≠ 0 → u.rd F.DBG_RD_CTL.ERROR = 1 ∧ u.engines = s.engines) ∧
            (sel.dbgCode = 0 → tier = 0 → u.rd F.DBG_RD_CTL.DONE = 1 ∧ ∀ n, n < 8 → u.rd F.DBG_RD_DATA.DATA n = 0) ∧
            (sel.dbgCode = 0 → waits → u.rd F.DBG_RD_CTL.BUSY = 1 ∧ u.rd F.DBG_RD_CTL.DONE = s.rd F.DBG_RD_CTL.DONE ∧
              Waiter.debug (max s.now t) ∈ (u.engine sel.dbgSelected.2.1).waiters) ∧
            (sel.dbgCode = 0 → tier ≠ 0 → ¬waits → u.rd F.DBG_RD_CTL.DONE = 1 ∧ u.rd F.DBG_RD_CTL.BUSY = 0 ∧ u.engines = s.engines))) o)) ∧
    (∀ out : Bool,
      let o := if out then exec (.dbgUnitTakeOut t v) s else exec (.dbgUnitReturn t v) s
      idle o ∧ (fieldOf F.DBG_UNIT_OFF.OP v ≠ (if out then 1 else 2) → o = .next now) ∧
      (s.rangerUp = true → fieldOf F.DBG_UNIT_OFF.OP v = (if out then 1 else 2) →
        Completes [.now, .regs, .live, .power, .dbg] s
          (fun u => u.dbg = { s.dbg with pendingOut := u.dbg.pendingOut } ∧
            (∀ unit, dbgUnit v = some unit → u.outNext unit = out ∧ ∀ x, x ≠ unit → u.outNext x = s.outNext x) ∧
            (dbgUnit v = none → u.dbg = s.dbg) ∧ u.rd F.DBG_UNIT_OFF.UNIT = fieldOf F.DBG_UNIT_OFF.UNIT v ∧
            RegsKept [wake, F.DBG_UNIT_OFF.UNIT.off] s u) o)) ∧
    (let o := exec (.dbgFreqLimitWrite t v) s
     let mhz := fieldOf F.DBG_FREQ_LIMIT.MHZ v
     let takes := mhz = 0 ∨ (600 ≤ mhz ∧ mhz ≤ 1800 ∧ mhz % 100 = 0)
     idle o ∧
     (s.rangerUp = true →
      Completes [.now, .regs, .staged, .power] s
        (fun u => (¬takes → u.staged = s.staged ∧ RegsKept [wake] s u) ∧
          (takes → u.rd F.DBG_FREQ_LIMIT.MHZ = mhz ∧ RegsKept [wake, F.DBG_FREQ_LIMIT.MHZ.off] s u ∧
            ∃ w : StagedWrite, u.staged = s.staged ++ [w] ∧ w.reg = F.DBG_FREQ_LIMIT.MHZ.off ∧ w.time + 400 ≤ max (max s.now t) 400)) o))
end

