-- ==== Sys2Proof/Laws/Memory.lean ====
section
/-! SUPPORT. Laws of sparse maps and of the exchange memories: what is read after a write, and that every write keeps the canonical
form. -/
namespace Sys2Proof.Machine

variable {α : Type}

/-! ### Maps -/

theorem mget_mset_same (m : Map α) (i : Nat) (x : α) : mget (mset m i x) i = some x := by
  induction m with
  | nil => simp [mset, mget]
  | cons e m ih =>
    simp only [mset]
    split
    · simp [mget]
    · split
      · simp [mget]
      · simp_all [mget]

theorem mget_mset_other (m : Map α) (i j : Nat) (x : α) (h : j ≠ i) : mget (mset m i x) j = mget m j := by
  induction m with
  | nil => simp [mset, mget, h]
  | cons e m ih =>
    simp only [mset]
    split
    · simp [mget, h]
    · split
      · simp_all [mget]
      · simp_all [mget]

/-- What a map holds after a key is set. -/
theorem mem_mset {m : Map α} {i : Nat} {x : α} {e : Nat × α} (h : e ∈ mset m i x) : e = (i, x) ∨ e ∈ m := by
  induction m with
  | nil => simpa [mset] using h
  | cons a m ih =>
    simp only [mset] at h
    split at h
    · simpa using h
    · split at h
      · simp only [List.mem_cons] at h ⊢
        exact h.imp_right .inr
      · simp only [List.mem_cons] at h ⊢
        rcases h with h | h
        · exact .inr (.inl h)
        · exact (ih h).imp_right .inr

theorem mem_mdel {m : Map α} {i : Nat} {e : Nat × α} (h : e ∈ mdel m i) : e ∈ m := by
  induction m with
  | nil => exact h
  | cons a m ih =>
    simp only [mdel] at h
    split at h
    · exact List.mem_cons_of_mem _ (ih h)
    · simp only [List.mem_cons] at h ⊢
      exact h.imp_right ih

theorem mem_of_mget {m : Map α} {i : Nat} {x : α} (h : mget m i = some x) : (i, x) ∈ m := by
  induction m with
  | nil => simp [mget] at h
  | cons a m ih =>
    obtain ⟨k, v⟩ := a
    simp only [mget] at h
    split at h
    · simp_all
    · exact List.mem_cons_of_mem _ (ih h)

theorem mwfFrom_mono {m : Map α} {a b : Nat} (h : mwfFrom b m = true) (k : a ≤ b) : mwfFrom a m = true := by
  cases m with
  | nil => rfl
  | cons e m =>
    simp only [mwfFrom, Bool.and_eq_true, decide_eq_true_eq] at h ⊢
    exact ⟨by omega, h.2⟩

theorem mset_wfFrom {m : Map α} {lo i : Nat} {x : α} (h : mwfFrom lo m = true) (k : lo ≤ i) : mwfFrom lo (mset m i x) = true := by
  induction m generalizing lo with
  | nil => simp [mset, mwfFrom, k]
  | cons e m ih =>
    simp only [mwfFrom, Bool.and_eq_true, decide_eq_true_eq] at h
    simp only [mset]
    split
    · simp only [mwfFrom, Bool.and_eq_true, decide_eq_true_eq]
      exact ⟨k, by omega, h.2⟩
    · split
      · simp_all [mwfFrom]
      · simp only [mwfFrom, Bool.and_eq_true, decide_eq_true_eq]
        exact ⟨h.1, ih h.2 (by omega)⟩

/-- Setting a key keeps the keys rising. -/
theorem mset_wf {m : Map α} {i : Nat} {x : α} (h : mwf m = true) : mwf (mset m i x) = true := mset_wfFrom h (Nat.zero_le _)

theorem mdel_wfFrom {m : Map α} {lo i : Nat} (h : mwfFrom lo m = true) : mwfFrom lo (mdel m i) = true := by
  induction m generalizing lo with
  | nil => exact h
  | cons e m ih =>
    simp only [mwfFrom, Bool.and_eq_true, decide_eq_true_eq] at h
    simp only [mdel]
    split
    · exact ih (mwfFrom_mono h.2 (by omega))
    · simp only [mwfFrom, Bool.and_eq_true, decide_eq_true_eq]
      exact ⟨h.1, ih h.2⟩

/-- Removing a key keeps the keys rising. -/
theorem mdel_wf {m : Map α} {i : Nat} (h : mwf m = true) : mwf (mdel m i) = true := mdel_wfFrom h

theorem mget_mdel_same (m : Map α) (i : Nat) : mget (mdel m i) i = none := by
  induction m with
  | nil => rfl
  | cons e m ih =>
    simp only [mdel]
    split
    · exact ih
    · simp_all [mget]

theorem mget_mdel_other (m : Map α) (i j : Nat) (h : j ≠ i) : mget (mdel m i) j = mget m j := by
  induction m with
  | nil => rfl
  | cons e m ih =>
    simp only [mdel]
    split
    · simp_all [mget]
    · simp_all [mget]

/-! ### The exchange memories -/

/-- A write of one byte keeps the canonical form. -/
theorem Memory.write_wf {m : List Host.Cell} {a : Nat} {b : Byte} (h : Memory.wf m = true) : Memory.wf (Memory.write m a b) = true := by
  simp only [Memory.wf, Bool.and_eq_true, List.all_eq_true] at h ⊢
  unfold Memory.write
  split
  · exact ⟨mdel_wf h.1, fun c hc => h.2 c (mem_mdel hc)⟩
  · refine ⟨mset_wf h.1, fun c hc => ?_⟩
    rcases mem_mset hc with e | e
    · subst e; simpa using ‹¬b = 0#8›
    · exact h.2 c e

/-- A write of bytes keeps the canonical form. -/
theorem Memory.writeN_wf {bs : Bytes} {m : List Host.Cell} {a : Nat} (h : Memory.wf m = true) : Memory.wf (Memory.writeN m a bs) = true := by
  induction bs generalizing m a with
  | nil => exact h
  | cons b bs ih => exact ih (Memory.write_wf h)

/-- The byte written is read back. -/
theorem Memory.read_write_same (m : List Host.Cell) (a : Nat) (b : Byte) : Memory.read (Memory.write m a b) a = b := by
  unfold Memory.write Memory.read
  split
  · rw [mget_mdel_same]; simp_all
  · rw [mget_mset_same]; rfl

/-- Every other byte reads as before. -/
theorem Memory.read_write_other (m : List Host.Cell) (a c : Nat) (b : Byte) (h : c ≠ a) :
    Memory.read (Memory.write m a b) c = Memory.read m c := by
  unfold Memory.write Memory.read
  split
  · rw [mget_mdel_other _ _ _ h]
  · rw [mget_mset_other _ _ _ _ h]

/-- Bytes outside the written ones read as before. -/
theorem Memory.read_writeN_other {bs : Bytes} {m : List Host.Cell} {a c : Nat} (h : c < a ∨ a + bs.length ≤ c) :
    Memory.read (Memory.writeN m a bs) c = Memory.read m c := by
  induction bs generalizing m a with
  | nil => rfl
  | cons b bs ih =>
    simp only [List.length_cons] at h
    rw [Memory.writeN, ih (by omega), Memory.read_write_other _ _ _ _ (by omega)]

/-- The bytes written are read back. -/
theorem Memory.read_writeN_same {bs : Bytes} {m : List Host.Cell} {a i : Nat} (k : i < bs.length) :
    Memory.read (Memory.writeN m a bs) (a + i) = bs[i] := by
  induction bs generalizing m a i with
  | nil => simp at k
  | cons b bs ih =>
    cases i with
    | zero =>
      rw [Memory.writeN, Memory.read_writeN_other (by omega)]
      exact Memory.read_write_same _ _ _
    | succ i =>
      have := ih (m := Memory.write m a b) (a := a + 1) (i := i) (by simpa using k)
      rw [Memory.writeN]
      simpa [Nat.add_assoc, Nat.add_comm 1 i] using this

end Sys2Proof.Machine
end

