-- ==== Sys2Proof/Laws/Frame.lean ====
section
/-! SUPPORT. Frames: a relation between two states that says which parts may differ and that the invariant goes from one to the
other, and the rules by which the frame of an operation is put together from those of its parts. -/
namespace Sys2Proof.Machine

variable {ps qs : List Part} {s t u : State}

/-- `t` differs from `s` at most in `ps`, and is safe when `s` is. -/
structure Frame (ps : List Part) (s t : State) : Prop where
  same : ChangesOnly ps s t
  safe : SafeState s → SafeState t

theorem Part.same_refl (p : Part) : p.same s s := by cases p <;> rfl

theorem Part.same_trans {p : Part} (h : p.same s t) (k : p.same t u) : p.same s u := by
  cases p <;> exact Eq.trans k h

theorem ChangesOnly.refl : ChangesOnly ps s s := fun p _ => p.same_refl

/-- A longer list says less. -/
theorem ChangesOnly.mono (h : ChangesOnly ps s t) (k : ps.all qs.contains = true) : ChangesOnly qs s t := by
  intro p hp
  apply h p
  cases hc : ps.contains p with
  | false => rfl
  | true =>
    have := List.all_eq_true.mp k p (by simpa using hc)
    simp_all

theorem ChangesOnly.trans (h : ChangesOnly ps s t) (k : ChangesOnly ps t u) : ChangesOnly ps s u :=
  fun p hp => Part.same_trans (h p hp) (k p hp)

theorem Frame.refl : Frame ps s s := ⟨.refl, id⟩

theorem Frame.mono (h : Frame ps s t) (k : ps.all qs.contains = true) : Frame qs s t := ⟨h.same.mono k, h.safe⟩

theorem Frame.trans (h : Frame ps s t) (k : Frame ps t u) : Frame ps s u := ⟨h.same.trans k.same, fun x => k.safe (h.safe x)⟩

/-- The last operation of a chain: its own frame lies within the frame wanted. -/
theorem Frame.step (h : Frame ps t u) (k : ps.all qs.contains = true) (j : Frame qs s t) : Frame qs s u := j.trans (h.mono k)

/-- An intermediate state. -/
theorem Frame.cut (t : State) (h : Frame qs s t) (k : Frame qs s t → Frame qs s u) : Frame qs s u := k h

theorem Frame.ite {c : Prop} [Decidable c] (h : Frame ps s t) (k : Frame ps s u) : Frame ps s (if c then t else u) := by
  split <;> assumption

/-- A change of a context that keeps the form of its exchange memory and the bound on its meter sets. -/
structure KeepsCtx (f : Ctx → Ctx) : Prop where
  xmem : ∀ x, Memory.wf x.xmem = true → Memory.wf (f x).xmem = true
  meters : ∀ x, x.meters.length ≤ 4 → (f x).meters.length ≤ 4

/-- The bounds of Ranger's stores. -/
structure RangerBounds (r : Ranger) : Prop where
  log : r.log.length ≤ logDepth
  sessions : r.sessions.length ≤ maxSessions
  anchors : r.anchors.length ≤ maxAnchors
  subs : r.subs.length ≤ maxSubs

theorem SafeState.rangerBounds (h : SafeState s) : RangerBounds s.ranger := ⟨h.log, h.sessions, h.anchors, h.subs⟩

/-- A state whose contexts, buffer, snoop filter and Ranger keep their forms and bounds is safe. -/
theorem SafeState.of_parts (hc : ∀ c ∈ t.ctxs, Memory.wf c.2.xmem = true ∧ c.2.meters.length ≤ 4)
    (hb : t.health.buffer.length ≤ 1024) (hs : t.tier.snoop.length ≤ 65536) (hr : RangerBounds t.ranger) : SafeState t :=
  ⟨fun c h => (hc c h).1, fun c h => (hc c h).2, hb, hs, hr.log, hr.sessions, hr.anchors, hr.subs⟩

/-- Every context of a safe state, and the free one, keeps the forms. -/
theorem SafeState.ctx (h : SafeState s) (c : Nat) : Memory.wf (s.ctx c).xmem = true ∧ (s.ctx c).meters.length ≤ 4 := by
  unfold State.ctx
  cases e : mget s.ctxs c with
  | none => exact ⟨by decide, by decide⟩
  | some x => exact ⟨h.xmem _ (mem_of_mget e), h.meters _ (mem_of_mget e)⟩

/-- One context replaced. -/
theorem SafeState.mset (h : SafeState s) {c : Nat} {x : Ctx} (hx : Memory.wf x.xmem = true) (hm : x.meters.length ≤ 4)
    (hc : t.ctxs = Machine.mset s.ctxs c x) (hb : t.health.buffer = s.health.buffer) (hs : t.tier.snoop = s.tier.snoop)
    (hr : t.ranger = s.ranger) : SafeState t := by
  refine .of_parts (fun e he => ?_) (hb ▸ h.buffer) (hs ▸ h.snoop) (hr ▸ h.rangerBounds)
  rw [hc] at he
  rcases mem_mset he with rfl | he
  · exact ⟨hx, hm⟩
  · exact ⟨h.xmem e he, h.meters e he⟩

/-- A change of every context. -/
theorem SafeState.mall (h : SafeState s) {f : Nat → Ctx → Ctx} (k : ∀ n, KeepsCtx (f n))
    (hc : t.ctxs = Machine.mall s.ctxs f) (hb : t.health.buffer = s.health.buffer) (hs : t.tier.snoop = s.tier.snoop)
    (hr : t.ranger = s.ranger) : SafeState t := by
  refine .of_parts (fun e he => ?_) (hb ▸ h.buffer) (hs ▸ h.snoop) (hr ▸ h.rangerBounds)
  rw [hc, Machine.mall, List.mem_map] at he
  obtain ⟨e, he, rfl⟩ := he
  exact ⟨(k _).xmem _ (h.xmem e he), (k _).meters _ (h.meters e he)⟩

/-- A loop over a list. -/
theorem Frame.foldl {α : Type} {f : State → α → State} {l : List α} (h : ∀ t x, Frame ps t (f t x)) (k : Frame ps s t) :
    Frame ps s (l.foldl f t) := by
  induction l generalizing t with
  | nil => exact k
  | cons a l ih => exact ih (k.trans (h t a))

/-- A loop over a list that carries a state and something else. -/
theorem Frame.foldl_snd {α β : Type} {f : β × State → α → β × State} {l : List α} {a : β × State}
    (h : ∀ a x, Frame ps a.2 (f a x).2) (k : Frame ps s a.2) : Frame ps s (l.foldl f a).2 := by
  induction l generalizing a with
  | nil => exact k
  | cons x l ih => exact ih (k.trans (h a x))

/-- The state in a pair. -/
theorem Frame.of_pair {α : Type} {p : α × State} {a : α} (e : p = (a, t)) (h : Frame ps s p.2) : Frame ps s t := by
  subst e; exact h

theorem Frame.of_pair3 {α β : Type} {p : α × β × State} {a : α} {b : β} (e : p = (a, b, t)) (h : Frame ps s p.2.2) : Frame ps s t := by
  subst e; exact h

theorem Frame.of_pair4 {α β γ : Type} {p : α × β × γ × State} {a : α} {b : β} {c : γ} (e : p = (a, b, c, t))
    (h : Frame ps s p.2.2.2) : Frame ps s t := by
  subst e; exact h

/-- Whatever state an operation that may give none answers, its frame holds of it. -/
def OptFrame (ps : List Part) (s : State) (o : Option State) : Prop := ∀ t, o = some t → Frame ps s t

theorem OptFrame.some (h : Frame ps s t) : OptFrame ps s (some t) := fun _ e => Option.some.inj e ▸ h

theorem OptFrame.getD {o : Option State} (h : OptFrame ps s o) (k : Frame ps s t) : Frame ps s (o.getD t) := by
  cases o with
  | none => exact k
  | some u => exact h u rfl

theorem OptFrame.bind {o : Option State} {f : State → Option State} (h : ∀ t u, f t = Option.some u → Frame ps t u) (k : OptFrame ps s o) :
    OptFrame ps s (o.bind f) := by
  intro u e
  obtain ⟨t, e1, e2⟩ := Option.bind_eq_some_iff.mp e
  exact (k t e1).trans (h t u e2)

theorem OptFrame.foldl {α : Type} {f : Option State → α → Option State} {l : List α}
    (h : ∀ o x, OptFrame ps s o → OptFrame ps s (f o x)) {o : Option State} (k : OptFrame ps s o) : OptFrame ps s (l.foldl f o) := by
  induction l generalizing o with
  | nil => exact k
  | cons x l ih => exact ih (h o x k)

/-- A command answers a next state within a frame. -/
def Answers (ps : List Part) (s : State) (o : Host.Outcome State Fault Refusal) : Prop := ∃ t, o = .next t ∧ Frame ps s t

theorem Answers.next (h : Frame ps s t) : Answers ps s (.next t) := ⟨t, rfl, h⟩

theorem Answers.ite {c : Prop} [Decidable c] {o p : Host.Outcome State Fault Refusal} (h : Answers ps s o) (k : Answers ps s p) :
    Answers ps s (if c then o else p) := by
  split <;> assumption

theorem Answers.mono {o : Host.Outcome State Fault Refusal} (h : Answers ps s o) (k : ps.all qs.contains = true) : Answers qs s o := by
  obtain ⟨t, e, f⟩ := h
  exact ⟨t, e, f.mono k⟩

/-- A command that runs after an operation. -/
theorem Answers.step {o : Host.Outcome State Fault Refusal} (h : Answers ps t o) (k : ps.all qs.contains = true) (j : Frame qs s t) :
    Answers qs s o := by
  obtain ⟨u, e, f⟩ := h
  exact ⟨u, e, f.step k j⟩

/-- An intermediate state. -/
theorem Answers.cut (t : State) {o : Host.Outcome State Fault Refusal} (h : Frame qs s t) (k : Frame qs s t → Answers qs s o) : Answers qs s o :=
  k h

/-- The parts of the invariant hold of a state with the same stores. -/
theorem SafeState.of_eq (h : SafeState s) (hc : t.ctxs = s.ctxs) (hb : t.health.buffer = s.health.buffer)
    (hs : t.tier.snoop = s.tier.snoop) (hr : t.ranger = s.ranger) : SafeState t := by
  constructor
  · rw [hc]; exact h.xmem
  · rw [hc]; exact h.meters
  · rw [hb]; exact h.buffer
  · rw [hs]; exact h.snoop
  · rw [hr]; exact h.log
  · rw [hr]; exact h.sessions
  · rw [hr]; exact h.anchors
  · rw [hr]; exact h.subs

/-- An update of fields of a state `t`: the fields outside the frame are those of `t`, and so is the queue. -/
theorem Frame.upd {x1 x2 x3 x4 x5 x6 x7 x8 x9 x10 x11 x12 x13 x14 x15 x16 x17 x18 x19 x20 x21 x22 x23 x24 x25 x26 x27} (h : ChangesOnly qs t (State.mk t.pending x1 x2 x3 x4 x5 x6 x7 x8 x9 x10 x11 x12 x13 x14 x15 x16 x17 x18 x19 x20 x21 x22 x23 x24 x25 x26 x27))
    (k : SafeState t → SafeState (State.mk t.pending x1 x2 x3 x4 x5 x6 x7 x8 x9 x10 x11 x12 x13 x14 x15 x16 x17 x18 x19 x20 x21 x22 x23 x24 x25 x26 x27)) (j : Frame qs s t) :
    Frame qs s (State.mk t.pending x1 x2 x3 x4 x5 x6 x7 x8 x9 x10 x11 x12 x13 x14 x15 x16 x17 x18 x19 x20 x21 x22 x23 x24 x25 x26 x27) := j.trans ⟨h, k⟩

end Sys2Proof.Machine
end

