-- ==== Sys2Proof/Laws/FlagsFrames.lean ====
section
/-! SUPPORT. What each operation of Machine/Flags.lean may change, and that it keeps the invariant of Safety.lean. -/
namespace Sys2Proof.Machine

theorem State.wr_frame {s : State} {f : Field} {v : Nat} {n : optParam Nat 0} :
    Frame [.regs] s (State.wr s f v n) := by
  unfold State.wr
  repeat' (first
    | (with_reducible refine Frame.upd ?_ ?_ ?_; fail_if_success with_reducible exact ChangesOnly.refl)
    | with_reducible exact Frame.refl | (intro p hp; cases p <;> first | exact absurd hp (by decide) | rfl)
    | (intro h; exact h.of_eq rfl rfl rfl rfl))

theorem State.bump_frame {s : State} {f : Field} {k : optParam Nat 1} {n : optParam Nat 0} :
    Frame [.regs] s (State.bump s f k n) := by
  unfold State.bump
  repeat' (first
    | (with_reducible refine Frame.upd ?_ ?_ ?_; fail_if_success with_reducible exact ChangesOnly.refl)
    | with_reducible exact Frame.refl | (with_reducible apply Frame.step State.wr_frame; case k => decide))

theorem State.peak_frame {s : State} {f : Field} {v : Nat} {n : optParam Nat 0} :
    Frame [.regs] s (State.peak s f v n) := by
  unfold State.peak
  repeat' (first
    | (with_reducible refine Frame.upd ?_ ?_ ?_; fail_if_success with_reducible exact ChangesOnly.refl)
    | with_reducible exact Frame.refl | (with_reducible apply Frame.step State.wr_frame; case k => decide)
    | with_reducible refine Frame.ite ?_ ?_ | split)

theorem State.writeNow_frame {s : State} {off : Nat} {v : Word} :
    Frame [.regs, .live] s (State.writeNow s off v) := by
  unfold State.writeNow
  repeat' (first
    | (with_reducible refine Frame.upd ?_ ?_ ?_; fail_if_success with_reducible exact ChangesOnly.refl)
    | with_reducible exact Frame.refl | (intro p hp; cases p <;> first | exact absurd hp (by decide) | rfl)
    | (intro h; exact h.of_eq rfl rfl rfl rfl))

theorem State.writeStaged_frame {s : State} {off : Nat} {v : Word} :
    Frame [.regs, .staged] s (State.writeStaged s off v) := by
  unfold State.writeStaged
  repeat' (first
    | (with_reducible refine Frame.upd ?_ ?_ ?_; fail_if_success with_reducible exact ChangesOnly.refl)
    | with_reducible exact Frame.refl | (intro p hp; cases p <;> first | exact absurd hp (by decide) | rfl)
    | (intro h; exact h.of_eq rfl rfl rfl rfl))

theorem State.at__frame {s : State} {t : Nat} :
    Frame [.now] s (State.at_ s t) := by
  unfold State.at_
  repeat' (first
    | (with_reducible refine Frame.upd ?_ ?_ ?_; fail_if_success with_reducible exact ChangesOnly.refl)
    | with_reducible exact Frame.refl | (intro p hp; cases p <;> first | exact absurd hp (by decide) | rfl)
    | (intro h; exact h.of_eq rfl rfl rfl rfl))

theorem State.emit_frame {s : State} {o : Out} :
    Frame [.out] s (State.emit s o) := by
  unfold State.emit
  repeat' (first
    | (with_reducible refine Frame.upd ?_ ?_ ?_; fail_if_success with_reducible exact ChangesOnly.refl)
    | with_reducible exact Frame.refl | (intro p hp; cases p <;> first | exact absurd hp (by decide) | rfl)
    | (intro h; exact h.of_eq rfl rfl rfl rfl))

theorem State.draw_frame {s : State} :
    Frame [.free] s (State.draw s).2 := by
  unfold State.draw
  repeat' (first
    | (with_reducible refine Frame.upd ?_ ?_ ?_; fail_if_success with_reducible exact ChangesOnly.refl)
    | with_reducible exact Frame.refl | (intro p hp; cases p <;> first | exact absurd hp (by decide) | rfl)
    | (intro h; exact h.of_eq rfl rfl rfl rfl))

theorem State.wakeUp_frame {s : State} :
    Frame [.regs, .power] s (State.wakeUp s) := by
  unfold State.wakeUp
  repeat' (first
    | (with_reducible refine Frame.upd ?_ ?_ ?_; fail_if_success with_reducible exact ChangesOnly.refl)
    | with_reducible exact Frame.refl | (with_reducible apply Frame.step State.wr_frame; case k => decide)
    | with_reducible refine Frame.ite ?_ ?_ | (intro p hp; cases p <;> first | exact absurd hp (by decide) | rfl)
    | (intro h; exact h.of_eq rfl rfl rfl rfl) | split)

end Sys2Proof.Machine
end

