-- ==== Sys2Proof/Laws/ErrorsFrames.lean ====
section
/-! SUPPORT. What each operation of Machine/Errors.lean may change, and that it keeps the invariant of Safety.lean. -/
namespace Sys2Proof.Machine

theorem bufferRecord_frame {s : State} {r : ErrorRecord} :
    Frame [.regs, .health] s (bufferRecord s r) := by
  refine ⟨fun p hp => ?_, fun h => ?_⟩
  · unfold bufferRecord
    split
    · cases p <;> first | exact absurd hp (by decide) | rfl
    · dsimp only
      split
      · split <;> cases p <;> first | exact absurd hp (by decide) | rfl
      · cases p <;> first | exact absurd hp (by decide) | rfl
  · unfold bufferRecord
    split
    · refine .of_parts (fun c hc => ⟨h.xmem c hc, h.meters c hc⟩) ?_ h.snoop h.rangerBounds
      simp only [List.length_append, List.length_cons, List.length_nil]; omega
    · dsimp only
      split
      · rename_i i e
        split
        · refine .of_parts (fun c hc => ⟨h.xmem c hc, h.meters c hc⟩) ?_ h.snoop h.rangerBounds
          have := (List.findIdx?_eq_some_iff_findIdx_eq.mp e).1
          have hb := h.buffer
          have e : (s.bump F.HEALTH_ERRCNT.LOST).health = s.health := rfl
          simp only [e, List.length_append, List.length_eraseIdx, List.length_cons, List.length_nil] at this ⊢
          split <;> omega
        · exact (State.bump_frame (f := F.HEALTH_ERRCNT.LOST)).safe h
      · exact h.of_eq rfl rfl rfl rfl

theorem errRecord_frame {s : State} {k : ErrKind} {u : ErrUnit} {i : ErrInfo} :
    Frame [.regs, .health, .free] s (errRecord s k u i) := by
  unfold errRecord
  repeat' (first
    | (lift_lets; intro x; refine Frame.cut x ?_ (fun hx => ?_); rotate_left; clear_value x)
    | (lift_lets; intro x; with_reducible refine Frame.trans Frame.refl ?_)
    | (with_reducible refine Frame.upd ?_ ?_ ?_; fail_if_success with_reducible exact ChangesOnly.refl)
    | with_reducible exact Frame.refl | with_reducible assumption
    | (with_reducible apply Frame.step bufferRecord_frame; case k => decide)
    | (intro p hp; cases p <;> first | exact absurd hp (by decide) | rfl) | (intro h; exact h.of_eq rfl rfl rfl rfl) | split
    | dsimp only)

theorem State.logRecord_frame {s : State} {r : ErrorRecord} :
    Frame [.ranger] s (State.logRecord s r) := by
  refine ⟨fun p hp => by cases p <;> first | exact absurd hp (by decide) | rfl, fun h => ?_⟩
  refine .of_parts (fun c hc => ⟨h.xmem c hc, h.meters c hc⟩) h.buffer h.snoop ⟨?_, h.sessions, h.anchors, ?_⟩
  · have hb := h.log
    simp only [State.logRecord]
    split
    · simp only [List.length_append, List.length_drop, List.length_cons, List.length_nil]
      have : 0 < logDepth := by decide
      omega
    · simp_all <;> omega
  · have hb := h.subs
    simp only [State.logRecord]
    split <;> simpa using hb

theorem State.reportEvent_frame {s : State} {kind : Nat} :
    Frame [.ranger] s (State.reportEvent s kind) := by
  unfold State.reportEvent
  repeat' (first
    | (with_reducible refine Frame.upd ?_ ?_ ?_; fail_if_success with_reducible exact ChangesOnly.refl)
    | with_reducible exact Frame.refl | (with_reducible apply Frame.step State.logRecord_frame; case k => decide)
    | with_reducible refine Frame.ite ?_ ?_ | split)

end Sys2Proof.Machine
end

