-- ==== Sys2Proof/Laws/SendFrames.lean ====
section
/-! SUPPORT. What each operation of Machine/Send.lean may change, and that it keeps the invariant of Safety.lean. -/
namespace Sys2Proof.Machine

theorem State.modConn_frame {s : State} {slot : Nat} {f : Conn → Conn} :
    Frame [.conns] s (State.modConn s slot f) := by
  unfold State.modConn
  repeat' (first
    | (with_reducible refine Frame.upd ?_ ?_ ?_; fail_if_success with_reducible exact ChangesOnly.refl)
    | with_reducible exact Frame.refl | (intro p hp; cases p <;> first | exact absurd hp (by decide) | rfl)
    | (intro h; exact h.of_eq rfl rfl rfl rfl))

theorem State.setCtx_frame {s : State} {c : Nat} {x : Ctx}
    (h : (Memory.wf (s.ctx c).xmem = true → Memory.wf x.xmem = true) ∧ ((s.ctx c).meters.length ≤ 4 → x.meters.length ≤ 4)) :
    Frame [.ctxs] s (s.setCtx c x) := by
  refine ⟨fun p hp => by cases p <;> first | exact absurd hp (by decide) | rfl, fun k => ?_⟩
  exact k.mset (h.1 (k.ctx c).1) (h.2 (k.ctx c).2) rfl rfl rfl rfl

theorem State.modCtx_frame {s : State} {c : Nat} {f : Ctx → Ctx} (h : KeepsCtx f) : Frame [.ctxs] s (s.modCtx c f) :=
  State.setCtx_frame ⟨h.xmem _, h.meters _⟩

theorem State.settleRetiring_frame {s : State} :
    Frame [.ctxs] s (State.settleRetiring s) := by
  refine ⟨fun p hp => by cases p <;> first | exact absurd hp (by decide) | rfl, fun h => ?_⟩
  refine h.mall (f := ?f) ?k ?hc rfl rfl rfl
  case hc => dsimp only [State.settleRetiring]; rfl
  exact fun _ => ⟨fun _ k => k, fun _ k => k⟩

theorem State.modLink_frame {s : State} {l : Nat} {f : Link → Link} :
    Frame [.links] s (State.modLink s l f) := by
  unfold State.modLink
  repeat' (first
    | (with_reducible refine Frame.upd ?_ ?_ ?_; fail_if_success with_reducible exact ChangesOnly.refl)
    | with_reducible exact Frame.refl | (intro p hp; cases p <;> first | exact absurd hp (by decide) | rfl)
    | (intro h; exact h.of_eq rfl rfl rfl rfl))

theorem State.gateSent_frame {s : State} {l ctx cls : Nat} :
    Frame [.itin] s (State.gateSent s l ctx cls) := by
  unfold State.gateSent
  repeat' (first
    | (with_reducible refine Frame.upd ?_ ?_ ?_; fail_if_success with_reducible exact ChangesOnly.refl)
    | with_reducible exact Frame.refl | (intro p hp; cases p <;> first | exact absurd hp (by decide) | rfl)
    | (intro h; exact h.of_eq rfl rfl rfl rfl))

theorem State.meter_frame {s : State} {ctx idx n : Nat} :
    Frame [.ctxs] s (State.meter s ctx idx n) := by
  unfold State.meter
  refine State.modCtx_frame ⟨fun x h => ?_, fun x h => ?_⟩
  · split <;> exact h
  · split
    · exact h
    · simp_all

theorem State.traceAdd_frame {s : State} {e : TraceEntry} :
    Frame [.dbg] s (State.traceAdd s e) := by
  unfold State.traceAdd
  repeat' (first
    | (with_reducible refine Frame.upd ?_ ?_ ?_; fail_if_success with_reducible exact ChangesOnly.refl)
    | with_reducible exact Frame.refl | with_reducible refine Frame.ite ?_ ?_
    | (intro p hp; cases p <;> first | exact absurd hp (by decide) | rfl) | (intro h; exact h.of_eq rfl rfl rfl rfl) | split)

theorem State.frameLeaves_frame {s : State} {slot : Nat} {c : Conn} {l p start : Nat} {k : FrameKind} :
    Frame [.ctxs, .conns, .dbg] s (State.frameLeaves s slot c l p start k) := by
  unfold State.frameLeaves
  repeat' (first
    | (lift_lets; intro x; refine Frame.cut x ?_ (fun hx => ?_); rotate_left; clear_value x)
    | (lift_lets; intro x; with_reducible refine Frame.trans Frame.refl ?_)
    | (with_reducible refine Frame.upd ?_ ?_ ?_; fail_if_success with_reducible exact ChangesOnly.refl)
    | with_reducible exact Frame.refl | with_reducible assumption
    | (with_reducible apply Frame.step State.traceAdd_frame; case k => decide)
    | (with_reducible apply Frame.step State.modConn_frame; case k => decide)
    | (with_reducible apply Frame.step State.meter_frame; case k => decide))

theorem State.placeOn_frame {s : State} {slot : Nat} {c : Conn} {l p : Nat} {k : FrameKind} {resp : Option (Nat × TxWait)} :
    Frame [.itin, .ctxs, .conns, .links, .dbg] s (State.placeOn s slot c l p k resp).2 := by
  unfold State.placeOn
  repeat' (first
    | (lift_lets; intro x; refine Frame.cut x ?_ (fun hx => ?_); rotate_left; clear_value x)
    | (lift_lets; intro x; with_reducible refine Frame.trans Frame.refl ?_)
    | (with_reducible refine Frame.upd ?_ ?_ ?_; fail_if_success with_reducible exact ChangesOnly.refl)
    | with_reducible exact Frame.refl | with_reducible assumption
    | (with_reducible apply Frame.step State.modLink_frame; case k => decide)
    | (with_reducible apply Frame.step State.gateSent_frame; case k => decide)
    | (with_reducible apply Frame.step State.frameLeaves_frame; case k => decide) | with_reducible refine Frame.ite ?_ ?_ | split)

theorem State.placeFrame_frame {s : State} {slot : Nat} {c : Conn} {k : FrameKind} {avoid : Option (Nat × Nat)} {resp : Option (Nat × TxWait)} :
    Frame [.itin, .ctxs, .conns, .links, .dbg] s (State.placeFrame s slot c k avoid resp).2 := by
  unfold State.placeFrame
  repeat' (first
    | (lift_lets; intro x; refine Frame.cut x ?_ (fun hx => ?_); rotate_left; clear_value x)
    | (lift_lets; intro x; with_reducible refine Frame.trans Frame.refl ?_)
    | (with_reducible refine Frame.upd ?_ ?_ ?_; fail_if_success with_reducible exact ChangesOnly.refl)
    | with_reducible exact Frame.refl | with_reducible assumption
    | (with_reducible apply Frame.step State.placeOn_frame; case k => decide) | with_reducible refine Frame.ite ?_ ?_
    | (simp only [x]; split) | with_reducible refine Frame.of_pair (by assumption) ?_ | split)

theorem State.sendBetween_frame {s : State} {slot : Nat} {c : Conn} {l p : Nat} {k : FrameKind} :
    Frame [.ctxs, .conns, .links, .dbg] s (State.sendBetween s slot c l p k).2 := by
  unfold State.sendBetween
  repeat' (first
    | (lift_lets; intro x; refine Frame.cut x ?_ (fun hx => ?_); rotate_left; clear_value x)
    | (lift_lets; intro x; with_reducible refine Frame.trans Frame.refl ?_)
    | (with_reducible refine Frame.upd ?_ ?_ ?_; fail_if_success with_reducible exact ChangesOnly.refl)
    | with_reducible exact Frame.refl | with_reducible assumption
    | (with_reducible apply Frame.step State.frameLeaves_frame; case k => decide)
    | (with_reducible apply Frame.step State.modLink_frame; case k => decide) | split | dsimp only)

theorem State.putFrame_frame {s : State} {e : ConnEntry} {w : Way} {p : TrailPkt} :
    Frame [.out] s (State.putFrame s e w p) := by
  unfold State.putFrame
  repeat' (first
    | (lift_lets; intro x; refine Frame.cut x ?_ (fun hx => ?_); rotate_left; clear_value x)
    | (lift_lets; intro x; with_reducible refine Frame.trans Frame.refl ?_)
    | (with_reducible refine Frame.upd ?_ ?_ ?_; fail_if_success with_reducible exact ChangesOnly.refl)
    | with_reducible exact Frame.refl | with_reducible assumption
    | (with_reducible apply Frame.step State.emit_frame; case k => decide) | with_reducible refine Frame.ite ?_ ?_ | split)

theorem State.awaitLink_frame {s : State} {slot : Nat} {w : TxWait} :
    Frame [.conns] s (State.awaitLink s slot w) := by
  unfold State.awaitLink
  repeat' (first
    | (with_reducible refine Frame.upd ?_ ?_ ?_; fail_if_success with_reducible exact ChangesOnly.refl)
    | with_reducible exact Frame.refl | (with_reducible apply Frame.step State.modConn_frame; case k => decide))

theorem State.modPkt_frame {s : State} {slot msg off : Nat} {f : TxPkt → TxPkt} :
    Frame [.conns] s (State.modPkt s slot msg off f) := by
  unfold State.modPkt
  repeat' (first
    | (with_reducible refine Frame.upd ?_ ?_ ?_; fail_if_success with_reducible exact ChangesOnly.refl)
    | with_reducible exact Frame.refl | (with_reducible apply Frame.step State.modConn_frame; case k => decide))

theorem State.transmit_frame {s : State} {slot : Nat} {c : Conn} {k : TxPkt} {w : Way} :
    Frame [.conns, .out] s (State.transmit s slot c k w) := by
  unfold State.transmit
  repeat' (first
    | (lift_lets; intro x; refine Frame.cut x ?_ (fun hx => ?_); rotate_left; clear_value x)
    | (lift_lets; intro x; with_reducible refine Frame.trans Frame.refl ?_)
    | (with_reducible refine Frame.upd ?_ ?_ ?_; fail_if_success with_reducible exact ChangesOnly.refl)
    | with_reducible exact Frame.refl | with_reducible assumption
    | (with_reducible apply Frame.step State.putFrame_frame; case k => decide)
    | (with_reducible apply Frame.step State.modConn_frame; case k => decide)
    | (with_reducible apply Frame.step State.modPkt_frame; case k => decide))

theorem State.sendPackets_frame {s : State} {slot msg : Nat} {m : TxMsg} {hold : Bool} {i y6 : Nat} :
    Frame [.itin, .ctxs, .conns, .links, .dbg, .out] s (State.sendPackets s slot msg m hold i y6) := by
  induction y6 generalizing s slot msg m hold i with
  | zero => exact .refl
  | succ n ih =>
  unfold State.sendPackets
  repeat' (first
    | (with_reducible apply Frame.step ih; case k => decide)
    | (lift_lets; intro x; refine Frame.cut x ?_ (fun hx => ?_); rotate_left; clear_value x)
    | (lift_lets; intro x; with_reducible refine Frame.trans Frame.refl ?_)
    | (with_reducible refine Frame.upd ?_ ?_ ?_; fail_if_success with_reducible exact ChangesOnly.refl)
    | with_reducible exact Frame.refl | with_reducible assumption
    | (with_reducible apply Frame.step State.modConn_frame; case k => decide)
    | (with_reducible apply Frame.step State.placeFrame_frame; case k => decide)
    | (with_reducible apply Frame.step State.transmit_frame; case k => decide) | with_reducible refine Frame.ite ?_ ?_
    | (simp only [x]; split) | with_reducible refine Frame.of_pair (by assumption) ?_ | split | dsimp only)

theorem State.sendMsg_frame {s : State} {slot : Nat} {m : TxMsg} :
    Frame [.itin, .ctxs, .conns, .links, .dbg, .out] s (State.sendMsg s slot m).2 := by
  unfold State.sendMsg
  repeat' (first
    | (lift_lets; intro x; refine Frame.cut x ?_ (fun hx => ?_); rotate_left; clear_value x)
    | (lift_lets; intro x; with_reducible refine Frame.trans Frame.refl ?_)
    | (with_reducible refine Frame.upd ?_ ?_ ?_; fail_if_success with_reducible exact ChangesOnly.refl)
    | with_reducible exact Frame.refl | with_reducible assumption
    | (with_reducible apply Frame.step State.modConn_frame; case k => decide)
    | (with_reducible apply Frame.step State.sendPackets_frame; case k => decide)
    | (with_reducible apply Frame.step State.emit_frame; case k => decide) | with_reducible refine Frame.ite ?_ ?_
    | (simp only [x]; split) | split)

theorem State.sendSend_frame {s : State} {slot : Nat} {kind : TxKind} {code : Nat} {body : Bytes} {cls : Nat} :
    Frame [.itin, .ctxs, .conns, .links, .dbg, .out] s (State.sendSend s slot kind code body cls) := by
  unfold State.sendSend
  repeat' (first
    | (lift_lets; intro x; refine Frame.cut x ?_ (fun hx => ?_); rotate_left; clear_value x)
    | (lift_lets; intro x; with_reducible refine Frame.trans Frame.refl ?_)
    | (with_reducible refine Frame.upd ?_ ?_ ?_; fail_if_success with_reducible exact ChangesOnly.refl)
    | with_reducible exact Frame.refl | with_reducible assumption
    | (with_reducible apply Frame.step State.sendMsg_frame; case k => decide)
    | (with_reducible apply Frame.step State.emit_frame; case k => decide) | with_reducible refine Frame.of_pair (by assumption) ?_
    | split | dsimp only)

theorem State.sendControl_frame {s : State} {slot type : Nat} {body : Bytes} :
    Frame [.ctxs, .conns, .links, .dbg, .out] s (State.sendControl s slot type body) := by
  unfold State.sendControl
  repeat' (first
    | (lift_lets; intro x; refine Frame.cut x ?_ (fun hx => ?_); rotate_left; clear_value x)
    | (lift_lets; intro x; with_reducible refine Frame.trans Frame.refl ?_)
    | (with_reducible refine Frame.upd ?_ ?_ ?_; fail_if_success with_reducible exact ChangesOnly.refl)
    | with_reducible exact Frame.refl | with_reducible assumption
    | (with_reducible apply Frame.step State.awaitLink_frame; case k => decide)
    | (with_reducible apply Frame.step State.sendBetween_frame; case k => decide)
    | (with_reducible apply Frame.step State.modConn_frame; case k => decide)
    | (with_reducible apply Frame.step State.emit_frame; case k => decide)
    | (with_reducible apply Frame.step State.putFrame_frame; case k => decide) | with_reducible refine Frame.ite ?_ ?_
    | with_reducible refine Frame.of_pair (by assumption) ?_ | split | dsimp only)

theorem State.sendAtomicResp_frame {s : State} {slot path : Nat} {p : TrailPkt} :
    Frame [.ctxs, .conns, .links, .dbg, .out] s (State.sendAtomicResp s slot path p) := by
  unfold State.sendAtomicResp
  repeat' (first
    | (lift_lets; intro x; refine Frame.cut x ?_ (fun hx => ?_); rotate_left; clear_value x)
    | (lift_lets; intro x; with_reducible refine Frame.trans Frame.refl ?_)
    | (with_reducible refine Frame.upd ?_ ?_ ?_; fail_if_success with_reducible exact ChangesOnly.refl)
    | with_reducible exact Frame.refl | with_reducible assumption
    | (with_reducible apply Frame.step State.sendBetween_frame; case k => decide)
    | (with_reducible apply Frame.step State.putFrame_frame; case k => decide)
    | (with_reducible apply Frame.step State.awaitLink_frame; case k => decide) | with_reducible refine Frame.ite ?_ ?_
    | with_reducible refine Frame.of_pair (by assumption) ?_ | split | dsimp only)

theorem State.sendReadResp_frame {s : State} {slot msg off len : Nat} {payload : Bytes} {notBefore : Nat} :
    Frame [.itin, .ctxs, .conns, .links, .dbg, .out] s (State.sendReadResp s slot msg off len payload notBefore) := by
  unfold State.sendReadResp
  repeat' (first
    | (lift_lets; intro x; refine Frame.cut x ?_ (fun hx => ?_); rotate_left; clear_value x)
    | (lift_lets; intro x; with_reducible refine Frame.trans Frame.refl ?_)
    | (with_reducible refine Frame.upd ?_ ?_ ?_; fail_if_success with_reducible exact ChangesOnly.refl)
    | with_reducible exact Frame.refl | with_reducible assumption
    | (with_reducible apply Frame.step State.awaitLink_frame; case k => decide)
    | (with_reducible apply Frame.step State.placeFrame_frame; case k => decide)
    | (with_reducible apply Frame.step State.putFrame_frame; case k => decide) | with_reducible refine Frame.ite ?_ ?_
    | with_reducible refine Frame.of_pair (by assumption) ?_ | split | dsimp only)

theorem State.sendHandshake_frame {s : State} {slot : Nat} {b : Bytes} :
    Frame [.ctxs, .conns, .links, .dbg, .out] s (State.sendHandshake s slot b) := by
  unfold State.sendHandshake
  repeat' (first
    | (lift_lets; intro x; refine Frame.cut x ?_ (fun hx => ?_); rotate_left; clear_value x)
    | (lift_lets; intro x; with_reducible refine Frame.trans Frame.refl ?_)
    | (with_reducible refine Frame.upd ?_ ?_ ?_; fail_if_success with_reducible exact ChangesOnly.refl)
    | with_reducible exact Frame.refl | with_reducible assumption
    | (with_reducible apply Frame.step State.awaitLink_frame; case k => decide)
    | (with_reducible apply Frame.step State.sendBetween_frame; case k => decide)
    | (with_reducible apply Frame.step State.emit_frame; case k => decide)
    | (with_reducible apply Frame.step State.putFrame_frame; case k => decide)
    | with_reducible refine Frame.of_pair (by assumption) ?_ | split | dsimp only)

theorem State.sendWaiting_frame {s : State} {slot : Nat} :
    Frame [.itin, .ctxs, .conns, .links, .dbg, .out] s (State.sendWaiting s slot) := by
  unfold State.sendWaiting
  repeat' (first
    | (with_reducible refine Frame.upd ?_ ?_ ?_; fail_if_success with_reducible exact ChangesOnly.refl)
    | with_reducible exact Frame.refl | (with_reducible apply Frame.step State.sendControl_frame; case k => decide)
    | (with_reducible apply Frame.step State.sendAtomicResp_frame; case k => decide)
    | (with_reducible apply Frame.step State.sendReadResp_frame; case k => decide)
    | (with_reducible apply Frame.step State.sendHandshake_frame; case k => decide)
    | (with_reducible apply Frame.step State.modConn_frame; case k => decide) | with_reducible refine Frame.foldl (fun _ _ => ?_) ?_
    | with_reducible refine Frame.foldl_snd (fun _ _ => ?_) ?_ | split | dsimp only)

theorem State.releaseHeldOne_frame {s : State} {slot : Nat} {k : TxPkt} :
    Frame [.itin, .ctxs, .conns, .links, .dbg, .out] s (State.releaseHeldOne s slot k) := by
  unfold State.releaseHeldOne
  repeat' (first
    | (lift_lets; intro x; refine Frame.cut x ?_ (fun hx => ?_); rotate_left; clear_value x)
    | (lift_lets; intro x; with_reducible refine Frame.trans Frame.refl ?_)
    | (with_reducible refine Frame.upd ?_ ?_ ?_; fail_if_success with_reducible exact ChangesOnly.refl)
    | with_reducible exact Frame.refl | with_reducible assumption
    | (with_reducible apply Frame.step State.placeFrame_frame; case k => decide)
    | (with_reducible apply Frame.step State.transmit_frame; case k => decide)
    | (with_reducible apply Frame.step State.emit_frame; case k => decide) | with_reducible refine Frame.ite ?_ ?_
    | with_reducible refine Frame.of_pair (by assumption) ?_ | split | dsimp only)

theorem State.releaseHeld_frame {s : State} {slot : Nat} :
    Frame [.itin, .ctxs, .conns, .links, .dbg, .out] s (State.releaseHeld s slot) := by
  unfold State.releaseHeld
  repeat' (first
    | (with_reducible refine Frame.upd ?_ ?_ ?_; fail_if_success with_reducible exact ChangesOnly.refl)
    | with_reducible exact Frame.refl | (with_reducible apply Frame.step State.releaseHeldOne_frame; case k => decide)
    | (with_reducible apply Frame.step State.sendWaiting_frame; case k => decide)
    | with_reducible refine Frame.foldl (fun _ _ => ?_) ?_ | with_reducible refine Frame.foldl_snd (fun _ _ => ?_) ?_ | split
    | dsimp only)

theorem State.writeOut_frame {s : State} {d : Dest} {kind : TxKind} {rkey addr cls : Nat} {data : Bytes} {rel : Bool} :
    Frame [.itin, .ctxs, .conns, .links, .dbg, .out] s (State.writeOut s d kind rkey addr cls data rel) := by
  unfold State.writeOut
  repeat' (first
    | (with_reducible refine Frame.upd ?_ ?_ ?_; fail_if_success with_reducible exact ChangesOnly.refl)
    | with_reducible exact Frame.refl | (with_reducible apply Frame.step State.sendMsg_frame; case k => decide)
    | with_reducible refine Frame.foldl (fun _ _ => ?_) ?_ | with_reducible refine Frame.foldl_snd (fun _ _ => ?_) ?_
    | with_reducible refine Frame.of_pair (by assumption) ?_ | split | dsimp only)

theorem State.writeResult_frame {s : State} {d : Dest} {req rkey addr cls : Nat} {data : Bytes} :
    Frame [.itin, .ctxs, .conns, .links, .dbg, .out] s (State.writeResult s d req rkey addr cls data) := by
  unfold State.writeResult
  repeat' (first
    | (with_reducible refine Frame.upd ?_ ?_ ?_; fail_if_success with_reducible exact ChangesOnly.refl)
    | with_reducible exact Frame.refl | (with_reducible apply Frame.step State.emit_frame; case k => decide)
    | (with_reducible apply Frame.step State.writeOut_frame; case k => decide))

theorem State.readIn_frame {s : State} {d : Dest} {kind : TxKind} {rkey addr len cls : Nat} :
    Frame [.itin, .ctxs, .conns, .links, .dbg, .out] s (State.readIn s d kind rkey addr len cls) := by
  unfold State.readIn
  repeat' (first
    | (lift_lets; intro x; refine Frame.cut x ?_ (fun hx => ?_); rotate_left; clear_value x)
    | (lift_lets; intro x; with_reducible refine Frame.trans Frame.refl ?_)
    | (with_reducible refine Frame.upd ?_ ?_ ?_; fail_if_success with_reducible exact ChangesOnly.refl)
    | with_reducible exact Frame.refl | with_reducible assumption
    | (with_reducible apply Frame.step State.emit_frame; case k => decide)
    | (with_reducible apply Frame.step State.sendMsg_frame; case k => decide)
    | (with_reducible apply Frame.step State.modConn_frame; case k => decide) | with_reducible refine Frame.foldl (fun _ _ => ?_) ?_
    | with_reducible refine Frame.foldl_snd (fun _ _ => ?_) ?_ | with_reducible refine Frame.of_pair (by assumption) ?_ | split
    | dsimp only)

end Sys2Proof.Machine
end

