-- ==== Sys2Proof/Laws/RequestsFrames.lean ====
section
/-! SUPPORT. What each operation of Machine/Requests.lean may change, and that it keeps the invariant of Safety.lean. -/
namespace Sys2Proof.Machine

theorem State.modRing_frame {s : State} {r : RingRef} {f : RingState → RingState} :
    Frame [.locals, .conns] s (State.modRing s r f) := by
  unfold State.modRing
  repeat' (first
    | (lift_lets; intro x; refine Frame.cut x ?_ (fun hx => ?_); rotate_left; clear_value x)
    | (lift_lets; intro x; with_reducible refine Frame.trans Frame.refl ?_)
    | (with_reducible refine Frame.upd ?_ ?_ ?_; fail_if_success with_reducible exact ChangesOnly.refl)
    | with_reducible exact Frame.refl | with_reducible assumption
    | (with_reducible apply Frame.step State.modConn_frame; case k => decide)
    | (intro p hp; cases p <;> first | exact absurd hp (by decide) | rfl) | (intro h; exact h.of_eq rfl rfl rfl rfl) | split)

theorem State.modDedup_frame {s : State} {r : RingRef} {f : Dedup → Dedup} :
    Frame [.locals, .conns] s (State.modDedup s r f) := by
  unfold State.modDedup
  repeat' (first
    | (with_reducible refine Frame.upd ?_ ?_ ?_; fail_if_success with_reducible exact ChangesOnly.refl)
    | with_reducible exact Frame.refl | (with_reducible apply Frame.step State.modConn_frame; case k => decide)
    | (intro p hp; cases p <;> first | exact absurd hp (by decide) | rfl) | (intro h; exact h.of_eq rfl rfl rfl rfl) | split)

theorem State.writeRingStatus_frame {s : State} {r : RingRef} :
    Frame [.itin, .ctxs, .conns, .links, .dbg, .out] s (State.writeRingStatus s r) := by
  unfold State.writeRingStatus
  repeat' (first
    | (lift_lets; intro x; refine Frame.cut x ?_ (fun hx => ?_); rotate_left; clear_value x)
    | (lift_lets; intro x; with_reducible refine Frame.trans Frame.refl ?_)
    | (with_reducible refine Frame.upd ?_ ?_ ?_; fail_if_success with_reducible exact ChangesOnly.refl)
    | with_reducible exact Frame.refl | with_reducible assumption
    | (with_reducible apply Frame.step State.emit_frame; case k => decide)
    | (with_reducible apply Frame.step State.writeOut_frame; case k => decide) | with_reducible refine Frame.ite ?_ ?_ | split)

theorem State.setRstate_frame {s : State} {r : RingRef} {st : Nat} :
    Frame [.itin, .ctxs, .locals, .conns, .links, .dbg, .out] s (State.setRstate s r st) := by
  unfold State.setRstate
  repeat' (first
    | (with_reducible refine Frame.upd ?_ ?_ ?_; fail_if_success with_reducible exact ChangesOnly.refl)
    | with_reducible exact Frame.refl | (with_reducible apply Frame.step State.writeRingStatus_frame; case k => decide)
    | (with_reducible apply Frame.step State.modRing_frame; case k => decide) | with_reducible refine Frame.ite ?_ ?_ | split)

theorem State.lastCode_frame {s : State} {r : RingRef} {code : Nat} :
    Frame [.itin, .ctxs, .locals, .conns, .links, .dbg, .out] s (State.lastCode s r code) := by
  unfold State.lastCode
  repeat' (first
    | (with_reducible refine Frame.upd ?_ ?_ ?_; fail_if_success with_reducible exact ChangesOnly.refl)
    | with_reducible exact Frame.refl | (with_reducible apply Frame.step State.writeRingStatus_frame; case k => decide)
    | (with_reducible apply Frame.step State.modRing_frame; case k => decide))

theorem State.modReq_frame {s : State} {id : Nat} {f : Req → Req} :
    Frame [.reqs] s (State.modReq s id f) := by
  unfold State.modReq
  repeat' (first
    | (with_reducible refine Frame.upd ?_ ?_ ?_; fail_if_success with_reducible exact ChangesOnly.refl)
    | with_reducible exact Frame.refl | (intro p hp; cases p <;> first | exact absurd hp (by decide) | rfl)
    | (intro h; exact h.of_eq rfl rfl rfl rfl))

theorem State.status_frame {s : State} {r : Req} {st code progress : Nat} :
    Frame [.itin, .ctxs, .conns, .links, .dbg, .out] s (State.status s r st code progress) := by
  unfold State.status
  repeat' (first
    | (lift_lets; intro x; refine Frame.cut x ?_ (fun hx => ?_); rotate_left; clear_value x)
    | (lift_lets; intro x; with_reducible refine Frame.trans Frame.refl ?_)
    | (with_reducible refine Frame.upd ?_ ?_ ?_; fail_if_success with_reducible exact ChangesOnly.refl)
    | with_reducible exact Frame.refl | with_reducible assumption
    | (with_reducible apply Frame.step State.emit_frame; case k => decide)
    | (with_reducible apply Frame.step State.writeOut_frame; case k => decide) | with_reducible refine Frame.ite ?_ ?_ | split)

theorem State.cacheFinal_frame {s : State} {r : Req} {w : Word} :
    Frame [.locals, .conns] s (State.cacheFinal s r w) := by
  unfold State.cacheFinal
  repeat' (first
    | (with_reducible refine Frame.upd ?_ ?_ ?_; fail_if_success with_reducible exact ChangesOnly.refl)
    | with_reducible exact Frame.refl | (with_reducible apply Frame.step State.modDedup_frame; case k => decide)
    | with_reducible refine Frame.ite ?_ ?_ | split)

theorem State.housekeep_frame {s : State} {ctx : Nat} {k : TaskKind} :
    Frame [.itin] s (State.housekeep s ctx k) := by
  unfold State.housekeep
  repeat' (first
    | (lift_lets; intro x; refine Frame.cut x ?_ (fun hx => ?_); rotate_left; clear_value x)
    | (lift_lets; intro x; with_reducible refine Frame.trans Frame.refl ?_)
    | (with_reducible refine Frame.upd ?_ ?_ ?_; fail_if_success with_reducible exact ChangesOnly.refl)
    | with_reducible exact Frame.refl | with_reducible assumption
    | (intro p hp; cases p <;> first | exact absurd hp (by decide) | rfl) | (intro h; exact h.of_eq rfl rfl rfl rfl))

theorem State.dropTasks_frame {s : State} {p : Task → Bool} :
    Frame [.itin] s (State.dropTasks s p) := by
  unfold State.dropTasks
  repeat' (first
    | (with_reducible refine Frame.upd ?_ ?_ ?_; fail_if_success with_reducible exact ChangesOnly.refl)
    | with_reducible exact Frame.refl | (intro p hp; cases p <;> first | exact absurd hp (by decide) | rfl)
    | (intro h; exact h.of_eq rfl rfl rfl rfl))

theorem State.dropEngineState_frame {s : State} {id : Nat} :
    Frame [.engines] s (State.dropEngineState s id) := by
  unfold State.dropEngineState
  repeat' (first
    | (with_reducible refine Frame.upd ?_ ?_ ?_; fail_if_success with_reducible exact ChangesOnly.refl)
    | with_reducible exact Frame.refl | (intro p hp; cases p <;> first | exact absurd hp (by decide) | rfl)
    | (intro h; exact h.of_eq rfl rfl rfl rfl))

theorem State.dropHeldAssays_frame {s : State} {key : Nat} :
    Frame [.health] s (State.dropHeldAssays s key) := by
  unfold State.dropHeldAssays
  repeat' (first
    | (with_reducible refine Frame.upd ?_ ?_ ?_; fail_if_success with_reducible exact ChangesOnly.refl)
    | with_reducible exact Frame.refl | (intro p hp; cases p <;> first | exact absurd hp (by decide) | rfl)
    | (intro h; exact h.of_eq rfl rfl rfl rfl))

theorem State.countAssays_frame {s : State} :
    Frame [.regs] s (State.countAssays s) := by
  unfold State.countAssays
  repeat' (first
    | (with_reducible refine Frame.upd ?_ ?_ ?_; fail_if_success with_reducible exact ChangesOnly.refl)
    | with_reducible exact Frame.refl | (with_reducible apply Frame.step State.wr_frame; case k => decide))

theorem State.abandonAssays_frame {s : State} {ctx page : Nat} :
    Frame [.regs, .itin, .health] s (State.abandonAssays s ctx page) := by
  unfold State.abandonAssays
  repeat' (first
    | (lift_lets; intro x; refine Frame.cut x ?_ (fun hx => ?_); rotate_left; clear_value x)
    | (lift_lets; intro x; with_reducible refine Frame.trans Frame.refl ?_)
    | (with_reducible refine Frame.upd ?_ ?_ ?_; fail_if_success with_reducible exact ChangesOnly.refl)
    | with_reducible exact Frame.refl | with_reducible assumption
    | (with_reducible apply Frame.step State.dropTasks_frame; case k => decide)
    | (with_reducible apply Frame.step State.countAssays_frame; case k => decide)
    | (with_reducible apply Frame.step State.bump_frame; case k => decide)
    | (intro p hp; cases p <;> first | exact absurd hp (by decide) | rfl) | (intro h; exact h.of_eq rfl rfl rfl rfl) | split)

theorem State.removeReq_frame {s : State} {id : Nat} :
    Frame [.itin, .reqs, .ctxs, .engines, .health] s (State.removeReq s id) := by
  unfold State.removeReq
  repeat' (first
    | (with_reducible refine Frame.upd ?_ ?_ ?_; fail_if_success with_reducible exact ChangesOnly.refl)
    | with_reducible exact Frame.refl | (with_reducible apply Frame.step State.settleRetiring_frame; case k => decide)
    | (with_reducible apply Frame.step State.dropHeldAssays_frame; case k => decide)
    | (with_reducible apply Frame.step State.dropEngineState_frame; case k => decide)
    | (with_reducible apply Frame.step State.dropTasks_frame; case k => decide)
    | (intro p hp; cases p <;> first | exact absurd hp (by decide) | rfl) | (intro h; exact h.of_eq rfl rfl rfl rfl))

theorem State.finish_frame {s : State} {id st code progress : Nat} :
    Frame [.itin, .reqs, .ctxs, .engines, .locals, .conns, .links, .health, .dbg, .out] s (State.finish s id st code progress) := by
  unfold State.finish
  repeat' (first
    | (lift_lets; intro x; refine Frame.cut x ?_ (fun hx => ?_); rotate_left; clear_value x)
    | (lift_lets; intro x; with_reducible refine Frame.trans Frame.refl ?_)
    | (with_reducible refine Frame.upd ?_ ?_ ?_; fail_if_success with_reducible exact ChangesOnly.refl)
    | with_reducible exact Frame.refl | with_reducible assumption
    | (with_reducible apply Frame.step State.status_frame; case k => decide)
    | (with_reducible apply Frame.step State.cacheFinal_frame; case k => decide)
    | (with_reducible apply Frame.step State.removeReq_frame; case k => decide) | with_reducible refine Frame.ite ?_ ?_
    | (simp only [x]; split) | split)

theorem State.modConv_frame {s : State} {ctx conv : Nat} {f : Conv → Conv} :
    Frame [.ctxs] s (State.modConv s ctx conv f) := by
  unfold State.modConv
  repeat' (first
    | (with_reducible refine Frame.upd ?_ ?_ ?_; fail_if_success with_reducible exact ChangesOnly.refl)
    | with_reducible exact Frame.refl | (with_reducible refine Frame.step (State.modCtx_frame ?_) (by decide) ?_)
    | exact KeepsCtx.mk (fun _ h => h) (fun _ h => h))

theorem State.finishAll_frame {s : State} {ids : List Nat} {st code progress : Nat} :
    Frame [.itin, .reqs, .ctxs, .engines, .locals, .conns, .links, .health, .dbg, .out] s (State.finishAll s ids st code progress) := by
  unfold State.finishAll
  repeat' (first
    | (with_reducible refine Frame.upd ?_ ?_ ?_; fail_if_success with_reducible exact ChangesOnly.refl)
    | with_reducible exact Frame.refl | (with_reducible apply Frame.step State.finish_frame; case k => decide)
    | with_reducible refine Frame.foldl (fun _ _ => ?_) ?_ | with_reducible refine Frame.foldl_snd (fun _ _ => ?_) ?_ | dsimp only)

theorem State.uncreate_frame {s : State} {r : Req} :
    Frame [.itin, .reqs, .ctxs, .engines, .locals, .conns, .links, .health, .dbg, .out] s (State.uncreate s r) := by
  unfold State.uncreate
  repeat' (first
    | (lift_lets; intro x; refine Frame.cut x ?_ (fun hx => ?_); rotate_left; clear_value x)
    | (lift_lets; intro x; with_reducible refine Frame.trans Frame.refl ?_)
    | (with_reducible refine Frame.upd ?_ ?_ ?_; fail_if_success with_reducible exact ChangesOnly.refl)
    | with_reducible exact Frame.refl | with_reducible assumption
    | (with_reducible apply Frame.step State.finishAll_frame; case k => decide)
    | (with_reducible refine Frame.step (State.modCtx_frame ?_) (by decide) ?_) | with_reducible refine Frame.ite ?_ ?_
    | exact KeepsCtx.mk (fun _ h => h) (fun _ h => h) | split)

theorem State.recount_frame {s : State} {f : Req} {id : Nat} :
    Frame [.itin, .reqs, .ctxs, .engines, .locals, .conns, .links, .health, .dbg, .out] s (State.recount s f id) := by
  unfold State.recount
  repeat' (first
    | (with_reducible refine Frame.upd ?_ ?_ ?_; fail_if_success with_reducible exact ChangesOnly.refl)
    | with_reducible exact Frame.refl | (with_reducible apply Frame.step State.dropTasks_frame; case k => decide)
    | (with_reducible apply Frame.step State.modReq_frame; case k => decide)
    | (with_reducible apply Frame.step State.finish_frame; case k => decide) | with_reducible refine Frame.ite ?_ ?_ | split)

theorem State.failReq_frame {s : State} {id code progress : Nat} :
    Frame [.itin, .reqs, .ctxs, .engines, .locals, .conns, .links, .health, .dbg, .out] s (State.failReq s id code progress) := by
  unfold State.failReq
  repeat' (first
    | (lift_lets; intro x; refine Frame.cut x ?_ (fun hx => ?_); rotate_left; clear_value x)
    | (lift_lets; intro x; with_reducible refine Frame.trans Frame.refl ?_)
    | (with_reducible refine Frame.upd ?_ ?_ ?_; fail_if_success with_reducible exact ChangesOnly.refl)
    | with_reducible exact Frame.refl | with_reducible assumption
    | (with_reducible apply Frame.step State.finish_frame; case k => decide)
    | (with_reducible apply Frame.step State.uncreate_frame; case k => decide)
    | (with_reducible apply Frame.step State.modConv_frame; case k => decide)
    | (with_reducible apply Frame.step State.finishAll_frame; case k => decide)
    | (with_reducible apply Frame.step State.recount_frame; case k => decide) | with_reducible refine Frame.ite ?_ ?_
    | with_reducible refine Frame.foldl (fun _ _ => ?_) ?_ | with_reducible refine Frame.foldl_snd (fun _ _ => ?_) ?_ | split
    | dsimp only)

theorem State.silenceConn_frame {s : State} {slot : Nat} :
    Frame [.reqs] s (State.silenceConn s slot) := by
  unfold State.silenceConn
  repeat' (first
    | (lift_lets; intro x; refine Frame.cut x ?_ (fun hx => ?_); rotate_left; clear_value x)
    | (lift_lets; intro x; with_reducible refine Frame.trans Frame.refl ?_)
    | (with_reducible refine Frame.upd ?_ ?_ ?_; fail_if_success with_reducible exact ChangesOnly.refl)
    | with_reducible exact Frame.refl | with_reducible assumption | with_reducible refine Frame.ite ?_ ?_
    | (intro p hp; cases p <;> first | exact absurd hp (by decide) | rfl) | (intro h; exact h.of_eq rfl rfl rfl rfl) | split)

theorem State.teardownRequests_frame {s : State} {ctx : Nat} :
    Frame [.itin, .reqs, .ctxs, .engines, .locals, .conns, .links, .health, .dbg, .out] s (State.teardownRequests s ctx) := by
  unfold State.teardownRequests
  repeat' (first
    | (with_reducible refine Frame.upd ?_ ?_ ?_; fail_if_success with_reducible exact ChangesOnly.refl)
    | with_reducible exact Frame.refl | (with_reducible apply Frame.step State.finish_frame; case k => decide)
    | with_reducible refine Frame.foldl (fun _ _ => ?_) ?_ | with_reducible refine Frame.foldl_snd (fun _ _ => ?_) ?_ | dsimp only)

theorem State.fetchOne_frame {s : State} {r : RingRef} :
    Frame [.itin, .ctxs, .locals, .conns, .links, .dbg, .out] s (State.fetchOne s r) := by
  unfold State.fetchOne
  repeat' (first
    | (lift_lets; intro x; refine Frame.cut x ?_ (fun hx => ?_); rotate_left; clear_value x)
    | (lift_lets; intro x; with_reducible refine Frame.trans Frame.refl ?_)
    | (with_reducible refine Frame.upd ?_ ?_ ?_; fail_if_success with_reducible exact ChangesOnly.refl)
    | with_reducible exact Frame.refl | with_reducible assumption
    | (with_reducible apply Frame.step State.readIn_frame; case k => decide)
    | (with_reducible apply Frame.step State.modRing_frame; case k => decide)
    | (with_reducible apply Frame.step State.modConn_frame; case k => decide) | with_reducible refine Frame.ite ?_ ?_
    | (simp only [x]; split) | split)

theorem State.fetchRounds_frame {s : State} {rs : List RingRef} {y2 : Nat} :
    Frame [.itin, .ctxs, .locals, .conns, .links, .dbg, .out] s (State.fetchRounds s rs y2) := by
  induction y2 generalizing s rs with
  | zero => exact .refl
  | succ n ih =>
  unfold State.fetchRounds
  repeat' (first
    | (with_reducible apply Frame.step ih; case k => decide)
    | (with_reducible refine Frame.upd ?_ ?_ ?_; fail_if_success with_reducible exact ChangesOnly.refl)
    | with_reducible exact Frame.refl | (with_reducible apply Frame.step State.fetchOne_frame; case k => decide)
    | with_reducible refine Frame.ite ?_ ?_ | with_reducible refine Frame.foldl (fun _ _ => ?_) ?_
    | with_reducible refine Frame.foldl_snd (fun _ _ => ?_) ?_ | split | dsimp only)

theorem State.issueFetches_frame {s : State} :
    Frame [.itin, .ctxs, .locals, .conns, .links, .dbg, .out] s (State.issueFetches s) := by
  unfold State.issueFetches
  repeat' (first
    | (lift_lets; intro x; refine Frame.cut x ?_ (fun hx => ?_); rotate_left; clear_value x)
    | (lift_lets; intro x; with_reducible refine Frame.trans Frame.refl ?_)
    | (with_reducible refine Frame.upd ?_ ?_ ?_; fail_if_success with_reducible exact ChangesOnly.refl)
    | with_reducible exact Frame.refl | with_reducible assumption
    | (with_reducible apply Frame.step State.fetchRounds_frame; case k => decide))

theorem State.ringBell_frame {s : State} {r : RingRef} {pi : Nat} {resync mark : Bool} {epoch : Nat} :
    Frame [.regs, .itin, .ctxs, .locals, .conns, .links, .dbg, .out] s (State.ringBell s r pi resync mark epoch) := by
  unfold State.ringBell
  repeat' (first
    | (lift_lets; intro x; refine Frame.cut x ?_ (fun hx => ?_); rotate_left; clear_value x)
    | (lift_lets; intro x; with_reducible refine Frame.trans Frame.refl ?_)
    | (with_reducible refine Frame.upd ?_ ?_ ?_; fail_if_success with_reducible exact ChangesOnly.refl)
    | with_reducible exact Frame.refl | with_reducible assumption
    | (with_reducible apply Frame.step State.setRstate_frame; case k => decide)
    | (with_reducible apply Frame.step State.modRing_frame; case k => decide)
    | (with_reducible apply Frame.step State.bump_frame; case k => decide)
    | (with_reducible apply Frame.step State.issueFetches_frame; case k => decide) | with_reducible refine Frame.ite ?_ ?_ | split)

end Sys2Proof.Machine
end

