-- ==== Sys2Proof/Laws/PlaceFrames.lean ====
section
/-! SUPPORT. What each operation of Machine/Place.lean may change, and that it keeps the invariant of Safety.lean. -/
namespace Sys2Proof.Machine

theorem State.modPage_frame {s : State} {ctx n : Nat} {f : Page → Page} :
    Frame [.ctxs] s (State.modPage s ctx n f) := by
  unfold State.modPage
  repeat' (first
    | (with_reducible refine Frame.upd ?_ ?_ ?_; fail_if_success with_reducible exact ChangesOnly.refl)
    | with_reducible exact Frame.refl | (with_reducible refine Frame.step (State.modCtx_frame ?_) (by decide) ?_)
    | exact KeepsCtx.mk (fun _ h => h) (fun _ h => h))

theorem State.touch_frame {s : State} {ctx page : Nat} :
    Frame [.tier] s (State.touch s ctx page) := by
  unfold State.touch
  repeat' (first
    | (with_reducible refine Frame.upd ?_ ?_ ?_; fail_if_success with_reducible exact ChangesOnly.refl)
    | with_reducible exact Frame.refl | with_reducible refine Frame.ite ?_ ?_
    | (intro p hp; cases p <;> first | exact absurd hp (by decide) | rfl) | (intro h; exact h.of_eq rfl rfl rfl rfl) | split)

theorem State.modPeer_frame {s : State} {ctx conv home : Nat} {f : Conv → Conv} :
    Frame [.ctxs] s (State.modPeer s ctx conv home f) := by
  unfold State.modPeer
  repeat' (first
    | (with_reducible refine Frame.upd ?_ ?_ ?_; fail_if_success with_reducible exact ChangesOnly.refl)
    | with_reducible exact Frame.refl | (with_reducible refine Frame.step (State.modCtx_frame ?_) (by decide) ?_)
    | exact KeepsCtx.mk (fun _ h => h) (fun _ h => h))

theorem State.learnPage_frame {s : State} {ctx conv home hk index : Nat} :
    Frame [.ctxs, .tier] s (State.learnPage s ctx conv home hk index) := by
  unfold State.learnPage
  repeat' (first
    | (lift_lets; intro x; refine Frame.cut x ?_ (fun hx => ?_); rotate_left; clear_value x)
    | (lift_lets; intro x; with_reducible refine Frame.trans Frame.refl ?_)
    | (with_reducible refine Frame.upd ?_ ?_ ?_; fail_if_success with_reducible exact ChangesOnly.refl)
    | with_reducible exact Frame.refl | with_reducible assumption
    | (with_reducible apply Frame.step State.modPeer_frame; case k => decide)
    | (with_reducible apply Frame.step State.touch_frame; case k => decide)
    | (with_reducible apply Frame.step State.modPage_frame; case k => decide) | with_reducible refine Frame.ite ?_ ?_ | split)

theorem State.takeSlot_frame {s : State} {a : AttnProfile} {fmt tier unit n : Nat} {t : State} (e : State.takeSlot s a fmt tier unit = some (n, t)) :
    Frame [.tier] s t := by
  unfold State.takeSlot at e
  split at e
  · injection e with e
    injection e with _ e
    exact e ▸ .refl
  · obtain ⟨x, _, e⟩ := Option.map_eq_some_iff.mp e
    injection e with _ e
    subst e
    split
    · exact .refl
    · exact ⟨fun p hp => by cases p <;> first | exact absurd hp (by decide) | rfl, fun h => h.of_eq rfl rfl rfl rfl⟩

theorem State.reserve_frame {s : State} {a : AttnProfile} {fmt tier unit : Nat} {keep : Option (Nat × Nat)} {pref : Nat} {x : Spot} {t : State}
    (e : State.reserve s a fmt tier unit keep pref = some (x, t)) : Frame [.tier] s t := by
  have slot {o : Option Nat} {f : Nat → Spot} {u : State} (k : o.map (fun r => (f r, u)) = some (x, t)) : u = t := by
    obtain ⟨_, _, k⟩ := Option.map_eq_some_iff.mp k
    exact (Prod.mk.inj k).2
  unfold State.reserve at e
  split at e
  · exact nomatch e
  · rename_i f s1 h
    have k := State.takeSlot_frame h
    suffices s1 = t from this ▸ k
    split at e
    · exact (Prod.mk.inj (Option.some.inj e)).2
    · split at e
      · split at e
        · exact (Prod.mk.inj (Option.some.inj e)).2
        · exact slot e
      · obtain ⟨_, _, e⟩ := List.exists_of_findSome?_eq_some e
        exact slot e

theorem State.reserveIn_frame {s : State} {a : AttnProfile} {fmt tier : Nat} {units : List Nat} {keep : Option (Nat × Nat)} {pref : Nat} {x : Spot}
    {t : State} (e : State.reserveIn s a fmt tier units keep pref = some (x, t)) : Frame [.tier] s t := by
  obtain ⟨_, _, e⟩ := List.exists_of_findSome?_eq_some e
  exact State.reserve_frame e

theorem State.sweepExtents_frame {s : State} :
    Frame [.tier] s (State.sweepExtents s) := by
  unfold State.sweepExtents
  repeat' (first
    | (lift_lets; intro x; refine Frame.cut x ?_ (fun hx => ?_); rotate_left; clear_value x)
    | (lift_lets; intro x; with_reducible refine Frame.trans Frame.refl ?_)
    | (with_reducible refine Frame.upd ?_ ?_ ?_; fail_if_success with_reducible exact ChangesOnly.refl)
    | with_reducible exact Frame.refl | with_reducible assumption
    | (intro p hp; cases p <;> first | exact absurd hp (by decide) | rfl) | (intro h; exact h.of_eq rfl rfl rfl rfl))

theorem State.modSram_frame {s : State} {tile : Nat} {f : List SramRun → List SramRun} :
    Frame [.tiles] s (State.modSram s tile f) := by
  unfold State.modSram
  repeat' (first
    | (lift_lets; intro x; refine Frame.cut x ?_ (fun hx => ?_); rotate_left; clear_value x)
    | (lift_lets; intro x; with_reducible refine Frame.trans Frame.refl ?_)
    | (with_reducible refine Frame.upd ?_ ?_ ?_; fail_if_success with_reducible exact ChangesOnly.refl)
    | with_reducible exact Frame.refl | with_reducible assumption
    | (intro p hp; cases p <;> first | exact absurd hp (by decide) | rfl) | (intro h; exact h.of_eq rfl rfl rfl rfl))

theorem State.giveLines_frame {s : State} {a : AttnProfile} {fmt ctx page : Nat} {x : Spot} :
    Frame [.tiles] s (State.giveLines s a fmt ctx page x) := by
  unfold State.giveLines
  repeat' (first
    | (lift_lets; intro x; refine Frame.cut x ?_ (fun hx => ?_); rotate_left; clear_value x)
    | (lift_lets; intro x; with_reducible refine Frame.trans Frame.refl ?_)
    | (with_reducible refine Frame.upd ?_ ?_ ?_; fail_if_success with_reducible exact ChangesOnly.refl)
    | with_reducible exact Frame.refl | with_reducible assumption
    | (with_reducible apply Frame.step State.modSram_frame; case k => decide) | split | dsimp only)

theorem State.writeLines_frame {s : State} {tile ctx page : Nat} :
    Frame [.tiles] s (State.writeLines s tile ctx page) := by
  unfold State.writeLines
  repeat' (first
    | (with_reducible refine Frame.upd ?_ ?_ ?_; fail_if_success with_reducible exact ChangesOnly.refl)
    | with_reducible exact Frame.refl | (with_reducible apply Frame.step State.modSram_frame; case k => decide)
    | with_reducible refine Frame.ite ?_ ?_ | split)

theorem State.dropLines_frame {s : State} {tile ctx page : Nat} :
    Frame [.tiles] s (State.dropLines s tile ctx page) := by
  unfold State.dropLines
  repeat' (first
    | (with_reducible refine Frame.upd ?_ ?_ ?_; fail_if_success with_reducible exact ChangesOnly.refl)
    | with_reducible exact Frame.refl | (with_reducible apply Frame.step State.modSram_frame; case k => decide))

theorem State.wrBit_frame {s : State} {f : Field} {n : Nat} {v : Bool} :
    Frame [.regs] s (State.wrBit s f n v) := by
  unfold State.wrBit
  repeat' (first
    | (lift_lets; intro x; refine Frame.cut x ?_ (fun hx => ?_); rotate_left; clear_value x)
    | (lift_lets; intro x; with_reducible refine Frame.trans Frame.refl ?_)
    | (with_reducible refine Frame.upd ?_ ?_ ?_; fail_if_success with_reducible exact ChangesOnly.refl)
    | with_reducible exact Frame.refl | with_reducible assumption
    | (with_reducible apply Frame.step State.wr_frame; case k => decide) | with_reducible refine Frame.ite ?_ ?_ | split)

theorem State.abortMoves_frame {s : State} {hit : Move → Bool} :
    Frame [.regs, .tiles, .tier] s (State.abortMoves s hit) := by
  unfold State.abortMoves
  repeat' (first
    | (lift_lets; intro x; refine Frame.cut x ?_ (fun hx => ?_); rotate_left; clear_value x)
    | (lift_lets; intro x; with_reducible refine Frame.trans Frame.refl ?_)
    | (with_reducible refine Frame.upd ?_ ?_ ?_; fail_if_success with_reducible exact ChangesOnly.refl)
    | with_reducible exact Frame.refl | with_reducible assumption
    | (with_reducible apply Frame.step State.dropLines_frame; case k => decide)
    | (with_reducible apply Frame.step State.bump_frame; case k => decide) | with_reducible refine Frame.ite ?_ ?_
    | with_reducible refine Frame.foldl (fun _ _ => ?_) ?_ | with_reducible refine Frame.foldl_snd (fun _ _ => ?_) ?_
    | (intro p hp; cases p <;> first | exact absurd hp (by decide) | rfl) | (intro h; exact h.of_eq rfl rfl rfl rfl) | split
    | dsimp only)

theorem State.abortMove_frame {s : State} {ctx page : Nat} :
    Frame [.regs, .tiles, .tier] s (State.abortMove s ctx page) := by
  unfold State.abortMove
  repeat' (first
    | (lift_lets; intro x; refine Frame.cut x ?_ (fun hx => ?_); rotate_left; clear_value x)
    | (lift_lets; intro x; with_reducible refine Frame.trans Frame.refl ?_)
    | (with_reducible refine Frame.upd ?_ ?_ ?_; fail_if_success with_reducible exact ChangesOnly.refl)
    | with_reducible exact Frame.refl | with_reducible assumption
    | (with_reducible apply Frame.step State.abortMoves_frame; case k => decide) | with_reducible refine Frame.ite ?_ ?_ | split)

theorem State.dropParcel_frame {s : State} {ctx page : Nat} :
    Frame [.tier] s (State.dropParcel s ctx page) := by
  unfold State.dropParcel
  repeat' (first
    | (with_reducible refine Frame.upd ?_ ?_ ?_; fail_if_success with_reducible exact ChangesOnly.refl)
    | with_reducible exact Frame.refl | (intro p hp; cases p <;> first | exact absurd hp (by decide) | rfl)
    | (intro h; exact h.of_eq rfl rfl rfl rfl))

theorem State.freePage_frame {s : State} {ctx page : Nat} :
    Frame [.regs, .ctxs, .tiles, .tier] s (State.freePage s ctx page) := by
  unfold State.freePage
  repeat' (first
    | (lift_lets; intro x; refine Frame.cut x ?_ (fun hx => ?_); rotate_left; clear_value x)
    | (lift_lets; intro x; with_reducible refine Frame.trans Frame.refl ?_)
    | (with_reducible refine Frame.upd ?_ ?_ ?_; fail_if_success with_reducible exact ChangesOnly.refl)
    | with_reducible exact Frame.refl | with_reducible assumption
    | (with_reducible apply Frame.step State.dropLines_frame; case k => decide)
    | (with_reducible apply Frame.step State.dropParcel_frame; case k => decide)
    | (with_reducible apply Frame.step State.abortMove_frame; case k => decide)
    | (with_reducible refine Frame.step (State.modCtx_frame ?_) (by decide) ?_)
    | (with_reducible apply Frame.step State.touch_frame; case k => decide) | with_reducible refine Frame.ite ?_ ?_
    | exact KeepsCtx.mk (fun _ h => h) (fun _ h => h) | (simp only [x]; split) | split)

theorem State.dropRef_frame {s : State} {ctx page : Nat} :
    Frame [.regs, .ctxs, .tiles, .tier] s (State.dropRef s ctx page) := by
  unfold State.dropRef
  repeat' (first
    | (with_reducible refine Frame.upd ?_ ?_ ?_; fail_if_success with_reducible exact ChangesOnly.refl)
    | with_reducible exact Frame.refl | (with_reducible apply Frame.step State.freePage_frame; case k => decide)
    | (with_reducible apply Frame.step State.touch_frame; case k => decide)
    | (with_reducible apply Frame.step State.modPage_frame; case k => decide) | with_reducible refine Frame.ite ?_ ?_ | split)

theorem State.poison_frame {s : State} {ctx page : Nat} :
    Frame [.ctxs, .tier] s (State.poison s ctx page) := by
  unfold State.poison
  repeat' (first
    | (with_reducible refine Frame.upd ?_ ?_ ?_; fail_if_success with_reducible exact ChangesOnly.refl)
    | with_reducible exact Frame.refl | (with_reducible apply Frame.step State.touch_frame; case k => decide)
    | (with_reducible refine Frame.step (State.modCtx_frame ?_) (by decide) ?_)
    | (with_reducible apply Frame.step State.modPage_frame; case k => decide) | with_reducible refine Frame.ite ?_ ?_
    | exact KeepsCtx.mk (fun _ h => h) (fun _ h => h) | split)

theorem State.setLeaf_frame {s : State} {ctx page : Nat} {leaf : Bytes} :
    Frame [.ctxs] s (State.setLeaf s ctx page leaf) := by
  unfold State.setLeaf
  repeat' (first
    | (with_reducible refine Frame.upd ?_ ?_ ?_; fail_if_success with_reducible exact ChangesOnly.refl)
    | with_reducible exact Frame.refl | (with_reducible refine Frame.step (State.modCtx_frame ?_) (by decide) ?_)
    | with_reducible refine Frame.ite ?_ ?_ | exact KeepsCtx.mk (fun _ h => h) (fun _ h => h) | split)

theorem State.putPage_frame {s : State} {ctx n : Nat} {p : Page} :
    Frame [.regs, .ctxs, .tiles, .tier] s (State.putPage s ctx n p) := by
  unfold State.putPage
  repeat' (first
    | (with_reducible refine Frame.upd ?_ ?_ ?_; fail_if_success with_reducible exact ChangesOnly.refl)
    | with_reducible exact Frame.refl | (with_reducible apply Frame.step State.setLeaf_frame; case k => decide)
    | (with_reducible apply Frame.step State.touch_frame; case k => decide)
    | (with_reducible refine Frame.step (State.modCtx_frame ?_) (by decide) ?_)
    | (with_reducible apply Frame.step State.abortMove_frame; case k => decide) | exact KeepsCtx.mk (fun _ h => h) (fun _ h => h))

theorem State.spoil_frame {s : State} {ctx page peb : Nat} :
    Frame [.ctxs] s (State.spoil s ctx page peb) := by
  unfold State.spoil
  repeat' (first
    | (with_reducible refine Frame.upd ?_ ?_ ?_; fail_if_success with_reducible exact ChangesOnly.refl)
    | with_reducible exact Frame.refl | (with_reducible apply Frame.step State.modPage_frame; case k => decide)
    | with_reducible refine Frame.ite ?_ ?_ | split)

theorem State.corrupt_frame {s : State} {ctx page peb : Nat} {u : ErrUnit} {i : ErrInfo} :
    Frame [.regs, .ctxs, .tier, .health, .free] s (State.corrupt s ctx page peb u i) := by
  unfold State.corrupt
  repeat' (first
    | (with_reducible refine Frame.upd ?_ ?_ ?_; fail_if_success with_reducible exact ChangesOnly.refl)
    | with_reducible exact Frame.refl | (with_reducible apply Frame.step errRecord_frame; case k => decide)
    | (with_reducible apply Frame.step State.poison_frame; case k => decide))

end Sys2Proof.Machine
end

