-- ==== Sys2Proof/Laws/BedrockFrames.lean ====
section
/-! SUPPORT. What each operation of Machine/Bedrock.lean may change, and that it keeps the invariant of Safety.lean. -/
namespace Sys2Proof.Machine

theorem State.modBlock_frame {s : State} {b : Nat} {f : EraseBlock → EraseBlock} :
    Frame [.tier] s (State.modBlock s b f) := by
  unfold State.modBlock
  repeat' (first
    | (with_reducible refine Frame.upd ?_ ?_ ?_; fail_if_success with_reducible exact ChangesOnly.refl)
    | with_reducible exact Frame.refl | (intro p hp; cases p <;> first | exact absurd hp (by decide) | rfl)
    | (intro h; exact h.of_eq rfl rfl rfl rfl))

theorem State.openStripe_frame {s : State} {worn : Bool} :
    Frame [.tier] s (State.openStripe s worn) := by
  unfold State.openStripe
  repeat' (first
    | (lift_lets; intro x; refine Frame.cut x ?_ (fun hx => ?_); rotate_left; clear_value x)
    | (lift_lets; intro x; with_reducible refine Frame.trans Frame.refl ?_)
    | (with_reducible refine Frame.upd ?_ ?_ ?_; fail_if_success with_reducible exact ChangesOnly.refl)
    | with_reducible exact Frame.refl | with_reducible assumption
    | (with_reducible apply Frame.step State.modBlock_frame; case k => decide)
    | with_reducible refine Frame.foldl (fun _ _ => ?_) ?_ | with_reducible refine Frame.foldl_snd (fun _ _ => ?_) ?_
    | (intro p hp; cases p <;> first | exact absurd hp (by decide) | rfl) | (intro h; exact h.of_eq rfl rfl rfl rfl) | dsimp only)

theorem State.newStripe_frame {s : State} {worn : Bool} :
    Frame [.tier] s (State.newStripe s worn) := by
  unfold State.newStripe
  repeat' (first
    | (lift_lets; intro x; refine Frame.cut x ?_ (fun hx => ?_); rotate_left; clear_value x)
    | (lift_lets; intro x; with_reducible refine Frame.trans Frame.refl ?_)
    | (with_reducible refine Frame.upd ?_ ?_ ?_; fail_if_success with_reducible exact ChangesOnly.refl)
    | with_reducible exact Frame.refl | with_reducible assumption
    | (with_reducible apply Frame.step State.openStripe_frame; case k => decide)
    | (intro p hp; cases p <;> first | exact absurd hp (by decide) | rfl) | (intro h; exact h.of_eq rfl rfl rfl rfl))

theorem State.logRoom_frame {s : State} {n : Nat} :
    Frame [.tier] s (State.logRoom s n) := by
  unfold State.logRoom
  repeat' (first
    | (with_reducible refine Frame.upd ?_ ?_ ?_; fail_if_success with_reducible exact ChangesOnly.refl)
    | with_reducible exact Frame.refl | (with_reducible apply Frame.step State.openStripe_frame; case k => decide)
    | with_reducible refine Frame.foldl (fun _ _ => ?_) ?_ | with_reducible refine Frame.foldl_snd (fun _ _ => ?_) ?_ | dsimp only)

theorem State.logParcel_frame {s : State} {ctx page len : Nat} :
    Frame [.tier] s (State.logParcel s ctx page len) := by
  unfold State.logParcel
  repeat' (first
    | (lift_lets; intro x; refine Frame.cut x ?_ (fun hx => ?_); rotate_left; clear_value x)
    | (lift_lets; intro x; with_reducible refine Frame.trans Frame.refl ?_)
    | (with_reducible refine Frame.upd ?_ ?_ ?_; fail_if_success with_reducible exact ChangesOnly.refl)
    | with_reducible exact Frame.refl | with_reducible assumption
    | (with_reducible apply Frame.step State.logRoom_frame; case k => decide)
    | (with_reducible apply Frame.step State.dropParcel_frame; case k => decide)
    | (intro p hp; cases p <;> first | exact absurd hp (by decide) | rfl) | (intro h; exact h.of_eq rfl rfl rfl rfl))

theorem State.addParcel_frame {s : State} {ctx page : Nat} :
    Frame [.tier] s (State.addParcel s ctx page) := by
  unfold State.addParcel
  repeat' (first
    | (with_reducible refine Frame.upd ?_ ?_ ?_; fail_if_success with_reducible exact ChangesOnly.refl)
    | with_reducible exact Frame.refl | (with_reducible apply Frame.step State.logParcel_frame; case k => decide) | split)

theorem State.readParcel_frame {s : State} {ctx page : Nat} :
    Frame [.tier] s (State.readParcel s ctx page) := by
  unfold State.readParcel
  repeat' (first
    | (with_reducible refine Frame.upd ?_ ?_ ?_; fail_if_success with_reducible exact ChangesOnly.refl)
    | with_reducible exact Frame.refl | (with_reducible apply Frame.step State.modBlock_frame; case k => decide)
    | with_reducible refine Frame.ite ?_ ?_ | with_reducible refine Frame.foldl (fun _ _ => ?_) ?_
    | with_reducible refine Frame.foldl_snd (fun _ _ => ?_) ?_ | split | dsimp only)

theorem State.relocate_frame {s : State} {b : Nat} {worn : optParam Bool false} :
    Frame [.tier] s (State.relocate s b worn) := by
  unfold State.relocate
  repeat' (first
    | (lift_lets; intro x; refine Frame.cut x ?_ (fun hx => ?_); rotate_left; clear_value x)
    | (lift_lets; intro x; with_reducible refine Frame.trans Frame.refl ?_)
    | (with_reducible refine Frame.upd ?_ ?_ ?_; fail_if_success with_reducible exact ChangesOnly.refl)
    | with_reducible exact Frame.refl | with_reducible assumption
    | (with_reducible apply Frame.step State.newStripe_frame; case k => decide)
    | (with_reducible apply Frame.step State.logParcel_frame; case k => decide)
    | (with_reducible apply Frame.step State.readParcel_frame; case k => decide) | with_reducible refine Frame.ite ?_ ?_
    | with_reducible refine Frame.foldl (fun _ _ => ?_) ?_ | with_reducible refine Frame.foldl_snd (fun _ _ => ?_) ?_
    | (simp only [x]; split) | split | dsimp only)

theorem State.eraseBlock_frame {s : State} {b : Nat} :
    Frame [.tier] s (State.eraseBlock s b) := by
  unfold State.eraseBlock
  repeat' (first
    | (with_reducible refine Frame.upd ?_ ?_ ?_; fail_if_success with_reducible exact ChangesOnly.refl)
    | with_reducible exact Frame.refl | (with_reducible apply Frame.step State.modBlock_frame; case k => decide)
    | with_reducible refine Frame.ite ?_ ?_ | split)

theorem State.wearLevel_frame {s : State} :
    Frame [.tier] s (State.wearLevel s) := by
  unfold State.wearLevel
  repeat' (first
    | (lift_lets; intro x; refine Frame.cut x ?_ (fun hx => ?_); rotate_left; clear_value x)
    | (lift_lets; intro x; with_reducible refine Frame.trans Frame.refl ?_)
    | (with_reducible refine Frame.upd ?_ ?_ ?_; fail_if_success with_reducible exact ChangesOnly.refl)
    | with_reducible exact Frame.refl | with_reducible assumption
    | (with_reducible apply Frame.step State.eraseBlock_frame; case k => decide)
    | (with_reducible apply Frame.step State.relocate_frame; case k => decide) | with_reducible refine Frame.ite ?_ ?_
    | with_reducible refine Frame.foldl (fun _ _ => ?_) ?_ | with_reducible refine Frame.foldl_snd (fun _ _ => ?_) ?_ | split
    | dsimp only)

theorem State.reclaim_frame {s : State} :
    Frame [.tier] s (State.reclaim s) := by
  unfold State.reclaim
  repeat' (first
    | (lift_lets; intro x; refine Frame.cut x ?_ (fun hx => ?_); rotate_left; clear_value x)
    | (lift_lets; intro x; with_reducible refine Frame.trans Frame.refl ?_)
    | (with_reducible refine Frame.upd ?_ ?_ ?_; fail_if_success with_reducible exact ChangesOnly.refl)
    | with_reducible exact Frame.refl | with_reducible assumption
    | (with_reducible apply Frame.step State.wearLevel_frame; case k => decide)
    | (with_reducible apply Frame.step State.eraseBlock_frame; case k => decide)
    | (with_reducible apply Frame.step State.relocate_frame; case k => decide) | with_reducible refine Frame.ite ?_ ?_
    | (intro p hp; cases p <;> first | exact absurd hp (by decide) | rfl) | (intro h; exact h.of_eq rfl rfl rfl rfl) | split)

theorem State.disturb_frame {s : State} {b : Nat} :
    Frame [.regs, .tier] s (State.disturb s b) := by
  unfold State.disturb
  repeat' (first
    | (with_reducible refine Frame.upd ?_ ?_ ?_; fail_if_success with_reducible exact ChangesOnly.refl)
    | with_reducible exact Frame.refl | (with_reducible apply Frame.step State.bump_frame; case k => decide)
    | (with_reducible apply Frame.step State.modBlock_frame; case k => decide)
    | (with_reducible apply Frame.step State.relocate_frame; case k => decide))

theorem State.disturbed_frame {s : State} :
    Frame [.regs, .tier] s (State.disturbed s) := by
  unfold State.disturbed
  repeat' (first
    | (with_reducible refine Frame.upd ?_ ?_ ?_; fail_if_success with_reducible exact ChangesOnly.refl)
    | with_reducible exact Frame.refl | (with_reducible apply Frame.step State.disturb_frame; case k => decide)
    | with_reducible refine Frame.foldl (fun _ _ => ?_) ?_ | with_reducible refine Frame.foldl_snd (fun _ _ => ?_) ?_ | dsimp only)

theorem State.retireBlock_frame {s : State} {b : Nat} :
    Frame [.tier] s (State.retireBlock s b) := by
  unfold State.retireBlock
  repeat' (first
    | (with_reducible refine Frame.upd ?_ ?_ ?_; fail_if_success with_reducible exact ChangesOnly.refl)
    | with_reducible exact Frame.refl | (with_reducible apply Frame.step State.modBlock_frame; case k => decide)
    | (with_reducible apply Frame.step State.relocate_frame; case k => decide))

theorem State.tombBlocks_frame {s : State} {ctx : Nat} :
    Frame [.tier] s (State.tombBlocks s ctx) := by
  unfold State.tombBlocks
  repeat' (first
    | (lift_lets; intro x; refine Frame.cut x ?_ (fun hx => ?_); rotate_left; clear_value x)
    | (lift_lets; intro x; with_reducible refine Frame.trans Frame.refl ?_)
    | (with_reducible refine Frame.upd ?_ ?_ ?_; fail_if_success with_reducible exact ChangesOnly.refl)
    | with_reducible exact Frame.refl | with_reducible assumption
    | (with_reducible apply Frame.step State.modBlock_frame; case k => decide) | with_reducible refine Frame.ite ?_ ?_
    | with_reducible refine Frame.foldl (fun _ _ => ?_) ?_ | with_reducible refine Frame.foldl_snd (fun _ _ => ?_) ?_
    | (intro p hp; cases p <;> first | exact absurd hp (by decide) | rfl) | (intro h; exact h.of_eq rfl rfl rfl rfl) | split
    | dsimp only)

end Sys2Proof.Machine
end

