-- ==== Sys2Proof/Laws/JournalFrames.lean ====
section
/-! SUPPORT. What each operation of Machine/Journal.lean may change, and that it keeps the invariant of Safety.lean. -/
namespace Sys2Proof.Machine

theorem State.setStream_frame {s : State} {j : JournalOut} :
    Frame [.comp] s (State.setStream s j) := by
  unfold State.setStream
  repeat' (first
    | (lift_lets; intro x; refine Frame.cut x ?_ (fun hx => ?_); rotate_left; clear_value x)
    | (lift_lets; intro x; with_reducible refine Frame.trans Frame.refl ?_)
    | (with_reducible refine Frame.upd ?_ ?_ ?_; fail_if_success with_reducible exact ChangesOnly.refl)
    | with_reducible exact Frame.refl | with_reducible assumption
    | (intro p hp; cases p <;> first | exact absurd hp (by decide) | rfl) | (intro h; exact h.of_eq rfl rfl rfl rfl))

theorem State.journal_frame {s : State} {ctx slot : Nat} {e : JEntry} :
    Frame [.comp] s (State.journal s ctx slot e) := by
  unfold State.journal
  repeat' (first
    | (lift_lets; intro x; refine Frame.cut x ?_ (fun hx => ?_); rotate_left; clear_value x)
    | (lift_lets; intro x; with_reducible refine Frame.trans Frame.refl ?_)
    | (with_reducible refine Frame.upd ?_ ?_ ?_; fail_if_success with_reducible exact ChangesOnly.refl)
    | with_reducible exact Frame.refl | with_reducible assumption
    | (with_reducible apply Frame.step State.setStream_frame; case k => decide) | with_reducible refine Frame.ite ?_ ?_ | split)

theorem State.flushStream_frame {s : State} {ctx slot cls : Nat} {extra : List Bytes} :
    Frame [.itin, .ctxs, .conns, .links, .comp, .dbg, .out] s (State.flushStream s ctx slot cls extra).2 := by
  unfold State.flushStream
  repeat' (first
    | (lift_lets; intro x; refine Frame.cut x ?_ (fun hx => ?_); rotate_left; clear_value x)
    | (lift_lets; intro x; with_reducible refine Frame.trans Frame.refl ?_)
    | (with_reducible refine Frame.upd ?_ ?_ ?_; fail_if_success with_reducible exact ChangesOnly.refl)
    | with_reducible exact Frame.refl | with_reducible assumption
    | (with_reducible apply Frame.step State.setStream_frame; case k => decide)
    | (with_reducible apply Frame.step State.sendSend_frame; case k => decide)
    | with_reducible refine Frame.foldl (fun _ _ => ?_) ?_ | with_reducible refine Frame.foldl_snd (fun _ _ => ?_) ?_
    | (simp only [x]; split) | split | dsimp only)

theorem State.noteLag_frame {s : State} :
    Frame [.regs] s (State.noteLag s) := by
  unfold State.noteLag
  repeat' (first
    | (with_reducible refine Frame.upd ?_ ?_ ?_; fail_if_success with_reducible exact ChangesOnly.refl)
    | with_reducible exact Frame.refl | (with_reducible apply Frame.step State.wr_frame; case k => decide)
    | with_reducible refine Frame.foldl (fun _ _ => ?_) ?_ | with_reducible refine Frame.foldl_snd (fun _ _ => ?_) ?_ | dsimp only)

theorem State.markStreams_frame {s : State} {time : Nat} :
    Frame [.regs, .itin, .ctxs, .conns, .links, .comp, .dbg, .out] s (State.markStreams s time) := by
  unfold State.markStreams
  repeat' (first
    | (lift_lets; intro x; refine Frame.cut x ?_ (fun hx => ?_); rotate_left; clear_value x)
    | (lift_lets; intro x; with_reducible refine Frame.trans Frame.refl ?_)
    | (with_reducible refine Frame.upd ?_ ?_ ?_; fail_if_success with_reducible exact ChangesOnly.refl)
    | with_reducible exact Frame.refl | with_reducible assumption
    | (with_reducible apply Frame.step State.noteLag_frame; case k => decide)
    | (with_reducible apply Frame.step State.flushStream_frame; case k => decide)
    | (with_reducible apply Frame.step State.setStream_frame; case k => decide) | with_reducible refine Frame.ite ?_ ?_
    | with_reducible refine Frame.foldl (fun _ _ => ?_) ?_ | with_reducible refine Frame.foldl_snd (fun _ _ => ?_) ?_
    | with_reducible refine Frame.of_pair (by assumption) ?_ | split | dsimp only)

theorem State.settleLag_frame {s : State} {conn : Nat} :
    Frame [.regs, .comp] s (State.settleLag s conn) := by
  unfold State.settleLag
  repeat' (first
    | (lift_lets; intro x; refine Frame.cut x ?_ (fun hx => ?_); rotate_left; clear_value x)
    | (lift_lets; intro x; with_reducible refine Frame.trans Frame.refl ?_)
    | (with_reducible refine Frame.upd ?_ ?_ ?_; fail_if_success with_reducible exact ChangesOnly.refl)
    | with_reducible exact Frame.refl | with_reducible assumption
    | (with_reducible apply Frame.step State.noteLag_frame; case k => decide) | with_reducible refine Frame.ite ?_ ?_
    | (intro p hp; cases p <;> first | exact absurd hp (by decide) | rfl) | (intro h; exact h.of_eq rfl rfl rfl rfl) | split)

end Sys2Proof.Machine
end

