-- ==== Sys2Proof/Laws/ConversationFrames.lean ====
section
/-! SUPPORT. What each operation of Machine/Conversation.lean may change, and that it keeps the invariant of Safety.lean. -/
namespace Sys2Proof.Machine

theorem State.settleReq_frame {s : State} {id : Nat} :
    Frame [.itin, .reqs, .ctxs, .engines, .locals, .conns, .links, .health, .dbg, .out] s (State.settleReq s id) := by
  unfold State.settleReq
  repeat' (first
    | (with_reducible refine Frame.upd ?_ ?_ ?_; fail_if_success with_reducible exact ChangesOnly.refl)
    | with_reducible exact Frame.refl | (with_reducible apply Frame.step State.finish_frame; case k => decide)
    | with_reducible refine Frame.ite ?_ ?_ | split)

theorem State.effect_frame {s : State} {id progress : Nat} {demotions : List Nat} :
    Frame [.itin, .reqs, .ctxs, .engines, .locals, .conns, .links, .health, .dbg, .out] s (State.effect s id progress demotions) := by
  unfold State.effect
  repeat' (first
    | (with_reducible refine Frame.upd ?_ ?_ ?_; fail_if_success with_reducible exact ChangesOnly.refl)
    | with_reducible exact Frame.refl | (with_reducible apply Frame.step State.settleReq_frame; case k => decide)
    | (with_reducible apply Frame.step State.modReq_frame; case k => decide))

theorem State.settleAll_frame {s : State} :
    Frame [.itin, .reqs, .ctxs, .engines, .locals, .conns, .links, .health, .dbg, .out] s (State.settleAll s) := by
  unfold State.settleAll
  repeat' (first
    | (with_reducible refine Frame.upd ?_ ?_ ?_; fail_if_success with_reducible exact ChangesOnly.refl)
    | with_reducible exact Frame.refl | (with_reducible apply Frame.step State.settleReq_frame; case k => decide)
    | with_reducible refine Frame.foldl (fun _ _ => ?_) ?_ | with_reducible refine Frame.foldl_snd (fun _ _ => ?_) ?_ | dsimp only)

theorem State.placeNew_frame {s : State} {p : Profile} {c : Conv} {n : Nat} {pg : Page} {x : Spot} {t : State}
    (e : State.placeNew s p c n pg = some (x, t)) : Frame [.tier, .free] s t := by
  unfold State.placeNew at e
  dsimp only at e
  split at e
  · rename_i h
    injection e with e
    subst e
    split at h
    · exact (State.reserveIn_frame h).mono (by decide)
    · exact nomatch h
  · exact Frame.step (State.reserveIn_frame e) (by decide) (Frame.mono State.draw_frame (by decide))

theorem State.newPage_frame {s : State} {ctx : Nat} {p : Profile} {c : Conv} {n : Nat} {pg : Page} {num : Nat} {t : State}
    (e : State.newPage s ctx p c n pg = some (num, t)) : Frame [.regs, .ctxs, .tiles, .tier, .free] s t := by
  unfold State.newPage at e
  split at e
  · rename_i h
    injection e with e
    injection e with _ e
    exact e ▸ Frame.step State.putPage_frame (by decide) ((State.placeNew_frame h).mono (by decide))
  · exact nomatch e

theorem State.lineUp_frame {s : State} {ctx num : Nat} {a : AttnProfile} :
    Frame [.tiles] s (State.lineUp s ctx num a) := by
  unfold State.lineUp
  repeat' (first
    | (with_reducible refine Frame.upd ?_ ?_ ?_; fail_if_success with_reducible exact ChangesOnly.refl)
    | with_reducible exact Frame.refl | (with_reducible apply Frame.step State.writeLines_frame; case k => decide)
    | (with_reducible apply Frame.step State.giveLines_frame; case k => decide)
    | (with_reducible apply Frame.step State.dropLines_frame; case k => decide) | with_reducible refine Frame.ite ?_ ?_ | split)

theorem State.sealWork_frame {s : State} {ctx num : Nat} {pg : Page} :
    Frame [.itin] s (State.sealWork s ctx num pg) := by
  unfold State.sealWork
  repeat' (first
    | (with_reducible refine Frame.upd ?_ ?_ ?_; fail_if_success with_reducible exact ChangesOnly.refl)
    | with_reducible exact Frame.refl | (with_reducible apply Frame.step State.housekeep_frame; case k => decide)
    | with_reducible refine Frame.ite ?_ ?_ | split)

theorem State.journalDrop_frame {s : State} {ctx conv num : Nat} :
    Frame [.comp] s (State.journalDrop s ctx conv num) := by
  unfold State.journalDrop
  repeat' (first
    | (with_reducible refine Frame.upd ?_ ?_ ?_; fail_if_success with_reducible exact ChangesOnly.refl)
    | with_reducible exact Frame.refl | (with_reducible apply Frame.step State.journal_frame; case k => decide) | split)

theorem State.setEntry_frame {s : State} {ctx conv hk index : Nat} {e : PageEntry} :
    Frame [.ctxs] s (State.setEntry s ctx conv hk index e) := by
  unfold State.setEntry
  repeat' (first
    | (with_reducible refine Frame.upd ?_ ?_ ?_; fail_if_success with_reducible exact ChangesOnly.refl)
    | with_reducible exact Frame.refl | (with_reducible apply Frame.step State.modConv_frame; case k => decide))

theorem State.journalPebbles_frame {s : State} {ctx : Nat} {a : AttnProfile} {pg : Page} {first count : Nat} :
    Frame [.comp] s (State.journalPebbles s ctx a pg first count) := by
  unfold State.journalPebbles
  repeat' (first
    | (lift_lets; intro x; refine Frame.cut x ?_ (fun hx => ?_); rotate_left; clear_value x)
    | (lift_lets; intro x; with_reducible refine Frame.trans Frame.refl ?_)
    | (with_reducible refine Frame.upd ?_ ?_ ?_; fail_if_success with_reducible exact ChangesOnly.refl)
    | with_reducible exact Frame.refl | with_reducible assumption
    | (with_reducible apply Frame.step State.journal_frame; case k => decide))

theorem State.applyPlan_frame {s : State} {ctx : Nat} {p : Profile} {d : Desc} {hk n : Nat} {x : PagePlan} {t : State}
    (e : State.applyPlan s ctx p d hk n x = some t) :
    Frame [.regs, .itin, .ctxs, .tiles, .comp, .tier, .free] s t := by
  unfold State.applyPlan at e
  split at e
  · exact Option.some.inj e ▸ .refl
  · dsimp only at e
    split at e
    · obtain ⟨y, h, rfl⟩ := Option.map_eq_some_iff.mp e
      refine Frame.step State.journalPebbles_frame (by decide) (Frame.step State.sealWork_frame (by decide) (Frame.step State.setEntry_frame (by decide) ?_))
      exact (State.newPage_frame h).mono (by decide)
    · split at e
      · obtain ⟨y, h, rfl⟩ := Option.map_eq_some_iff.mp e
        refine Frame.step State.journalPebbles_frame (by decide) (Frame.step State.sealWork_frame (by decide) (Frame.step State.dropRef_frame (by decide)
          (Frame.step State.setEntry_frame (by decide) ?_)))
        exact (State.newPage_frame h).mono (by decide)
      · injection e with e
        subst e
        exact Frame.step State.journalPebbles_frame (by decide) (Frame.step State.sealWork_frame (by decide) (Frame.mono State.putPage_frame (by decide)))

theorem State.sendPageOp_frame {s : State} {ctx cls : Nat} {e : PageEntry} {o : PageOpBody} :
    Frame [.itin, .ctxs, .conns, .links, .dbg, .out] s (State.sendPageOp s ctx cls e o).2 := by
  unfold State.sendPageOp
  repeat' (first
    | (with_reducible refine Frame.upd ?_ ?_ ?_; fail_if_success with_reducible exact ChangesOnly.refl)
    | with_reducible exact Frame.refl | (with_reducible apply Frame.step State.sendSend_frame; case k => decide) | split)

theorem State.startDemotion_frame {s : State} {ctx num k fmt : Nat} {pg : Page} :
    Frame [.regs, .itin, .ctxs, .tiles, .tier, .health] s (State.startDemotion s ctx num k fmt pg).2 := by
  unfold State.startDemotion
  repeat' (first
    | (with_reducible refine Frame.upd ?_ ?_ ?_; fail_if_success with_reducible exact ChangesOnly.refl)
    | with_reducible exact Frame.refl | (with_reducible apply Frame.step State.touch_frame; case k => decide)
    | (with_reducible apply Frame.step State.modPage_frame; case k => decide)
    | (with_reducible apply Frame.step State.abortMove_frame; case k => decide)
    | (with_reducible apply Frame.step State.abandonAssays_frame; case k => decide) | with_reducible refine Frame.ite ?_ ?_ | split)

theorem State.dropRemote_frame {s : State} {ctx conv cls : Nat} {e : Nat × PageEntry} :
    Frame [.itin, .ctxs, .conns, .links, .dbg, .out] s (State.dropRemote s ctx conv cls e) := by
  unfold State.dropRemote
  repeat' (first
    | (with_reducible refine Frame.upd ?_ ?_ ?_; fail_if_success with_reducible exact ChangesOnly.refl)
    | with_reducible exact Frame.refl | (with_reducible apply Frame.step State.sendPageOp_frame; case k => decide)
    | with_reducible refine Frame.of_pair (by assumption) ?_)

theorem State.reopenRemote_frame {s : State} {ctx conv cls : Nat} {e : Nat × PageEntry} {len : Nat} :
    Frame [.itin, .ctxs, .conns, .links, .dbg, .out] s (State.reopenRemote s ctx conv cls e len).2 := by
  unfold State.reopenRemote
  repeat' (first
    | (lift_lets; intro x; refine Frame.cut x ?_ (fun hx => ?_); rotate_left; clear_value x)
    | (lift_lets; intro x; with_reducible refine Frame.trans Frame.refl ?_)
    | (with_reducible refine Frame.upd ?_ ?_ ?_; fail_if_success with_reducible exact ChangesOnly.refl)
    | with_reducible exact Frame.refl | with_reducible assumption
    | (with_reducible apply Frame.step State.sendPageOp_frame; case k => decide)
    | (with_reducible apply Frame.step State.setEntry_frame; case k => decide) | with_reducible refine Frame.ite ?_ ?_
    | with_reducible refine Frame.of_pair (by assumption) ?_ | split | dsimp only)

theorem State.demoteRemote_frame {s : State} {ctx conv cls : Nat} {e : Nat × PageEntry} {k fmt : Nat} :
    Frame [.itin, .ctxs, .conns, .links, .dbg, .out] s (State.demoteRemote s ctx conv cls e k fmt).2 := by
  unfold State.demoteRemote
  repeat' (first
    | (lift_lets; intro x; refine Frame.cut x ?_ (fun hx => ?_); rotate_left; clear_value x)
    | (lift_lets; intro x; with_reducible refine Frame.trans Frame.refl ?_)
    | (with_reducible refine Frame.upd ?_ ?_ ?_; fail_if_success with_reducible exact ChangesOnly.refl)
    | with_reducible exact Frame.refl | with_reducible assumption
    | (with_reducible apply Frame.step State.sendPageOp_frame; case k => decide)
    | (with_reducible apply Frame.step State.setEntry_frame; case k => decide) | with_reducible refine Frame.ite ?_ ?_
    | with_reducible refine Frame.of_pair (by assumption) ?_ | split | dsimp only)

theorem State.climb_frame {s : State} {ctx : Nat} {p : Profile} {cls conv hk t : Nat} :
    Frame [.regs, .itin, .ctxs, .tiles, .conns, .links, .tier, .health, .dbg, .out] s (State.climb s ctx p cls conv hk t).2 := by
  unfold State.climb
  repeat' (first
    | (lift_lets; intro x; refine Frame.cut x ?_ (fun hx => ?_); rotate_left; clear_value x)
    | (lift_lets; intro x; with_reducible refine Frame.trans Frame.refl ?_)
    | (with_reducible refine Frame.upd ?_ ?_ ?_; fail_if_success with_reducible exact ChangesOnly.refl)
    | with_reducible exact Frame.refl | with_reducible assumption
    | (with_reducible apply Frame.step State.startDemotion_frame; case k => decide)
    | (with_reducible apply Frame.step State.demoteRemote_frame; case k => decide) | with_reducible refine Frame.ite ?_ ?_
    | with_reducible refine Frame.foldl (fun _ _ => ?_) ?_ | with_reducible refine Frame.foldl_snd (fun _ _ => ?_) ?_
    | with_reducible refine Frame.of_pair (by assumption) ?_ | split | dsimp only)

theorem State.respot_frame {s : State} {p : Profile} {pg : Page} {fmt : Nat} :
    Frame [.tier] s (State.respot s p pg fmt).2 := by
  unfold State.respot
  dsimp only
  generalize e : State.reserveIn s _ _ _ _ _ _ = o
  cases o with
  | none => exact .refl
  | some x => exact State.reserveIn_frame e

theorem State.demoteNow_frame {s : State} {ctx num : Nat} {bad : Option Nat} {u : ErrUnit} :
    Frame [.regs, .ctxs, .tiles, .comp, .tier, .health, .free] s (State.demoteNow s ctx num bad u) := by
  unfold State.demoteNow
  repeat' (first
    | (lift_lets; intro x; refine Frame.cut x ?_ (fun hx => ?_); rotate_left; clear_value x)
    | (lift_lets; intro x; with_reducible refine Frame.trans Frame.refl ?_)
    | (with_reducible refine Frame.upd ?_ ?_ ?_; fail_if_success with_reducible exact ChangesOnly.refl)
    | with_reducible exact Frame.refl | with_reducible assumption
    | (with_reducible apply Frame.step State.corrupt_frame; case k => decide)
    | (with_reducible apply Frame.step State.putPage_frame; case k => decide)
    | (with_reducible apply Frame.step State.respot_frame; case k => decide)
    | (with_reducible apply Frame.step State.journal_frame; case k => decide)
    | (with_reducible apply Frame.step State.lineUp_frame; case k => decide) | with_reducible refine Frame.ite ?_ ?_
    | with_reducible refine Frame.of_pair (by assumption) ?_ | split | dsimp only)

theorem State.pageOpDone_frame {s : State} {conn : Nat} {op leaf : Bytes} :
    Frame [.itin, .ctxs, .conns, .links, .dbg, .out] s (State.pageOpDone s conn op leaf) := by
  unfold State.pageOpDone
  repeat' (first
    | (with_reducible refine Frame.upd ?_ ?_ ?_; fail_if_success with_reducible exact ChangesOnly.refl)
    | with_reducible exact Frame.refl | (with_reducible apply Frame.step State.sendSend_frame; case k => decide))

theorem State.answerPageOps_frame {s : State} {ctx key : Nat} :
    Frame [.regs, .itin, .ctxs, .tiles, .conns, .links, .comp, .tier, .health, .dbg, .out] s (State.answerPageOps s ctx key) := by
  unfold State.answerPageOps
  repeat' (first
    | (lift_lets; intro x; refine Frame.cut x ?_ (fun hx => ?_); rotate_left; clear_value x)
    | (lift_lets; intro x; with_reducible refine Frame.trans Frame.refl ?_)
    | (with_reducible refine Frame.upd ?_ ?_ ?_; fail_if_success with_reducible exact ChangesOnly.refl)
    | with_reducible exact Frame.refl | with_reducible assumption
    | (with_reducible apply Frame.step State.startDemotion_frame; case k => decide)
    | (with_reducible apply Frame.step State.pageOpDone_frame; case k => decide) | with_reducible refine Frame.ite ?_ ?_
    | with_reducible refine Frame.foldl (fun _ _ => ?_) ?_ | with_reducible refine Frame.foldl_snd (fun _ _ => ?_) ?_
    | (intro p hp; cases p <;> first | exact absurd hp (by decide) | rfl) | (intro h; exact h.of_eq rfl rfl rfl rfl)
    | with_reducible refine Frame.of_pair (by assumption) ?_ | split | dsimp only)

theorem State.demotionOver_frame {s : State} {ctx key : Nat} {ok : Bool} :
    Frame [.regs, .itin, .reqs, .ctxs, .engines, .tiles, .locals, .conns, .links, .comp, .tier, .health, .dbg, .out] s (State.demotionOver s ctx key ok) := by
  unfold State.demotionOver
  repeat' (first
    | (lift_lets; intro x; refine Frame.cut x ?_ (fun hx => ?_); rotate_left; clear_value x)
    | (lift_lets; intro x; with_reducible refine Frame.trans Frame.refl ?_)
    | (with_reducible refine Frame.upd ?_ ?_ ?_; fail_if_success with_reducible exact ChangesOnly.refl)
    | with_reducible exact Frame.refl | with_reducible assumption
    | (with_reducible apply Frame.step State.settleAll_frame; case k => decide)
    | (with_reducible apply Frame.step State.answerPageOps_frame; case k => decide)
    | (intro p hp; cases p <;> first | exact absurd hp (by decide) | rfl) | (intro h; exact h.of_eq rfl rfl rfl rfl))

theorem execDemotionComplete_frame {t ctx page : Nat} {bad : Option Nat} {s : State} :
    Answers [.now, .regs, .itin, .reqs, .ctxs, .engines, .tiles, .locals, .conns, .links, .comp, .tier, .health, .dbg, .out, .free] s (execDemotionComplete t ctx page bad s) := by
  unfold execDemotionComplete
  repeat' (first
    | (lift_lets; intro x; refine Answers.cut x ?_ (fun hx => ?_); rotate_left; clear_value x)
    | (lift_lets; intro x; refine Frame.cut x ?_ (fun hx => ?_); rotate_left; clear_value x)
    | (lift_lets; intro x; with_reducible refine Frame.trans Frame.refl ?_) | with_reducible refine Answers.next ?_
    | with_reducible refine Answers.ite ?_ ?_
    | (with_reducible refine Frame.upd ?_ ?_ ?_; fail_if_success with_reducible exact ChangesOnly.refl)
    | with_reducible exact Frame.refl | with_reducible assumption
    | (with_reducible apply Frame.step State.at__frame; case k => decide)
    | (with_reducible apply Frame.step State.demoteNow_frame; case k => decide)
    | (with_reducible apply Frame.step State.demotionOver_frame; case k => decide) | with_reducible refine Frame.ite ?_ ?_ | split)

theorem State.applyPlans_frame {s : State} {r : Req} {p : Profile} {plans : List (Nat × List PagePlan)} {t : State}
    (e : State.applyPlans s r p plans = some t) : Frame [.regs, .itin, .ctxs, .tiles, .comp, .tier, .free] s t := by
  unfold State.applyPlans at e
  refine OptFrame.foldl (fun _ _ k => OptFrame.foldl (fun _ _ j => OptFrame.bind (fun _ _ h => State.applyPlan_frame h) j) k) (.some .refl) t e

theorem State.appended_frame {s : State} {r : Req} {p : Profile} {plans : List (Nat × List PagePlan)} :
    Frame [.regs, .itin, .reqs, .ctxs, .tiles, .conns, .links, .tier, .health, .dbg, .out] s (State.appended s r p plans) := by
  unfold State.appended
  repeat' (first
    | (lift_lets; intro x; refine Frame.cut x ?_ (fun hx => ?_); rotate_left; clear_value x)
    | (lift_lets; intro x; with_reducible refine Frame.trans Frame.refl ?_)
    | (with_reducible refine Frame.upd ?_ ?_ ?_; fail_if_success with_reducible exact ChangesOnly.refl)
    | with_reducible exact Frame.refl | with_reducible assumption
    | (with_reducible apply Frame.step State.modConv_frame; case k => decide)
    | (with_reducible apply Frame.step State.climb_frame; case k => decide)
    | (with_reducible apply Frame.step State.modReq_frame; case k => decide) | with_reducible refine Frame.ite ?_ ?_
    | with_reducible refine Frame.foldl (fun _ _ => ?_) ?_ | with_reducible refine Frame.foldl_snd (fun _ _ => ?_) ?_
    | with_reducible refine Frame.of_pair (by assumption) ?_ | split | dsimp only)

theorem State.askBack_frame {s : State} {r : Req} {heads : List HeadPlan} :
    Frame [.itin, .ctxs, .conns, .links, .dbg, .out] s (State.askBack s r heads) := by
  unfold State.askBack
  repeat' (first
    | (with_reducible refine Frame.upd ?_ ?_ ?_; fail_if_success with_reducible exact ChangesOnly.refl)
    | with_reducible exact Frame.refl | (with_reducible apply Frame.step State.reopenRemote_frame; case k => decide)
    | with_reducible refine Frame.ite ?_ ?_ | with_reducible refine Frame.foldl (fun _ _ => ?_) ?_
    | with_reducible refine Frame.foldl_snd (fun _ _ => ?_) ?_ | with_reducible refine Frame.of_pair (by assumption) ?_ | split
    | dsimp only)

theorem State.flushAppend_frame {s : State} {r : Req} :
    Frame [.itin, .reqs, .ctxs, .conns, .links, .comp, .dbg, .out] s (State.flushAppend s r) := by
  unfold State.flushAppend
  repeat' (first
    | (lift_lets; intro x; refine Frame.cut x ?_ (fun hx => ?_); rotate_left; clear_value x)
    | (lift_lets; intro x; with_reducible refine Frame.trans Frame.refl ?_)
    | (with_reducible refine Frame.upd ?_ ?_ ?_; fail_if_success with_reducible exact ChangesOnly.refl)
    | with_reducible exact Frame.refl | with_reducible assumption
    | (with_reducible apply Frame.step State.flushStream_frame; case k => decide)
    | (with_reducible apply Frame.step State.modReq_frame; case k => decide) | with_reducible refine Frame.ite ?_ ?_
    | with_reducible refine Frame.foldl (fun _ _ => ?_) ?_ | with_reducible refine Frame.foldl_snd (fun _ _ => ?_) ?_
    | with_reducible refine Frame.of_pair (by assumption) ?_ | split | dsimp only)

theorem State.appendReq_frame {s : State} {r : Req} {p : Profile} {c : Conv} :
    Frame [.regs, .itin, .reqs, .ctxs, .engines, .tiles, .locals, .conns, .links, .comp, .tier, .health, .dbg, .out, .free] s (State.appendReq s r p c) := by
  unfold State.appendReq
  repeat' (first
    | (lift_lets; intro x; refine Frame.cut x ?_ (fun hx => ?_); rotate_left; clear_value x)
    | (lift_lets; intro x; with_reducible refine Frame.trans Frame.refl ?_)
    | (with_reducible refine Frame.upd ?_ ?_ ?_; fail_if_success with_reducible exact ChangesOnly.refl)
    | with_reducible exact Frame.refl | with_reducible assumption
    | (with_reducible apply Frame.step State.corrupt_frame; case k => decide)
    | (with_reducible apply Frame.step State.failReq_frame; case k => decide)
    | (with_reducible apply Frame.step State.askBack_frame; case k => decide)
    | (with_reducible refine Frame.step (State.applyPlans_frame (by assumption)) (by decide) ?_)
    | (with_reducible apply Frame.step State.effect_frame; case k => decide)
    | (with_reducible apply Frame.step State.flushAppend_frame; case k => decide)
    | (with_reducible apply Frame.step State.appended_frame; case k => decide) | with_reducible refine Frame.ite ?_ ?_
    | (simp only [x]; split) | split)

theorem execAppend_frame {t req : Nat} {s : State} :
    Answers [.now, .regs, .itin, .reqs, .ctxs, .engines, .tiles, .locals, .conns, .links, .comp, .tier, .health, .dbg, .out, .free] s (execAppend t req s) := by
  unfold execAppend
  repeat' (first
    | (lift_lets; intro x; refine Answers.cut x ?_ (fun hx => ?_); rotate_left; clear_value x)
    | (lift_lets; intro x; refine Frame.cut x ?_ (fun hx => ?_); rotate_left; clear_value x)
    | (lift_lets; intro x; with_reducible refine Frame.trans Frame.refl ?_) | with_reducible refine Answers.next ?_
    | with_reducible refine Answers.ite ?_ ?_
    | (with_reducible refine Frame.upd ?_ ?_ ?_; fail_if_success with_reducible exact ChangesOnly.refl)
    | with_reducible exact Frame.refl | with_reducible assumption
    | (with_reducible apply Frame.step State.at__frame; case k => decide)
    | (with_reducible apply Frame.step State.appendReq_frame; case k => decide) | split)

theorem execSeal_frame {t req : Nat} {s : State} :
    Answers [.now, .regs, .itin, .reqs, .ctxs, .engines, .tiles, .locals, .conns, .links, .comp, .tier, .health, .dbg, .out] s (execSeal t req s) := by
  unfold execSeal
  repeat' (first
    | (lift_lets; intro x; refine Answers.cut x ?_ (fun hx => ?_); rotate_left; clear_value x)
    | (lift_lets; intro x; refine Frame.cut x ?_ (fun hx => ?_); rotate_left; clear_value x)
    | (lift_lets; intro x; with_reducible refine Frame.trans Frame.refl ?_) | with_reducible refine Answers.next ?_
    | with_reducible refine Answers.ite ?_ ?_
    | (with_reducible refine Frame.upd ?_ ?_ ?_; fail_if_success with_reducible exact ChangesOnly.refl)
    | with_reducible exact Frame.refl | with_reducible assumption
    | (with_reducible apply Frame.step State.at__frame; case k => decide)
    | (with_reducible apply Frame.step State.journal_frame; case k => decide)
    | (with_reducible apply Frame.step State.housekeep_frame; case k => decide)
    | (with_reducible apply Frame.step State.putPage_frame; case k => decide)
    | (with_reducible apply Frame.step State.climb_frame; case k => decide)
    | (with_reducible apply Frame.step State.effect_frame; case k => decide) | with_reducible refine Frame.ite ?_ ?_
    | with_reducible refine Frame.foldl (fun _ _ => ?_) ?_ | with_reducible refine Frame.foldl_snd (fun _ _ => ?_) ?_
    | with_reducible refine Frame.of_pair (by assumption) ?_ | split | dsimp only)

theorem execFork_frame {t req : Nat} {s : State} :
    Answers [.now, .itin, .reqs, .ctxs, .engines, .locals, .conns, .links, .comp, .tier, .health, .dbg, .out] s (execFork t req s) := by
  unfold execFork
  repeat' (first
    | (lift_lets; intro x; refine Answers.cut x ?_ (fun hx => ?_); rotate_left; clear_value x)
    | (lift_lets; intro x; refine Frame.cut x ?_ (fun hx => ?_); rotate_left; clear_value x)
    | (lift_lets; intro x; with_reducible refine Frame.trans Frame.refl ?_) | with_reducible refine Answers.next ?_
    | with_reducible refine Answers.ite ?_ ?_
    | (with_reducible refine Frame.upd ?_ ?_ ?_; fail_if_success with_reducible exact ChangesOnly.refl)
    | with_reducible exact Frame.refl | with_reducible assumption
    | (with_reducible apply Frame.step State.at__frame; case k => decide)
    | (with_reducible apply Frame.step State.failReq_frame; case k => decide)
    | (with_reducible apply Frame.step State.touch_frame; case k => decide)
    | (with_reducible apply Frame.step State.modPage_frame; case k => decide)
    | (with_reducible apply Frame.step State.modConv_frame; case k => decide)
    | (with_reducible apply Frame.step State.journal_frame; case k => decide)
    | (with_reducible apply Frame.step State.effect_frame; case k => decide) | with_reducible refine Frame.ite ?_ ?_
    | with_reducible refine Frame.foldl (fun _ _ => ?_) ?_ | with_reducible refine Frame.foldl_snd (fun _ _ => ?_) ?_ | split
    | dsimp only)

theorem State.cutPage_frame {s : State} {ctx num : Nat} {a : AttnProfile} {pg : Page} {keep : Nat} :
    Frame [.regs, .ctxs, .tiles, .tier] s (State.cutPage s ctx num a pg keep) := by
  unfold State.cutPage
  repeat' (first
    | (lift_lets; intro x; refine Frame.cut x ?_ (fun hx => ?_); rotate_left; clear_value x)
    | (lift_lets; intro x; with_reducible refine Frame.trans Frame.refl ?_)
    | (with_reducible refine Frame.upd ?_ ?_ ?_; fail_if_success with_reducible exact ChangesOnly.refl)
    | with_reducible exact Frame.refl | with_reducible assumption
    | (with_reducible apply Frame.step State.putPage_frame; case k => decide)
    | (with_reducible apply Frame.step State.addParcel_frame; case k => decide) | with_reducible refine Frame.ite ?_ ?_ | split)

theorem State.trimEntry_frame {s : State} {r : Req} {p : Profile} {len : Nat} {e : Nat × PageEntry} {t : State}
    (k : State.trimEntry s r p len e = some t) :
    Frame [.regs, .itin, .reqs, .ctxs, .tiles, .conns, .links, .comp, .tier, .health, .dbg, .out, .free] s t := by
  have gone {u : State} {f : Conv → Conv} (h : Frame [.regs, .itin, .reqs, .ctxs, .tiles, .conns, .links, .comp, .tier, .health, .dbg, .out, .free] s u) : Frame [.regs, .itin, .reqs, .ctxs, .tiles, .conns, .links, .comp, .tier, .health, .dbg, .out, .free] s (u.modConv r.ctx r.desc.conv f) :=
    Frame.step State.modConv_frame (by decide) h
  unfold State.trimEntry at k
  dsimp only at k
  split at k
  · split at k
    · injection k with k
      exact k ▸ gone (Frame.mono State.dropRemote_frame (by decide))
    · injection k with k
      subst k
      have h : Frame [.regs, .itin, .reqs, .ctxs, .tiles, .conns, .links, .comp, .tier, .health, .dbg, .out, .free] s (s.reopenRemote r.ctx r.desc.conv (clsNum r.cls) e len).2 :=
        Frame.mono State.reopenRemote_frame (by decide)
      split
      · exact Frame.step State.modReq_frame (by decide) h
      · exact h
  · split at k
    · exact Option.some.inj k ▸ .refl
    · split at k
      · injection k with k
        exact k ▸ gone (Frame.mono State.dropRef_frame (by decide))
      · split at k
        · exact Option.some.inj k ▸ Frame.mono State.cutPage_frame (by decide)
        · split at k
          · exact Option.some.inj k ▸ .refl
          · obtain ⟨y, h, rfl⟩ := Option.map_eq_some_iff.mp k
            have new {u : State} (j : Frame [.regs, .itin, .reqs, .ctxs, .tiles, .conns, .links, .comp, .tier, .health, .dbg, .out, .free] s u) {q c n} (h : u.newPage r.ctx p c n q = some y) : Frame [.regs, .itin, .reqs, .ctxs, .tiles, .conns, .links, .comp, .tier, .health, .dbg, .out, .free] s y.2 :=
              Frame.step (State.newPage_frame h) (by decide) j
            have read : Frame [.regs, .itin, .reqs, .ctxs, .tiles, .conns, .links, .comp, .tier, .health, .dbg, .out, .free] s y.2 := by
              refine new ?_ h
              split
              · exact Frame.mono State.readParcel_frame (by decide)
              · exact .refl
            refine Frame.step State.journalPebbles_frame (by decide) ?_
            have ref {hk i e n} : Frame [.regs, .itin, .reqs, .ctxs, .tiles, .conns, .links, .comp, .tier, .health, .dbg, .out, .free] s ((y.2.setEntry r.ctx r.desc.conv hk i e).dropRef r.ctx n) :=
              Frame.step State.dropRef_frame (by decide) (Frame.step State.setEntry_frame (by decide) read)
            split
            · exact Frame.step State.corrupt_frame (by decide) ref
            · exact ref

theorem execTrim_frame {t req : Nat} {s : State} :
    Answers [.now, .regs, .itin, .reqs, .ctxs, .engines, .tiles, .locals, .conns, .links, .comp, .tier, .health, .dbg, .out, .free] s (execTrim t req s) := by
  have a : Frame [.now, .regs, .itin, .reqs, .ctxs, .engines, .tiles, .locals, .conns, .links, .comp, .tier, .health, .dbg, .out, .free] s (s.at_ t) := Frame.mono State.at__frame (by decide)
  unfold execTrim
  dsimp only
  split
  · exact .next a
  · refine .ite (.next a) ?_
    split
    · exact .next (Frame.foldl (fun _ _ => Frame.mono State.abandonAssays_frame (by decide)) a)
    · rename_i e
      have b {ctx} {l : List Nat} : Frame [.now, .regs, .itin, .reqs, .ctxs, .engines, .tiles, .locals, .conns, .links, .comp, .tier, .health, .dbg, .out, .free] s (l.foldl (fun s n => s.abandonAssays ctx n) (s.at_ t)) :=
        Frame.foldl (fun _ _ => Frame.mono State.abandonAssays_frame (by decide)) a
      refine .next (Frame.step State.effect_frame (by decide) (Frame.step State.modConv_frame (by decide) ?_))
      refine OptFrame.foldl (fun _ _ k => OptFrame.bind (fun _ _ h => Frame.mono (State.trimEntry_frame h) (by decide)) k) (.some ?_) _ e
      exact Frame.foldl (fun _ _ => Frame.foldl (fun _ _ => Frame.mono State.journal_frame (by decide)) .refl) b

theorem execRelease_frame {t req : Nat} {s : State} :
    Answers [.now, .regs, .itin, .reqs, .ctxs, .engines, .tiles, .locals, .conns, .links, .comp, .tier, .health, .dbg, .out] s (execRelease t req s) := by
  unfold execRelease
  repeat' (first
    | (lift_lets; intro x; refine Answers.cut x ?_ (fun hx => ?_); rotate_left; clear_value x)
    | (lift_lets; intro x; refine Frame.cut x ?_ (fun hx => ?_); rotate_left; clear_value x)
    | (lift_lets; intro x; with_reducible refine Frame.trans Frame.refl ?_) | with_reducible refine Answers.next ?_
    | with_reducible refine Answers.ite ?_ ?_
    | (with_reducible refine Frame.upd ?_ ?_ ?_; fail_if_success with_reducible exact ChangesOnly.refl)
    | with_reducible exact Frame.refl | with_reducible assumption
    | (with_reducible apply Frame.step State.at__frame; case k => decide)
    | (with_reducible apply Frame.step State.dropRef_frame; case k => decide)
    | (with_reducible apply Frame.step State.journalDrop_frame; case k => decide)
    | (with_reducible apply Frame.step State.dropRemote_frame; case k => decide)
    | (with_reducible refine Frame.step (State.modCtx_frame ?_) (by decide) ?_)
    | (with_reducible apply Frame.step State.settleAll_frame; case k => decide)
    | (with_reducible apply Frame.step State.effect_frame; case k => decide) | with_reducible refine Frame.ite ?_ ?_
    | with_reducible refine Frame.foldl (fun _ _ => ?_) ?_ | with_reducible refine Frame.foldl_snd (fun _ _ => ?_) ?_
    | exact KeepsCtx.mk (fun _ h => h) (fun _ h => h) | split | dsimp only)

theorem State.parkPages_frame {s : State} {r : Req} {p : Profile} {c : Conv} :
    Frame [.regs, .itin, .ctxs, .tiles, .conns, .links, .tier, .health, .dbg, .out] s (State.parkPages s r p c).2 := by
  unfold State.parkPages
  repeat' (first
    | (lift_lets; intro x; refine Frame.cut x ?_ (fun hx => ?_); rotate_left; clear_value x)
    | (lift_lets; intro x; with_reducible refine Frame.trans Frame.refl ?_)
    | (with_reducible refine Frame.upd ?_ ?_ ?_; fail_if_success with_reducible exact ChangesOnly.refl)
    | with_reducible exact Frame.refl | with_reducible assumption
    | (with_reducible apply Frame.step State.startDemotion_frame; case k => decide)
    | (with_reducible apply Frame.step State.demoteRemote_frame; case k => decide) | with_reducible refine Frame.ite ?_ ?_
    | with_reducible refine Frame.foldl (fun _ _ => ?_) ?_ | with_reducible refine Frame.foldl_snd (fun _ _ => ?_) ?_
    | with_reducible refine Frame.of_pair (by assumption) ?_ | split | dsimp only)

theorem State.parkRecord_frame {s : State} {r : Req} {p : Profile} :
    Frame [.nv] s (State.parkRecord s r p) := by
  unfold State.parkRecord
  repeat' (first
    | (lift_lets; intro x; refine Frame.cut x ?_ (fun hx => ?_); rotate_left; clear_value x)
    | (lift_lets; intro x; with_reducible refine Frame.trans Frame.refl ?_)
    | (with_reducible refine Frame.upd ?_ ?_ ?_; fail_if_success with_reducible exact ChangesOnly.refl)
    | with_reducible exact Frame.refl | with_reducible assumption | with_reducible refine Frame.ite ?_ ?_
    | with_reducible refine Frame.foldl (fun _ _ => ?_) ?_ | with_reducible refine Frame.foldl_snd (fun _ _ => ?_) ?_
    | (intro p hp; cases p <;> first | exact absurd hp (by decide) | rfl) | (intro h; exact h.of_eq rfl rfl rfl rfl)
    | (simp only [x]; split) | split | dsimp only)

theorem execHint_frame {t req : Nat} {s : State} :
    Answers [.now, .regs, .itin, .reqs, .ctxs, .engines, .tiles, .locals, .conns, .links, .tier, .health, .dbg, .nv, .out] s (execHint t req s) := by
  unfold execHint
  repeat' (first
    | (lift_lets; intro x; refine Answers.cut x ?_ (fun hx => ?_); rotate_left; clear_value x)
    | (lift_lets; intro x; refine Frame.cut x ?_ (fun hx => ?_); rotate_left; clear_value x)
    | (lift_lets; intro x; with_reducible refine Frame.trans Frame.refl ?_) | with_reducible refine Answers.next ?_
    | with_reducible refine Answers.ite ?_ ?_
    | (with_reducible refine Frame.upd ?_ ?_ ?_; fail_if_success with_reducible exact ChangesOnly.refl)
    | with_reducible exact Frame.refl | with_reducible assumption
    | (with_reducible apply Frame.step State.at__frame; case k => decide)
    | (with_reducible apply Frame.step State.effect_frame; case k => decide)
    | (with_reducible apply Frame.step State.parkPages_frame; case k => decide)
    | (with_reducible apply Frame.step State.parkRecord_frame; case k => decide)
    | (with_reducible apply Frame.step State.failReq_frame; case k => decide)
    | with_reducible refine Frame.of_pair (by assumption) ?_ | split | dsimp only)

end Sys2Proof.Machine
end

