-- ==== Sys2Proof/Laws/CopyFrames.lean ====
section
/-! SUPPORT. What each operation of Machine/Copy.lean may change, and that it keeps the invariant of Safety.lean. -/
namespace Sys2Proof.Machine

theorem State.exportOne_frame {s : State} {ctx : Nat} {p : Profile} {e : PageEntry} :
    Frame [.tier, .free] s (State.exportOne s ctx p e).2 := by
  unfold State.exportOne
  repeat' (first
    | (lift_lets; intro x; refine Frame.cut x ?_ (fun hx => ?_); rotate_left; clear_value x)
    | (lift_lets; intro x; with_reducible refine Frame.trans Frame.refl ?_)
    | (with_reducible refine Frame.upd ?_ ?_ ?_; fail_if_success with_reducible exact ChangesOnly.refl)
    | with_reducible exact Frame.refl | with_reducible assumption
    | (with_reducible apply Frame.step State.readParcel_frame; case k => decide) | with_reducible refine Frame.ite ?_ ?_
    | (intro p hp; cases p <;> first | exact absurd hp (by decide) | rfl) | (intro h; exact h.of_eq rfl rfl rfl rfl) | split)

theorem State.exportFrom_frame {s : State} {r : Req} {p : Profile} {addr y4 : Nat} {y5 : List (Nat × PageEntry)} :
    Frame [.regs, .itin, .reqs, .ctxs, .engines, .locals, .conns, .links, .tier, .health, .dbg, .out, .free] s (State.exportFrom s r p addr y4 y5) := by
  induction y5 generalizing s r p addr y4 with
  | nil => exact Frame.mono State.effect_frame (by decide)
  | cons x xs ih =>
  unfold State.exportFrom
  repeat' (first
    | (with_reducible apply Frame.step ih; case k => decide)
    | (lift_lets; intro x; refine Frame.cut x ?_ (fun hx => ?_); rotate_left; clear_value x)
    | (lift_lets; intro x; with_reducible refine Frame.trans Frame.refl ?_)
    | (with_reducible refine Frame.upd ?_ ?_ ?_; fail_if_success with_reducible exact ChangesOnly.refl)
    | with_reducible exact Frame.refl | with_reducible assumption
    | (with_reducible apply Frame.step State.effect_frame; case k => decide)
    | (with_reducible apply Frame.step State.exportOne_frame; case k => decide)
    | (with_reducible apply Frame.step State.failReq_frame; case k => decide)
    | (with_reducible apply Frame.step State.corrupt_frame; case k => decide)
    | (with_reducible apply Frame.step State.writeResult_frame; case k => decide)
    | with_reducible refine Frame.of_pair (by assumption) ?_ | split | dsimp only)

theorem execExportPages_frame {t req : Nat} {s : State} :
    Answers [.now, .regs, .itin, .reqs, .ctxs, .engines, .locals, .conns, .links, .tier, .health, .dbg, .out, .free] s (execExportPages t req s) := by
  unfold execExportPages
  repeat' (first
    | (lift_lets; intro x; refine Answers.cut x ?_ (fun hx => ?_); rotate_left; clear_value x)
    | (lift_lets; intro x; refine Frame.cut x ?_ (fun hx => ?_); rotate_left; clear_value x)
    | (lift_lets; intro x; with_reducible refine Frame.trans Frame.refl ?_) | with_reducible refine Answers.next ?_
    | with_reducible refine Answers.ite ?_ ?_
    | (with_reducible refine Frame.upd ?_ ?_ ?_; fail_if_success with_reducible exact ChangesOnly.refl)
    | with_reducible exact Frame.refl | with_reducible assumption
    | (with_reducible apply Frame.step State.at__frame; case k => decide)
    | (with_reducible apply Frame.step State.exportFrom_frame; case k => decide) | split)

theorem State.dropPages_frame {s : State} {ctx conv : Nat} :
    Frame [.regs, .ctxs, .tiles, .comp, .tier] s (State.dropPages s ctx conv) := by
  unfold State.dropPages
  repeat' (first
    | (with_reducible refine Frame.upd ?_ ?_ ?_; fail_if_success with_reducible exact ChangesOnly.refl)
    | with_reducible exact Frame.refl | (with_reducible apply Frame.step State.modConv_frame; case k => decide)
    | (with_reducible apply Frame.step State.dropRef_frame; case k => decide)
    | (with_reducible apply Frame.step State.journalDrop_frame; case k => decide) | with_reducible refine Frame.ite ?_ ?_
    | with_reducible refine Frame.foldl (fun _ _ => ?_) ?_ | with_reducible refine Frame.foldl_snd (fun _ _ => ?_) ?_ | split
    | dsimp only)

theorem State.importOne_frame {s : State} {r : Req} {p : Profile} {c : Conv} {b : Bytes} {k : Nat} {t : State}
    (e : State.importOne s r p c b k = some t) :
    Frame [.regs, .ctxs, .tiles, .comp, .tier, .free] s t := by
  obtain ⟨y, h, rfl⟩ := Option.map_eq_some_iff.mp e
  exact Frame.step State.journal_frame (by decide) (Frame.step State.setEntry_frame (by decide) ((State.newPage_frame h).mono (by decide)))

theorem State.importFrom_frame {s : State} {r : Req} {p : Profile} {c : Conv} {y4 : Nat} {y5 : List Bytes} :
    Frame [.regs, .ctxs, .tiles, .comp, .tier, .free] s (State.importFrom s r p c y4 y5).2.2 := by
  induction y5 generalizing s r p c y4 with
  | nil => exact .refl
  | cons x xs ih =>
  unfold State.importFrom
  repeat' (first
    | (with_reducible apply Frame.step ih; case k => decide)
    | (with_reducible refine Frame.upd ?_ ?_ ?_; fail_if_success with_reducible exact ChangesOnly.refl)
    | with_reducible exact Frame.refl | (with_reducible refine Frame.step (State.importOne_frame (by assumption)) (by decide) ?_)
    | with_reducible refine Frame.ite ?_ ?_ | split)

theorem State.partialWord_frame {s : State} {id progress : Nat} :
    Frame [.itin, .reqs, .ctxs, .conns, .links, .dbg, .out] s (State.partialWord s id progress) := by
  unfold State.partialWord
  repeat' (first
    | (lift_lets; intro x; refine Frame.cut x ?_ (fun hx => ?_); rotate_left; clear_value x)
    | (lift_lets; intro x; with_reducible refine Frame.trans Frame.refl ?_)
    | (with_reducible refine Frame.upd ?_ ?_ ?_; fail_if_success with_reducible exact ChangesOnly.refl)
    | with_reducible exact Frame.refl | with_reducible assumption
    | (with_reducible apply Frame.step State.modReq_frame; case k => decide)
    | (with_reducible apply Frame.step State.status_frame; case k => decide) | with_reducible refine Frame.ite ?_ ?_ | split)

theorem State.owedProgress_frame {s : State} :
    Frame [.itin, .reqs, .ctxs, .conns, .links, .dbg, .out] s (State.owedProgress s) := by
  unfold State.owedProgress
  repeat' (first
    | (with_reducible refine Frame.upd ?_ ?_ ?_; fail_if_success with_reducible exact ChangesOnly.refl)
    | with_reducible exact Frame.refl | (with_reducible apply Frame.step State.partialWord_frame; case k => decide)
    | with_reducible refine Frame.ite ?_ ?_ | with_reducible refine Frame.foldl (fun _ _ => ?_) ?_
    | with_reducible refine Frame.foldl_snd (fun _ _ => ?_) ?_ | split | dsimp only)

theorem execImportPages_frame {t req : Nat} {parcels : List Bytes} {s : State} :
    Answers [.now, .regs, .itin, .reqs, .ctxs, .engines, .tiles, .locals, .conns, .links, .comp, .tier, .health, .dbg, .out, .free] s (execImportPages t req parcels s) := by
  unfold execImportPages
  repeat' (first
    | (lift_lets; intro x; refine Answers.cut x ?_ (fun hx => ?_); rotate_left; clear_value x)
    | (lift_lets; intro x; refine Frame.cut x ?_ (fun hx => ?_); rotate_left; clear_value x)
    | (lift_lets; intro x; with_reducible refine Frame.trans Frame.refl ?_) | with_reducible refine Answers.next ?_
    | with_reducible refine Answers.ite ?_ ?_
    | (with_reducible refine Frame.upd ?_ ?_ ?_; fail_if_success with_reducible exact ChangesOnly.refl)
    | with_reducible exact Frame.refl | with_reducible assumption
    | (with_reducible apply Frame.step State.at__frame; case k => decide)
    | (with_reducible apply Frame.step State.failReq_frame; case k => decide)
    | (with_reducible apply Frame.step State.importFrom_frame; case k => decide)
    | (with_reducible apply Frame.step State.dropPages_frame; case k => decide)
    | (with_reducible apply Frame.step State.partialWord_frame; case k => decide)
    | (with_reducible apply Frame.step State.modConv_frame; case k => decide)
    | (with_reducible apply Frame.step State.journal_frame; case k => decide)
    | (with_reducible apply Frame.step State.effect_frame; case k => decide) | with_reducible refine Frame.ite ?_ ?_
    | with_reducible refine Frame.foldl (fun _ _ => ?_) ?_ | with_reducible refine Frame.foldl_snd (fun _ _ => ?_) ?_
    | with_reducible refine Frame.of_pair (by assumption) ?_ | split | dsimp only)

theorem execProbe_frame {t req : Nat} {s : State} :
    Answers [.now, .itin, .reqs, .ctxs, .engines, .locals, .conns, .links, .health, .dbg, .out] s (execProbe t req s) := by
  unfold execProbe
  repeat' (first
    | (lift_lets; intro x; refine Answers.cut x ?_ (fun hx => ?_); rotate_left; clear_value x)
    | (lift_lets; intro x; refine Frame.cut x ?_ (fun hx => ?_); rotate_left; clear_value x)
    | (lift_lets; intro x; with_reducible refine Frame.trans Frame.refl ?_) | with_reducible refine Answers.next ?_
    | with_reducible refine Answers.ite ?_ ?_
    | (with_reducible refine Frame.upd ?_ ?_ ?_; fail_if_success with_reducible exact ChangesOnly.refl)
    | with_reducible exact Frame.refl | with_reducible assumption
    | (with_reducible apply Frame.step State.at__frame; case k => decide)
    | (with_reducible apply Frame.step State.effect_frame; case k => decide)
    | (with_reducible apply Frame.step State.writeResult_frame; case k => decide) | split)

theorem State.fenceDone_frame {s : State} {id : Nat} :
    Frame [.itin, .reqs, .ctxs, .engines, .locals, .conns, .links, .health, .dbg, .out] s (State.fenceDone s id) := by
  unfold State.fenceDone
  repeat' (first
    | (with_reducible refine Frame.upd ?_ ?_ ?_; fail_if_success with_reducible exact ChangesOnly.refl)
    | with_reducible exact Frame.refl | (with_reducible apply Frame.step State.finish_frame; case k => decide)
    | with_reducible refine Frame.ite ?_ ?_ | split)

theorem execFence_frame {t req : Nat} {s : State} :
    Answers [.now, .itin, .reqs, .ctxs, .engines, .locals, .conns, .links, .health, .dbg, .out] s (execFence t req s) := by
  unfold execFence
  repeat' (first
    | (lift_lets; intro x; refine Answers.cut x ?_ (fun hx => ?_); rotate_left; clear_value x)
    | (lift_lets; intro x; refine Frame.cut x ?_ (fun hx => ?_); rotate_left; clear_value x)
    | (lift_lets; intro x; with_reducible refine Frame.trans Frame.refl ?_) | with_reducible refine Answers.next ?_
    | with_reducible refine Answers.ite ?_ ?_
    | (with_reducible refine Frame.upd ?_ ?_ ?_; fail_if_success with_reducible exact ChangesOnly.refl)
    | with_reducible exact Frame.refl | with_reducible assumption
    | (with_reducible apply Frame.step State.at__frame; case k => decide)
    | (with_reducible apply Frame.step State.fenceDone_frame; case k => decide)
    | (with_reducible apply Frame.step State.modReq_frame; case k => decide) | with_reducible refine Frame.ite ?_ ?_ | split)

theorem execFenceComplete_frame {t req : Nat} {s : State} :
    Answers [.now, .itin, .reqs, .ctxs, .engines, .locals, .conns, .links, .health, .dbg, .out] s (execFenceComplete t req s) := by
  unfold execFenceComplete
  repeat' (first
    | with_reducible refine Answers.next ?_ | with_reducible refine Answers.ite ?_ ?_
    | (with_reducible refine Frame.upd ?_ ?_ ?_; fail_if_success with_reducible exact ChangesOnly.refl)
    | with_reducible exact Frame.refl | (with_reducible apply Frame.step State.fenceDone_frame; case k => decide)
    | (with_reducible apply Frame.step State.at__frame; case k => decide))

theorem State.fenceSettle_frame {s : State} {id : Nat} :
    Frame [.itin, .reqs, .ctxs, .engines, .locals, .conns, .links, .health, .dbg, .out] s (State.fenceSettle s id) := by
  unfold State.fenceSettle
  repeat' (first
    | (with_reducible refine Frame.upd ?_ ?_ ?_; fail_if_success with_reducible exact ChangesOnly.refl)
    | with_reducible exact Frame.refl | (with_reducible apply Frame.step State.finish_frame; case k => decide)
    | with_reducible refine Frame.ite ?_ ?_ | split)

theorem State.cancelled_frame {s : State} {id fence code progress : Nat} :
    Frame [.itin, .reqs, .ctxs, .engines, .locals, .conns, .links, .health, .dbg, .out] s (State.cancelled s id fence code progress) := by
  unfold State.cancelled
  repeat' (first
    | (with_reducible refine Frame.upd ?_ ?_ ?_; fail_if_success with_reducible exact ChangesOnly.refl)
    | with_reducible exact Frame.refl | (with_reducible apply Frame.step State.modReq_frame; case k => decide)
    | (with_reducible apply Frame.step State.finish_frame; case k => decide))

theorem State.stopChunk_frame {s : State} {id fence : Nat} :
    Frame [.itin, .reqs, .ctxs, .engines, .locals, .conns, .links, .health, .dbg, .out] s (State.stopChunk s id fence) := by
  unfold State.stopChunk
  repeat' (first
    | (with_reducible refine Frame.upd ?_ ?_ ?_; fail_if_success with_reducible exact ChangesOnly.refl)
    | with_reducible exact Frame.refl | (with_reducible apply Frame.step State.cancelled_frame; case k => decide)
    | with_reducible refine Frame.ite ?_ ?_ | split)

theorem State.stopIfDone_frame {s : State} {id : Nat} :
    Frame [.itin, .reqs, .ctxs, .engines, .locals, .conns, .links, .health, .dbg, .out] s (State.stopIfDone s id) := by
  unfold State.stopIfDone
  repeat' (first
    | (with_reducible refine Frame.upd ?_ ?_ ?_; fail_if_success with_reducible exact ChangesOnly.refl)
    | with_reducible exact Frame.refl | (with_reducible apply Frame.step State.fenceSettle_frame; case k => decide)
    | (with_reducible apply Frame.step State.stopChunk_frame; case k => decide) | split)

theorem State.cancelOne_frame {s : State} {fence : Nat} {q : Req} :
    Frame [.regs, .itin, .reqs, .ctxs, .engines, .tiles, .locals, .conns, .links, .comp, .tier, .health, .dbg, .out] s (State.cancelOne s fence q) := by
  unfold State.cancelOne
  repeat' (first
    | (lift_lets; intro x; refine Frame.cut x ?_ (fun hx => ?_); rotate_left; clear_value x)
    | (lift_lets; intro x; with_reducible refine Frame.trans Frame.refl ?_)
    | (with_reducible refine Frame.upd ?_ ?_ ?_; fail_if_success with_reducible exact ChangesOnly.refl)
    | with_reducible exact Frame.refl | with_reducible assumption
    | (with_reducible apply Frame.step State.cancelled_frame; case k => decide)
    | (with_reducible apply Frame.step State.dropTasks_frame; case k => decide)
    | (with_reducible apply Frame.step State.stopChunk_frame; case k => decide)
    | (with_reducible apply Frame.step State.modReq_frame; case k => decide)
    | (with_reducible apply Frame.step State.dropPages_frame; case k => decide)
    | (with_reducible apply Frame.step State.uncreate_frame; case k => decide) | with_reducible refine Frame.ite ?_ ?_ | split)

theorem State.fenceCancel_frame {s : State} {r : Req} :
    Frame [.regs, .itin, .reqs, .ctxs, .engines, .tiles, .locals, .conns, .links, .comp, .tier, .health, .dbg, .out] s (State.fenceCancel s r) := by
  unfold State.fenceCancel
  repeat' (first
    | (lift_lets; intro x; refine Frame.cut x ?_ (fun hx => ?_); rotate_left; clear_value x)
    | (lift_lets; intro x; with_reducible refine Frame.trans Frame.refl ?_)
    | (with_reducible refine Frame.upd ?_ ?_ ?_; fail_if_success with_reducible exact ChangesOnly.refl)
    | with_reducible exact Frame.refl | with_reducible assumption
    | (with_reducible apply Frame.step State.modReq_frame; case k => decide)
    | (with_reducible apply Frame.step State.fenceSettle_frame; case k => decide)
    | (with_reducible apply Frame.step State.cancelOne_frame; case k => decide)
    | with_reducible refine Frame.foldl (fun _ _ => ?_) ?_ | with_reducible refine Frame.foldl_snd (fun _ _ => ?_) ?_ | split
    | dsimp only)

theorem execFenceCancel_frame {t req : Nat} {s : State} :
    Answers [.now, .regs, .itin, .reqs, .ctxs, .engines, .tiles, .locals, .conns, .links, .comp, .tier, .health, .dbg, .out] s (execFenceCancel t req s) := by
  unfold execFenceCancel
  repeat' (first
    | (lift_lets; intro x; refine Answers.cut x ?_ (fun hx => ?_); rotate_left; clear_value x)
    | (lift_lets; intro x; refine Frame.cut x ?_ (fun hx => ?_); rotate_left; clear_value x)
    | (lift_lets; intro x; with_reducible refine Frame.trans Frame.refl ?_) | with_reducible refine Answers.next ?_
    | with_reducible refine Answers.ite ?_ ?_
    | (with_reducible refine Frame.upd ?_ ?_ ?_; fail_if_success with_reducible exact ChangesOnly.refl)
    | with_reducible exact Frame.refl | with_reducible assumption
    | (with_reducible apply Frame.step State.at__frame; case k => decide)
    | (with_reducible apply Frame.step State.fenceCancel_frame; case k => decide) | with_reducible refine Frame.ite ?_ ?_ | split)

end Sys2Proof.Machine
end

