-- ==== Sys2Proof/Laws/ShareFrames.lean ====
section
/-! SUPPORT. What each operation of Machine/Share.lean may change, and that it keeps the invariant of Safety.lean. -/
namespace Sys2Proof.Machine

theorem State.openShares_frame {s : State} {r : Req} {p : Profile} {b : Nat} :
    Frame [.reqs] s (State.openShares s r p b) := by
  unfold State.openShares
  repeat' (first
    | (with_reducible refine Frame.upd ?_ ?_ ?_; fail_if_success with_reducible exact ChangesOnly.refl)
    | with_reducible exact Frame.refl | (with_reducible apply Frame.step State.modReq_frame; case k => decide)
    | with_reducible refine Frame.ite ?_ ?_ | with_reducible refine Frame.foldl (fun _ _ => ?_) ?_
    | with_reducible refine Frame.foldl_snd (fun _ _ => ?_) ?_ | split | dsimp only)

theorem State.fillShare_frame {s : State} {id block pos : Nat} {rows : List Partial} {cairn digest : Bytes} {backup : Bool} :
    Frame [.reqs] s (State.fillShare s id block pos rows cairn digest backup) := by
  unfold State.fillShare
  repeat' (first
    | (lift_lets; intro x; refine Frame.cut x ?_ (fun hx => ?_); rotate_left; clear_value x)
    | (lift_lets; intro x; with_reducible refine Frame.trans Frame.refl ?_)
    | (with_reducible refine Frame.upd ?_ ?_ ?_; fail_if_success with_reducible exact ChangesOnly.refl)
    | with_reducible exact Frame.refl | with_reducible assumption
    | (with_reducible apply Frame.step State.modReq_frame; case k => decide))

theorem State.homeShares_frame {s : State} {r : Req} {p : Profile} {c : Conv} {b : Nat} {rows : List QRow} :
    Frame [.regs, .itin, .reqs, .ctxs, .engines, .locals, .conns, .links, .tier, .health, .dbg, .out, .free] s (State.homeShares s r p c b rows).2 := by
  unfold State.homeShares
  repeat' (first
    | (lift_lets; intro x; refine Frame.cut x ?_ (fun hx => ?_); rotate_left; clear_value x)
    | (lift_lets; intro x; with_reducible refine Frame.trans Frame.refl ?_)
    | (with_reducible refine Frame.upd ?_ ?_ ?_; fail_if_success with_reducible exact ChangesOnly.refl)
    | with_reducible exact Frame.refl | with_reducible assumption
    | (with_reducible apply Frame.step State.corrupt_frame; case k => decide)
    | (with_reducible apply Frame.step State.failReq_frame; case k => decide)
    | (with_reducible apply Frame.step State.fillShare_frame; case k => decide) | with_reducible refine Frame.ite ?_ ?_
    | with_reducible refine Frame.foldl (fun _ _ => ?_) ?_ | with_reducible refine Frame.foldl_snd (fun _ _ => ?_) ?_
    | (simp only [x]; split) | split | dsimp only)

theorem State.trail_frame {s : State} {r : Req} :
    Frame [.free] s (State.trail s r).2 := by
  unfold State.trail
  repeat' (first
    | (with_reducible refine Frame.upd ?_ ?_ ?_; fail_if_success with_reducible exact ChangesOnly.refl)
    | with_reducible exact Frame.refl | (intro p hp; cases p <;> first | exact absurd hp (by decide) | rfl)
    | (intro h; exact h.of_eq rfl rfl rfl rfl) | split)

theorem State.stampAssays_frame {s : State} {r : Req} {p : Profile} {c : Conv} :
    Frame [.health] s (State.stampAssays s r p c) := by
  unfold State.stampAssays
  repeat' (first
    | (lift_lets; intro x; refine Frame.cut x ?_ (fun hx => ?_); rotate_left; clear_value x)
    | (lift_lets; intro x; with_reducible refine Frame.trans Frame.refl ?_)
    | (with_reducible refine Frame.upd ?_ ?_ ?_; fail_if_success with_reducible exact ChangesOnly.refl)
    | with_reducible exact Frame.refl | with_reducible assumption | with_reducible refine Frame.ite ?_ ?_
    | (intro p hp; cases p <;> first | exact absurd hp (by decide) | rfl) | (intro h; exact h.of_eq rfl rfl rfl rfl) | split)

theorem State.writeCairn_frame {s : State} {r : Req} {p : Profile} {c : Conv} :
    Frame [.itin, .ctxs, .conns, .links, .dbg, .out, .free] s (State.writeCairn s r p c) := by
  unfold State.writeCairn
  repeat' (first
    | (lift_lets; intro x; refine Frame.cut x ?_ (fun hx => ?_); rotate_left; clear_value x)
    | (lift_lets; intro x; with_reducible refine Frame.trans Frame.refl ?_)
    | (with_reducible refine Frame.upd ?_ ?_ ?_; fail_if_success with_reducible exact ChangesOnly.refl)
    | with_reducible exact Frame.refl | with_reducible assumption
    | (with_reducible apply Frame.step State.trail_frame; case k => decide)
    | (with_reducible apply Frame.step State.writeResult_frame; case k => decide) | with_reducible refine Frame.ite ?_ ?_
    | with_reducible refine Frame.of_pair (by assumption) ?_ | split | dsimp only)

theorem State.completeAttend_frame {s : State} {id : Nat} :
    Frame [.itin, .reqs, .ctxs, .engines, .locals, .conns, .links, .health, .dbg, .out, .free] s (State.completeAttend s id) := by
  unfold State.completeAttend
  repeat' (first
    | (lift_lets; intro x; refine Frame.cut x ?_ (fun hx => ?_); rotate_left; clear_value x)
    | (lift_lets; intro x; with_reducible refine Frame.trans Frame.refl ?_)
    | (with_reducible refine Frame.upd ?_ ?_ ?_; fail_if_success with_reducible exact ChangesOnly.refl)
    | with_reducible exact Frame.refl | with_reducible assumption
    | (with_reducible apply Frame.step State.stampAssays_frame; case k => decide)
    | (with_reducible apply Frame.step State.writeCairn_frame; case k => decide)
    | (with_reducible refine Frame.step (State.modCtx_frame ?_) (by decide) ?_)
    | (with_reducible apply Frame.step State.settleAll_frame; case k => decide)
    | (with_reducible apply Frame.step State.finish_frame; case k => decide) | with_reducible refine Frame.ite ?_ ?_
    | exact KeepsCtx.mk (fun _ h => h) (fun _ h => h) | (simp only [x]; split) | split)

theorem State.publishRecords_frame {s : State} {id y2 : Nat} :
    Frame [.itin, .reqs, .ctxs, .conns, .links, .dbg, .out] s (State.publishRecords s id y2) := by
  induction y2 generalizing s id with
  | zero => exact .refl
  | succ n ih =>
  unfold State.publishRecords
  repeat' (first
    | (with_reducible apply Frame.step ih; case k => decide)
    | (lift_lets; intro x; refine Frame.cut x ?_ (fun hx => ?_); rotate_left; clear_value x)
    | (lift_lets; intro x; with_reducible refine Frame.trans Frame.refl ?_)
    | (with_reducible refine Frame.upd ?_ ?_ ?_; fail_if_success with_reducible exact ChangesOnly.refl)
    | with_reducible exact Frame.refl | with_reducible assumption
    | (with_reducible apply Frame.step State.writeResult_frame; case k => decide)
    | (with_reducible apply Frame.step State.modReq_frame; case k => decide) | with_reducible refine Frame.ite ?_ ?_ | split)

theorem State.publish_frame {s : State} {id n : Nat} :
    Frame [.itin, .reqs, .ctxs, .conns, .links, .dbg, .out] s (State.publish s id n) := by
  unfold State.publish
  repeat' (first
    | (lift_lets; intro x; refine Frame.cut x ?_ (fun hx => ?_); rotate_left; clear_value x)
    | (lift_lets; intro x; with_reducible refine Frame.trans Frame.refl ?_)
    | (with_reducible refine Frame.upd ?_ ?_ ?_; fail_if_success with_reducible exact ChangesOnly.refl)
    | with_reducible exact Frame.refl | with_reducible assumption
    | (with_reducible apply Frame.step State.publishRecords_frame; case k => decide)
    | (with_reducible apply Frame.step State.partialWord_frame; case k => decide) | with_reducible refine Frame.ite ?_ ?_ | split)

theorem State.finishBlock_frame {s : State} {id b : Nat} {rows : List QRow} :
    Frame [.itin, .reqs, .ctxs, .engines, .locals, .conns, .links, .health, .dbg, .out, .free] s (State.finishBlock s id b rows) := by
  unfold State.finishBlock
  repeat' (first
    | (lift_lets; intro x; refine Frame.cut x ?_ (fun hx => ?_); rotate_left; clear_value x)
    | (lift_lets; intro x; with_reducible refine Frame.trans Frame.refl ?_)
    | (with_reducible refine Frame.upd ?_ ?_ ?_; fail_if_success with_reducible exact ChangesOnly.refl)
    | with_reducible exact Frame.refl | with_reducible assumption
    | (with_reducible apply Frame.step State.modReq_frame; case k => decide)
    | (with_reducible apply Frame.step State.dropTasks_frame; case k => decide)
    | (with_reducible apply Frame.step State.stopIfDone_frame; case k => decide)
    | (with_reducible apply Frame.step State.completeAttend_frame; case k => decide)
    | (with_reducible apply Frame.step State.publish_frame; case k => decide) | with_reducible refine Frame.ite ?_ ?_ | split)

theorem State.readBlock_frame {s : State} {r : Req} {a : AttnProfile} {b : Nat} :
    Frame [.itin, .ctxs, .conns, .links, .dbg, .out] s (State.readBlock s r a b) := by
  unfold State.readBlock
  repeat' (first
    | (with_reducible refine Frame.upd ?_ ?_ ?_; fail_if_success with_reducible exact ChangesOnly.refl)
    | with_reducible exact Frame.refl | (with_reducible apply Frame.step State.readIn_frame; case k => decide)
    | with_reducible refine Frame.ite ?_ ?_ | split)

theorem State.startBlock_frame {s : State} {id b : Nat} :
    Frame [.itin, .reqs, .ctxs, .conns, .links, .dbg, .out] s (State.startBlock s id b) := by
  unfold State.startBlock
  repeat' (first
    | (lift_lets; intro x; refine Frame.cut x ?_ (fun hx => ?_); rotate_left; clear_value x)
    | (lift_lets; intro x; with_reducible refine Frame.trans Frame.refl ?_)
    | (with_reducible refine Frame.upd ?_ ?_ ?_; fail_if_success with_reducible exact ChangesOnly.refl)
    | with_reducible exact Frame.refl | with_reducible assumption
    | (with_reducible apply Frame.step State.modReq_frame; case k => decide)
    | (with_reducible apply Frame.step State.readBlock_frame; case k => decide) | with_reducible refine Frame.ite ?_ ?_ | split)

theorem State.runBlock_frame {s : State} {id b : Nat} :
    Frame [.regs, .itin, .reqs, .ctxs, .engines, .locals, .conns, .links, .tier, .health, .dbg, .out, .free] s (State.runBlock s id b) := by
  unfold State.runBlock
  repeat' (first
    | (lift_lets; intro x; refine Frame.cut x ?_ (fun hx => ?_); rotate_left; clear_value x)
    | (lift_lets; intro x; with_reducible refine Frame.trans Frame.refl ?_)
    | (with_reducible refine Frame.upd ?_ ?_ ?_; fail_if_success with_reducible exact ChangesOnly.refl)
    | with_reducible exact Frame.refl | with_reducible assumption
    | (with_reducible apply Frame.step State.failReq_frame; case k => decide)
    | (with_reducible apply Frame.step State.startBlock_frame; case k => decide)
    | (with_reducible apply Frame.step State.openShares_frame; case k => decide)
    | (with_reducible apply Frame.step State.homeShares_frame; case k => decide)
    | (with_reducible apply Frame.step State.finishBlock_frame; case k => decide) | with_reducible refine Frame.ite ?_ ?_
    | with_reducible refine Frame.of_pair (by assumption) ?_ | split | dsimp only)

end Sys2Proof.Machine
end

