-- ==== Sys2Proof/Laws/PlanFrames.lean ====
section
/-! SUPPORT. What each operation of Machine/Plan.lean may change, and that it keeps the invariant of Safety.lean. -/
namespace Sys2Proof.Machine

theorem State.setPlan_frame {s : State} {u : UnitId} {p : UnitPlan} :
    Frame [.itin] s (State.setPlan s u p) := by
  unfold State.setPlan
  repeat' (first
    | (lift_lets; intro x; refine Frame.cut x ?_ (fun hx => ?_); rotate_left; clear_value x)
    | (lift_lets; intro x; with_reducible refine Frame.trans Frame.refl ?_)
    | (with_reducible refine Frame.upd ?_ ?_ ?_; fail_if_success with_reducible exact ChangesOnly.refl)
    | with_reducible exact Frame.refl | with_reducible assumption | with_reducible refine Frame.ite ?_ ?_
    | (intro p hp; cases p <;> first | exact absurd hp (by decide) | rfl) | (intro h; exact h.of_eq rfl rfl rfl rfl)
    | (simp only [x]; split) | split)

theorem State.modEngine_frame {s : State} {n : Nat} {f : Engine → Engine} :
    Frame [.engines] s (State.modEngine s n f) := by
  unfold State.modEngine
  repeat' (first
    | (with_reducible refine Frame.upd ?_ ?_ ?_; fail_if_success with_reducible exact ChangesOnly.refl)
    | with_reducible exact Frame.refl | (intro p hp; cases p <;> first | exact absurd hp (by decide) | rfl)
    | (intro h; exact h.of_eq rfl rfl rfl rfl))

theorem State.pushSet_frame {s : State} {engine : Nat} {q : QuerySet} :
    Frame [.engines] s (State.pushSet s engine q) := by
  unfold State.pushSet
  repeat' (first
    | (with_reducible refine Frame.upd ?_ ?_ ?_; fail_if_success with_reducible exact ChangesOnly.refl)
    | with_reducible exact Frame.refl | (with_reducible apply Frame.step State.modEngine_frame; case k => decide)
    | with_reducible refine Frame.ite ?_ ?_ | split)

theorem State.sendRows_frame {s : State} {key block head : Nat} :
    Frame [.engines] s (State.sendRows s key block head) := by
  unfold State.sendRows
  repeat' (first
    | (lift_lets; intro x; refine Frame.cut x ?_ (fun hx => ?_); rotate_left; clear_value x)
    | (lift_lets; intro x; with_reducible refine Frame.trans Frame.refl ?_)
    | (with_reducible refine Frame.upd ?_ ?_ ?_; fail_if_success with_reducible exact ChangesOnly.refl)
    | with_reducible exact Frame.refl | with_reducible assumption
    | (intro p hp; cases p <;> first | exact absurd hp (by decide) | rfl) | (intro h; exact h.of_eq rfl rfl rfl rfl) | split)

theorem State.putTask_frame {s : State} {u : UnitId} {t : Task} {set : Option QuerySet} :
    Frame [.itin, .engines] s (State.putTask s u t set) := by
  unfold State.putTask
  repeat' (first
    | (lift_lets; intro x; refine Frame.cut x ?_ (fun hx => ?_); rotate_left; clear_value x)
    | (lift_lets; intro x; with_reducible refine Frame.trans Frame.refl ?_)
    | (with_reducible refine Frame.upd ?_ ?_ ?_; fail_if_success with_reducible exact ChangesOnly.refl)
    | with_reducible exact Frame.refl | with_reducible assumption
    | (with_reducible apply Frame.step State.setPlan_frame; case k => decide)
    | (with_reducible apply Frame.step State.pushSet_frame; case k => decide) | split)

theorem State.tookTask_frame {s : State} :
    Frame [.itin] s (State.tookTask s) := by
  unfold State.tookTask
  repeat' (first
    | (with_reducible refine Frame.upd ?_ ?_ ?_; fail_if_success with_reducible exact ChangesOnly.refl)
    | with_reducible exact Frame.refl | (intro p hp; cases p <;> first | exact absurd hp (by decide) | rfl)
    | (intro h; exact h.of_eq rfl rfl rfl rfl))

theorem State.wait_frame {s : State} {t : Task} :
    Frame [.itin] s (State.wait s t) := by
  unfold State.wait
  repeat' (first
    | (with_reducible refine Frame.upd ?_ ?_ ?_; fail_if_success with_reducible exact ChangesOnly.refl)
    | with_reducible exact Frame.refl | (intro p hp; cases p <;> first | exact absurd hp (by decide) | rfl)
    | (intro h; exact h.of_eq rfl rfl rfl rfl))

theorem State.placeBy_frame {s : State} {w : Work} {t : Task} {sp : Spec} :
    Frame [.itin, .engines] s (State.placeBy s w t sp).2 := by
  unfold State.placeBy
  repeat' (first
    | (lift_lets; intro x; refine Frame.cut x ?_ (fun hx => ?_); rotate_left; clear_value x)
    | (lift_lets; intro x; with_reducible refine Frame.trans Frame.refl ?_)
    | (with_reducible refine Frame.upd ?_ ?_ ?_; fail_if_success with_reducible exact ChangesOnly.refl)
    | with_reducible exact Frame.refl | with_reducible assumption
    | (with_reducible apply Frame.step State.putTask_frame; case k => decide)
    | (with_reducible apply Frame.step State.wait_frame; case k => decide) | split)

theorem State.placeTask_frame {s : State} {w : Work} {t : Task} :
    Frame [.itin, .engines] s (State.placeTask s w t).2 := by
  unfold State.placeTask
  repeat' (first
    | (with_reducible refine Frame.upd ?_ ?_ ?_; fail_if_success with_reducible exact ChangesOnly.refl)
    | with_reducible exact Frame.refl | (with_reducible apply Frame.step State.wait_frame; case k => decide)
    | (with_reducible apply Frame.step State.placeBy_frame; case k => decide)
    | with_reducible refine Frame.of_pair (by assumption) ?_ | split)

theorem State.placeAll_frame {s : State} {w : Work} {reserved : Bool} {ks : List TaskKind} :
    Frame [.itin, .engines] s (State.placeAll s w reserved ks) := by
  unfold State.placeAll
  repeat' (first
    | (with_reducible refine Frame.upd ?_ ?_ ?_; fail_if_success with_reducible exact ChangesOnly.refl)
    | with_reducible exact Frame.refl | (with_reducible apply Frame.step State.placeTask_frame; case k => decide)
    | (with_reducible apply Frame.step State.tookTask_frame; case k => decide)
    | with_reducible refine Frame.foldl (fun _ _ => ?_) ?_ | with_reducible refine Frame.foldl_snd (fun _ _ => ?_) ?_
    | with_reducible refine Frame.of_pair (by assumption) ?_ | dsimp only)

theorem State.fixAssays_frame {s : State} {w : Work} :
    Frame [.health] s (State.fixAssays s w) := by
  unfold State.fixAssays
  repeat' (first
    | (with_reducible refine Frame.upd ?_ ?_ ?_; fail_if_success with_reducible exact ChangesOnly.refl)
    | with_reducible exact Frame.refl | with_reducible refine Frame.ite ?_ ?_
    | (intro p hp; cases p <;> first | exact absurd hp (by decide) | rfl) | (intro h; exact h.of_eq rfl rfl rfl rfl) | split)

theorem State.modTile_frame {s : State} {n : Nat} {f : Tile → Tile} :
    Frame [.tiles] s (State.modTile s n f) := by
  unfold State.modTile
  repeat' (first
    | (with_reducible refine Frame.upd ?_ ?_ ?_; fail_if_success with_reducible exact ChangesOnly.refl)
    | with_reducible exact Frame.refl | (intro p hp; cases p <;> first | exact absurd hp (by decide) | rfl)
    | (intro h; exact h.of_eq rfl rfl rfl rfl))

theorem State.threadStart_frame {s : State} {u : UnitId} {t : Task} :
    Frame [.tiles] s (State.threadStart s u t) := by
  unfold State.threadStart
  repeat' (first
    | (lift_lets; intro x; refine Frame.cut x ?_ (fun hx => ?_); rotate_left; clear_value x)
    | (lift_lets; intro x; with_reducible refine Frame.trans Frame.refl ?_)
    | (with_reducible refine Frame.upd ?_ ?_ ?_; fail_if_success with_reducible exact ChangesOnly.refl)
    | with_reducible exact Frame.refl | with_reducible assumption
    | (with_reducible apply Frame.step State.modTile_frame; case k => decide) | split)

theorem State.threadEnd_frame {s : State} {u : UnitId} {t : Task} :
    Frame [.tiles, .free] s (State.threadEnd s u t) := by
  unfold State.threadEnd
  repeat' (first
    | (lift_lets; intro x; refine Frame.cut x ?_ (fun hx => ?_); rotate_left; clear_value x)
    | (lift_lets; intro x; with_reducible refine Frame.trans Frame.refl ?_)
    | (with_reducible refine Frame.upd ?_ ?_ ?_; fail_if_success with_reducible exact ChangesOnly.refl)
    | with_reducible exact Frame.refl | with_reducible assumption
    | (with_reducible apply Frame.step State.modTile_frame; case k => decide)
    | (intro p hp; cases p <;> first | exact absurd hp (by decide) | rfl) | (intro h; exact h.of_eq rfl rfl rfl rfl) | split)

theorem State.deliver_frame {s : State} {u : UnitId} {t : Task} {outcome : Nat} :
    Frame [.tiles] s (State.deliver s u t outcome) := by
  unfold State.deliver
  repeat' (first
    | split | (lift_lets; intro x; refine Frame.cut x ?_ (fun hx => ?_); rotate_left; clear_value x)
    | (lift_lets; intro x; with_reducible refine Frame.trans Frame.refl ?_)
    | (with_reducible refine Frame.upd ?_ ?_ ?_; fail_if_success with_reducible exact ChangesOnly.refl)
    | with_reducible exact Frame.refl | with_reducible assumption
    | (with_reducible apply Frame.step State.modTile_frame; case k => decide) | with_reducible refine Frame.ite ?_ ?_)

theorem State.consume_frame {s : State} {u : UnitId} {t : Task} :
    Frame [.tiles] s (State.consume s u t) := by
  unfold State.consume
  repeat' (first
    | (with_reducible refine Frame.upd ?_ ?_ ?_; fail_if_success with_reducible exact ChangesOnly.refl)
    | with_reducible exact Frame.refl | (with_reducible apply Frame.step State.modTile_frame; case k => decide) | split)

theorem State.freeSlots_frame {s : State} {t : Task} :
    Frame [.tiles] s (State.freeSlots s t) := by
  unfold State.freeSlots
  repeat' (first
    | (with_reducible refine Frame.upd ?_ ?_ ?_; fail_if_success with_reducible exact ChangesOnly.refl)
    | with_reducible exact Frame.refl | (with_reducible apply Frame.step State.modTile_frame; case k => decide) | split)

theorem State.takeLease_frame {s : State} {u : UnitId} {t : Task} :
    Frame [.engines] s (State.takeLease s u t) := by
  unfold State.takeLease
  repeat' (first
    | (with_reducible refine Frame.upd ?_ ?_ ?_; fail_if_success with_reducible exact ChangesOnly.refl)
    | with_reducible exact Frame.refl | (with_reducible apply Frame.step State.modEngine_frame; case k => decide) | split)

theorem State.dropLease_frame {s : State} {u : UnitId} {t : Task} :
    Frame [.engines] s (State.dropLease s u t) := by
  unfold State.dropLease
  repeat' (first
    | (lift_lets; intro x; refine Frame.cut x ?_ (fun hx => ?_); rotate_left; clear_value x)
    | (lift_lets; intro x; with_reducible refine Frame.trans Frame.refl ?_)
    | (with_reducible refine Frame.upd ?_ ?_ ?_; fail_if_success with_reducible exact ChangesOnly.refl)
    | with_reducible exact Frame.refl | with_reducible assumption
    | (with_reducible apply Frame.step State.modEngine_frame; case k => decide) | with_reducible refine Frame.ite ?_ ?_ | split)

theorem State.hostFrame_frame {s : State} {t : Task} :
    Frame [.out] s (State.hostFrame s t) := by
  unfold State.hostFrame
  repeat' (first
    | (with_reducible refine Frame.upd ?_ ?_ ?_; fail_if_success with_reducible exact ChangesOnly.refl)
    | with_reducible exact Frame.refl | (with_reducible apply Frame.step State.emit_frame; case k => decide)
    | with_reducible refine Frame.ite ?_ ?_ | split)

theorem State.taskStarted_frame {s : State} {u : UnitId} {t : Task} :
    Frame [.itin, .reqs, .ctxs, .engines, .tiles, .conns, .links, .dbg, .out] s (State.taskStarted s u t) := by
  unfold State.taskStarted
  repeat' (first
    | (lift_lets; intro x; refine Frame.cut x ?_ (fun hx => ?_); rotate_left; clear_value x)
    | (lift_lets; intro x; with_reducible refine Frame.trans Frame.refl ?_)
    | (with_reducible refine Frame.upd ?_ ?_ ?_; fail_if_success with_reducible exact ChangesOnly.refl)
    | with_reducible exact Frame.refl | with_reducible assumption
    | (with_reducible apply Frame.step State.hostFrame_frame; case k => decide)
    | (with_reducible apply Frame.step State.takeLease_frame; case k => decide)
    | (with_reducible apply Frame.step State.consume_frame; case k => decide)
    | (with_reducible apply Frame.step State.threadStart_frame; case k => decide)
    | (with_reducible apply Frame.step State.startBlock_frame; case k => decide) | split)

theorem State.startNext_frame {s : State} {u : UnitId} :
    Frame [.itin, .reqs, .ctxs, .engines, .tiles, .conns, .links, .dbg, .out] s (State.startNext s u) := by
  unfold State.startNext
  dsimp only
  split
  · exact .ite .refl (Frame.step State.taskStarted_frame (by decide) (Frame.mono State.setPlan_frame (by decide)))
  · exact .refl

theorem State.startAll_frame {s : State} :
    Frame [.itin, .reqs, .ctxs, .engines, .tiles, .conns, .links, .dbg, .out] s (State.startAll s) := by
  unfold State.startAll
  repeat' (first
    | (with_reducible refine Frame.upd ?_ ?_ ?_; fail_if_success with_reducible exact ChangesOnly.refl)
    | with_reducible exact Frame.refl | (with_reducible apply Frame.step State.startNext_frame; case k => decide)
    | with_reducible refine Frame.foldl (fun _ _ => ?_) ?_ | with_reducible refine Frame.foldl_snd (fun _ _ => ?_) ?_ | dsimp only)

theorem State.meterTask_frame {s : State} {u : UnitId} {t : Task} {cut : Bool} :
    Frame [.ctxs, .dbg] s (State.meterTask s u t cut) := by
  unfold State.meterTask
  repeat' (first
    | (lift_lets; intro x; refine Frame.cut x ?_ (fun hx => ?_); rotate_left; clear_value x)
    | (lift_lets; intro x; with_reducible refine Frame.trans Frame.refl ?_)
    | (with_reducible refine Frame.upd ?_ ?_ ?_; fail_if_success with_reducible exact ChangesOnly.refl)
    | with_reducible exact Frame.refl | with_reducible assumption
    | (with_reducible apply Frame.step State.traceAdd_frame; case k => decide)
    | (with_reducible apply Frame.step State.meter_frame; case k => decide) | split)

end Sys2Proof.Machine
end

