-- ==== Sys2Proof/Laws/BudgetFrames.lean ====
section
/-! SUPPORT. What each operation of Machine/Budget.lean may change, and that it keeps the invariant of Safety.lean. -/
namespace Sys2Proof.Machine

theorem State.countDegraded_frame {s : State} :
    Frame [.regs] s (State.countDegraded s) := by
  unfold State.countDegraded
  repeat' (first
    | (lift_lets; intro x; refine Frame.cut x ?_ (fun hx => ?_); rotate_left; clear_value x)
    | (lift_lets; intro x; with_reducible refine Frame.trans Frame.refl ?_)
    | (with_reducible refine Frame.upd ?_ ?_ ?_; fail_if_success with_reducible exact ChangesOnly.refl)
    | with_reducible exact Frame.refl | with_reducible assumption
    | (with_reducible apply Frame.step State.wr_frame; case k => decide))

theorem State.degrade_frame {s : State} {ctx : Nat} :
    Frame [.regs, .ctxs, .health, .free] s (State.degrade s ctx) := by
  unfold State.degrade
  repeat' (first
    | (lift_lets; intro x; refine Frame.cut x ?_ (fun hx => ?_); rotate_left; clear_value x)
    | (lift_lets; intro x; with_reducible refine Frame.trans Frame.refl ?_)
    | (with_reducible refine Frame.upd ?_ ?_ ?_; fail_if_success with_reducible exact ChangesOnly.refl)
    | with_reducible exact Frame.refl | with_reducible assumption
    | (with_reducible refine Frame.step (State.modCtx_frame ?_) (by decide) ?_)
    | (with_reducible apply Frame.step errRecord_frame; case k => decide) | with_reducible refine Frame.ite ?_ ?_
    | exact KeepsCtx.mk (fun _ h => h) (fun _ h => h) | split)

theorem State.degradeMark_frame {s : State} :
    Frame [.regs, .ctxs, .health, .free] s (State.degradeMark s) := by
  unfold State.degradeMark
  repeat' (first
    | (with_reducible refine Frame.upd ?_ ?_ ?_; fail_if_success with_reducible exact ChangesOnly.refl)
    | with_reducible exact Frame.refl | (with_reducible apply Frame.step State.countDegraded_frame; case k => decide)
    | (with_reducible apply Frame.step State.degrade_frame; case k => decide) | with_reducible refine Frame.foldl (fun _ _ => ?_) ?_
    | with_reducible refine Frame.foldl_snd (fun _ _ => ?_) ?_ | dsimp only)

theorem State.degradeTest_frame {s : State} :
    Frame [.regs, .ctxs, .health, .free] s (State.degradeTest s) := by
  unfold State.degradeTest
  refine Frame.step State.countDegraded_frame (by decide) (Frame.cut (s.toDegrade.foldl State.degrade s) (Frame.foldl (fun _ _ => State.degrade_frame) .refl) fun h => ?_)
  refine h.trans ⟨fun p hp => by cases p <;> first | exact absurd hp (by decide) | rfl, fun k => ?_⟩
  refine k.mall (f := ?f) ?k ?hc rfl rfl rfl
  case hc => dsimp only; rfl
  refine fun n => ⟨fun x j => ?_, fun x j => ?_⟩ <;> split <;> exact j

end Sys2Proof.Machine
end

