-- ==== Sys2Proof/Laws/ContextsFrames.lean ====
section
/-! SUPPORT. What each operation of Machine/Contexts.lean may change, and that it keeps the invariant of Safety.lean. -/
namespace Sys2Proof.Machine

theorem State.ctlWrite_frame {s : State} {off : Nat} {ctl : Word} :
    Frame [.regs, .live, .power] s (State.ctlWrite s off ctl) := by
  unfold State.ctlWrite
  repeat' (first
    | (with_reducible refine Frame.upd ?_ ?_ ?_; fail_if_success with_reducible exact ChangesOnly.refl)
    | with_reducible exact Frame.refl | (with_reducible apply Frame.step State.wakeUp_frame; case k => decide)
    | (with_reducible apply Frame.step State.writeNow_frame; case k => decide))

theorem State.opEnd_frame {s : State} {f : OpFields} {code : Nat} :
    Frame [.regs] s (State.opEnd s f code) := by
  unfold State.opEnd
  repeat' (first
    | (with_reducible refine Frame.upd ?_ ?_ ?_; fail_if_success with_reducible exact ChangesOnly.refl)
    | with_reducible exact Frame.refl | (with_reducible apply Frame.step State.wr_frame; case k => decide)
    | with_reducible refine Frame.ite ?_ ?_ | split)

theorem State.countKeys_frame {s : State} :
    Frame [.regs] s (State.countKeys s) := by
  unfold State.countKeys
  repeat' (first
    | (lift_lets; intro x; refine Frame.cut x ?_ (fun hx => ?_); rotate_left; clear_value x)
    | (lift_lets; intro x; with_reducible refine Frame.trans Frame.refl ?_)
    | (with_reducible refine Frame.upd ?_ ?_ ?_; fail_if_success with_reducible exact ChangesOnly.refl)
    | with_reducible exact Frame.refl | with_reducible assumption
    | (with_reducible apply Frame.step State.wr_frame; case k => decide) | split)

theorem State.createCtx_frame {s : State} {ctx : Nat} {b : Bytes} :
    Frame [.regs, .ctxs, .nv, .free] s (State.createCtx s ctx b) := by
  refine Frame.step State.countKeys_frame (by decide) ⟨fun p hp => by cases p <;> first | exact absurd hp (by decide) | rfl, fun h => ?_⟩
  have e : Memory.wf Ctx.free.xmem = true ∧ Ctx.free.meters.length ≤ 4 := by decide
  refine h.mset (c := ctx) (x := ?x) ?_ ?_ ?hc rfl rfl rfl
  case hc => dsimp only [State.setCtx]; rfl
  · exact e.1
  · exact e.2

theorem execCtxCreate_frame {t : Nat} {ctl : Word} {mem : Option Bytes} {s : State} :
    Answers [.now, .regs, .live, .ctxs, .power, .nv, .free] s (execCtxCreate t ctl mem s) := by
  unfold execCtxCreate
  repeat' (first
    | (lift_lets; intro x; refine Answers.cut x ?_ (fun hx => ?_); rotate_left; clear_value x)
    | (lift_lets; intro x; refine Frame.cut x ?_ (fun hx => ?_); rotate_left; clear_value x)
    | (lift_lets; intro x; with_reducible refine Frame.trans Frame.refl ?_) | with_reducible refine Answers.next ?_
    | with_reducible refine Answers.ite ?_ ?_
    | (with_reducible refine Frame.upd ?_ ?_ ?_; fail_if_success with_reducible exact ChangesOnly.refl)
    | with_reducible exact Frame.refl | with_reducible assumption
    | (with_reducible apply Frame.step State.at__frame; case k => decide)
    | (with_reducible apply Frame.step State.ctlWrite_frame; case k => decide)
    | (with_reducible apply Frame.step State.createCtx_frame; case k => decide)
    | (with_reducible apply Frame.step State.opEnd_frame; case k => decide) | with_reducible refine Frame.ite ?_ ?_
    | (simp only [x]; split) | split)

theorem execCtxLoadProfile_frame {t : Nat} {ctl : Word} {mem : Option Bytes} {s : State} :
    Answers [.now, .regs, .live, .ctxs, .power] s (execCtxLoadProfile t ctl mem s) := by
  unfold execCtxLoadProfile
  repeat' (first
    | (lift_lets; intro x; refine Answers.cut x ?_ (fun hx => ?_); rotate_left; clear_value x)
    | (lift_lets; intro x; refine Frame.cut x ?_ (fun hx => ?_); rotate_left; clear_value x)
    | (lift_lets; intro x; with_reducible refine Frame.trans Frame.refl ?_) | with_reducible refine Answers.next ?_
    | with_reducible refine Answers.ite ?_ ?_
    | (with_reducible refine Frame.upd ?_ ?_ ?_; fail_if_success with_reducible exact ChangesOnly.refl)
    | with_reducible exact Frame.refl | with_reducible assumption
    | (with_reducible apply Frame.step State.at__frame; case k => decide)
    | (with_reducible apply Frame.step State.ctlWrite_frame; case k => decide)
    | (with_reducible apply Frame.step State.wr_frame; case k => decide)
    | (with_reducible refine Frame.step (State.modCtx_frame ?_) (by decide) ?_)
    | (with_reducible apply Frame.step State.opEnd_frame; case k => decide) | with_reducible refine Frame.ite ?_ ?_
    | exact KeepsCtx.mk (fun _ h => h) (fun _ h => h) | (simp only [x]; split) | split | dsimp only)

theorem State.profileInForce_frame {s : State} {ctx : Nat} {p : Profile} :
    Frame [.ctxs, .nv] s (State.profileInForce s ctx p) := by
  unfold State.profileInForce
  repeat' (first
    | (lift_lets; intro x; refine Frame.cut x ?_ (fun hx => ?_); rotate_left; clear_value x)
    | (lift_lets; intro x; with_reducible refine Frame.trans Frame.refl ?_)
    | (with_reducible refine Frame.upd ?_ ?_ ?_; fail_if_success with_reducible exact ChangesOnly.refl)
    | with_reducible exact Frame.refl | with_reducible assumption
    | (with_reducible refine Frame.step (State.modCtx_frame ?_) (by decide) ?_) | with_reducible refine Frame.ite ?_ ?_
    | (intro p hp; cases p <;> first | exact absurd hp (by decide) | rfl) | (intro h; exact h.of_eq rfl rfl rfl rfl)
    | exact KeepsCtx.mk (fun _ h => h) (fun _ h => h) | split)

theorem State.takeProfiles_frame {s : State} {time : Nat} :
    Frame [.ctxs, .nv] s (State.takeProfiles s time) := by
  unfold State.takeProfiles
  repeat' (first
    | (with_reducible refine Frame.upd ?_ ?_ ?_; fail_if_success with_reducible exact ChangesOnly.refl)
    | with_reducible exact Frame.refl | (with_reducible apply Frame.step State.profileInForce_frame; case k => decide)
    | with_reducible refine Frame.ite ?_ ?_ | with_reducible refine Frame.foldl (fun _ _ => ?_) ?_
    | with_reducible refine Frame.foldl_snd (fun _ _ => ?_) ?_ | split | dsimp only)

theorem execGeodeLoad_frame {t : Nat} {ctl : Word} {mem : Option GeodeInput} {s : State} :
    Answers [.now, .regs, .live, .ctxs, .power] s (execGeodeLoad t ctl mem s) := by
  unfold execGeodeLoad
  repeat' (first
    | (lift_lets; intro x; refine Answers.cut x ?_ (fun hx => ?_); rotate_left; clear_value x)
    | (lift_lets; intro x; refine Frame.cut x ?_ (fun hx => ?_); rotate_left; clear_value x)
    | (lift_lets; intro x; with_reducible refine Frame.trans Frame.refl ?_) | with_reducible refine Answers.next ?_
    | with_reducible refine Answers.ite ?_ ?_
    | (with_reducible refine Frame.upd ?_ ?_ ?_; fail_if_success with_reducible exact ChangesOnly.refl)
    | with_reducible exact Frame.refl | with_reducible assumption
    | (with_reducible apply Frame.step State.at__frame; case k => decide)
    | (with_reducible apply Frame.step State.ctlWrite_frame; case k => decide)
    | (with_reducible refine Frame.step (State.modCtx_frame ?_) (by decide) ?_)
    | (with_reducible apply Frame.step State.opEnd_frame; case k => decide) | with_reducible refine Frame.ite ?_ ?_
    | exact KeepsCtx.mk (fun _ h => h) (fun _ h => h) | (simp only [x]; split) | split)

theorem execGeodeUnload_frame {t : Nat} {ctl : Word} {s : State} :
    Answers [.now, .regs, .live, .ctxs, .power] s (execGeodeUnload t ctl s) := by
  unfold execGeodeUnload
  repeat' (first
    | (lift_lets; intro x; refine Answers.cut x ?_ (fun hx => ?_); rotate_left; clear_value x)
    | (lift_lets; intro x; refine Frame.cut x ?_ (fun hx => ?_); rotate_left; clear_value x)
    | (lift_lets; intro x; with_reducible refine Frame.trans Frame.refl ?_) | with_reducible refine Answers.next ?_
    | with_reducible refine Answers.ite ?_ ?_
    | (with_reducible refine Frame.upd ?_ ?_ ?_; fail_if_success with_reducible exact ChangesOnly.refl)
    | with_reducible exact Frame.refl | with_reducible assumption
    | (with_reducible apply Frame.step State.at__frame; case k => decide)
    | (with_reducible apply Frame.step State.ctlWrite_frame; case k => decide)
    | (with_reducible apply Frame.step State.opEnd_frame; case k => decide)
    | (with_reducible refine Frame.step (State.modCtx_frame ?_) (by decide) ?_) | with_reducible refine Frame.ite ?_ ?_
    | exact KeepsCtx.mk (fun _ h => h) (fun _ h => h) | split)

theorem State.stageProg_frame {s : State} {ctx slot : Nat} {im : Option ProgImage} :
    Frame [.ctxs] s (State.stageProg s ctx slot im) := by
  unfold State.stageProg
  repeat' (first
    | (with_reducible refine Frame.upd ?_ ?_ ?_; fail_if_success with_reducible exact ChangesOnly.refl)
    | with_reducible exact Frame.refl | (with_reducible refine Frame.step (State.modCtx_frame ?_) (by decide) ?_)
    | exact KeepsCtx.mk (fun _ h => h) (fun _ h => h))

theorem State.showProgDigest_frame {s : State} {d : Bytes} :
    Frame [.regs] s (State.showProgDigest s d) := by
  unfold State.showProgDigest
  repeat' (first
    | (with_reducible refine Frame.upd ?_ ?_ ?_; fail_if_success with_reducible exact ChangesOnly.refl)
    | with_reducible exact Frame.refl | (with_reducible apply Frame.step State.wr_frame; case k => decide)
    | with_reducible refine Frame.foldl (fun _ _ => ?_) ?_ | with_reducible refine Frame.foldl_snd (fun _ _ => ?_) ?_ | dsimp only)

theorem execProgLoad_frame {t : Nat} {ctl : Word} {mem : Option Bytes} {s : State} :
    Answers [.now, .regs, .live, .ctxs, .power] s (execProgLoad t ctl mem s) := by
  unfold execProgLoad
  repeat' (first
    | (lift_lets; intro x; refine Answers.cut x ?_ (fun hx => ?_); rotate_left; clear_value x)
    | (lift_lets; intro x; refine Frame.cut x ?_ (fun hx => ?_); rotate_left; clear_value x)
    | (lift_lets; intro x; with_reducible refine Frame.trans Frame.refl ?_) | with_reducible refine Answers.next ?_
    | with_reducible refine Answers.ite ?_ ?_
    | (with_reducible refine Frame.upd ?_ ?_ ?_; fail_if_success with_reducible exact ChangesOnly.refl)
    | with_reducible exact Frame.refl | with_reducible assumption
    | (with_reducible apply Frame.step State.at__frame; case k => decide)
    | (with_reducible apply Frame.step State.ctlWrite_frame; case k => decide)
    | (with_reducible apply Frame.step State.showProgDigest_frame; case k => decide)
    | (with_reducible apply Frame.step State.stageProg_frame; case k => decide)
    | (with_reducible apply Frame.step State.opEnd_frame; case k => decide) | with_reducible refine Frame.ite ?_ ?_
    | (simp only [x]; split) | split)

theorem execProgUnload_frame {t : Nat} {ctl : Word} {s : State} :
    Answers [.now, .regs, .live, .ctxs, .power] s (execProgUnload t ctl s) := by
  unfold execProgUnload
  repeat' (first
    | (lift_lets; intro x; refine Answers.cut x ?_ (fun hx => ?_); rotate_left; clear_value x)
    | (lift_lets; intro x; refine Frame.cut x ?_ (fun hx => ?_); rotate_left; clear_value x)
    | (lift_lets; intro x; with_reducible refine Frame.trans Frame.refl ?_) | with_reducible refine Answers.next ?_
    | with_reducible refine Answers.ite ?_ ?_
    | (with_reducible refine Frame.upd ?_ ?_ ?_; fail_if_success with_reducible exact ChangesOnly.refl)
    | with_reducible exact Frame.refl | with_reducible assumption
    | (with_reducible apply Frame.step State.at__frame; case k => decide)
    | (with_reducible apply Frame.step State.ctlWrite_frame; case k => decide)
    | (with_reducible apply Frame.step State.opEnd_frame; case k => decide)
    | (with_reducible apply Frame.step State.stageProg_frame; case k => decide) | with_reducible refine Frame.ite ?_ ?_
    | (simp only [x]; split) | split)

theorem State.takeProg_frame {s : State} {ctx : Nat} {q : PendingProg} :
    Frame [.ctxs] s (State.takeProg s ctx q) := by
  unfold State.takeProg
  repeat' (first
    | (lift_lets; intro x; refine Frame.cut x ?_ (fun hx => ?_); rotate_left; clear_value x)
    | (lift_lets; intro x; with_reducible refine Frame.trans Frame.refl ?_)
    | (with_reducible refine Frame.upd ?_ ?_ ?_; fail_if_success with_reducible exact ChangesOnly.refl)
    | with_reducible exact Frame.refl | with_reducible assumption
    | (with_reducible refine Frame.step (State.modCtx_frame ?_) (by decide) ?_) | with_reducible refine Frame.ite ?_ ?_
    | exact KeepsCtx.mk (fun _ h => h) (fun _ h => h) | split)

theorem State.takeProgs_frame {s : State} {time : Nat} :
    Frame [.ctxs] s (State.takeProgs s time) := by
  unfold State.takeProgs
  repeat' (first
    | (lift_lets; intro x; refine Frame.cut x ?_ (fun hx => ?_); rotate_left; clear_value x)
    | (lift_lets; intro x; with_reducible refine Frame.trans Frame.refl ?_)
    | (with_reducible refine Frame.upd ?_ ?_ ?_; fail_if_success with_reducible exact ChangesOnly.refl)
    | with_reducible exact Frame.refl | with_reducible assumption
    | (with_reducible refine Frame.step (State.modCtx_frame ?_) (by decide) ?_)
    | (with_reducible apply Frame.step State.takeProg_frame; case k => decide)
    | with_reducible refine Frame.foldl (fun _ _ => ?_) ?_ | with_reducible refine Frame.foldl_snd (fun _ _ => ?_) ?_
    | exact KeepsCtx.mk (fun _ h => h) (fun _ h => h) | dsimp only)

theorem execCtxTeardown_frame {t : Nat} {ctl : Word} {s : State} :
    Answers [.now, .regs, .live, .ctxs, .power] s (execCtxTeardown t ctl s) := by
  unfold execCtxTeardown
  repeat' (first
    | (lift_lets; intro x; refine Answers.cut x ?_ (fun hx => ?_); rotate_left; clear_value x)
    | (lift_lets; intro x; refine Frame.cut x ?_ (fun hx => ?_); rotate_left; clear_value x)
    | (lift_lets; intro x; with_reducible refine Frame.trans Frame.refl ?_) | with_reducible refine Answers.next ?_
    | with_reducible refine Answers.ite ?_ ?_
    | (with_reducible refine Frame.upd ?_ ?_ ?_; fail_if_success with_reducible exact ChangesOnly.refl)
    | with_reducible exact Frame.refl | with_reducible assumption
    | (with_reducible apply Frame.step State.at__frame; case k => decide)
    | (with_reducible apply Frame.step State.ctlWrite_frame; case k => decide)
    | (with_reducible apply Frame.step State.opEnd_frame; case k => decide)
    | (with_reducible refine Frame.step (State.modCtx_frame ?_) (by decide) ?_) | with_reducible refine Frame.ite ?_ ?_
    | exact KeepsCtx.mk (fun _ h => h) (fun _ h => h) | split)

theorem State.abandonBound_frame {s : State} {ctx : Nat} :
    Frame [.conns] s (State.abandonBound s ctx) := by
  unfold State.abandonBound
  repeat' (first
    | (with_reducible refine Frame.upd ?_ ?_ ?_; fail_if_success with_reducible exact ChangesOnly.refl)
    | with_reducible exact Frame.refl | with_reducible refine Frame.ite ?_ ?_
    | (intro p hp; cases p <;> first | exact absurd hp (by decide) | rfl) | (intro h; exact h.of_eq rfl rfl rfl rfl) | split)

theorem State.discardWork_frame {s : State} {ctx : Nat} :
    Frame [.regs, .itin, .ctxs, .tier] s (State.discardWork s ctx) := by
  unfold State.discardWork
  repeat' (first
    | (lift_lets; intro x; refine Frame.cut x ?_ (fun hx => ?_); rotate_left; clear_value x)
    | (lift_lets; intro x; with_reducible refine Frame.trans Frame.refl ?_)
    | (with_reducible refine Frame.upd ?_ ?_ ?_; fail_if_success with_reducible exact ChangesOnly.refl)
    | with_reducible exact Frame.refl | with_reducible assumption
    | (with_reducible apply Frame.step State.dropTasks_frame; case k => decide)
    | (with_reducible apply Frame.step State.bump_frame; case k => decide)
    | (with_reducible refine Frame.step (State.modCtx_frame ?_) (by decide) ?_)
    | (intro p hp; cases p <;> first | exact absurd hp (by decide) | rfl) | (intro h; exact h.of_eq rfl rfl rfl rfl)
    | exact KeepsCtx.mk (fun _ h => h) (fun _ h => h))

theorem State.teardownBoundary_frame {s : State} {ctx : Nat} :
    Frame [.regs, .itin, .reqs, .ctxs, .engines, .locals, .conns, .regions, .links, .comp, .tier, .health, .dbg, .nv, .out] s (State.teardownBoundary s ctx) := by
  unfold State.teardownBoundary
  repeat' (first
    | (lift_lets; intro x; refine Frame.cut x ?_ (fun hx => ?_); rotate_left; clear_value x)
    | (lift_lets; intro x; with_reducible refine Frame.trans Frame.refl ?_)
    | (with_reducible refine Frame.upd ?_ ?_ ?_; fail_if_success with_reducible exact ChangesOnly.refl)
    | with_reducible exact Frame.refl | with_reducible assumption
    | (with_reducible apply Frame.step State.teardownRequests_frame; case k => decide)
    | (with_reducible apply Frame.step State.discardWork_frame; case k => decide)
    | (with_reducible apply Frame.step State.abandonBound_frame; case k => decide)
    | (with_reducible apply Frame.step State.countDegraded_frame; case k => decide)
    | (with_reducible refine Frame.step (State.modCtx_frame ?_) (by decide) ?_)
    | (with_reducible apply Frame.step State.countAssays_frame; case k => decide) | with_reducible refine Frame.ite ?_ ?_
    | (intro p hp; cases p <;> first | exact absurd hp (by decide) | rfl) | (intro h; exact h.of_eq rfl rfl rfl rfl)
    | exact KeepsCtx.mk (fun _ h => h) (fun _ h => h) | split)

theorem State.takeTeardowns_frame {s : State} {time : Nat} :
    Frame [.regs, .itin, .reqs, .ctxs, .engines, .locals, .conns, .regions, .links, .comp, .tier, .health, .dbg, .nv, .out] s (State.takeTeardowns s time) := by
  unfold State.takeTeardowns
  repeat' (first
    | (with_reducible refine Frame.upd ?_ ?_ ?_; fail_if_success with_reducible exact ChangesOnly.refl)
    | with_reducible exact Frame.refl | (with_reducible apply Frame.step State.teardownBoundary_frame; case k => decide)
    | with_reducible refine Frame.ite ?_ ?_ | with_reducible refine Frame.foldl (fun _ _ => ?_) ?_
    | with_reducible refine Frame.foldl_snd (fun _ _ => ?_) ?_ | split | dsimp only)

theorem State.emptySlot_frame {s : State} {slot : Nat} :
    Frame [.ctxs, .conns, .comp] s (State.emptySlot s slot) := by
  unfold State.emptySlot
  repeat' (first
    | (with_reducible refine Frame.upd ?_ ?_ ?_; fail_if_success with_reducible exact ChangesOnly.refl)
    | with_reducible exact Frame.refl | (with_reducible apply Frame.step State.settleRetiring_frame; case k => decide)
    | (intro p hp; cases p <;> first | exact absurd hp (by decide) | rfl) | (intro h; exact h.of_eq rfl rfl rfl rfl))

theorem State.sendClose_frame {s : State} {slot reason : Nat} :
    Frame [.itin, .ctxs, .conns, .links, .dbg, .out] s (State.sendClose s slot reason) := by
  unfold State.sendClose
  repeat' (first
    | (with_reducible refine Frame.upd ?_ ?_ ?_; fail_if_success with_reducible exact ChangesOnly.refl)
    | with_reducible exact Frame.refl | (with_reducible apply Frame.step State.sendSend_frame; case k => decide))

theorem State.teardownConn_frame {s : State} {slot : Nat} :
    Frame [.itin, .ctxs, .conns, .links, .comp, .dbg, .out] s (State.teardownConn s slot) := by
  unfold State.teardownConn
  repeat' (first
    | (lift_lets; intro x; refine Frame.cut x ?_ (fun hx => ?_); rotate_left; clear_value x)
    | (lift_lets; intro x; with_reducible refine Frame.trans Frame.refl ?_)
    | (with_reducible refine Frame.upd ?_ ?_ ?_; fail_if_success with_reducible exact ChangesOnly.refl)
    | with_reducible exact Frame.refl | with_reducible assumption
    | (with_reducible apply Frame.step State.sendClose_frame; case k => decide)
    | (with_reducible apply Frame.step State.emptySlot_frame; case k => decide) | with_reducible refine Frame.ite ?_ ?_
    | (simp only [x]; split) | split)

theorem execTeardownClose_frame {t ctx : Nat} {s : State} :
    Answers [.now, .itin, .ctxs, .conns, .links, .comp, .dbg, .out] s (execTeardownClose t ctx s) := by
  unfold execTeardownClose
  repeat' (first
    | (lift_lets; intro x; refine Answers.cut x ?_ (fun hx => ?_); rotate_left; clear_value x)
    | (lift_lets; intro x; refine Frame.cut x ?_ (fun hx => ?_); rotate_left; clear_value x)
    | (lift_lets; intro x; with_reducible refine Frame.trans Frame.refl ?_) | with_reducible refine Answers.next ?_
    | with_reducible refine Answers.ite ?_ ?_
    | (with_reducible refine Frame.upd ?_ ?_ ?_; fail_if_success with_reducible exact ChangesOnly.refl)
    | with_reducible exact Frame.refl | with_reducible assumption
    | (with_reducible apply Frame.step State.at__frame; case k => decide)
    | (with_reducible apply Frame.step State.teardownConn_frame; case k => decide)
    | with_reducible refine Frame.foldl (fun _ _ => ?_) ?_ | with_reducible refine Frame.foldl_snd (fun _ _ => ?_) ?_ | split
    | dsimp only)

theorem execKeyZeroise_frame {t ctx : Nat} {s : State} :
    Answers [.now, .regs, .ctxs, .nv] s (execKeyZeroise t ctx s) := by
  unfold execKeyZeroise
  repeat' (first
    | (lift_lets; intro x; refine Answers.cut x ?_ (fun hx => ?_); rotate_left; clear_value x)
    | (lift_lets; intro x; refine Frame.cut x ?_ (fun hx => ?_); rotate_left; clear_value x)
    | (lift_lets; intro x; with_reducible refine Frame.trans Frame.refl ?_) | with_reducible refine Answers.next ?_
    | with_reducible refine Answers.ite ?_ ?_
    | (with_reducible refine Frame.upd ?_ ?_ ?_; fail_if_success with_reducible exact ChangesOnly.refl)
    | with_reducible exact Frame.refl | with_reducible assumption
    | (with_reducible apply Frame.step State.at__frame; case k => decide)
    | (with_reducible refine Frame.step (State.modCtx_frame ?_) (by decide) ?_)
    | (with_reducible apply Frame.step State.countKeys_frame; case k => decide) | with_reducible refine Frame.ite ?_ ?_
    | (intro p hp; cases p <;> first | exact absurd hp (by decide) | rfl) | (intro h; exact h.of_eq rfl rfl rfl rfl)
    | exact KeepsCtx.mk (fun _ h => h) (fun _ h => h) | split)

theorem State.beginScrub_frame {s : State} {ctx : Nat} :
    Frame [.itin, .sec, .free] s (State.beginScrub s ctx) := by
  unfold State.beginScrub
  repeat' (first
    | (with_reducible refine Frame.upd ?_ ?_ ?_; fail_if_success with_reducible exact ChangesOnly.refl)
    | with_reducible exact Frame.refl | (with_reducible apply Frame.step State.housekeep_frame; case k => decide)
    | (intro p hp; cases p <;> first | exact absurd hp (by decide) | rfl) | (intro h; exact h.of_eq rfl rfl rfl rfl))

theorem execTombstoneDurable_frame {t ctx : Nat} {s : State} :
    Answers [.now, .regs, .itin, .ctxs, .comp, .tier, .sec, .free] s (execTombstoneDurable t ctx s) := by
  unfold execTombstoneDurable
  repeat' (first
    | (lift_lets; intro x; refine Answers.cut x ?_ (fun hx => ?_); rotate_left; clear_value x)
    | (lift_lets; intro x; refine Frame.cut x ?_ (fun hx => ?_); rotate_left; clear_value x)
    | (lift_lets; intro x; with_reducible refine Frame.trans Frame.refl ?_) | with_reducible refine Answers.next ?_
    | with_reducible refine Answers.ite ?_ ?_
    | (with_reducible refine Frame.upd ?_ ?_ ?_; fail_if_success with_reducible exact ChangesOnly.refl)
    | with_reducible exact Frame.refl | with_reducible assumption
    | (with_reducible apply Frame.step State.at__frame; case k => decide)
    | (with_reducible apply Frame.step State.tombBlocks_frame; case k => decide)
    | (with_reducible refine Frame.step (State.modCtx_frame ?_) (by decide) ?_)
    | (with_reducible apply Frame.step State.countKeys_frame; case k => decide)
    | (with_reducible apply Frame.step State.beginScrub_frame; case k => decide) | with_reducible refine Frame.ite ?_ ?_
    | (intro p hp; cases p <;> first | exact absurd hp (by decide) | rfl) | (intro h; exact h.of_eq rfl rfl rfl rfl)
    | exact KeepsCtx.mk (fun _ h => h) (fun _ h => h) | (simp only [x]; split) | split)

theorem State.dropTombstone_frame {s : State} {ctx : Nat} :
    Frame [.regs, .nv] s (State.dropTombstone s ctx) := by
  unfold State.dropTombstone
  repeat' (first
    | (lift_lets; intro x; refine Frame.cut x ?_ (fun hx => ?_); rotate_left; clear_value x)
    | (lift_lets; intro x; with_reducible refine Frame.trans Frame.refl ?_)
    | (with_reducible refine Frame.upd ?_ ?_ ?_; fail_if_success with_reducible exact ChangesOnly.refl)
    | with_reducible exact Frame.refl | with_reducible assumption
    | (with_reducible apply Frame.step State.countKeys_frame; case k => decide) | with_reducible refine Frame.ite ?_ ?_
    | (intro p hp; cases p <;> first | exact absurd hp (by decide) | rfl) | (intro h; exact h.of_eq rfl rfl rfl rfl)
    | (simp only [x]; split) | split)

theorem execScrubComplete_frame {t ctx : Nat} {s : State} :
    Answers [.now, .regs, .ctxs, .sec, .nv] s (execScrubComplete t ctx s) := by
  have a : Frame [.now, .regs, .ctxs, .sec, .nv] s (s.at_ t) := Frame.mono State.at__frame (by decide)
  refine .ite (.next (Frame.step State.dropTombstone_frame (by decide) (a.trans ⟨fun p hp => ?_, fun h => ?_⟩))) (.next a)
  · cases p <;> first | exact absurd hp (by decide) | rfl
  · exact .of_parts (fun c hc => ⟨h.xmem c (mem_mdel hc), h.meters c (mem_mdel hc)⟩) h.buffer h.snoop h.rangerBounds

theorem execCtxClassWrite_frame {t : Nat} {v : Word} {s : State} :
    Answers [.now, .regs, .staged, .power] s (execCtxClassWrite t v s) := by
  unfold execCtxClassWrite
  repeat' (first
    | (lift_lets; intro x; refine Answers.cut x ?_ (fun hx => ?_); rotate_left; clear_value x)
    | (lift_lets; intro x; refine Frame.cut x ?_ (fun hx => ?_); rotate_left; clear_value x)
    | (lift_lets; intro x; with_reducible refine Frame.trans Frame.refl ?_) | with_reducible refine Answers.next ?_
    | with_reducible refine Answers.ite ?_ ?_
    | (with_reducible refine Frame.upd ?_ ?_ ?_; fail_if_success with_reducible exact ChangesOnly.refl)
    | with_reducible exact Frame.refl | with_reducible assumption
    | (with_reducible apply Frame.step State.at__frame; case k => decide)
    | (with_reducible apply Frame.step State.wakeUp_frame; case k => decide)
    | (with_reducible apply Frame.step State.writeStaged_frame; case k => decide)
    | (with_reducible apply Frame.step State.wr_frame; case k => decide) | with_reducible refine Frame.ite ?_ ?_ | split)

end Sys2Proof.Machine
end

