-- ==== Sys2Proof/Laws/TrailFrames.lean ====
section
/-! SUPPORT. What each operation of Machine/Trail.lean may change, and that it keeps the invariant of Safety.lean. -/
namespace Sys2Proof.Machine

theorem State.authDrop_frame {s : State} {slot : Nat} :
    Frame [.regs, .conns, .health, .free] s (State.authDrop s slot) := by
  unfold State.authDrop
  repeat' (first
    | (lift_lets; intro x; refine Frame.cut x ?_ (fun hx => ?_); rotate_left; clear_value x)
    | (lift_lets; intro x; with_reducible refine Frame.trans Frame.refl ?_)
    | (with_reducible refine Frame.upd ?_ ?_ ?_; fail_if_success with_reducible exact ChangesOnly.refl)
    | with_reducible exact Frame.refl | with_reducible assumption
    | (with_reducible apply Frame.step State.bump_frame; case k => decide)
    | (with_reducible apply Frame.step State.modConn_frame; case k => decide)
    | (with_reducible apply Frame.step errRecord_frame; case k => decide) | with_reducible refine Frame.ite ?_ ?_ | split)

theorem State.headerDrop_frame {s : State} :
    Frame [.regs] s (State.headerDrop s) := by
  unfold State.headerDrop
  repeat' (first
    | (with_reducible refine Frame.upd ?_ ?_ ?_; fail_if_success with_reducible exact ChangesOnly.refl)
    | with_reducible exact Frame.refl | (with_reducible apply Frame.step State.bump_frame; case k => decide))

theorem State.noteFill_frame {s : State} {l fill : Nat} :
    Frame [.links, .out] s (State.noteFill s l fill) := by
  unfold State.noteFill
  repeat' (first
    | (lift_lets; intro x; refine Frame.cut x ?_ (fun hx => ?_); rotate_left; clear_value x)
    | (lift_lets; intro x; with_reducible refine Frame.trans Frame.refl ?_)
    | (with_reducible refine Frame.upd ?_ ?_ ?_; fail_if_success with_reducible exact ChangesOnly.refl)
    | with_reducible exact Frame.refl | with_reducible assumption
    | (with_reducible apply Frame.step State.modLink_frame; case k => decide)
    | (with_reducible apply Frame.step State.emit_frame; case k => decide) | with_reducible refine Frame.ite ?_ ?_ | split)

theorem State.checks_frame {s : State} {p : Pkt} {types : List Nat} :
    Frame [.regs, .conns, .links, .comp, .health, .out, .free] s (State.checks s p types).2 := by
  unfold State.checks
  repeat' (first
    | (lift_lets; intro x; refine Frame.cut x ?_ (fun hx => ?_); rotate_left; clear_value x)
    | (lift_lets; intro x; with_reducible refine Frame.trans Frame.refl ?_)
    | (with_reducible refine Frame.upd ?_ ?_ ?_; fail_if_success with_reducible exact ChangesOnly.refl)
    | with_reducible exact Frame.refl | with_reducible assumption
    | (with_reducible apply Frame.step State.noteFill_frame; case k => decide)
    | (with_reducible apply Frame.step State.headerDrop_frame; case k => decide)
    | (with_reducible apply Frame.step State.authDrop_frame; case k => decide)
    | (with_reducible apply Frame.step State.modConn_frame; case k => decide) | with_reducible refine Frame.ite ?_ ?_
    | (intro p hp; cases p <;> first | exact absurd hp (by decide) | rfl) | (intro h; exact h.of_eq rfl rfl rfl rfl) | split)

theorem State.policeDrop_frame {s : State} {x : RxPkt} {cls bucket wait : Nat} :
    Frame [.ctxs, .conns, .links, .dbg, .out] s (State.policeDrop s x cls bucket wait) := by
  unfold State.policeDrop
  repeat' (first
    | (lift_lets; intro x; refine Frame.cut x ?_ (fun hx => ?_); rotate_left; clear_value x)
    | (lift_lets; intro x; with_reducible refine Frame.trans Frame.refl ?_)
    | (with_reducible refine Frame.upd ?_ ?_ ?_; fail_if_success with_reducible exact ChangesOnly.refl)
    | with_reducible exact Frame.refl | with_reducible assumption
    | (with_reducible apply Frame.step State.modConn_frame; case k => decide)
    | (with_reducible apply Frame.step State.sendControl_frame; case k => decide) | with_reducible refine Frame.ite ?_ ?_
    | (simp only [x]; split) | split)

theorem State.police_frame {s : State} {x : RxPkt} :
    Frame [.ctxs, .conns, .links, .dbg, .out] s (State.police s x).2 := by
  unfold State.police
  repeat' (first
    | (lift_lets; intro x; refine Frame.cut x ?_ (fun hx => ?_); rotate_left; clear_value x)
    | (lift_lets; intro x; with_reducible refine Frame.trans Frame.refl ?_)
    | (with_reducible refine Frame.upd ?_ ?_ ?_; fail_if_success with_reducible exact ChangesOnly.refl)
    | with_reducible exact Frame.refl | with_reducible assumption
    | (with_reducible apply Frame.step State.modConn_frame; case k => decide)
    | (with_reducible apply Frame.step State.policeDrop_frame; case k => decide) | with_reducible refine Frame.ite ?_ ?_
    | (simp only [x]; split) | split | dsimp only)

theorem State.modRx_frame {s : State} {slot id : Nat} {f : RxMsg → RxMsg} :
    Frame [.conns] s (State.modRx s slot id f) := by
  unfold State.modRx
  repeat' (first
    | (with_reducible refine Frame.upd ?_ ?_ ?_; fail_if_success with_reducible exact ChangesOnly.refl)
    | with_reducible exact Frame.refl | (with_reducible apply Frame.step State.modConn_frame; case k => decide))

theorem State.msgDone_frame {s : State} {slot id : Nat} {o : RxOutcome} :
    Frame [.conns] s (State.msgDone s slot id o) := by
  unfold State.msgDone
  repeat' (first
    | (lift_lets; intro x; refine Frame.cut x ?_ (fun hx => ?_); rotate_left; clear_value x)
    | (lift_lets; intro x; with_reducible refine Frame.trans Frame.refl ?_)
    | (with_reducible refine Frame.upd ?_ ?_ ?_; fail_if_success with_reducible exact ChangesOnly.refl)
    | with_reducible exact Frame.refl | with_reducible assumption
    | (with_reducible apply Frame.step State.modConn_frame; case k => decide) | split)

theorem State.answerNak_frame {s : State} {x : RxPkt} {code : Nat} {newEpoch hintPort : optParam Nat 0} {hint : optParam Bytes []} :
    Frame [.regs, .ctxs, .conns, .links, .dbg, .out] s (State.answerNak s x code newEpoch hintPort hint) := by
  unfold State.answerNak
  repeat' (first
    | (lift_lets; intro x; refine Frame.cut x ?_ (fun hx => ?_); rotate_left; clear_value x)
    | (lift_lets; intro x; with_reducible refine Frame.trans Frame.refl ?_)
    | (with_reducible refine Frame.upd ?_ ?_ ?_; fail_if_success with_reducible exact ChangesOnly.refl)
    | with_reducible exact Frame.refl | with_reducible assumption
    | (with_reducible apply Frame.step State.sendControl_frame; case k => decide)
    | (with_reducible apply Frame.step State.bump_frame; case k => decide)
    | (with_reducible apply Frame.step State.msgDone_frame; case k => decide) | with_reducible refine Frame.ite ?_ ?_ | split)

theorem State.sendSack_frame {s : State} {slot : Nat} :
    Frame [.ctxs, .conns, .links, .dbg, .out] s (State.sendSack s slot) := by
  unfold State.sendSack
  repeat' (first
    | (lift_lets; intro x; refine Frame.cut x ?_ (fun hx => ?_); rotate_left; clear_value x)
    | (lift_lets; intro x; with_reducible refine Frame.trans Frame.refl ?_)
    | (with_reducible refine Frame.upd ?_ ?_ ?_; fail_if_success with_reducible exact ChangesOnly.refl)
    | with_reducible exact Frame.refl | with_reducible assumption
    | (with_reducible apply Frame.step State.modConn_frame; case k => decide)
    | (with_reducible apply Frame.step State.sendControl_frame; case k => decide) | with_reducible refine Frame.ite ?_ ?_ | split)

theorem State.noteArrival_frame {s : State} {x : RxPkt} {now_ : Bool} :
    Frame [.ctxs, .conns, .links, .dbg, .out] s (State.noteArrival s x now_) := by
  unfold State.noteArrival
  repeat' (first
    | (lift_lets; intro x; refine Frame.cut x ?_ (fun hx => ?_); rotate_left; clear_value x)
    | (lift_lets; intro x; with_reducible refine Frame.trans Frame.refl ?_)
    | (with_reducible refine Frame.upd ?_ ?_ ?_; fail_if_success with_reducible exact ChangesOnly.refl)
    | with_reducible exact Frame.refl | with_reducible assumption
    | (with_reducible apply Frame.step State.modConn_frame; case k => decide)
    | (with_reducible apply Frame.step State.sendSack_frame; case k => decide) | with_reducible refine Frame.ite ?_ ?_ | split)

theorem execSackDelayExpiry_frame {t slot : Nat} {s : State} :
    Answers [.now, .ctxs, .conns, .links, .dbg, .out] s (execSackDelayExpiry t slot s) := by
  unfold execSackDelayExpiry
  repeat' (first
    | (lift_lets; intro x; refine Answers.cut x ?_ (fun hx => ?_); rotate_left; clear_value x)
    | (lift_lets; intro x; refine Frame.cut x ?_ (fun hx => ?_); rotate_left; clear_value x)
    | (lift_lets; intro x; with_reducible refine Frame.trans Frame.refl ?_) | with_reducible refine Answers.next ?_
    | with_reducible refine Answers.ite ?_ ?_
    | (with_reducible refine Frame.upd ?_ ?_ ?_; fail_if_success with_reducible exact ChangesOnly.refl)
    | with_reducible exact Frame.refl | with_reducible assumption
    | (with_reducible apply Frame.step State.at__frame; case k => decide)
    | (with_reducible apply Frame.step State.sendSack_frame; case k => decide) | with_reducible refine Frame.ite ?_ ?_ | split)

theorem State.answerDup_frame {s : State} {x : RxPkt} :
    Frame [.regs, .ctxs, .conns, .links, .dbg, .out] s (State.answerDup s x) := by
  unfold State.answerDup
  repeat' (first
    | (with_reducible refine Frame.upd ?_ ?_ ?_; fail_if_success with_reducible exact ChangesOnly.refl)
    | with_reducible exact Frame.refl | (with_reducible apply Frame.step State.sendControl_frame; case k => decide)
    | (with_reducible apply Frame.step State.bump_frame; case k => decide)
    | (with_reducible apply Frame.step State.emit_frame; case k => decide)
    | (with_reducible apply Frame.step State.sendAtomicResp_frame; case k => decide)
    | (with_reducible apply Frame.step State.noteArrival_frame; case k => decide) | split)

theorem State.window_frame {s : State} {x : RxPkt} :
    Frame [.regs, .ctxs, .conns, .links, .dbg, .out] s (State.window s x).2 := by
  have drop {t : State} {f : Field} : Frame [.regs, .ctxs, .conns, .links, .dbg, .out] t (t.bump f) := Frame.mono State.bump_frame (by decide)
  have dup : Frame [.regs, .ctxs, .conns, .links, .dbg, .out] s (s.answerDup x) := Frame.mono State.answerDup_frame (by decide)
  have nak {n : Nat} : Frame [.regs, .ctxs, .conns, .links, .dbg, .out] s (s.answerNak x n) := Frame.mono State.answerNak_frame (by decide)
  have ite {c : Prop} [Decidable c] {p q : Bool × State} (h : Frame [.regs, .ctxs, .conns, .links, .dbg, .out] s p.2) (k : Frame [.regs, .ctxs, .conns, .links, .dbg, .out] s q.2) :
      Frame [.regs, .ctxs, .conns, .links, .dbg, .out] s (if c then p else q).2 := by split <;> assumption
  unfold State.window
  split
  · exact .refl
  · exact ite (ite dup .refl) (ite dup (ite (ite nak drop) (nak.trans drop)))

theorem State.receive_frame {ps : List Part} {s : State} {p : Pkt} {types : List Nat} {deliver : State → RxPkt → State}
    (h : ∀ t x, Frame ps t (deliver t x))
    (k : [Part.regs, .ctxs, .conns, .links, .comp, .health, .dbg, .out, .free].all ps.contains = true) :
    Frame ps s (s.receive p types deliver) := by
  have sub {qs : List Part} {t u : State} (f : Frame qs t u)
      (j : qs.all [Part.regs, .ctxs, .conns, .links, .comp, .health, .dbg, .out, .free].contains = true) : Frame ps t u := (f.mono j).mono k
  unfold State.receive
  split
  · exact .of_pair (by assumption) (sub State.checks_frame (by decide))
  · refine .trans (.of_pair (by assumption) (sub State.checks_frame (by decide))) ?_
    split
    · exact .of_pair (by assumption) (sub State.police_frame (by decide))
    · refine .trans (.of_pair (by assumption) (sub State.police_frame (by decide))) ?_
      split
      · exact sub State.bump_frame (by decide)
      · exact sub State.answerNak_frame (by decide)
      · split
        · exact .of_pair (by assumption) (sub State.window_frame (by decide))
        · refine .trans (.of_pair (by assumption) (sub State.window_frame (by decide))) ?_
          exact (h _ _).trans (sub State.noteArrival_frame (by decide))

theorem State.openMsg_frame {s : State} {x : RxPkt} :
    Frame [.conns] s (State.openMsg s x).2 := by
  unfold State.openMsg
  repeat' (first
    | (lift_lets; intro x; refine Frame.cut x ?_ (fun hx => ?_); rotate_left; clear_value x)
    | (lift_lets; intro x; with_reducible refine Frame.trans Frame.refl ?_)
    | (with_reducible refine Frame.upd ?_ ?_ ?_; fail_if_success with_reducible exact ChangesOnly.refl)
    | with_reducible exact Frame.refl | with_reducible assumption
    | (with_reducible apply Frame.step State.modConn_frame; case k => decide) | split)

theorem State.holdMsg_frame {s : State} {x : RxPkt} :
    Frame [.conns] s (State.holdMsg s x) := by
  unfold State.holdMsg
  repeat' (first
    | (lift_lets; intro x; refine Frame.cut x ?_ (fun hx => ?_); rotate_left; clear_value x)
    | (lift_lets; intro x; with_reducible refine Frame.trans Frame.refl ?_)
    | (with_reducible refine Frame.upd ?_ ?_ ?_; fail_if_success with_reducible exact ChangesOnly.refl)
    | with_reducible exact Frame.refl | with_reducible assumption
    | (with_reducible apply Frame.step State.openMsg_frame; case k => decide)
    | (with_reducible apply Frame.step State.modRx_frame; case k => decide) | with_reducible refine Frame.ite ?_ ?_
    | with_reducible refine Frame.of_pair (by assumption) ?_ | split | dsimp only)

theorem State.xwrite_frame {s : State} {ctx addr : Nat} {b : Bytes} :
    Frame [.ctxs] s (State.xwrite s ctx addr b) := by
  exact State.modCtx_frame ⟨fun _ h => Memory.writeN_wf h, fun _ h => h⟩

theorem State.placeWrite_frame {s : State} {x : RxPkt} :
    Frame [.regs, .ctxs, .conns, .links, .dbg, .out] s (State.placeWrite s x) := by
  unfold State.placeWrite
  repeat' (first
    | (lift_lets; intro x; refine Frame.cut x ?_ (fun hx => ?_); rotate_left; clear_value x)
    | (lift_lets; intro x; with_reducible refine Frame.trans Frame.refl ?_)
    | (with_reducible refine Frame.upd ?_ ?_ ?_; fail_if_success with_reducible exact ChangesOnly.refl)
    | with_reducible exact Frame.refl | with_reducible assumption
    | (with_reducible apply Frame.step State.openMsg_frame; case k => decide)
    | (with_reducible apply Frame.step State.answerNak_frame; case k => decide)
    | (with_reducible apply Frame.step State.xwrite_frame; case k => decide)
    | (with_reducible apply Frame.step State.modRx_frame; case k => decide)
    | (with_reducible apply Frame.step State.msgDone_frame; case k => decide) | with_reducible refine Frame.ite ?_ ?_
    | (simp only [x]; split) | with_reducible refine Frame.of_pair (by assumption) ?_ | split | dsimp only)

theorem State.deliverWrite_frame {s : State} {x : RxPkt} :
    Frame [.regs, .ctxs, .conns, .links, .dbg, .out] s (State.deliverWrite s x) := by
  unfold State.deliverWrite
  repeat' (first
    | (lift_lets; intro x; refine Frame.cut x ?_ (fun hx => ?_); rotate_left; clear_value x)
    | (lift_lets; intro x; with_reducible refine Frame.trans Frame.refl ?_)
    | (with_reducible refine Frame.upd ?_ ?_ ?_; fail_if_success with_reducible exact ChangesOnly.refl)
    | with_reducible exact Frame.refl | with_reducible assumption
    | (with_reducible apply Frame.step State.answerNak_frame; case k => decide)
    | (with_reducible apply Frame.step State.placeWrite_frame; case k => decide)
    | (with_reducible apply Frame.step State.holdMsg_frame; case k => decide) | with_reducible refine Frame.ite ?_ ?_ | split)

theorem execWrite_frame {t : Nat} {p : Pkt} {s : State} :
    Answers [.now, .regs, .ctxs, .conns, .links, .comp, .health, .dbg, .out, .free] s (execWrite t p s) := by
  refine .next ((Frame.mono State.at__frame (by decide)).trans (State.receive_frame (fun _ _ => ?_) (by decide)))
  exact Frame.mono State.deliverWrite_frame (by decide)

theorem State.respFrames_frame {s : State} {slot msg : Nat} {data : Bytes} {i y5 : Nat} :
    Frame [.itin, .ctxs, .conns, .links, .dbg, .out] s (State.respFrames s slot msg data i y5) := by
  induction y5 generalizing s slot msg data i with
  | zero => exact .refl
  | succ n ih =>
  unfold State.respFrames
  repeat' (first
    | (with_reducible apply Frame.step ih; case k => decide)
    | (with_reducible refine Frame.upd ?_ ?_ ?_; fail_if_success with_reducible exact ChangesOnly.refl)
    | with_reducible exact Frame.refl | (with_reducible apply Frame.step State.sendReadResp_frame; case k => decide) | split)

theorem State.serveRead_frame {s : State} {slot msg addr len : Nat} :
    Frame [.itin, .ctxs, .conns, .links, .dbg, .out] s (State.serveRead s slot msg addr len) := by
  unfold State.serveRead
  repeat' (first
    | (lift_lets; intro x; refine Frame.cut x ?_ (fun hx => ?_); rotate_left; clear_value x)
    | (lift_lets; intro x; with_reducible refine Frame.trans Frame.refl ?_)
    | (with_reducible refine Frame.upd ?_ ?_ ?_; fail_if_success with_reducible exact ChangesOnly.refl)
    | with_reducible exact Frame.refl | with_reducible assumption
    | (with_reducible apply Frame.step State.msgDone_frame; case k => decide)
    | (with_reducible apply Frame.step State.emit_frame; case k => decide)
    | (with_reducible apply Frame.step State.respFrames_frame; case k => decide) | split)

theorem State.deliverRead_frame {s : State} {x : RxPkt} :
    Frame [.regs, .itin, .ctxs, .conns, .links, .dbg, .out] s (State.deliverRead s x) := by
  unfold State.deliverRead
  repeat' (first
    | (lift_lets; intro x; refine Frame.cut x ?_ (fun hx => ?_); rotate_left; clear_value x)
    | (lift_lets; intro x; with_reducible refine Frame.trans Frame.refl ?_)
    | (with_reducible refine Frame.upd ?_ ?_ ?_; fail_if_success with_reducible exact ChangesOnly.refl)
    | with_reducible exact Frame.refl | with_reducible assumption
    | (with_reducible apply Frame.step State.answerNak_frame; case k => decide)
    | (with_reducible apply Frame.step State.holdMsg_frame; case k => decide)
    | (with_reducible apply Frame.step State.serveRead_frame; case k => decide) | with_reducible refine Frame.ite ?_ ?_ | split)

theorem execReadReq_frame {t : Nat} {p : Pkt} {s : State} :
    Answers [.now, .regs, .itin, .ctxs, .conns, .links, .comp, .health, .dbg, .out, .free] s (execReadReq t p s) := by
  refine .next ((Frame.mono State.at__frame (by decide)).trans (State.receive_frame (fun _ _ => ?_) (by decide)))
  exact Frame.mono State.deliverRead_frame (by decide)

theorem State.runAtomic_frame {s : State} {slot msg type addr : Nat} {payload : Bytes} :
    Frame [.ctxs, .conns, .links, .dbg, .out] s (State.runAtomic s slot msg type addr payload) := by
  unfold State.runAtomic
  repeat' (first
    | (lift_lets; intro x; refine Frame.cut x ?_ (fun hx => ?_); rotate_left; clear_value x)
    | (lift_lets; intro x; with_reducible refine Frame.trans Frame.refl ?_)
    | (with_reducible refine Frame.upd ?_ ?_ ?_; fail_if_success with_reducible exact ChangesOnly.refl)
    | with_reducible exact Frame.refl | with_reducible assumption
    | (with_reducible apply Frame.step State.xwrite_frame; case k => decide)
    | (with_reducible apply Frame.step State.msgDone_frame; case k => decide)
    | (with_reducible apply Frame.step State.emit_frame; case k => decide)
    | (with_reducible apply Frame.step State.sendAtomicResp_frame; case k => decide) | with_reducible refine Frame.ite ?_ ?_
    | (simp only [x]; split) | split | dsimp only)

theorem State.deliverAtomic_frame {s : State} {x : RxPkt} :
    Frame [.regs, .ctxs, .conns, .links, .dbg, .out] s (State.deliverAtomic s x) := by
  unfold State.deliverAtomic
  repeat' (first
    | (lift_lets; intro x; refine Frame.cut x ?_ (fun hx => ?_); rotate_left; clear_value x)
    | (lift_lets; intro x; with_reducible refine Frame.trans Frame.refl ?_)
    | (with_reducible refine Frame.upd ?_ ?_ ?_; fail_if_success with_reducible exact ChangesOnly.refl)
    | with_reducible exact Frame.refl | with_reducible assumption
    | (with_reducible apply Frame.step State.answerNak_frame; case k => decide)
    | (with_reducible apply Frame.step State.holdMsg_frame; case k => decide)
    | (with_reducible apply Frame.step State.runAtomic_frame; case k => decide) | with_reducible refine Frame.ite ?_ ?_ | split)

theorem execAtomicAdd_frame {t : Nat} {p : Pkt} {s : State} :
    Answers [.now, .regs, .ctxs, .conns, .links, .comp, .health, .dbg, .out, .free] s (execAtomicAdd t p s) := by
  refine .next ((Frame.mono State.at__frame (by decide)).trans (State.receive_frame (fun _ _ => ?_) (by decide)))
  exact Frame.mono State.deliverAtomic_frame (by decide)

theorem execAtomicCas_frame {t : Nat} {p : Pkt} {s : State} :
    Answers [.now, .regs, .ctxs, .conns, .links, .comp, .health, .dbg, .out, .free] s (execAtomicCas t p s) := by
  refine .next ((Frame.mono State.at__frame (by decide)).trans (State.receive_frame (fun _ _ => ?_) (by decide)))
  exact Frame.mono State.deliverAtomic_frame (by decide)

theorem execRegionRegister_frame {t : Nat} {ctl : Word} {s : State} :
    Answers [.now, .regs, .live, .regions, .power] s (execRegionRegister t ctl s) := by
  unfold execRegionRegister
  repeat' (first
    | (lift_lets; intro x; refine Answers.cut x ?_ (fun hx => ?_); rotate_left; clear_value x)
    | (lift_lets; intro x; refine Frame.cut x ?_ (fun hx => ?_); rotate_left; clear_value x)
    | (lift_lets; intro x; with_reducible refine Frame.trans Frame.refl ?_) | with_reducible refine Answers.next ?_
    | with_reducible refine Answers.ite ?_ ?_
    | (with_reducible refine Frame.upd ?_ ?_ ?_; fail_if_success with_reducible exact ChangesOnly.refl)
    | with_reducible exact Frame.refl | with_reducible assumption
    | (with_reducible apply Frame.step State.at__frame; case k => decide)
    | (with_reducible apply Frame.step State.ctlWrite_frame; case k => decide)
    | (with_reducible apply Frame.step State.opEnd_frame; case k => decide) | with_reducible refine Frame.ite ?_ ?_
    | (intro p hp; cases p <;> first | exact absurd hp (by decide) | rfl) | (intro h; exact h.of_eq rfl rfl rfl rfl) | split)

theorem State.settleRevocation_frame {s : State} {idx : Nat} :
    Frame [.regs, .regions] s (State.settleRevocation s idx) := by
  unfold State.settleRevocation
  repeat' (first
    | (with_reducible refine Frame.upd ?_ ?_ ?_; fail_if_success with_reducible exact ChangesOnly.refl)
    | with_reducible exact Frame.refl | (with_reducible apply Frame.step State.opEnd_frame; case k => decide)
    | with_reducible refine Frame.ite ?_ ?_ | (intro p hp; cases p <;> first | exact absurd hp (by decide) | rfl)
    | (intro h; exact h.of_eq rfl rfl rfl rfl) | split)

theorem execRegionRevoke_frame {t : Nat} {ctl : Word} {s : State} :
    Answers [.now, .regs, .live, .regions, .power] s (execRegionRevoke t ctl s) := by
  unfold execRegionRevoke
  repeat' (first
    | (lift_lets; intro x; refine Answers.cut x ?_ (fun hx => ?_); rotate_left; clear_value x)
    | (lift_lets; intro x; refine Frame.cut x ?_ (fun hx => ?_); rotate_left; clear_value x)
    | (lift_lets; intro x; with_reducible refine Frame.trans Frame.refl ?_) | with_reducible refine Answers.next ?_
    | with_reducible refine Answers.ite ?_ ?_
    | (with_reducible refine Frame.upd ?_ ?_ ?_; fail_if_success with_reducible exact ChangesOnly.refl)
    | with_reducible exact Frame.refl | with_reducible assumption
    | (with_reducible apply Frame.step State.at__frame; case k => decide)
    | (with_reducible apply Frame.step State.ctlWrite_frame; case k => decide)
    | (with_reducible apply Frame.step State.settleRevocation_frame; case k => decide)
    | (with_reducible apply Frame.step State.opEnd_frame; case k => decide) | with_reducible refine Frame.ite ?_ ?_
    | (intro p hp; cases p <;> first | exact absurd hp (by decide) | rfl) | (intro h; exact h.of_eq rfl rfl rfl rfl) | split)

theorem State.abandonMsg_frame {s : State} {slot id : Nat} :
    Frame [.regs, .ctxs, .conns, .links, .dbg, .out] s (State.abandonMsg s slot id) := by
  unfold State.abandonMsg
  repeat' (first
    | (lift_lets; intro x; refine Frame.cut x ?_ (fun hx => ?_); rotate_left; clear_value x)
    | (lift_lets; intro x; with_reducible refine Frame.trans Frame.refl ?_)
    | (with_reducible refine Frame.upd ?_ ?_ ?_; fail_if_success with_reducible exact ChangesOnly.refl)
    | with_reducible exact Frame.refl | with_reducible assumption
    | (with_reducible apply Frame.step State.msgDone_frame; case k => decide)
    | (with_reducible apply Frame.step State.sendControl_frame; case k => decide)
    | (with_reducible apply Frame.step State.bump_frame; case k => decide)
    | (with_reducible apply Frame.step State.modRx_frame; case k => decide) | with_reducible refine Frame.ite ?_ ?_ | split)

theorem execRevocationAbandon_frame {t index : Nat} {s : State} :
    Answers [.now, .regs, .ctxs, .conns, .regions, .links, .dbg, .out] s (execRevocationAbandon t index s) := by
  unfold execRevocationAbandon
  repeat' (first
    | (lift_lets; intro x; refine Answers.cut x ?_ (fun hx => ?_); rotate_left; clear_value x)
    | (lift_lets; intro x; refine Frame.cut x ?_ (fun hx => ?_); rotate_left; clear_value x)
    | (lift_lets; intro x; with_reducible refine Frame.trans Frame.refl ?_) | with_reducible refine Answers.next ?_
    | with_reducible refine Answers.ite ?_ ?_
    | (with_reducible refine Frame.upd ?_ ?_ ?_; fail_if_success with_reducible exact ChangesOnly.refl)
    | with_reducible exact Frame.refl | with_reducible assumption
    | (with_reducible apply Frame.step State.at__frame; case k => decide)
    | (with_reducible apply Frame.step State.settleRevocation_frame; case k => decide)
    | (with_reducible apply Frame.step State.abandonMsg_frame; case k => decide) | with_reducible refine Frame.ite ?_ ?_
    | with_reducible refine Frame.foldl (fun _ _ => ?_) ?_ | with_reducible refine Frame.foldl_snd (fun _ _ => ?_) ?_ | split
    | dsimp only)

theorem execRevocationComplete_frame {t index : Nat} {s : State} :
    Answers [.now, .regs, .regions] s (execRevocationComplete t index s) := by
  unfold execRevocationComplete
  repeat' (first
    | with_reducible refine Answers.next ?_ | with_reducible refine Answers.ite ?_ ?_
    | (with_reducible refine Frame.upd ?_ ?_ ?_; fail_if_success with_reducible exact ChangesOnly.refl)
    | with_reducible exact Frame.refl | (with_reducible apply Frame.step State.settleRevocation_frame; case k => decide)
    | (with_reducible apply Frame.step State.at__frame; case k => decide))

end Sys2Proof.Machine
end

