-- ==== Sys2Proof/Laws/RepairFrames.lean ====
section
/-! SUPPORT. What each operation of Machine/Repair.lean may change, and that it keeps the invariant of Safety.lean. -/
namespace Sys2Proof.Machine

theorem State.keepJournals_frame {s : State} {slot : Nat} {msgs : List (Nat × Bytes)} :
    Frame [.comp] s (State.keepJournals s slot msgs) := by
  unfold State.keepJournals
  repeat' (first
    | (lift_lets; intro x; refine Frame.cut x ?_ (fun hx => ?_); rotate_left; clear_value x)
    | (lift_lets; intro x; with_reducible refine Frame.trans Frame.refl ?_)
    | (with_reducible refine Frame.upd ?_ ?_ ?_; fail_if_success with_reducible exact ChangesOnly.refl)
    | with_reducible exact Frame.refl | with_reducible assumption | with_reducible refine Frame.ite ?_ ?_
    | (intro p hp; cases p <;> first | exact absurd hp (by decide) | rfl) | (intro h; exact h.of_eq rfl rfl rfl rfl) | split)

theorem State.resendJournal_frame {s : State} {slot : Nat} {a : Nat × Nat × Bytes} :
    Frame [.itin, .reqs, .ctxs, .conns, .links, .comp, .dbg, .out] s (State.resendJournal s slot a) := by
  unfold State.resendJournal
  repeat' (first
    | (lift_lets; intro x; refine Frame.cut x ?_ (fun hx => ?_); rotate_left; clear_value x)
    | (lift_lets; intro x; with_reducible refine Frame.trans Frame.refl ?_)
    | (with_reducible refine Frame.upd ?_ ?_ ?_; fail_if_success with_reducible exact ChangesOnly.refl)
    | with_reducible exact Frame.refl | with_reducible assumption
    | (with_reducible apply Frame.step State.sendSend_frame; case k => decide) | with_reducible refine Frame.ite ?_ ?_
    | (intro p hp; cases p <;> first | exact absurd hp (by decide) | rfl) | (intro h; exact h.of_eq rfl rfl rfl rfl)
    | (simp only [x]; split) | split)

theorem State.resendJournals_frame {s : State} {slot : Nat} :
    Frame [.itin, .reqs, .ctxs, .conns, .links, .comp, .dbg, .out] s (State.resendJournals s slot) := by
  unfold State.resendJournals
  repeat' (first
    | (lift_lets; intro x; refine Frame.cut x ?_ (fun hx => ?_); rotate_left; clear_value x)
    | (lift_lets; intro x; with_reducible refine Frame.trans Frame.refl ?_)
    | (with_reducible refine Frame.upd ?_ ?_ ?_; fail_if_success with_reducible exact ChangesOnly.refl)
    | with_reducible exact Frame.refl | with_reducible assumption
    | (with_reducible apply Frame.step State.resendJournal_frame; case k => decide)
    | with_reducible refine Frame.foldl (fun _ _ => ?_) ?_ | with_reducible refine Frame.foldl_snd (fun _ _ => ?_) ?_ | dsimp only)

theorem State.unsendShares_frame {s : State} {slot : Nat} :
    Frame [.reqs] s (State.unsendShares s slot) := by
  unfold State.unsendShares
  repeat' (first
    | (lift_lets; intro x; refine Frame.cut x ?_ (fun hx => ?_); rotate_left; clear_value x)
    | (lift_lets; intro x; with_reducible refine Frame.trans Frame.refl ?_)
    | (with_reducible refine Frame.upd ?_ ?_ ?_; fail_if_success with_reducible exact ChangesOnly.refl)
    | with_reducible exact Frame.refl | with_reducible assumption | with_reducible refine Frame.ite ?_ ?_
    | (intro p hp; cases p <;> first | exact absurd hp (by decide) | rfl) | (intro h; exact h.of_eq rfl rfl rfl rfl) | split)

theorem State.loseConn_frame {s : State} {slot : Nat} :
    Frame [.reqs, .ctxs, .comp] s (State.loseConn s slot) := by
  unfold State.loseConn
  repeat' (first
    | (lift_lets; intro x; refine Frame.cut x ?_ (fun hx => ?_); rotate_left; clear_value x)
    | (lift_lets; intro x; with_reducible refine Frame.trans Frame.refl ?_)
    | (with_reducible refine Frame.upd ?_ ?_ ?_; fail_if_success with_reducible exact ChangesOnly.refl)
    | with_reducible exact Frame.refl | with_reducible assumption
    | (with_reducible apply Frame.step State.unsendShares_frame; case k => decide)
    | (with_reducible apply Frame.step State.keepJournals_frame; case k => decide)
    | (with_reducible apply Frame.step State.settleRetiring_frame; case k => decide)
    | (intro p hp; cases p <;> first | exact absurd hp (by decide) | rfl) | (intro h; exact h.of_eq rfl rfl rfl rfl) | split)

theorem State.connFail_frame {s : State} {slot : Nat} {cause : optParam Nat 0} :
    Frame [.regs, .reqs, .ctxs, .conns, .comp, .health, .free] s (State.connFail s slot cause) := by
  unfold State.connFail
  repeat' (first
    | (lift_lets; intro x; refine Frame.cut x ?_ (fun hx => ?_); rotate_left; clear_value x)
    | (lift_lets; intro x; with_reducible refine Frame.trans Frame.refl ?_)
    | (with_reducible refine Frame.upd ?_ ?_ ?_; fail_if_success with_reducible exact ChangesOnly.refl)
    | with_reducible exact Frame.refl | with_reducible assumption
    | (with_reducible apply Frame.step errRecord_frame; case k => decide)
    | (with_reducible apply Frame.step State.bump_frame; case k => decide)
    | (with_reducible apply Frame.step State.silenceConn_frame; case k => decide)
    | (with_reducible apply Frame.step State.loseConn_frame; case k => decide)
    | (with_reducible apply Frame.step State.modConn_frame; case k => decide) | with_reducible refine Frame.ite ?_ ?_ | split)

theorem State.resend_frame {s : State} {slot : Nat} {c : Conn} {k : TxPkt} {w : Way} :
    Frame [.regs, .conns, .out] s (State.resend s slot c k w) := by
  unfold State.resend
  repeat' (first
    | (with_reducible refine Frame.upd ?_ ?_ ?_; fail_if_success with_reducible exact ChangesOnly.refl)
    | with_reducible exact Frame.refl | (with_reducible apply Frame.step State.emit_frame; case k => decide)
    | (with_reducible apply Frame.step State.bump_frame; case k => decide)
    | (with_reducible apply Frame.step State.transmit_frame; case k => decide))

theorem State.retransmit_frame {s : State} {slot : Nat} {k : TxPkt} :
    Frame [.regs, .itin, .reqs, .ctxs, .conns, .links, .comp, .health, .dbg, .out, .free] s (State.retransmit s slot k) := by
  unfold State.retransmit
  repeat' (first
    | (lift_lets; intro x; refine Frame.cut x ?_ (fun hx => ?_); rotate_left; clear_value x)
    | (lift_lets; intro x; with_reducible refine Frame.trans Frame.refl ?_)
    | (with_reducible refine Frame.upd ?_ ?_ ?_; fail_if_success with_reducible exact ChangesOnly.refl)
    | with_reducible exact Frame.refl | with_reducible assumption
    | (with_reducible apply Frame.step State.connFail_frame; case k => decide)
    | (with_reducible apply Frame.step State.modPkt_frame; case k => decide)
    | (with_reducible apply Frame.step State.placeFrame_frame; case k => decide)
    | (with_reducible apply Frame.step State.resend_frame; case k => decide) | with_reducible refine Frame.ite ?_ ?_
    | with_reducible refine Frame.of_pair (by assumption) ?_ | split | dsimp only)

theorem State.retransmitAll_frame {s : State} {slot : Nat} {ks : List TxPkt} :
    Frame [.regs, .itin, .reqs, .ctxs, .conns, .links, .comp, .health, .dbg, .out, .free] s (State.retransmitAll s slot ks) := by
  unfold State.retransmitAll
  repeat' (first
    | (with_reducible refine Frame.upd ?_ ?_ ?_; fail_if_success with_reducible exact ChangesOnly.refl)
    | with_reducible exact Frame.refl | (with_reducible apply Frame.step State.retransmit_frame; case k => decide)
    | with_reducible refine Frame.foldl (fun _ _ => ?_) ?_ | with_reducible refine Frame.foldl_snd (fun _ _ => ?_) ?_ | dsimp only)

theorem State.flushConn_frame {s : State} {slot : Nat} :
    Frame [.regs, .itin, .reqs, .ctxs, .conns, .links, .comp, .health, .dbg, .out, .free] s (State.flushConn s slot) := by
  unfold State.flushConn
  repeat' (first
    | (with_reducible refine Frame.upd ?_ ?_ ?_; fail_if_success with_reducible exact ChangesOnly.refl)
    | with_reducible exact Frame.refl | (with_reducible apply Frame.step State.releaseHeld_frame; case k => decide)
    | (with_reducible apply Frame.step State.retransmitAll_frame; case k => decide) | split)

theorem execReorderAllowanceExpiry_frame {t slot msg offset : Nat} {s : State} :
    Answers [.now, .regs, .itin, .reqs, .ctxs, .conns, .links, .comp, .health, .dbg, .out, .free] s (execReorderAllowanceExpiry t slot msg offset s) := by
  unfold execReorderAllowanceExpiry
  repeat' (first
    | (lift_lets; intro x; refine Answers.cut x ?_ (fun hx => ?_); rotate_left; clear_value x)
    | (lift_lets; intro x; refine Frame.cut x ?_ (fun hx => ?_); rotate_left; clear_value x)
    | (lift_lets; intro x; with_reducible refine Frame.trans Frame.refl ?_) | with_reducible refine Answers.next ?_
    | with_reducible refine Answers.ite ?_ ?_
    | (with_reducible refine Frame.upd ?_ ?_ ?_; fail_if_success with_reducible exact ChangesOnly.refl)
    | with_reducible exact Frame.refl | with_reducible assumption
    | (with_reducible apply Frame.step State.at__frame; case k => decide)
    | (with_reducible apply Frame.step State.retransmitAll_frame; case k => decide) | split)

theorem execRtoExpiry_frame {t slot path : Nat} {s : State} :
    Answers [.now, .regs, .itin, .reqs, .ctxs, .conns, .links, .comp, .health, .dbg, .out, .free] s (execRtoExpiry t slot path s) := by
  unfold execRtoExpiry
  repeat' (first
    | (lift_lets; intro x; refine Answers.cut x ?_ (fun hx => ?_); rotate_left; clear_value x)
    | (lift_lets; intro x; refine Frame.cut x ?_ (fun hx => ?_); rotate_left; clear_value x)
    | (lift_lets; intro x; with_reducible refine Frame.trans Frame.refl ?_) | with_reducible refine Answers.next ?_
    | with_reducible refine Answers.ite ?_ ?_
    | (with_reducible refine Frame.upd ?_ ?_ ?_; fail_if_success with_reducible exact ChangesOnly.refl)
    | with_reducible exact Frame.refl | with_reducible assumption
    | (with_reducible apply Frame.step State.at__frame; case k => decide)
    | (with_reducible apply Frame.step State.modConn_frame; case k => decide)
    | (with_reducible apply Frame.step State.bump_frame; case k => decide)
    | (with_reducible apply Frame.step State.retransmitAll_frame; case k => decide) | with_reducible refine Frame.ite ?_ ?_ | split)

theorem execDeadTimer_frame {t slot : Nat} {s : State} :
    Answers [.now, .regs, .reqs, .ctxs, .conns, .comp, .health, .free] s (execDeadTimer t slot s) := by
  unfold execDeadTimer
  repeat' (first
    | (lift_lets; intro x; refine Answers.cut x ?_ (fun hx => ?_); rotate_left; clear_value x)
    | (lift_lets; intro x; refine Frame.cut x ?_ (fun hx => ?_); rotate_left; clear_value x)
    | (lift_lets; intro x; with_reducible refine Frame.trans Frame.refl ?_) | with_reducible refine Answers.next ?_
    | with_reducible refine Answers.ite ?_ ?_
    | (with_reducible refine Frame.upd ?_ ?_ ?_; fail_if_success with_reducible exact ChangesOnly.refl)
    | with_reducible exact Frame.refl | with_reducible assumption
    | (with_reducible apply Frame.step State.at__frame; case k => decide)
    | (with_reducible apply Frame.step State.connFail_frame; case k => decide) | with_reducible refine Frame.ite ?_ ?_ | split)

theorem execPathProbe_frame {t slot path : Nat} {s : State} :
    Answers [.now, .regs, .itin, .ctxs, .conns, .links, .dbg, .out] s (execPathProbe t slot path s) := by
  unfold execPathProbe
  repeat' (first
    | (lift_lets; intro x; refine Answers.cut x ?_ (fun hx => ?_); rotate_left; clear_value x)
    | (lift_lets; intro x; refine Frame.cut x ?_ (fun hx => ?_); rotate_left; clear_value x)
    | (lift_lets; intro x; with_reducible refine Frame.trans Frame.refl ?_) | with_reducible refine Answers.next ?_
    | with_reducible refine Answers.ite ?_ ?_
    | (with_reducible refine Frame.upd ?_ ?_ ?_; fail_if_success with_reducible exact ChangesOnly.refl)
    | with_reducible exact Frame.refl | with_reducible assumption
    | (with_reducible apply Frame.step State.at__frame; case k => decide)
    | (with_reducible apply Frame.step State.modConn_frame; case k => decide)
    | (with_reducible apply Frame.step State.placeOn_frame; case k => decide)
    | (with_reducible apply Frame.step State.resend_frame; case k => decide) | with_reducible refine Frame.ite ?_ ?_
    | with_reducible refine Frame.of_pair (by assumption) ?_ | split | dsimp only)

theorem State.onSack_frame {s : State} {slot : Nat} {b : SackBody} :
    Frame [.regs, .itin, .reqs, .ctxs, .engines, .locals, .conns, .links, .comp, .health, .dbg, .out, .free] s (State.onSack s slot b) := by
  unfold State.onSack
  repeat' (first
    | (lift_lets; intro x; refine Frame.cut x ?_ (fun hx => ?_); rotate_left; clear_value x)
    | (lift_lets; intro x; with_reducible refine Frame.trans Frame.refl ?_)
    | (with_reducible refine Frame.upd ?_ ?_ ?_; fail_if_success with_reducible exact ChangesOnly.refl)
    | with_reducible exact Frame.refl | with_reducible assumption
    | (with_reducible apply Frame.step State.modConn_frame; case k => decide)
    | (with_reducible apply Frame.step State.retransmitAll_frame; case k => decide)
    | (with_reducible apply Frame.step State.flushConn_frame; case k => decide)
    | (with_reducible apply Frame.step State.settleAll_frame; case k => decide)
    | (with_reducible apply Frame.step State.settleLag_frame; case k => decide) | with_reducible refine Frame.ite ?_ ?_
    | (simp only [x]; split) | split)

theorem execSack_frame {t : Nat} {p : Pkt} {s : State} :
    Answers [.now, .regs, .itin, .reqs, .ctxs, .engines, .locals, .conns, .links, .comp, .health, .dbg, .out, .free] s (execSack t p s) := by
  unfold execSack
  repeat' (first
    | with_reducible refine Answers.next ?_ | with_reducible refine Answers.ite ?_ ?_
    | (with_reducible refine Frame.upd ?_ ?_ ?_; fail_if_success with_reducible exact ChangesOnly.refl)
    | with_reducible exact Frame.refl | (with_reducible apply Frame.step State.checks_frame; case k => decide)
    | (with_reducible apply Frame.step State.at__frame; case k => decide)
    | (with_reducible apply Frame.step State.onSack_frame; case k => decide)
    | with_reducible refine Frame.of_pair (by assumption) ?_ | split)

theorem State.dropSent_frame {s : State} {slot msg : Nat} :
    Frame [.conns] s (State.dropSent s slot msg) := by
  unfold State.dropSent
  repeat' (first
    | (with_reducible refine Frame.upd ?_ ?_ ?_; fail_if_success with_reducible exact ChangesOnly.refl)
    | with_reducible exact Frame.refl | (with_reducible apply Frame.step State.modConn_frame; case k => decide))

theorem State.failOrder_frame {s : State} {order : Nat} :
    Frame [.itin, .reqs, .ctxs, .engines, .locals, .conns, .links, .health, .dbg, .out] s (State.failOrder s order) := by
  unfold State.failOrder
  repeat' (first
    | (with_reducible refine Frame.upd ?_ ?_ ?_; fail_if_success with_reducible exact ChangesOnly.refl)
    | with_reducible exact Frame.refl | (with_reducible apply Frame.step State.failReq_frame; case k => decide) | split)

theorem State.onRegionNak_frame {s : State} {slot msg : Nat} {kind : TxKind} :
    Frame [.itin, .reqs, .ctxs, .engines, .locals, .conns, .links, .health, .dbg, .out] s (State.onRegionNak s slot msg kind) := by
  unfold State.onRegionNak
  repeat' (first
    | (lift_lets; intro x; refine Frame.cut x ?_ (fun hx => ?_); rotate_left; clear_value x)
    | (lift_lets; intro x; with_reducible refine Frame.trans Frame.refl ?_)
    | (with_reducible refine Frame.upd ?_ ?_ ?_; fail_if_success with_reducible exact ChangesOnly.refl)
    | with_reducible exact Frame.refl | with_reducible assumption
    | (with_reducible apply Frame.step State.setRstate_frame; case k => decide)
    | (with_reducible apply Frame.step State.modRing_frame; case k => decide)
    | (with_reducible apply Frame.step State.lastCode_frame; case k => decide)
    | (with_reducible apply Frame.step State.failOrder_frame; case k => decide)
    | (intro p hp; cases p <;> first | exact absurd hp (by decide) | rfl) | (intro h; exact h.of_eq rfl rfl rfl rfl) | split)

theorem State.onEpochMoved_frame {s : State} {slot msg : Nat} {c : Conn} :
    Frame [.itin, .reqs, .ctxs, .conns, .links, .comp, .dbg, .out] s (State.onEpochMoved s slot msg c) := by
  unfold State.onEpochMoved
  repeat' (first
    | (lift_lets; intro x; refine Frame.cut x ?_ (fun hx => ?_); rotate_left; clear_value x)
    | (lift_lets; intro x; with_reducible refine Frame.trans Frame.refl ?_)
    | (with_reducible refine Frame.upd ?_ ?_ ?_; fail_if_success with_reducible exact ChangesOnly.refl)
    | with_reducible exact Frame.refl | with_reducible assumption
    | (with_reducible apply Frame.step State.resendJournals_frame; case k => decide)
    | (with_reducible apply Frame.step State.dropSent_frame; case k => decide)
    | (with_reducible apply Frame.step State.keepJournals_frame; case k => decide)
    | (with_reducible apply Frame.step State.modReq_frame; case k => decide) | with_reducible refine Frame.ite ?_ ?_ | split)

theorem State.onNak_frame {s : State} {slot code msg : Nat} :
    Frame [.regs, .itin, .reqs, .ctxs, .engines, .locals, .conns, .links, .comp, .health, .dbg, .out, .free] s (State.onNak s slot code msg) := by
  unfold State.onNak
  repeat' (first
    | (with_reducible refine Frame.upd ?_ ?_ ?_; fail_if_success with_reducible exact ChangesOnly.refl)
    | with_reducible exact Frame.refl | (with_reducible apply Frame.step State.connFail_frame; case k => decide)
    | (with_reducible apply Frame.step State.flushConn_frame; case k => decide)
    | (with_reducible apply Frame.step State.onEpochMoved_frame; case k => decide)
    | (with_reducible apply Frame.step State.settleAll_frame; case k => decide)
    | (with_reducible apply Frame.step State.onRegionNak_frame; case k => decide)
    | (with_reducible apply Frame.step State.dropSent_frame; case k => decide) | with_reducible refine Frame.ite ?_ ?_ | split)

theorem execNak_frame {t : Nat} {p : Pkt} {s : State} :
    Answers [.now, .regs, .itin, .reqs, .ctxs, .engines, .locals, .conns, .links, .comp, .health, .dbg, .out, .free] s (execNak t p s) := by
  unfold execNak
  repeat' (first
    | with_reducible refine Answers.next ?_ | with_reducible refine Answers.ite ?_ ?_
    | (with_reducible refine Frame.upd ?_ ?_ ?_; fail_if_success with_reducible exact ChangesOnly.refl)
    | with_reducible exact Frame.refl | (with_reducible apply Frame.step State.checks_frame; case k => decide)
    | (with_reducible apply Frame.step State.at__frame; case k => decide)
    | (with_reducible apply Frame.step State.onNak_frame; case k => decide) | with_reducible refine Frame.of_pair (by assumption) ?_
    | split)

theorem execPoliced_frame {t : Nat} {p : Pkt} {s : State} :
    Answers [.now, .regs, .conns, .links, .comp, .health, .out, .free] s (execPoliced t p s) := by
  unfold execPoliced
  repeat' (first
    | with_reducible refine Answers.next ?_ | with_reducible refine Answers.ite ?_ ?_
    | (with_reducible refine Frame.upd ?_ ?_ ?_; fail_if_success with_reducible exact ChangesOnly.refl)
    | with_reducible exact Frame.refl | (with_reducible apply Frame.step State.checks_frame; case k => decide)
    | (with_reducible apply Frame.step State.at__frame; case k => decide)
    | (with_reducible apply Frame.step State.modConn_frame; case k => decide)
    | with_reducible refine Frame.of_pair (by assumption) ?_ | split)

theorem State.onReadResp_frame {s : State} {x : RxPkt} :
    Frame [.conns] s (State.onReadResp s x) := by
  unfold State.onReadResp
  repeat' (first
    | (lift_lets; intro x; refine Frame.cut x ?_ (fun hx => ?_); rotate_left; clear_value x)
    | (lift_lets; intro x; with_reducible refine Frame.trans Frame.refl ?_)
    | (with_reducible refine Frame.upd ?_ ?_ ?_; fail_if_success with_reducible exact ChangesOnly.refl)
    | with_reducible exact Frame.refl | with_reducible assumption
    | (with_reducible apply Frame.step State.modConn_frame; case k => decide) | with_reducible refine Frame.ite ?_ ?_ | split)

theorem execReadResp_frame {t : Nat} {p : Pkt} {s : State} :
    Answers [.now, .regs, .conns, .links, .comp, .health, .out, .free] s (execReadResp t p s) := by
  unfold execReadResp
  repeat' (first
    | with_reducible refine Answers.next ?_ | with_reducible refine Answers.ite ?_ ?_
    | (with_reducible refine Frame.upd ?_ ?_ ?_; fail_if_success with_reducible exact ChangesOnly.refl)
    | with_reducible exact Frame.refl | (with_reducible apply Frame.step State.checks_frame; case k => decide)
    | (with_reducible apply Frame.step State.at__frame; case k => decide)
    | (with_reducible apply Frame.step State.onReadResp_frame; case k => decide)
    | with_reducible refine Frame.of_pair (by assumption) ?_ | split)

theorem State.rereadOne_frame {s : State} {slot : Nat} {r : ReadOut} {x : Nat × Nat} :
    Frame [.itin, .ctxs, .conns, .links, .dbg, .out] s (State.rereadOne s slot r x) := by
  unfold State.rereadOne
  repeat' (first
    | (lift_lets; intro x; refine Frame.cut x ?_ (fun hx => ?_); rotate_left; clear_value x)
    | (lift_lets; intro x; with_reducible refine Frame.trans Frame.refl ?_)
    | (with_reducible refine Frame.upd ?_ ?_ ?_; fail_if_success with_reducible exact ChangesOnly.refl)
    | with_reducible exact Frame.refl | with_reducible assumption
    | (with_reducible apply Frame.step State.sendMsg_frame; case k => decide)
    | (with_reducible apply Frame.step State.modConn_frame; case k => decide)
    | with_reducible refine Frame.of_pair (by assumption) ?_ | split | dsimp only)

theorem execReadRespRerequest_frame {t slot msg : Nat} {s : State} :
    Answers [.now, .regs, .itin, .reqs, .ctxs, .conns, .links, .comp, .health, .dbg, .out, .free] s (execReadRespRerequest t slot msg s) := by
  unfold execReadRespRerequest
  repeat' (first
    | (lift_lets; intro x; refine Answers.cut x ?_ (fun hx => ?_); rotate_left; clear_value x)
    | (lift_lets; intro x; refine Frame.cut x ?_ (fun hx => ?_); rotate_left; clear_value x)
    | (lift_lets; intro x; with_reducible refine Frame.trans Frame.refl ?_) | with_reducible refine Answers.next ?_
    | with_reducible refine Answers.ite ?_ ?_
    | (with_reducible refine Frame.upd ?_ ?_ ?_; fail_if_success with_reducible exact ChangesOnly.refl)
    | with_reducible exact Frame.refl | with_reducible assumption
    | (with_reducible apply Frame.step State.at__frame; case k => decide)
    | (with_reducible apply Frame.step State.connFail_frame; case k => decide)
    | (with_reducible apply Frame.step State.modConn_frame; case k => decide)
    | (with_reducible apply Frame.step State.rereadOne_frame; case k => decide) | with_reducible refine Frame.ite ?_ ?_
    | with_reducible refine Frame.foldl (fun _ _ => ?_) ?_ | with_reducible refine Frame.foldl_snd (fun _ _ => ?_) ?_
    | (simp only [x]; split) | split | dsimp only)

theorem State.unplaceResps_frame {s : State} {l : List GateSpan} {until_ : Nat} :
    Frame [.conns] s (State.unplaceResps s l until_) := by
  unfold State.unplaceResps
  repeat' (first
    | (with_reducible refine Frame.upd ?_ ?_ ?_; fail_if_success with_reducible exact ChangesOnly.refl)
    | with_reducible exact Frame.refl | (with_reducible apply Frame.step State.awaitLink_frame; case k => decide)
    | with_reducible refine Frame.ite ?_ ?_ | with_reducible refine Frame.foldl (fun _ _ => ?_) ?_
    | with_reducible refine Frame.foldl_snd (fun _ _ => ?_) ?_ | split | dsimp only)

theorem execLinkDown_frame {t link : Nat} {s : State} :
    Answers [.now, .regs, .conns, .links] s (execLinkDown t link s) := by
  unfold execLinkDown
  repeat' (first
    | (lift_lets; intro x; refine Answers.cut x ?_ (fun hx => ?_); rotate_left; clear_value x)
    | (lift_lets; intro x; refine Frame.cut x ?_ (fun hx => ?_); rotate_left; clear_value x)
    | (lift_lets; intro x; with_reducible refine Frame.trans Frame.refl ?_) | with_reducible refine Answers.next ?_
    | with_reducible refine Answers.ite ?_ ?_
    | (with_reducible refine Frame.upd ?_ ?_ ?_; fail_if_success with_reducible exact ChangesOnly.refl)
    | with_reducible exact Frame.refl | with_reducible assumption
    | (with_reducible apply Frame.step State.at__frame; case k => decide)
    | (with_reducible apply Frame.step State.wr_frame; case k => decide)
    | (with_reducible apply Frame.step State.modLink_frame; case k => decide)
    | (with_reducible apply Frame.step State.unplaceResps_frame; case k => decide) | with_reducible refine Frame.ite ?_ ?_
    | (intro p hp; cases p <;> first | exact absurd hp (by decide) | rfl) | (intro h; exact h.of_eq rfl rfl rfl rfl)
    | (simp only [x]; split) | split)

theorem State.linksOpened_frame {s : State} :
    Frame [.regs, .itin, .reqs, .ctxs, .conns, .links, .comp, .health, .dbg, .out, .free] s (State.linksOpened s) := by
  unfold State.linksOpened
  repeat' (first
    | (with_reducible refine Frame.upd ?_ ?_ ?_; fail_if_success with_reducible exact ChangesOnly.refl)
    | with_reducible exact Frame.refl | (with_reducible apply Frame.step State.flushConn_frame; case k => decide)
    | with_reducible refine Frame.foldl (fun _ _ => ?_) ?_ | with_reducible refine Frame.foldl_snd (fun _ _ => ?_) ?_ | dsimp only)

theorem execLinkUp_frame {t link : Nat} {s : State} :
    Answers [.now, .regs, .itin, .reqs, .ctxs, .conns, .links, .comp, .health, .dbg, .out, .free] s (execLinkUp t link s) := by
  unfold execLinkUp
  repeat' (first
    | (lift_lets; intro x; refine Answers.cut x ?_ (fun hx => ?_); rotate_left; clear_value x)
    | (lift_lets; intro x; refine Frame.cut x ?_ (fun hx => ?_); rotate_left; clear_value x)
    | (lift_lets; intro x; with_reducible refine Frame.trans Frame.refl ?_) | with_reducible refine Answers.next ?_
    | with_reducible refine Answers.ite ?_ ?_
    | (with_reducible refine Frame.upd ?_ ?_ ?_; fail_if_success with_reducible exact ChangesOnly.refl)
    | with_reducible exact Frame.refl | with_reducible assumption
    | (with_reducible apply Frame.step State.at__frame; case k => decide)
    | (with_reducible apply Frame.step State.linksOpened_frame; case k => decide)
    | (with_reducible apply Frame.step State.wr_frame; case k => decide)
    | (with_reducible apply Frame.step State.modLink_frame; case k => decide) | with_reducible refine Frame.ite ?_ ?_ | split)

theorem execPfcFrame_frame {t port priority : Nat} {pause : Bool} {s : State} :
    Answers [.now, .regs, .itin, .reqs, .ctxs, .conns, .links, .comp, .health, .dbg, .out, .free] s (execPfcFrame t port priority pause s) := by
  unfold execPfcFrame
  repeat' (first
    | (lift_lets; intro x; refine Answers.cut x ?_ (fun hx => ?_); rotate_left; clear_value x)
    | (lift_lets; intro x; refine Frame.cut x ?_ (fun hx => ?_); rotate_left; clear_value x)
    | (lift_lets; intro x; with_reducible refine Frame.trans Frame.refl ?_) | with_reducible refine Answers.next ?_
    | with_reducible refine Answers.ite ?_ ?_
    | (with_reducible refine Frame.upd ?_ ?_ ?_; fail_if_success with_reducible exact ChangesOnly.refl)
    | with_reducible exact Frame.refl | with_reducible assumption
    | (with_reducible apply Frame.step State.at__frame; case k => decide)
    | (with_reducible apply Frame.step State.modLink_frame; case k => decide)
    | (with_reducible apply Frame.step State.linksOpened_frame; case k => decide) | with_reducible refine Frame.ite ?_ ?_ | split)

theorem execNeighborDiscoveryFrame_frame {t link : Nat} {f : NdFrame} {s : State} :
    Answers [.now, .regs, .links] s (execNeighborDiscoveryFrame t link f s) := by
  unfold execNeighborDiscoveryFrame
  repeat' (first
    | (lift_lets; intro x; refine Answers.cut x ?_ (fun hx => ?_); rotate_left; clear_value x)
    | (lift_lets; intro x; refine Frame.cut x ?_ (fun hx => ?_); rotate_left; clear_value x)
    | (lift_lets; intro x; with_reducible refine Frame.trans Frame.refl ?_) | with_reducible refine Answers.next ?_
    | with_reducible refine Answers.ite ?_ ?_
    | (with_reducible refine Frame.upd ?_ ?_ ?_; fail_if_success with_reducible exact ChangesOnly.refl)
    | with_reducible exact Frame.refl | with_reducible assumption
    | (with_reducible apply Frame.step State.at__frame; case k => decide)
    | (with_reducible apply Frame.step State.modLink_frame; case k => decide)
    | (with_reducible apply Frame.step State.headerDrop_frame; case k => decide) | with_reducible refine Frame.ite ?_ ?_ | split)

theorem execOperationBucketRefill_frame {t slot : Nat} {s : State} :
    Answers [.now, .itin, .ctxs, .locals, .conns, .links, .dbg, .out] s (execOperationBucketRefill t slot s) := by
  unfold execOperationBucketRefill
  repeat' (first
    | (lift_lets; intro x; refine Answers.cut x ?_ (fun hx => ?_); rotate_left; clear_value x)
    | (lift_lets; intro x; refine Frame.cut x ?_ (fun hx => ?_); rotate_left; clear_value x)
    | (lift_lets; intro x; with_reducible refine Frame.trans Frame.refl ?_) | with_reducible refine Answers.next ?_
    | with_reducible refine Answers.ite ?_ ?_
    | (with_reducible refine Frame.upd ?_ ?_ ?_; fail_if_success with_reducible exact ChangesOnly.refl)
    | with_reducible exact Frame.refl | with_reducible assumption
    | (with_reducible apply Frame.step State.at__frame; case k => decide)
    | (with_reducible apply Frame.step State.issueFetches_frame; case k => decide)
    | (with_reducible apply Frame.step State.modConn_frame; case k => decide) | with_reducible refine Frame.ite ?_ ?_ | split)

end Sys2Proof.Machine
end

