-- ==== Sys2Proof/Laws/HandshakeFrames.lean ====
section
/-! SUPPORT. What each operation of Machine/Handshake.lean may change, and that it keeps the invariant of Safety.lean. -/
namespace Sys2Proof.Machine

theorem State.drawBytes_frame {s : State} {n : Nat} :
    Frame [.free] s (State.drawBytes s n).2 := by
  unfold State.drawBytes
  repeat' (first
    | (with_reducible refine Frame.upd ?_ ?_ ?_; fail_if_success with_reducible exact ChangesOnly.refl)
    | with_reducible exact Frame.refl | (intro p hp; cases p <;> first | exact absurd hp (by decide) | rfl)
    | (intro h; exact h.of_eq rfl rfl rfl rfl))

theorem State.signed_frame {s : State} {before head : Bytes} :
    Frame [.free] s (State.signed s before head).2 := by
  unfold State.signed
  repeat' (first
    | (with_reducible refine Frame.upd ?_ ?_ ?_; fail_if_success with_reducible exact ChangesOnly.refl)
    | with_reducible exact Frame.refl | (intro p hp; cases p <;> first | exact absurd hp (by decide) | rfl)
    | (intro h; exact h.of_eq rfl rfl rfl rfl))

theorem State.newKey_frame {s : State} :
    Frame [.sec] s (State.newKey s).2 := by
  unfold State.newKey
  repeat' (first
    | (with_reducible refine Frame.upd ?_ ?_ ?_; fail_if_success with_reducible exact ChangesOnly.refl)
    | with_reducible exact Frame.refl | (intro p hp; cases p <;> first | exact absurd hp (by decide) | rfl)
    | (intro h; exact h.of_eq rfl rfl rfl rfl))

theorem State.noteReset_frame {s : State} {slot : Nat} :
    Frame [.comp] s (State.noteReset s slot) := by
  unfold State.noteReset
  repeat' (first
    | split | (lift_lets; intro x; refine Frame.cut x ?_ (fun hx => ?_); rotate_left; clear_value x)
    | (lift_lets; intro x; with_reducible refine Frame.trans Frame.refl ?_)
    | (with_reducible refine Frame.upd ?_ ?_ ?_; fail_if_success with_reducible exact ChangesOnly.refl)
    | with_reducible exact Frame.refl | with_reducible assumption | with_reducible refine Frame.ite ?_ ?_
    | (intro p hp; cases p <;> first | exact absurd hp (by decide) | rfl) | (intro h; exact h.of_eq rfl rfl rfl rfl))

theorem State.openConn_frame {s : State} {slot : Nat} :
    Frame [.itin, .reqs, .ctxs, .conns, .links, .comp, .sec, .dbg, .out] s (State.openConn s slot) := by
  unfold State.openConn
  repeat' (first
    | (lift_lets; intro x; refine Frame.cut x ?_ (fun hx => ?_); rotate_left; clear_value x)
    | (lift_lets; intro x; with_reducible refine Frame.trans Frame.refl ?_)
    | (with_reducible refine Frame.upd ?_ ?_ ?_; fail_if_success with_reducible exact ChangesOnly.refl)
    | with_reducible exact Frame.refl | with_reducible assumption
    | (with_reducible apply Frame.step State.newKey_frame; case k => decide)
    | (with_reducible apply Frame.step State.resendJournals_frame; case k => decide)
    | (with_reducible apply Frame.step State.noteReset_frame; case k => decide)
    | (with_reducible apply Frame.step State.modConn_frame; case k => decide)
    | with_reducible refine Frame.of_pair (by assumption) ?_ | split | dsimp only)

theorem State.startHandshake_frame {s : State} {slot : Nat} :
    Frame [.ctxs, .conns, .links, .dbg, .out, .free] s (State.startHandshake s slot) := by
  unfold State.startHandshake
  repeat' (first
    | (lift_lets; intro x; refine Frame.cut x ?_ (fun hx => ?_); rotate_left; clear_value x)
    | (lift_lets; intro x; with_reducible refine Frame.trans Frame.refl ?_)
    | (with_reducible refine Frame.upd ?_ ?_ ?_; fail_if_success with_reducible exact ChangesOnly.refl)
    | with_reducible exact Frame.refl | with_reducible assumption
    | (with_reducible apply Frame.step State.drawBytes_frame; case k => decide)
    | (with_reducible apply Frame.step State.signed_frame; case k => decide)
    | (with_reducible apply Frame.step State.sendHandshake_frame; case k => decide)
    | (with_reducible apply Frame.step State.modConn_frame; case k => decide) | with_reducible refine Frame.ite ?_ ?_
    | with_reducible refine Frame.of_pair (by assumption) ?_ | split | dsimp only)

theorem State.sendAccept_frame {s : State} {slot : Nat} {hello : Bytes} :
    Frame [.ctxs, .conns, .links, .dbg, .out, .free] s (State.sendAccept s slot hello) := by
  unfold State.sendAccept
  repeat' (first
    | (lift_lets; intro x; refine Frame.cut x ?_ (fun hx => ?_); rotate_left; clear_value x)
    | (lift_lets; intro x; with_reducible refine Frame.trans Frame.refl ?_)
    | (with_reducible refine Frame.upd ?_ ?_ ?_; fail_if_success with_reducible exact ChangesOnly.refl)
    | with_reducible exact Frame.refl | with_reducible assumption
    | (with_reducible apply Frame.step State.drawBytes_frame; case k => decide)
    | (with_reducible apply Frame.step State.signed_frame; case k => decide)
    | (with_reducible apply Frame.step State.sendHandshake_frame; case k => decide)
    | (with_reducible apply Frame.step State.modConn_frame; case k => decide)
    | with_reducible refine Frame.of_pair (by assumption) ?_ | split | dsimp only)

theorem State.resetConn_frame {s : State} {slot : Nat} :
    Frame [.conns] s (State.resetConn s slot) := by
  unfold State.resetConn
  repeat' (first
    | (with_reducible refine Frame.upd ?_ ?_ ?_; fail_if_success with_reducible exact ChangesOnly.refl)
    | with_reducible exact Frame.refl | (with_reducible apply Frame.step State.modConn_frame; case k => decide))

theorem execHello_frame {t : Nat} {h : Handshake} {s : State} :
    Answers [.now, .regs, .itin, .reqs, .ctxs, .conns, .links, .comp, .dbg, .out, .free] s (execHello t h s) := by
  unfold execHello
  repeat' (first
    | (lift_lets; intro x; refine Answers.cut x ?_ (fun hx => ?_); rotate_left; clear_value x)
    | (lift_lets; intro x; refine Frame.cut x ?_ (fun hx => ?_); rotate_left; clear_value x)
    | (lift_lets; intro x; with_reducible refine Frame.trans Frame.refl ?_) | with_reducible refine Answers.next ?_
    | with_reducible refine Answers.ite ?_ ?_
    | (with_reducible refine Frame.upd ?_ ?_ ?_; fail_if_success with_reducible exact ChangesOnly.refl)
    | with_reducible exact Frame.refl | with_reducible assumption
    | (with_reducible apply Frame.step State.at__frame; case k => decide)
    | (with_reducible apply Frame.step State.headerDrop_frame; case k => decide)
    | (with_reducible apply Frame.step State.sendHandshake_frame; case k => decide)
    | (with_reducible apply Frame.step State.sendClose_frame; case k => decide)
    | (with_reducible apply Frame.step State.sendAccept_frame; case k => decide)
    | (with_reducible apply Frame.step State.resetConn_frame; case k => decide)
    | (with_reducible apply Frame.step State.loseConn_frame; case k => decide)
    | (with_reducible apply Frame.step State.silenceConn_frame; case k => decide) | with_reducible refine Frame.ite ?_ ?_ | split)

theorem execAccept_frame {t : Nat} {h : Handshake} {s : State} :
    Answers [.now, .regs, .itin, .reqs, .ctxs, .conns, .links, .comp, .sec, .dbg, .out, .free] s (execAccept t h s) := by
  unfold execAccept
  repeat' (first
    | (lift_lets; intro x; refine Answers.cut x ?_ (fun hx => ?_); rotate_left; clear_value x)
    | (lift_lets; intro x; refine Frame.cut x ?_ (fun hx => ?_); rotate_left; clear_value x)
    | (lift_lets; intro x; with_reducible refine Frame.trans Frame.refl ?_) | with_reducible refine Answers.next ?_
    | with_reducible refine Answers.ite ?_ ?_
    | (with_reducible refine Frame.upd ?_ ?_ ?_; fail_if_success with_reducible exact ChangesOnly.refl)
    | with_reducible exact Frame.refl | with_reducible assumption
    | (with_reducible apply Frame.step State.at__frame; case k => decide)
    | (with_reducible apply Frame.step State.headerDrop_frame; case k => decide)
    | (with_reducible apply Frame.step State.signed_frame; case k => decide)
    | (with_reducible apply Frame.step State.sendHandshake_frame; case k => decide)
    | (with_reducible apply Frame.step State.openConn_frame; case k => decide)
    | (with_reducible apply Frame.step State.modConn_frame; case k => decide) | with_reducible refine Frame.ite ?_ ?_
    | with_reducible refine Frame.of_pair (by assumption) ?_ | split | dsimp only)

theorem execFinish_frame {t : Nat} {h : Handshake} {s : State} :
    Answers [.now, .regs, .itin, .reqs, .ctxs, .conns, .links, .comp, .sec, .dbg, .out] s (execFinish t h s) := by
  unfold execFinish
  repeat' (first
    | (lift_lets; intro x; refine Answers.cut x ?_ (fun hx => ?_); rotate_left; clear_value x)
    | (lift_lets; intro x; refine Frame.cut x ?_ (fun hx => ?_); rotate_left; clear_value x)
    | (lift_lets; intro x; with_reducible refine Frame.trans Frame.refl ?_) | with_reducible refine Answers.next ?_
    | with_reducible refine Answers.ite ?_ ?_
    | (with_reducible refine Frame.upd ?_ ?_ ?_; fail_if_success with_reducible exact ChangesOnly.refl)
    | with_reducible exact Frame.refl | with_reducible assumption
    | (with_reducible apply Frame.step State.at__frame; case k => decide)
    | (with_reducible apply Frame.step State.headerDrop_frame; case k => decide)
    | (with_reducible apply Frame.step State.openConn_frame; case k => decide) | with_reducible refine Frame.ite ?_ ?_ | split)

theorem execHelloResend_frame {t slot : Nat} {s : State} :
    Answers [.now, .ctxs, .conns, .links, .dbg, .out, .free] s (execHelloResend t slot s) := by
  unfold execHelloResend
  repeat' (first
    | (lift_lets; intro x; refine Answers.cut x ?_ (fun hx => ?_); rotate_left; clear_value x)
    | (lift_lets; intro x; refine Frame.cut x ?_ (fun hx => ?_); rotate_left; clear_value x)
    | (lift_lets; intro x; with_reducible refine Frame.trans Frame.refl ?_) | with_reducible refine Answers.next ?_
    | with_reducible refine Answers.ite ?_ ?_
    | (with_reducible refine Frame.upd ?_ ?_ ?_; fail_if_success with_reducible exact ChangesOnly.refl)
    | with_reducible exact Frame.refl | with_reducible assumption
    | (with_reducible apply Frame.step State.at__frame; case k => decide)
    | (with_reducible apply Frame.step State.startHandshake_frame; case k => decide)
    | (with_reducible apply Frame.step State.sendHandshake_frame; case k => decide)
    | (with_reducible apply Frame.step State.modConn_frame; case k => decide) | with_reducible refine Frame.ite ?_ ?_
    | (simp only [x]; split) | split)

theorem execFailedSlotRecover_frame {t slot : Nat} {s : State} :
    Answers [.now, .ctxs, .conns, .links, .dbg, .out, .free] s (execFailedSlotRecover t slot s) := by
  unfold execFailedSlotRecover
  repeat' (first
    | (lift_lets; intro x; refine Answers.cut x ?_ (fun hx => ?_); rotate_left; clear_value x)
    | (lift_lets; intro x; refine Frame.cut x ?_ (fun hx => ?_); rotate_left; clear_value x)
    | (lift_lets; intro x; with_reducible refine Frame.trans Frame.refl ?_) | with_reducible refine Answers.next ?_
    | with_reducible refine Answers.ite ?_ ?_
    | (with_reducible refine Frame.upd ?_ ?_ ?_; fail_if_success with_reducible exact ChangesOnly.refl)
    | with_reducible exact Frame.refl | with_reducible assumption
    | (with_reducible apply Frame.step State.at__frame; case k => decide)
    | (with_reducible apply Frame.step State.startHandshake_frame; case k => decide)
    | (with_reducible apply Frame.step State.modConn_frame; case k => decide) | with_reducible refine Frame.ite ?_ ?_ | split)

theorem execKeyUpdateTrigger_frame {t slot : Nat} {s : State} :
    Answers [.now, .itin, .ctxs, .conns, .links, .dbg, .out, .free] s (execKeyUpdateTrigger t slot s) := by
  unfold execKeyUpdateTrigger
  repeat' (first
    | (lift_lets; intro x; refine Answers.cut x ?_ (fun hx => ?_); rotate_left; clear_value x)
    | (lift_lets; intro x; refine Frame.cut x ?_ (fun hx => ?_); rotate_left; clear_value x)
    | (lift_lets; intro x; with_reducible refine Frame.trans Frame.refl ?_) | with_reducible refine Answers.next ?_
    | with_reducible refine Answers.ite ?_ ?_
    | (with_reducible refine Frame.upd ?_ ?_ ?_; fail_if_success with_reducible exact ChangesOnly.refl)
    | with_reducible exact Frame.refl | with_reducible assumption
    | (with_reducible apply Frame.step State.at__frame; case k => decide)
    | (with_reducible apply Frame.step State.drawBytes_frame; case k => decide)
    | (with_reducible apply Frame.step State.sendSend_frame; case k => decide)
    | (with_reducible apply Frame.step State.modConn_frame; case k => decide) | with_reducible refine Frame.ite ?_ ?_
    | with_reducible refine Frame.of_pair (by assumption) ?_ | split | dsimp only)

theorem State.onRekey_frame {s : State} {slot : Nat} :
    Frame [.itin, .ctxs, .conns, .links, .sec, .dbg, .out, .free] s (State.onRekey s slot) := by
  unfold State.onRekey
  repeat' (first
    | (lift_lets; intro x; refine Frame.cut x ?_ (fun hx => ?_); rotate_left; clear_value x)
    | (lift_lets; intro x; with_reducible refine Frame.trans Frame.refl ?_)
    | (with_reducible refine Frame.upd ?_ ?_ ?_; fail_if_success with_reducible exact ChangesOnly.refl)
    | with_reducible exact Frame.refl | with_reducible assumption
    | (with_reducible apply Frame.step State.drawBytes_frame; case k => decide)
    | (with_reducible apply Frame.step State.newKey_frame; case k => decide)
    | (with_reducible apply Frame.step State.sendSend_frame; case k => decide)
    | (with_reducible apply Frame.step State.modConn_frame; case k => decide) | with_reducible refine Frame.ite ?_ ?_
    | with_reducible refine Frame.of_pair (by assumption) ?_ | split | dsimp only)

theorem State.onRekeyAck_frame {s : State} {slot : Nat} :
    Frame [.conns, .sec] s (State.onRekeyAck s slot) := by
  unfold State.onRekeyAck
  repeat' (first
    | (lift_lets; intro x; refine Frame.cut x ?_ (fun hx => ?_); rotate_left; clear_value x)
    | (lift_lets; intro x; with_reducible refine Frame.trans Frame.refl ?_)
    | (with_reducible refine Frame.upd ?_ ?_ ?_; fail_if_success with_reducible exact ChangesOnly.refl)
    | with_reducible exact Frame.refl | with_reducible assumption
    | (with_reducible apply Frame.step State.newKey_frame; case k => decide)
    | (with_reducible apply Frame.step State.modConn_frame; case k => decide) | with_reducible refine Frame.ite ?_ ?_
    | with_reducible refine Frame.of_pair (by assumption) ?_ | split | dsimp only)

theorem execPreviousKeyExpiry_frame {t slot : Nat} {s : State} :
    Answers [.now, .conns] s (execPreviousKeyExpiry t slot s) := by
  unfold execPreviousKeyExpiry
  repeat' (first
    | (lift_lets; intro x; refine Answers.cut x ?_ (fun hx => ?_); rotate_left; clear_value x)
    | (lift_lets; intro x; refine Frame.cut x ?_ (fun hx => ?_); rotate_left; clear_value x)
    | (lift_lets; intro x; with_reducible refine Frame.trans Frame.refl ?_) | with_reducible refine Answers.next ?_
    | with_reducible refine Answers.ite ?_ ?_
    | (with_reducible refine Frame.upd ?_ ?_ ?_; fail_if_success with_reducible exact ChangesOnly.refl)
    | with_reducible exact Frame.refl | with_reducible assumption
    | (with_reducible apply Frame.step State.at__frame; case k => decide)
    | (with_reducible apply Frame.step State.modConn_frame; case k => decide) | with_reducible refine Frame.ite ?_ ?_ | split)

theorem State.enterClosing_frame {s : State} {slot : Nat} :
    Frame [.reqs, .conns] s (State.enterClosing s slot) := by
  unfold State.enterClosing
  repeat' (first
    | (with_reducible refine Frame.upd ?_ ?_ ?_; fail_if_success with_reducible exact ChangesOnly.refl)
    | with_reducible exact Frame.refl | (with_reducible apply Frame.step State.modConn_frame; case k => decide)
    | (with_reducible apply Frame.step State.silenceConn_frame; case k => decide) | split)

theorem State.closeByNode_frame {s : State} {slot reason : Nat} :
    Frame [.itin, .reqs, .ctxs, .conns, .links, .dbg, .out] s (State.closeByNode s slot reason) := by
  unfold State.closeByNode
  repeat' (first
    | (with_reducible refine Frame.upd ?_ ?_ ?_; fail_if_success with_reducible exact ChangesOnly.refl)
    | with_reducible exact Frame.refl | (with_reducible apply Frame.step State.enterClosing_frame; case k => decide)
    | (with_reducible apply Frame.step State.sendClose_frame; case k => decide) | with_reducible refine Frame.ite ?_ ?_ | split)

theorem State.onClose_frame {s : State} {slot : Nat} :
    Frame [.reqs, .conns] s (State.onClose s slot) := by
  unfold State.onClose
  repeat' (first
    | (with_reducible refine Frame.upd ?_ ?_ ?_; fail_if_success with_reducible exact ChangesOnly.refl)
    | with_reducible exact Frame.refl | (with_reducible apply Frame.step State.enterClosing_frame; case k => decide)
    | with_reducible refine Frame.ite ?_ ?_ | split)

theorem execCloseWaitEnd_frame {t slot : Nat} {s : State} :
    Answers [.now, .reqs, .ctxs, .conns, .comp] s (execCloseWaitEnd t slot s) := by
  unfold execCloseWaitEnd
  repeat' (first
    | (lift_lets; intro x; refine Answers.cut x ?_ (fun hx => ?_); rotate_left; clear_value x)
    | (lift_lets; intro x; refine Frame.cut x ?_ (fun hx => ?_); rotate_left; clear_value x)
    | (lift_lets; intro x; with_reducible refine Frame.trans Frame.refl ?_) | with_reducible refine Answers.next ?_
    | with_reducible refine Answers.ite ?_ ?_
    | (with_reducible refine Frame.upd ?_ ?_ ?_; fail_if_success with_reducible exact ChangesOnly.refl)
    | with_reducible exact Frame.refl | with_reducible assumption
    | (with_reducible apply Frame.step State.at__frame; case k => decide)
    | (with_reducible apply Frame.step State.modConn_frame; case k => decide)
    | (with_reducible apply Frame.step State.resetConn_frame; case k => decide)
    | (with_reducible apply Frame.step State.loseConn_frame; case k => decide) | with_reducible refine Frame.ite ?_ ?_ | split)

theorem State.updateEntry_frame {s : State} {slot : Nat} {c : Conn} {e : ConnEntry} :
    Frame [.itin, .ctxs, .conns, .links, .dbg, .out] s (State.updateEntry s slot c e) := by
  unfold State.updateEntry
  repeat' (first
    | (lift_lets; intro x; refine Frame.cut x ?_ (fun hx => ?_); rotate_left; clear_value x)
    | (lift_lets; intro x; with_reducible refine Frame.trans Frame.refl ?_)
    | (with_reducible refine Frame.upd ?_ ?_ ?_; fail_if_success with_reducible exact ChangesOnly.refl)
    | with_reducible exact Frame.refl | with_reducible assumption
    | (with_reducible apply Frame.step State.modConn_frame; case k => decide)
    | (with_reducible apply Frame.step State.writeRingStatus_frame; case k => decide) | with_reducible refine Frame.ite ?_ ?_
    | with_reducible refine Frame.foldl (fun _ _ => ?_) ?_ | with_reducible refine Frame.foldl_snd (fun _ _ => ?_) ?_ | split
    | dsimp only)

theorem execConnLoad_frame {t : Nat} {ctl : Word} {mem : Option Bytes} {s : State} :
    Answers [.now, .regs, .live, .itin, .reqs, .ctxs, .conns, .links, .comp, .power, .dbg, .out, .free] s (execConnLoad t ctl mem s) := by
  unfold execConnLoad
  repeat' (first
    | (lift_lets; intro x; refine Answers.cut x ?_ (fun hx => ?_); rotate_left; clear_value x)
    | (lift_lets; intro x; refine Frame.cut x ?_ (fun hx => ?_); rotate_left; clear_value x)
    | (lift_lets; intro x; with_reducible refine Frame.trans Frame.refl ?_) | with_reducible refine Answers.next ?_
    | with_reducible refine Answers.ite ?_ ?_
    | (with_reducible refine Frame.upd ?_ ?_ ?_; fail_if_success with_reducible exact ChangesOnly.refl)
    | with_reducible exact Frame.refl | with_reducible assumption
    | (with_reducible apply Frame.step State.at__frame; case k => decide)
    | (with_reducible apply Frame.step State.ctlWrite_frame; case k => decide)
    | (with_reducible apply Frame.step State.updateEntry_frame; case k => decide)
    | (with_reducible apply Frame.step State.loseConn_frame; case k => decide)
    | (with_reducible apply Frame.step State.silenceConn_frame; case k => decide)
    | (with_reducible apply Frame.step State.startHandshake_frame; case k => decide)
    | (with_reducible apply Frame.step State.opEnd_frame; case k => decide) | with_reducible refine Frame.ite ?_ ?_
    | (intro p hp; cases p <;> first | exact absurd hp (by decide) | rfl) | (intro h; exact h.of_eq rfl rfl rfl rfl)
    | (simp only [x]; split) | split)

theorem execConnRemove_frame {t : Nat} {ctl : Word} {s : State} :
    Answers [.now, .regs, .live, .itin, .reqs, .ctxs, .conns, .links, .comp, .power, .dbg, .out] s (execConnRemove t ctl s) := by
  unfold execConnRemove
  repeat' (first
    | (lift_lets; intro x; refine Answers.cut x ?_ (fun hx => ?_); rotate_left; clear_value x)
    | (lift_lets; intro x; refine Frame.cut x ?_ (fun hx => ?_); rotate_left; clear_value x)
    | (lift_lets; intro x; with_reducible refine Frame.trans Frame.refl ?_) | with_reducible refine Answers.next ?_
    | with_reducible refine Answers.ite ?_ ?_
    | (with_reducible refine Frame.upd ?_ ?_ ?_; fail_if_success with_reducible exact ChangesOnly.refl)
    | with_reducible exact Frame.refl | with_reducible assumption
    | (with_reducible apply Frame.step State.at__frame; case k => decide)
    | (with_reducible apply Frame.step State.ctlWrite_frame; case k => decide)
    | (with_reducible apply Frame.step State.sendClose_frame; case k => decide)
    | (with_reducible apply Frame.step State.opEnd_frame; case k => decide)
    | (with_reducible apply Frame.step State.emptySlot_frame; case k => decide)
    | (with_reducible apply Frame.step State.loseConn_frame; case k => decide)
    | (with_reducible apply Frame.step State.silenceConn_frame; case k => decide) | with_reducible refine Frame.ite ?_ ?_
    | (simp only [x]; split) | split)

theorem State.advertise_frame {s : State} {slot : Nat} {a : AdvRegion} :
    Frame [.regs, .conns] s (State.advertise s slot a) := by
  unfold State.advertise
  repeat' (first
    | (with_reducible refine Frame.upd ?_ ?_ ?_; fail_if_success with_reducible exact ChangesOnly.refl)
    | with_reducible exact Frame.refl | (with_reducible apply Frame.step State.modConn_frame; case k => decide)
    | (with_reducible apply Frame.step State.headerDrop_frame; case k => decide) | with_reducible refine Frame.ite ?_ ?_ | split)

theorem State.onRegionAdv_frame {s : State} {slot : Nat} {b : Bytes} :
    Frame [.regs, .conns] s (State.onRegionAdv s slot b) := by
  unfold State.onRegionAdv
  repeat' (first
    | (with_reducible refine Frame.upd ?_ ?_ ?_; fail_if_success with_reducible exact ChangesOnly.refl)
    | with_reducible exact Frame.refl | (with_reducible apply Frame.step State.advertise_frame; case k => decide)
    | with_reducible refine Frame.foldl (fun _ _ => ?_) ?_ | with_reducible refine Frame.foldl_snd (fun _ _ => ?_) ?_ | dsimp only)

theorem State.settleWithdrawn_frame {s : State} {slot rkey : Nat} :
    Frame [.itin, .ctxs, .conns, .links, .dbg, .out] s (State.settleWithdrawn s slot rkey) := by
  unfold State.settleWithdrawn
  repeat' (first
    | (with_reducible refine Frame.upd ?_ ?_ ?_; fail_if_success with_reducible exact ChangesOnly.refl)
    | with_reducible exact Frame.refl | (with_reducible apply Frame.step State.sendSend_frame; case k => decide)
    | (with_reducible apply Frame.step State.modConn_frame; case k => decide) | with_reducible refine Frame.ite ?_ ?_ | split)

theorem State.onRegionWd_frame {s : State} {slot : Nat} {b : Bytes} :
    Frame [.itin, .ctxs, .conns, .links, .dbg, .out] s (State.onRegionWd s slot b) := by
  unfold State.onRegionWd
  repeat' (first
    | (lift_lets; intro x; refine Frame.cut x ?_ (fun hx => ?_); rotate_left; clear_value x)
    | (lift_lets; intro x; with_reducible refine Frame.trans Frame.refl ?_)
    | (with_reducible refine Frame.upd ?_ ?_ ?_; fail_if_success with_reducible exact ChangesOnly.refl)
    | with_reducible exact Frame.refl | with_reducible assumption
    | (with_reducible apply Frame.step State.settleWithdrawn_frame; case k => decide)
    | (with_reducible apply Frame.step State.modConn_frame; case k => decide) | with_reducible refine Frame.ite ?_ ?_ | split)

theorem execRegionWdDone_frame {t slot rkey : Nat} {s : State} :
    Answers [.now, .itin, .ctxs, .conns, .links, .dbg, .out] s (execRegionWdDone t slot rkey s) := by
  unfold execRegionWdDone
  repeat' (first
    | with_reducible refine Answers.next ?_ | with_reducible refine Answers.ite ?_ ?_
    | (with_reducible refine Frame.upd ?_ ?_ ?_; fail_if_success with_reducible exact ChangesOnly.refl)
    | with_reducible exact Frame.refl | (with_reducible apply Frame.step State.settleWithdrawn_frame; case k => decide)
    | (with_reducible apply Frame.step State.at__frame; case k => decide))

end Sys2Proof.Machine
end

