-- ==== Sys2Proof/Laws/RingsFrames.lean ====
section
/-! SUPPORT. What each operation of Machine/Rings.lean may change, and that it keeps the invariant of Safety.lean. -/
namespace Sys2Proof.Machine

theorem State.runBell_frame {s : State} {slot msg epoch : Nat} {marked : Bool} {payload : Bytes} :
    Frame [.regs, .itin, .ctxs, .locals, .conns, .links, .power, .dbg, .out] s (State.runBell s slot msg epoch marked payload) := by
  unfold State.runBell
  repeat' (first
    | (lift_lets; intro x; refine Frame.cut x ?_ (fun hx => ?_); rotate_left; clear_value x)
    | (lift_lets; intro x; with_reducible refine Frame.trans Frame.refl ?_)
    | (with_reducible refine Frame.upd ?_ ?_ ?_; fail_if_success with_reducible exact ChangesOnly.refl)
    | with_reducible exact Frame.refl | with_reducible assumption
    | (with_reducible apply Frame.step State.wakeUp_frame; case k => decide)
    | (with_reducible apply Frame.step State.msgDone_frame; case k => decide)
    | (with_reducible apply Frame.step State.ringBell_frame; case k => decide) | with_reducible refine Frame.ite ?_ ?_ | split)

theorem State.deliverBell_frame {s : State} {x : RxPkt} :
    Frame [.regs, .itin, .ctxs, .locals, .conns, .links, .power, .dbg, .out] s (State.deliverBell s x) := by
  unfold State.deliverBell
  repeat' (first
    | (with_reducible refine Frame.upd ?_ ?_ ?_; fail_if_success with_reducible exact ChangesOnly.refl)
    | with_reducible exact Frame.refl | (with_reducible apply Frame.step State.answerNak_frame; case k => decide)
    | (with_reducible apply Frame.step State.holdMsg_frame; case k => decide)
    | (with_reducible apply Frame.step State.runBell_frame; case k => decide) | with_reducible refine Frame.ite ?_ ?_ | split)

theorem execBell_frame {t : Nat} {p : Pkt} {s : State} :
    Answers [.now, .regs, .itin, .ctxs, .locals, .conns, .links, .comp, .health, .power, .dbg, .out, .free] s (execBell t p s) := by
  refine .next ((Frame.mono State.at__frame (by decide)).trans (State.receive_frame (fun _ _ => ?_) (by decide)))
  exact Frame.mono State.deliverBell_frame (by decide)

theorem execRingDbWrite_frame {t n : Nat} {v : Word} {s : State} :
    Answers [.now, .regs, .itin, .ctxs, .locals, .conns, .links, .power, .dbg, .out] s (execRingDbWrite t n v s) := by
  unfold execRingDbWrite
  repeat' (first
    | (lift_lets; intro x; refine Answers.cut x ?_ (fun hx => ?_); rotate_left; clear_value x)
    | (lift_lets; intro x; refine Frame.cut x ?_ (fun hx => ?_); rotate_left; clear_value x)
    | (lift_lets; intro x; with_reducible refine Frame.trans Frame.refl ?_) | with_reducible refine Answers.next ?_
    | with_reducible refine Answers.ite ?_ ?_
    | (with_reducible refine Frame.upd ?_ ?_ ?_; fail_if_success with_reducible exact ChangesOnly.refl)
    | with_reducible exact Frame.refl | with_reducible assumption
    | (with_reducible apply Frame.step State.at__frame; case k => decide)
    | (with_reducible apply Frame.step State.wakeUp_frame; case k => decide)
    | (with_reducible apply Frame.step State.ringBell_frame; case k => decide) | with_reducible refine Frame.ite ?_ ?_ | split)

theorem State.writeLctl_frame {s : State} {n : Nat} {v : Word} {en : Nat} :
    Frame [.regs, .live] s (State.writeLctl s n v en) := by
  unfold State.writeLctl
  repeat' (first
    | (lift_lets; intro x; refine Frame.cut x ?_ (fun hx => ?_); rotate_left; clear_value x)
    | (lift_lets; intro x; with_reducible refine Frame.trans Frame.refl ?_)
    | (with_reducible refine Frame.upd ?_ ?_ ?_; fail_if_success with_reducible exact ChangesOnly.refl)
    | with_reducible exact Frame.refl | with_reducible assumption
    | (with_reducible apply Frame.step State.writeNow_frame; case k => decide) | with_reducible refine Frame.ite ?_ ?_
    | (simp only [x]; split) | split)

theorem execRingEnable_frame {t n : Nat} {v : Word} {s : State} :
    Answers [.now, .regs, .live, .itin, .ctxs, .locals, .conns, .links, .power, .dbg, .out] s (execRingEnable t n v s) := by
  unfold execRingEnable
  repeat' (first
    | (lift_lets; intro x; refine Answers.cut x ?_ (fun hx => ?_); rotate_left; clear_value x)
    | (lift_lets; intro x; refine Frame.cut x ?_ (fun hx => ?_); rotate_left; clear_value x)
    | (lift_lets; intro x; with_reducible refine Frame.trans Frame.refl ?_) | with_reducible refine Answers.next ?_
    | with_reducible refine Answers.ite ?_ ?_
    | (with_reducible refine Frame.upd ?_ ?_ ?_; fail_if_success with_reducible exact ChangesOnly.refl)
    | with_reducible exact Frame.refl | with_reducible assumption
    | (with_reducible apply Frame.step State.at__frame; case k => decide)
    | (with_reducible apply Frame.step State.wakeUp_frame; case k => decide)
    | (with_reducible apply Frame.step State.writeLctl_frame; case k => decide)
    | (with_reducible apply Frame.step State.writeRingStatus_frame; case k => decide) | with_reducible refine Frame.ite ?_ ?_
    | (intro p hp; cases p <;> first | exact absurd hp (by decide) | rfl) | (intro h; exact h.of_eq rfl rfl rfl rfl) | split)

theorem execRingDisable_frame {t n : Nat} {v : Word} {s : State} :
    Answers [.now, .regs, .live, .itin, .ctxs, .locals, .conns, .links, .power, .dbg, .out] s (execRingDisable t n v s) := by
  unfold execRingDisable
  repeat' (first
    | (lift_lets; intro x; refine Answers.cut x ?_ (fun hx => ?_); rotate_left; clear_value x)
    | (lift_lets; intro x; refine Frame.cut x ?_ (fun hx => ?_); rotate_left; clear_value x)
    | (lift_lets; intro x; with_reducible refine Frame.trans Frame.refl ?_) | with_reducible refine Answers.next ?_
    | with_reducible refine Answers.ite ?_ ?_
    | (with_reducible refine Frame.upd ?_ ?_ ?_; fail_if_success with_reducible exact ChangesOnly.refl)
    | with_reducible exact Frame.refl | with_reducible assumption
    | (with_reducible apply Frame.step State.at__frame; case k => decide)
    | (with_reducible apply Frame.step State.wakeUp_frame; case k => decide)
    | (with_reducible apply Frame.step State.writeLctl_frame; case k => decide)
    | (with_reducible apply Frame.step State.modRing_frame; case k => decide)
    | (with_reducible apply Frame.step State.setRstate_frame; case k => decide) | with_reducible refine Frame.ite ?_ ?_ | split)

theorem State.noteFence_frame {s : State} {r : Req} {code : Nat} :
    Frame [.locals, .conns] s (State.noteFence s r code) := by
  unfold State.noteFence
  repeat' (first
    | (with_reducible refine Frame.upd ?_ ?_ ?_; fail_if_success with_reducible exact ChangesOnly.refl)
    | with_reducible exact Frame.refl | (with_reducible apply Frame.step State.modRing_frame; case k => decide)
    | with_reducible refine Frame.ite ?_ ?_ | split)

theorem State.track_frame {s : State} {r : Req} :
    Frame [.regs, .reqs, .nextOrder, .nextSeq] s (State.track s r) := by
  unfold State.track
  repeat' (first
    | (lift_lets; intro x; refine Frame.cut x ?_ (fun hx => ?_); rotate_left; clear_value x)
    | (lift_lets; intro x; with_reducible refine Frame.trans Frame.refl ?_)
    | (with_reducible refine Frame.upd ?_ ?_ ?_; fail_if_success with_reducible exact ChangesOnly.refl)
    | with_reducible exact Frame.refl | with_reducible assumption
    | (with_reducible apply Frame.step State.peak_frame; case k => decide)
    | (intro p hp; cases p <;> first | exact absurd hp (by decide) | rfl) | (intro h; exact h.of_eq rfl rfl rfl rfl))

theorem State.loneStatus_frame {s : State} {r : Req} {st code : Nat} :
    Frame [.itin, .ctxs, .conns, .links, .dbg, .out] s (State.loneStatus s r st code) := by
  unfold State.loneStatus
  repeat' (first
    | (with_reducible refine Frame.upd ?_ ?_ ?_; fail_if_success with_reducible exact ChangesOnly.refl)
    | with_reducible exact Frame.refl | (with_reducible apply Frame.step State.status_frame; case k => decide))

theorem State.readOperands_frame {s : State} {r : Req} :
    Frame [.itin, .ctxs, .conns, .links, .dbg, .out] s (State.readOperands s r) := by
  unfold State.readOperands
  repeat' (first
    | (with_reducible refine Frame.upd ?_ ?_ ?_; fail_if_success with_reducible exact ChangesOnly.refl)
    | with_reducible exact Frame.refl | (with_reducible apply Frame.step State.readBlock_frame; case k => decide)
    | (with_reducible apply Frame.step State.readIn_frame; case k => decide) | with_reducible refine Frame.ite ?_ ?_
    | with_reducible refine Frame.foldl (fun _ _ => ?_) ?_ | with_reducible refine Frame.foldl_snd (fun _ _ => ?_) ?_ | split
    | dsimp only)

theorem State.setHorizon_frame {s : State} {ring : RingRef} {tag : Nat} :
    Frame [.locals, .conns] s (State.setHorizon s ring tag) := by
  unfold State.setHorizon
  repeat' (first
    | (with_reducible refine Frame.upd ?_ ?_ ?_; fail_if_success with_reducible exact ChangesOnly.refl)
    | with_reducible exact Frame.refl | (with_reducible apply Frame.step State.modDedup_frame; case k => decide))

theorem State.startReq_frame {s : State} {r : Req} {code : Nat} :
    Frame [.regs, .itin, .reqs, .nextOrder, .nextSeq, .ctxs, .engines, .locals, .conns, .links, .health, .dbg, .out] s (State.startReq s r code) := by
  unfold State.startReq
  repeat' (first
    | (lift_lets; intro x; refine Frame.cut x ?_ (fun hx => ?_); rotate_left; clear_value x)
    | (lift_lets; intro x; with_reducible refine Frame.trans Frame.refl ?_)
    | (with_reducible refine Frame.upd ?_ ?_ ?_; fail_if_success with_reducible exact ChangesOnly.refl)
    | with_reducible exact Frame.refl | with_reducible assumption
    | (with_reducible apply Frame.step State.noteFence_frame; case k => decide)
    | (with_reducible apply Frame.step State.track_frame; case k => decide)
    | (with_reducible apply Frame.step State.finish_frame; case k => decide)
    | (with_reducible apply Frame.step State.readOperands_frame; case k => decide) | with_reducible refine Frame.ite ?_ ?_ | split)

theorem State.lone_frame {s : State} :
    Frame [.nextOrder] s (State.lone s) := by
  unfold State.lone
  repeat' (first
    | (with_reducible refine Frame.upd ?_ ?_ ?_; fail_if_success with_reducible exact ChangesOnly.refl)
    | with_reducible exact Frame.refl | (intro p hp; cases p <;> first | exact absurd hp (by decide) | rfl)
    | (intro h; exact h.of_eq rfl rfl rfl rfl))

theorem State.passEntry_frame {s : State} {ring : RingRef} {raw : Bytes} {marked : Bool} {epoch : Nat} :
    Frame [.regs, .itin, .reqs, .nextOrder, .nextSeq, .ctxs, .engines, .locals, .conns, .links, .health, .dbg, .out] s (State.passEntry s ring raw marked epoch) := by
  unfold State.passEntry
  repeat' (first
    | (lift_lets; intro x; refine Frame.cut x ?_ (fun hx => ?_); rotate_left; clear_value x)
    | (lift_lets; intro x; with_reducible refine Frame.trans Frame.refl ?_)
    | (with_reducible refine Frame.upd ?_ ?_ ?_; fail_if_success with_reducible exact ChangesOnly.refl)
    | with_reducible exact Frame.refl | with_reducible assumption
    | (with_reducible apply Frame.step State.setHorizon_frame; case k => decide)
    | (with_reducible apply Frame.step State.lastCode_frame; case k => decide)
    | (with_reducible apply Frame.step State.startReq_frame; case k => decide)
    | (with_reducible apply Frame.step State.modReq_frame; case k => decide)
    | (with_reducible apply Frame.step State.bump_frame; case k => decide)
    | (with_reducible apply Frame.step State.lone_frame; case k => decide)
    | (with_reducible apply Frame.step State.status_frame; case k => decide)
    | (with_reducible apply Frame.step State.loneStatus_frame; case k => decide) | with_reducible refine Frame.ite ?_ ?_
    | (simp only [x]; split) | split)

theorem State.passReady_frame {s : State} {ring : RingRef} {y2 : Nat} :
    Frame [.regs, .itin, .reqs, .nextOrder, .nextSeq, .ctxs, .engines, .locals, .conns, .links, .health, .dbg, .out] s (State.passReady s ring y2) := by
  induction y2 generalizing s ring with
  | zero => exact .refl
  | succ n ih =>
  unfold State.passReady
  repeat' (first
    | (with_reducible apply Frame.step ih; case k => decide)
    | (lift_lets; intro x; refine Frame.cut x ?_ (fun hx => ?_); rotate_left; clear_value x)
    | (lift_lets; intro x; with_reducible refine Frame.trans Frame.refl ?_)
    | (with_reducible refine Frame.upd ?_ ?_ ?_; fail_if_success with_reducible exact ChangesOnly.refl)
    | with_reducible exact Frame.refl | with_reducible assumption
    | (with_reducible apply Frame.step State.passEntry_frame; case k => decide)
    | (with_reducible apply Frame.step State.modRing_frame; case k => decide) | split | dsimp only)

theorem execDescriptorFetched_frame {t : Nat} {ring : RingRef} {index : Nat} {entry : Bytes} {s : State} :
    Answers [.now, .regs, .itin, .reqs, .nextOrder, .nextSeq, .ctxs, .engines, .locals, .conns, .links, .health, .dbg, .out] s (execDescriptorFetched t ring index entry s) := by
  unfold execDescriptorFetched
  repeat' (first
    | (lift_lets; intro x; refine Answers.cut x ?_ (fun hx => ?_); rotate_left; clear_value x)
    | (lift_lets; intro x; refine Frame.cut x ?_ (fun hx => ?_); rotate_left; clear_value x)
    | (lift_lets; intro x; with_reducible refine Frame.trans Frame.refl ?_) | with_reducible refine Answers.next ?_
    | with_reducible refine Answers.ite ?_ ?_
    | (with_reducible refine Frame.upd ?_ ?_ ?_; fail_if_success with_reducible exact ChangesOnly.refl)
    | with_reducible exact Frame.refl | with_reducible assumption
    | (with_reducible apply Frame.step State.at__frame; case k => decide)
    | (with_reducible apply Frame.step State.passReady_frame; case k => decide)
    | (with_reducible apply Frame.step State.modRing_frame; case k => decide)
    | (with_reducible apply Frame.step State.issueFetches_frame; case k => decide)
    | (with_reducible apply Frame.step State.writeRingStatus_frame; case k => decide) | with_reducible refine Frame.ite ?_ ?_
    | split)

end Sys2Proof.Machine
end

