-- ==== Sys2Proof/Laws/PeersFrames.lean ====
section
/-! SUPPORT. What each operation of Machine/Peers.lean may change, and that it keeps the invariant of Safety.lean. -/
namespace Sys2Proof.Machine

theorem State.addSub_frame {s : State} {ctx : Nat} {slot : Option Nat} {epoch : Nat} {body : Bytes} :
    Frame [.regs, .comp] s (State.addSub s ctx slot epoch body) := by
  unfold State.addSub
  repeat' (first
    | (lift_lets; intro x; refine Frame.cut x ?_ (fun hx => ?_); rotate_left; clear_value x)
    | (lift_lets; intro x; with_reducible refine Frame.trans Frame.refl ?_)
    | (with_reducible refine Frame.upd ?_ ?_ ?_; fail_if_success with_reducible exact ChangesOnly.refl)
    | with_reducible exact Frame.refl | with_reducible assumption
    | (with_reducible apply Frame.step State.peak_frame; case k => decide)
    | (intro p hp; cases p <;> first | exact absurd hp (by decide) | rfl) | (intro h; exact h.of_eq rfl rfl rfl rfl))

theorem State.sendBackup_frame {s : State} {r : Req} {p : Profile} {x : PeerShare} {rows : List QRow} :
    Frame [.regs, .itin, .reqs, .ctxs, .conns, .links, .comp, .dbg, .out] s (State.sendBackup s r p x rows) := by
  unfold State.sendBackup
  repeat' (first
    | (lift_lets; intro x; refine Frame.cut x ?_ (fun hx => ?_); rotate_left; clear_value x)
    | (lift_lets; intro x; with_reducible refine Frame.trans Frame.refl ?_)
    | (with_reducible refine Frame.upd ?_ ?_ ?_; fail_if_success with_reducible exact ChangesOnly.refl)
    | with_reducible exact Frame.refl | with_reducible assumption
    | (with_reducible apply Frame.step State.modReq_frame; case k => decide)
    | (with_reducible apply Frame.step State.bump_frame; case k => decide)
    | (with_reducible apply Frame.step State.addSub_frame; case k => decide)
    | (with_reducible apply Frame.step State.sendSend_frame; case k => decide) | with_reducible refine Frame.ite ?_ ?_ | split)

theorem State.sendShare_frame {s : State} {r : Req} {p : Profile} {x : PeerShare} {rows : List QRow} :
    Frame [.regs, .itin, .reqs, .ctxs, .conns, .links, .comp, .dbg, .out] s (State.sendShare s r p x rows) := by
  unfold State.sendShare
  repeat' (first
    | (lift_lets; intro x; refine Frame.cut x ?_ (fun hx => ?_); rotate_left; clear_value x)
    | (lift_lets; intro x; with_reducible refine Frame.trans Frame.refl ?_)
    | (with_reducible refine Frame.upd ?_ ?_ ?_; fail_if_success with_reducible exact ChangesOnly.refl)
    | with_reducible exact Frame.refl | with_reducible assumption
    | (with_reducible apply Frame.step State.sendSend_frame; case k => decide)
    | (with_reducible apply Frame.step State.sendBackup_frame; case k => decide)
    | (with_reducible apply Frame.step State.modReq_frame; case k => decide) | with_reducible refine Frame.ite ?_ ?_ | split)

theorem State.askHolders_frame {s : State} {r : Req} {p : Profile} {c : Conv} {b : Nat} {rows : List QRow} :
    Frame [.itin, .reqs, .ctxs, .conns, .links, .dbg, .out] s (State.askHolders s r p c b rows) := by
  unfold State.askHolders
  repeat' (first
    | (with_reducible refine Frame.upd ?_ ?_ ?_; fail_if_success with_reducible exact ChangesOnly.refl)
    | with_reducible exact Frame.refl | (with_reducible apply Frame.step State.modReq_frame; case k => decide)
    | (with_reducible apply Frame.step State.sendSend_frame; case k => decide) | with_reducible refine Frame.ite ?_ ?_
    | with_reducible refine Frame.foldl (fun _ _ => ?_) ?_ | with_reducible refine Frame.foldl_snd (fun _ _ => ?_) ?_ | split
    | dsimp only)

theorem State.sendSubs_frame {s : State} {id b : Nat} :
    Frame [.regs, .itin, .reqs, .ctxs, .conns, .links, .comp, .dbg, .out] s (State.sendSubs s id b) := by
  unfold State.sendSubs
  repeat' (first
    | (lift_lets; intro x; refine Frame.cut x ?_ (fun hx => ?_); rotate_left; clear_value x)
    | (lift_lets; intro x; with_reducible refine Frame.trans Frame.refl ?_)
    | (with_reducible refine Frame.upd ?_ ?_ ?_; fail_if_success with_reducible exact ChangesOnly.refl)
    | with_reducible exact Frame.refl | with_reducible assumption
    | (with_reducible apply Frame.step State.openShares_frame; case k => decide)
    | (with_reducible apply Frame.step State.askHolders_frame; case k => decide)
    | (with_reducible apply Frame.step State.sendShare_frame; case k => decide) | with_reducible refine Frame.ite ?_ ?_
    | with_reducible refine Frame.foldl (fun _ _ => ?_) ?_ | with_reducible refine Frame.foldl_snd (fun _ _ => ?_) ?_ | split
    | dsimp only)

theorem State.sendSubsOf_frame {s : State} {id : Nat} :
    Frame [.regs, .itin, .reqs, .ctxs, .conns, .links, .comp, .dbg, .out] s (State.sendSubsOf s id) := by
  unfold State.sendSubsOf
  repeat' (first
    | (with_reducible refine Frame.upd ?_ ?_ ?_; fail_if_success with_reducible exact ChangesOnly.refl)
    | with_reducible exact Frame.refl | (with_reducible apply Frame.step State.sendSubs_frame; case k => decide)
    | with_reducible refine Frame.foldl (fun _ _ => ?_) ?_ | with_reducible refine Frame.foldl_snd (fun _ _ => ?_) ?_ | split
    | dsimp only)

theorem State.sendLeaf_frame {s : State} {epoch ctx slot cls : Nat} {l : LeafBody} :
    Frame [.regs, .itin, .ctxs, .conns, .links, .dbg, .out] s (State.sendLeaf s epoch ctx slot cls l) := by
  unfold State.sendLeaf
  repeat' (first
    | (with_reducible refine Frame.upd ?_ ?_ ?_; fail_if_success with_reducible exact ChangesOnly.refl)
    | with_reducible exact Frame.refl | (with_reducible apply Frame.step State.sendSend_frame; case k => decide)
    | (with_reducible apply Frame.step State.bump_frame; case k => decide) | split)

theorem State.homeLeaves_frame {s : State} {id b : Nat} :
    Frame [.regs, .itin, .reqs, .ctxs, .engines, .locals, .conns, .links, .health, .dbg, .out] s (State.homeLeaves s id b) := by
  unfold State.homeLeaves
  repeat' (first
    | (lift_lets; intro x; refine Frame.cut x ?_ (fun hx => ?_); rotate_left; clear_value x)
    | (lift_lets; intro x; with_reducible refine Frame.trans Frame.refl ?_)
    | (with_reducible refine Frame.upd ?_ ?_ ?_; fail_if_success with_reducible exact ChangesOnly.refl)
    | with_reducible exact Frame.refl | with_reducible assumption
    | (with_reducible apply Frame.step State.failReq_frame; case k => decide)
    | (with_reducible apply Frame.step State.modReq_frame; case k => decide)
    | (with_reducible apply Frame.step State.sendLeaf_frame; case k => decide) | with_reducible refine Frame.ite ?_ ?_
    | with_reducible refine Frame.foldl (fun _ _ => ?_) ?_ | with_reducible refine Frame.foldl_snd (fun _ _ => ?_) ?_ | split
    | dsimp only)

theorem State.advanceBlock_frame {s : State} {id b : Nat} :
    Frame [.regs, .itin, .reqs, .ctxs, .engines, .locals, .conns, .links, .tier, .health, .dbg, .out, .free] s (State.advanceBlock s id b) := by
  unfold State.advanceBlock
  repeat' (first
    | (lift_lets; intro x; refine Frame.cut x ?_ (fun hx => ?_); rotate_left; clear_value x)
    | (lift_lets; intro x; with_reducible refine Frame.trans Frame.refl ?_)
    | (with_reducible refine Frame.upd ?_ ?_ ?_; fail_if_success with_reducible exact ChangesOnly.refl)
    | with_reducible exact Frame.refl | with_reducible assumption
    | (with_reducible apply Frame.step State.homeLeaves_frame; case k => decide)
    | (with_reducible apply Frame.step State.runBlock_frame; case k => decide) | with_reducible refine Frame.ite ?_ ?_ | split)

theorem State.sendPartial_frame {s : State} {q : SubReq} {status : Nat} {cairn : Bytes} {skip : Bool} {rows : List Partial} :
    Frame [.itin, .ctxs, .conns, .links, .comp, .health, .dbg, .out] s (State.sendPartial s q status cairn skip rows) := by
  unfold State.sendPartial
  repeat' (first
    | (lift_lets; intro x; refine Frame.cut x ?_ (fun hx => ?_); rotate_left; clear_value x)
    | (lift_lets; intro x; with_reducible refine Frame.trans Frame.refl ?_)
    | (with_reducible refine Frame.upd ?_ ?_ ?_; fail_if_success with_reducible exact ChangesOnly.refl)
    | with_reducible exact Frame.refl | with_reducible assumption
    | (with_reducible apply Frame.step State.dropTasks_frame; case k => decide)
    | (with_reducible apply Frame.step State.settleRetiring_frame; case k => decide)
    | (with_reducible apply Frame.step State.dropHeldAssays_frame; case k => decide)
    | (with_reducible apply Frame.step State.sendSend_frame; case k => decide) | with_reducible refine Frame.ite ?_ ?_
    | (intro p hp; cases p <;> first | exact absurd hp (by decide) | rfl) | (intro h; exact h.of_eq rfl rfl rfl rfl)
    | (simp only [x]; split) | split)

theorem State.subLeaves_frame {s : State} {q : SubReq} {p : Profile} :
    Frame [.regs, .itin, .ctxs, .conns, .links, .comp, .dbg, .out] s (State.subLeaves s q p) := by
  unfold State.subLeaves
  repeat' (first
    | (lift_lets; intro x; refine Frame.cut x ?_ (fun hx => ?_); rotate_left; clear_value x)
    | (lift_lets; intro x; with_reducible refine Frame.trans Frame.refl ?_)
    | (with_reducible refine Frame.upd ?_ ?_ ?_; fail_if_success with_reducible exact ChangesOnly.refl)
    | with_reducible exact Frame.refl | with_reducible assumption
    | (with_reducible apply Frame.step State.sendLeaf_frame; case k => decide) | with_reducible refine Frame.ite ?_ ?_
    | with_reducible refine Frame.foldl (fun _ _ => ?_) ?_ | with_reducible refine Frame.foldl_snd (fun _ _ => ?_) ?_
    | (intro p hp; cases p <;> first | exact absurd hp (by decide) | rfl) | (intro h; exact h.of_eq rfl rfl rfl rfl) | split
    | dsimp only)

theorem State.runSubJob_frame {s : State} {id : Nat} :
    Frame [.regs, .itin, .ctxs, .conns, .links, .comp, .tier, .health, .dbg, .out, .free] s (State.runSubJob s id) := by
  unfold State.runSubJob
  repeat' (first
    | (lift_lets; intro x; refine Frame.cut x ?_ (fun hx => ?_); rotate_left; clear_value x)
    | (lift_lets; intro x; with_reducible refine Frame.trans Frame.refl ?_)
    | (with_reducible refine Frame.upd ?_ ?_ ?_; fail_if_success with_reducible exact ChangesOnly.refl)
    | with_reducible exact Frame.refl | with_reducible assumption
    | (with_reducible apply Frame.step State.subLeaves_frame; case k => decide)
    | (with_reducible apply Frame.step State.corrupt_frame; case k => decide)
    | (with_reducible apply Frame.step State.sendPartial_frame; case k => decide) | with_reducible refine Frame.ite ?_ ?_
    | (simp only [x]; split) | split)

theorem State.onSubreq_frame {s : State} {slot epoch : Nat} {body : Bytes} :
    Frame [.regs, .comp] s (State.onSubreq s slot epoch body) := by
  unfold State.onSubreq
  repeat' (first
    | (with_reducible refine Frame.upd ?_ ?_ ?_; fail_if_success with_reducible exact ChangesOnly.refl)
    | with_reducible exact Frame.refl | (with_reducible apply Frame.step State.addSub_frame; case k => decide))

theorem State.badContribution_frame {s : State} {r : Req} {slot step : Nat} :
    Frame [.regs, .itin, .reqs, .ctxs, .engines, .locals, .conns, .links, .health, .dbg, .out, .free] s (State.badContribution s r slot step) := by
  unfold State.badContribution
  repeat' (first
    | (with_reducible refine Frame.upd ?_ ?_ ?_; fail_if_success with_reducible exact ChangesOnly.refl)
    | with_reducible exact Frame.refl | (with_reducible apply Frame.step State.failReq_frame; case k => decide)
    | (with_reducible apply Frame.step errRecord_frame; case k => decide))

theorem State.noteArrivalOf_frame {s : State} {r : Req} {member b : Nat} :
    Frame [.comp] s (State.noteArrivalOf s r member b) := by
  unfold State.noteArrivalOf
  repeat' (first
    | (lift_lets; intro x; refine Frame.cut x ?_ (fun hx => ?_); rotate_left; clear_value x)
    | (lift_lets; intro x; with_reducible refine Frame.trans Frame.refl ?_)
    | (with_reducible refine Frame.upd ?_ ?_ ?_; fail_if_success with_reducible exact ChangesOnly.refl)
    | with_reducible exact Frame.refl | with_reducible assumption
    | (intro p hp; cases p <;> first | exact absurd hp (by decide) | rfl) | (intro h; exact h.of_eq rfl rfl rfl rfl) | split)

theorem State.takePartial_frame {s : State} {ctx : Nat} {conn : Option Nat} {body : Bytes} :
    Frame [.regs, .itin, .reqs, .ctxs, .engines, .tiles, .locals, .conns, .links, .comp, .tier, .health, .dbg, .out, .free] s (State.takePartial s ctx conn body) := by
  unfold State.takePartial
  repeat' (first
    | (lift_lets; intro x; refine Frame.cut x ?_ (fun hx => ?_); rotate_left; clear_value x)
    | (lift_lets; intro x; with_reducible refine Frame.trans Frame.refl ?_)
    | (with_reducible refine Frame.upd ?_ ?_ ?_; fail_if_success with_reducible exact ChangesOnly.refl)
    | with_reducible exact Frame.refl | with_reducible assumption
    | (with_reducible apply Frame.step State.failReq_frame; case k => decide)
    | (with_reducible apply Frame.step State.badContribution_frame; case k => decide)
    | (with_reducible refine Frame.step (State.modCtx_frame ?_) (by decide) ?_)
    | (with_reducible apply Frame.step State.bump_frame; case k => decide)
    | (with_reducible apply Frame.step State.noteArrivalOf_frame; case k => decide)
    | (with_reducible apply Frame.step State.fillShare_frame; case k => decide)
    | (with_reducible apply Frame.step State.advanceBlock_frame; case k => decide)
    | (with_reducible apply Frame.step State.startAll_frame; case k => decide) | with_reducible refine Frame.ite ?_ ?_
    | exact KeepsCtx.mk (fun _ h => h) (fun _ h => h) | (simp only [x]; split) | split)

theorem State.onPartial_frame {s : State} {slot : Nat} {body : Bytes} :
    Frame [.regs, .itin, .reqs, .ctxs, .engines, .tiles, .locals, .conns, .links, .comp, .tier, .health, .dbg, .out, .free] s (State.onPartial s slot body) := by
  unfold State.onPartial
  repeat' (first
    | (with_reducible refine Frame.upd ?_ ?_ ?_; fail_if_success with_reducible exact ChangesOnly.refl)
    | with_reducible exact Frame.refl | (with_reducible apply Frame.step State.takePartial_frame; case k => decide))

theorem State.takeSelfParts_frame {s : State} :
    Frame [.regs, .itin, .reqs, .ctxs, .engines, .tiles, .locals, .conns, .links, .comp, .tier, .health, .dbg, .out, .free] s (State.takeSelfParts s) := by
  unfold State.takeSelfParts
  repeat' (first
    | (lift_lets; intro x; refine Frame.cut x ?_ (fun hx => ?_); rotate_left; clear_value x)
    | (lift_lets; intro x; with_reducible refine Frame.trans Frame.refl ?_)
    | (with_reducible refine Frame.upd ?_ ?_ ?_; fail_if_success with_reducible exact ChangesOnly.refl)
    | with_reducible exact Frame.refl | with_reducible assumption
    | (with_reducible apply Frame.step State.takePartial_frame; case k => decide)
    | with_reducible refine Frame.foldl (fun _ _ => ?_) ?_ | with_reducible refine Frame.foldl_snd (fun _ _ => ?_) ?_
    | (intro p hp; cases p <;> first | exact absurd hp (by decide) | rfl) | (intro h; exact h.of_eq rfl rfl rfl rfl) | split
    | dsimp only)

theorem State.runSub_frame {s : State} {id : Nat} :
    Frame [.regs, .itin, .reqs, .ctxs, .engines, .tiles, .locals, .conns, .links, .comp, .tier, .health, .dbg, .out, .free] s (State.runSub s id) := by
  unfold State.runSub
  repeat' (first
    | (with_reducible refine Frame.upd ?_ ?_ ?_; fail_if_success with_reducible exact ChangesOnly.refl)
    | with_reducible exact Frame.refl | (with_reducible apply Frame.step State.takeSelfParts_frame; case k => decide)
    | (with_reducible apply Frame.step State.runSubJob_frame; case k => decide))

theorem State.onLeaf_frame {s : State} {slot : Nat} {body : Bytes} :
    Frame [.regs, .itin, .reqs, .ctxs, .engines, .tiles, .locals, .conns, .links, .comp, .tier, .health, .dbg, .out, .free] s (State.onLeaf s slot body) := by
  unfold State.onLeaf
  repeat' (first
    | (lift_lets; intro x; refine Frame.cut x ?_ (fun hx => ?_); rotate_left; clear_value x)
    | (lift_lets; intro x; with_reducible refine Frame.trans Frame.refl ?_)
    | (with_reducible refine Frame.upd ?_ ?_ ?_; fail_if_success with_reducible exact ChangesOnly.refl)
    | with_reducible exact Frame.refl | with_reducible assumption
    | (with_reducible apply Frame.step State.failReq_frame; case k => decide)
    | (with_reducible apply Frame.step State.badContribution_frame; case k => decide)
    | (with_reducible apply Frame.step State.advanceBlock_frame; case k => decide)
    | (with_reducible apply Frame.step State.startAll_frame; case k => decide)
    | (with_reducible apply Frame.step State.modReq_frame; case k => decide)
    | (with_reducible apply Frame.step State.sendPartial_frame; case k => decide)
    | (with_reducible apply Frame.step errRecord_frame; case k => decide)
    | (with_reducible apply Frame.step State.runSub_frame; case k => decide) | with_reducible refine Frame.ite ?_ ?_
    | (intro p hp; cases p <;> first | exact absurd hp (by decide) | rfl) | (intro h; exact h.of_eq rfl rfl rfl rfl) | split)

end Sys2Proof.Machine
end

