-- ==== Sys2Proof/Laws/ItineraryFrames.lean ====
section
/-! SUPPORT. What each operation of Machine/Itinerary.lean may change, and that it keeps the invariant of Safety.lean. -/
namespace Sys2Proof.Machine

theorem State.land_frame {s : State} {id b : Nat} {data : Bytes} :
    Frame [.itin, .reqs, .ctxs, .engines, .tiles, .locals, .conns, .links, .health, .dbg, .out] s (State.land s id b data) := by
  unfold State.land
  repeat' (first
    | (lift_lets; intro x; refine Frame.cut x ?_ (fun hx => ?_); rotate_left; clear_value x)
    | (lift_lets; intro x; with_reducible refine Frame.trans Frame.refl ?_)
    | (with_reducible refine Frame.upd ?_ ?_ ?_; fail_if_success with_reducible exact ChangesOnly.refl)
    | with_reducible exact Frame.refl | with_reducible assumption
    | (with_reducible apply Frame.step State.modReq_frame; case k => decide)
    | (with_reducible apply Frame.step State.failReq_frame; case k => decide)
    | (with_reducible apply Frame.step State.startAll_frame; case k => decide) | with_reducible refine Frame.ite ?_ ?_ | split)

theorem execOperandsLanded_frame {t req block : Nat} {data : Bytes} {s : State} :
    Answers [.now, .itin, .reqs, .ctxs, .engines, .tiles, .locals, .conns, .links, .health, .dbg, .out] s (execOperandsLanded t req block data s) := by
  unfold execOperandsLanded
  repeat' (first
    | with_reducible refine Answers.next ?_ | with_reducible refine Answers.ite ?_ ?_
    | (with_reducible refine Frame.upd ?_ ?_ ?_; fail_if_success with_reducible exact ChangesOnly.refl)
    | with_reducible exact Frame.refl | (with_reducible apply Frame.step State.land_frame; case k => decide)
    | (with_reducible apply Frame.step State.at__frame; case k => decide))

theorem State.runAttend_frame {s : State} {id op : Nat} :
    Frame [.regs, .itin, .reqs, .ctxs, .engines, .locals, .conns, .links, .tier, .health, .dbg, .out, .free] s (State.runAttend s id op) := by
  unfold State.runAttend
  repeat' (first
    | (with_reducible refine Frame.upd ?_ ?_ ?_; fail_if_success with_reducible exact ChangesOnly.refl)
    | with_reducible exact Frame.refl | (with_reducible apply Frame.step State.advanceBlock_frame; case k => decide)
    | with_reducible refine Frame.ite ?_ ?_ | with_reducible refine Frame.foldl (fun _ _ => ?_) ?_
    | with_reducible refine Frame.foldl_snd (fun _ _ => ?_) ?_ | split | dsimp only)

theorem execAttend_frame {t req : Nat} {s : State} :
    Answers [.now, .regs, .itin, .reqs, .ctxs, .engines, .locals, .conns, .links, .tier, .health, .dbg, .out, .free] s (execAttend t req s) := by
  unfold execAttend
  repeat' (first
    | with_reducible refine Answers.next ?_ | with_reducible refine Answers.ite ?_ ?_
    | (with_reducible refine Frame.upd ?_ ?_ ?_; fail_if_success with_reducible exact ChangesOnly.refl)
    | with_reducible exact Frame.refl | (with_reducible apply Frame.step State.runAttend_frame; case k => decide)
    | (with_reducible apply Frame.step State.at__frame; case k => decide))

theorem execAttendChunk_frame {t req : Nat} {s : State} :
    Answers [.now, .regs, .itin, .reqs, .ctxs, .engines, .locals, .conns, .links, .tier, .health, .dbg, .out, .free] s (execAttendChunk t req s) := by
  unfold execAttendChunk
  repeat' (first
    | with_reducible refine Answers.next ?_ | with_reducible refine Answers.ite ?_ ?_
    | (with_reducible refine Frame.upd ?_ ?_ ?_; fail_if_success with_reducible exact ChangesOnly.refl)
    | with_reducible exact Frame.refl | (with_reducible apply Frame.step State.runAttend_frame; case k => decide)
    | (with_reducible apply Frame.step State.at__frame; case k => decide))

theorem execQueryBlockComplete_frame {t req block : Nat} {s : State} :
    Answers [.now, .regs, .itin, .reqs, .ctxs, .engines, .locals, .conns, .links, .tier, .health, .dbg, .out, .free] s (execQueryBlockComplete t req block s) := by
  unfold execQueryBlockComplete
  repeat' (first
    | with_reducible refine Answers.next ?_ | with_reducible refine Answers.ite ?_ ?_
    | (with_reducible refine Frame.upd ?_ ?_ ?_; fail_if_success with_reducible exact ChangesOnly.refl)
    | with_reducible exact Frame.refl | (with_reducible apply Frame.step State.advanceBlock_frame; case k => decide)
    | (with_reducible apply Frame.step State.at__frame; case k => decide))

theorem State.pageDone_frame {s : State} {key b h i : Nat} :
    Frame [.reqs, .comp] s (State.pageDone s key b h i) := by
  unfold State.pageDone
  repeat' (first
    | (lift_lets; intro x; refine Frame.cut x ?_ (fun hx => ?_); rotate_left; clear_value x)
    | (lift_lets; intro x; with_reducible refine Frame.trans Frame.refl ?_)
    | (with_reducible refine Frame.upd ?_ ?_ ?_; fail_if_success with_reducible exact ChangesOnly.refl)
    | with_reducible exact Frame.refl | with_reducible assumption
    | (with_reducible apply Frame.step State.modReq_frame; case k => decide) | with_reducible refine Frame.ite ?_ ?_
    | (intro p hp; cases p <;> first | exact absurd hp (by decide) | rfl) | (intro h; exact h.of_eq rfl rfl rfl rfl) | split)

theorem State.formMasks_frame {s : State} {key block : Nat} :
    Frame [.reqs, .comp] s (State.formMasks s key block) := by
  unfold State.formMasks
  repeat' (first
    | (lift_lets; intro x; refine Frame.cut x ?_ (fun hx => ?_); rotate_left; clear_value x)
    | (lift_lets; intro x; with_reducible refine Frame.trans Frame.refl ?_)
    | (with_reducible refine Frame.upd ?_ ?_ ?_; fail_if_success with_reducible exact ChangesOnly.refl)
    | with_reducible exact Frame.refl | with_reducible assumption
    | (with_reducible apply Frame.step State.modReq_frame; case k => decide)
    | (intro p hp; cases p <;> first | exact absurd hp (by decide) | rfl) | (intro h; exact h.of_eq rfl rfl rfl rfl))

theorem State.advance_frame {s : State} {key b : Nat} :
    Frame [.regs, .itin, .reqs, .ctxs, .engines, .tiles, .locals, .conns, .links, .comp, .tier, .health, .dbg, .out, .free] s (State.advance s key b) := by
  unfold State.advance
  repeat' (first
    | (with_reducible refine Frame.upd ?_ ?_ ?_; fail_if_success with_reducible exact ChangesOnly.refl)
    | with_reducible exact Frame.refl | (with_reducible apply Frame.step State.advanceBlock_frame; case k => decide)
    | (with_reducible apply Frame.step State.runSub_frame; case k => decide) | with_reducible refine Frame.ite ?_ ?_ | split)

theorem State.demoteEnd_frame {s : State} {ctx page : Nat} {bad : Option Nat} {u : ErrUnit} :
    Frame [.regs, .itin, .reqs, .ctxs, .engines, .tiles, .locals, .conns, .links, .comp, .tier, .health, .dbg, .out, .free] s (State.demoteEnd s ctx page bad u) := by
  unfold State.demoteEnd
  repeat' (first
    | (lift_lets; intro x; refine Frame.cut x ?_ (fun hx => ?_); rotate_left; clear_value x)
    | (lift_lets; intro x; with_reducible refine Frame.trans Frame.refl ?_)
    | (with_reducible refine Frame.upd ?_ ?_ ?_; fail_if_success with_reducible exact ChangesOnly.refl)
    | with_reducible exact Frame.refl | with_reducible assumption
    | (with_reducible apply Frame.step State.demoteNow_frame; case k => decide)
    | (with_reducible apply Frame.step State.demotionOver_frame; case k => decide))

theorem State.appendEnd_frame {s : State} {key : Nat} :
    Frame [.regs, .itin, .reqs, .ctxs, .engines, .tiles, .locals, .conns, .links, .comp, .tier, .health, .dbg, .out, .free] s (State.appendEnd s key) := by
  unfold State.appendEnd
  repeat' (first
    | (with_reducible refine Frame.upd ?_ ?_ ?_; fail_if_success with_reducible exact ChangesOnly.refl)
    | with_reducible exact Frame.refl | (with_reducible apply Frame.step State.appendReq_frame; case k => decide)
    | with_reducible refine Frame.ite ?_ ?_ | split)

theorem State.rotateEnd_frame {s : State} {key b h : Nat} :
    Frame [.regs, .itin, .reqs, .ctxs, .engines, .locals, .conns, .links, .comp, .health, .dbg, .out] s (State.rotateEnd s key b h) := by
  unfold State.rotateEnd
  repeat' (first
    | (lift_lets; intro x; refine Frame.cut x ?_ (fun hx => ?_); rotate_left; clear_value x)
    | (lift_lets; intro x; with_reducible refine Frame.trans Frame.refl ?_)
    | (with_reducible refine Frame.upd ?_ ?_ ?_; fail_if_success with_reducible exact ChangesOnly.refl)
    | with_reducible exact Frame.refl | with_reducible assumption
    | (with_reducible apply Frame.step State.failReq_frame; case k => decide)
    | (with_reducible apply Frame.step State.sendRows_frame; case k => decide)
    | (with_reducible apply Frame.step State.sendSubs_frame; case k => decide) | with_reducible refine Frame.ite ?_ ?_
    | (simp only [x]; split) | split)

theorem State.taskDone_frame {s : State} {t : Task} :
    Frame [.regs, .itin, .reqs, .ctxs, .engines, .tiles, .locals, .conns, .links, .comp, .tier, .health, .dbg, .out, .free] s (State.taskDone s t) := by
  unfold State.taskDone
  repeat' (first
    | (lift_lets; intro x; refine Frame.cut x ?_ (fun hx => ?_); rotate_left; clear_value x)
    | (lift_lets; intro x; with_reducible refine Frame.trans Frame.refl ?_)
    | (with_reducible refine Frame.upd ?_ ?_ ?_; fail_if_success with_reducible exact ChangesOnly.refl)
    | with_reducible exact Frame.refl | with_reducible assumption
    | (with_reducible apply Frame.step State.rotateEnd_frame; case k => decide)
    | (with_reducible apply Frame.step State.advance_frame; case k => decide)
    | (with_reducible apply Frame.step State.pageDone_frame; case k => decide)
    | (with_reducible apply Frame.step State.freeSlots_frame; case k => decide)
    | (with_reducible apply Frame.step State.appendEnd_frame; case k => decide)
    | (with_reducible apply Frame.step State.demoteEnd_frame; case k => decide) | with_reducible refine Frame.ite ?_ ?_ | split)

theorem State.anchorBlock_frame {s : State} {w : Work} {block : Nat} :
    Frame [.regs, .itin, .reqs, .ctxs, .engines, .tiles, .locals, .conns, .links, .comp, .tier, .health, .dbg, .out, .free] s (State.anchorBlock s w block) := by
  unfold State.anchorBlock
  repeat' (first
    | (lift_lets; intro x; refine Frame.cut x ?_ (fun hx => ?_); rotate_left; clear_value x)
    | (lift_lets; intro x; with_reducible refine Frame.trans Frame.refl ?_)
    | (with_reducible refine Frame.upd ?_ ?_ ?_; fail_if_success with_reducible exact ChangesOnly.refl)
    | with_reducible exact Frame.refl | with_reducible assumption
    | (with_reducible apply Frame.step State.formMasks_frame; case k => decide)
    | (with_reducible apply Frame.step State.taskDone_frame; case k => decide)
    | (with_reducible apply Frame.step State.dropTasks_frame; case k => decide) | with_reducible refine Frame.ite ?_ ?_
    | with_reducible refine Frame.foldl (fun _ _ => ?_) ?_ | with_reducible refine Frame.foldl_snd (fun _ _ => ?_) ?_ | split
    | dsimp only)

theorem State.anchored_frame {s : State} {key : Nat} :
    Frame [.regs, .itin, .reqs, .ctxs, .engines, .tiles, .locals, .conns, .links, .comp, .tier, .health, .dbg, .out, .free] s (State.anchored s key) := by
  unfold State.anchored
  repeat' (first
    | (with_reducible refine Frame.upd ?_ ?_ ?_; fail_if_success with_reducible exact ChangesOnly.refl)
    | with_reducible exact Frame.refl | (with_reducible apply Frame.step State.anchorBlock_frame; case k => decide)
    | with_reducible refine Frame.foldl (fun _ _ => ?_) ?_ | with_reducible refine Frame.foldl_snd (fun _ _ => ?_) ?_ | split
    | dsimp only)

theorem execAnchorScanComplete_frame {t req : Nat} {s : State} :
    Answers [.now, .regs, .itin, .reqs, .ctxs, .engines, .tiles, .locals, .conns, .links, .comp, .tier, .health, .dbg, .out, .free] s (execAnchorScanComplete t req s) := by
  unfold execAnchorScanComplete
  repeat' (first
    | with_reducible refine Answers.next ?_ | with_reducible refine Answers.ite ?_ ?_
    | (with_reducible refine Frame.upd ?_ ?_ ?_; fail_if_success with_reducible exact ChangesOnly.refl)
    | with_reducible exact Frame.refl | (with_reducible apply Frame.step State.startAll_frame; case k => decide)
    | (with_reducible apply Frame.step State.anchored_frame; case k => decide)
    | (with_reducible apply Frame.step State.at__frame; case k => decide))

theorem State.resume_frame {s : State} {id : Nat} :
    Frame [.regs, .itin, .reqs, .ctxs, .engines, .tiles, .locals, .conns, .links, .comp, .tier, .health, .dbg, .out, .free] s (State.resume s id) := by
  unfold State.resume
  repeat' (first
    | (with_reducible refine Frame.upd ?_ ?_ ?_; fail_if_success with_reducible exact ChangesOnly.refl)
    | with_reducible exact Frame.refl | (with_reducible apply Frame.step State.advanceBlock_frame; case k => decide)
    | (with_reducible apply Frame.step State.appendEnd_frame; case k => decide) | with_reducible refine Frame.ite ?_ ?_
    | with_reducible refine Frame.foldl (fun _ _ => ?_) ?_ | with_reducible refine Frame.foldl_snd (fun _ _ => ?_) ?_ | split
    | dsimp only)

theorem State.goOn_frame {s : State} :
    Frame [.regs, .itin, .reqs, .ctxs, .engines, .tiles, .locals, .conns, .links, .comp, .tier, .health, .dbg, .out, .free] s (State.goOn s) := by
  unfold State.goOn
  repeat' (first
    | (lift_lets; intro x; refine Frame.cut x ?_ (fun hx => ?_); rotate_left; clear_value x)
    | (lift_lets; intro x; with_reducible refine Frame.trans Frame.refl ?_)
    | (with_reducible refine Frame.upd ?_ ?_ ?_; fail_if_success with_reducible exact ChangesOnly.refl)
    | with_reducible exact Frame.refl | with_reducible assumption
    | (with_reducible apply Frame.step State.resume_frame; case k => decide)
    | (with_reducible apply Frame.step State.runSub_frame; case k => decide) | with_reducible refine Frame.foldl (fun _ _ => ?_) ?_
    | with_reducible refine Frame.foldl_snd (fun _ _ => ?_) ?_ | dsimp only)

theorem State.publishItinerary_frame {s : State} :
    Frame [.regs, .tick, .itin, .reqs, .ctxs, .engines, .tiles, .locals, .conns, .links, .comp, .tier, .health, .dbg, .out, .free] s (State.publishItinerary s) := by
  unfold State.publishItinerary
  repeat' (first
    | (lift_lets; intro x; refine Frame.cut x ?_ (fun hx => ?_); rotate_left; clear_value x)
    | (lift_lets; intro x; with_reducible refine Frame.trans Frame.refl ?_)
    | (with_reducible refine Frame.upd ?_ ?_ ?_; fail_if_success with_reducible exact ChangesOnly.refl)
    | with_reducible exact Frame.refl | with_reducible assumption
    | (with_reducible apply Frame.step State.startAll_frame; case k => decide)
    | (with_reducible apply Frame.step State.goOn_frame; case k => decide)
    | (with_reducible apply Frame.step State.sendSubsOf_frame; case k => decide)
    | with_reducible refine Frame.foldl (fun _ _ => ?_) ?_ | with_reducible refine Frame.foldl_snd (fun _ _ => ?_) ?_
    | (intro p hp; cases p <;> first | exact absurd hp (by decide) | rfl) | (intro h; exact h.of_eq rfl rfl rfl rfl) | dsimp only)

theorem execItineraryPublished_frame {t : Nat} {s : State} :
    Answers [.now, .regs, .tick, .itin, .reqs, .ctxs, .engines, .tiles, .locals, .conns, .links, .comp, .tier, .health, .dbg, .out, .free] s (execItineraryPublished t s) := by
  unfold execItineraryPublished
  repeat' (first
    | (lift_lets; intro x; refine Answers.cut x ?_ (fun hx => ?_); rotate_left; clear_value x)
    | (lift_lets; intro x; refine Frame.cut x ?_ (fun hx => ?_); rotate_left; clear_value x)
    | (lift_lets; intro x; with_reducible refine Frame.trans Frame.refl ?_) | with_reducible refine Answers.next ?_
    | with_reducible refine Answers.ite ?_ ?_
    | (with_reducible refine Frame.upd ?_ ?_ ?_; fail_if_success with_reducible exact ChangesOnly.refl)
    | with_reducible exact Frame.refl | with_reducible assumption
    | (with_reducible apply Frame.step State.at__frame; case k => decide)
    | (with_reducible apply Frame.step State.publishItinerary_frame; case k => decide) | with_reducible refine Frame.ite ?_ ?_
    | split)

theorem State.taskFails_frame {s : State} {t : Task} {code status : Nat} :
    Frame [.itin, .reqs, .ctxs, .engines, .locals, .conns, .links, .comp, .health, .dbg, .out] s (State.taskFails s t code status) := by
  unfold State.taskFails
  repeat' (first
    | (with_reducible refine Frame.upd ?_ ?_ ?_; fail_if_success with_reducible exact ChangesOnly.refl)
    | with_reducible exact Frame.refl | (with_reducible apply Frame.step State.failReq_frame; case k => decide)
    | (with_reducible apply Frame.step State.sendPartial_frame; case k => decide) | split)

theorem State.metCorrupt_frame {s : State} {u : UnitId} {t : Task} {peb : Nat} :
    Frame [.regs, .ctxs, .tier, .health, .free] s (State.metCorrupt s u t peb) := by
  unfold State.metCorrupt
  repeat' (first
    | (with_reducible refine Frame.upd ?_ ?_ ?_; fail_if_success with_reducible exact ChangesOnly.refl)
    | with_reducible exact Frame.refl | (with_reducible apply Frame.step State.corrupt_frame; case k => decide)
    | (with_reducible apply Frame.step State.spoil_frame; case k => decide))

theorem State.taskCorrupt_frame {s : State} {u : UnitId} {t : Task} {peb : Nat} :
    Frame [.regs, .itin, .reqs, .ctxs, .engines, .tiles, .locals, .conns, .links, .comp, .tier, .health, .dbg, .out, .free] s (State.taskCorrupt s u t peb) := by
  unfold State.taskCorrupt
  repeat' (first
    | (with_reducible refine Frame.upd ?_ ?_ ?_; fail_if_success with_reducible exact ChangesOnly.refl)
    | with_reducible exact Frame.refl | (with_reducible apply Frame.step State.demoteEnd_frame; case k => decide)
    | (with_reducible apply Frame.step State.dropTasks_frame; case k => decide)
    | (with_reducible apply Frame.step State.taskFails_frame; case k => decide)
    | (with_reducible apply Frame.step State.metCorrupt_frame; case k => decide)
    | (with_reducible apply Frame.step State.taskDone_frame; case k => decide) | split)

theorem State.taskTagFault_frame {s : State} {u : UnitId} {t : Task} {found : Nat} :
    Frame [.regs, .itin, .reqs, .ctxs, .engines, .locals, .conns, .links, .comp, .health, .dbg, .out, .free] s (State.taskTagFault s u t found) := by
  unfold State.taskTagFault
  repeat' (first
    | (lift_lets; intro x; refine Frame.cut x ?_ (fun hx => ?_); rotate_left; clear_value x)
    | (lift_lets; intro x; with_reducible refine Frame.trans Frame.refl ?_)
    | (with_reducible refine Frame.upd ?_ ?_ ?_; fail_if_success with_reducible exact ChangesOnly.refl)
    | with_reducible exact Frame.refl | with_reducible assumption
    | (with_reducible apply Frame.step State.wr_frame; case k => decide)
    | (with_reducible apply Frame.step State.bump_frame; case k => decide)
    | (with_reducible apply Frame.step errRecord_frame; case k => decide)
    | (with_reducible apply Frame.step State.taskFails_frame; case k => decide))

theorem State.freeSets_frame {s : State} {u : UnitId} {t : Task} :
    Frame [.engines] s (State.freeSets s u t) := by
  unfold State.freeSets
  repeat' (first
    | (lift_lets; intro x; refine Frame.cut x ?_ (fun hx => ?_); rotate_left; clear_value x)
    | (lift_lets; intro x; with_reducible refine Frame.trans Frame.refl ?_)
    | (with_reducible refine Frame.upd ?_ ?_ ?_; fail_if_success with_reducible exact ChangesOnly.refl)
    | with_reducible exact Frame.refl | with_reducible assumption
    | (with_reducible apply Frame.step State.modEngine_frame; case k => decide) | with_reducible refine Frame.ite ?_ ?_ | split)

theorem State.lateRead_frame {s : State} {u : UnitId} {t : Task} :
    Frame [.regs] s (State.lateRead s u t) := by
  unfold State.lateRead
  repeat' (first
    | (with_reducible refine Frame.upd ?_ ?_ ?_; fail_if_success with_reducible exact ChangesOnly.refl)
    | with_reducible exact Frame.refl | (with_reducible apply Frame.step State.bump_frame; case k => decide)
    | with_reducible refine Frame.ite ?_ ?_ | split)

theorem State.endTask_frame {s : State} {u : UnitId} {o : TaskOutcome} :
    Frame [.regs, .itin, .reqs, .ctxs, .engines, .tiles, .locals, .conns, .links, .comp, .tier, .health, .dbg, .out, .free] s (State.endTask s u o) := by
  unfold State.endTask
  repeat' (first
    | (lift_lets; intro x; refine Frame.cut x ?_ (fun hx => ?_); rotate_left; clear_value x)
    | (lift_lets; intro x; with_reducible refine Frame.trans Frame.refl ?_)
    | (with_reducible refine Frame.upd ?_ ?_ ?_; fail_if_success with_reducible exact ChangesOnly.refl)
    | with_reducible exact Frame.refl | with_reducible assumption
    | (with_reducible apply Frame.step State.threadEnd_frame; case k => decide)
    | (with_reducible apply Frame.step State.freeSets_frame; case k => decide)
    | (with_reducible apply Frame.step State.deliver_frame; case k => decide)
    | (with_reducible apply Frame.step State.meterTask_frame; case k => decide)
    | (with_reducible apply Frame.step State.setPlan_frame; case k => decide)
    | (with_reducible apply Frame.step State.lateRead_frame; case k => decide)
    | (with_reducible apply Frame.step State.taskDone_frame; case k => decide)
    | (with_reducible apply Frame.step State.dropLease_frame; case k => decide)
    | (with_reducible apply Frame.step State.taskCorrupt_frame; case k => decide)
    | (with_reducible apply Frame.step State.taskTagFault_frame; case k => decide)
    | (with_reducible apply Frame.step State.startAll_frame; case k => decide)
    | (with_reducible apply Frame.step State.goOn_frame; case k => decide) | (simp only [x]; split) | split)

theorem execTaskComplete_frame {t : Nat} {u : UnitId} {o : TaskOutcome} {s : State} :
    Answers [.now, .regs, .itin, .reqs, .ctxs, .engines, .tiles, .locals, .conns, .links, .comp, .tier, .health, .dbg, .out, .free] s (execTaskComplete t u o s) := by
  unfold execTaskComplete
  repeat' (first
    | with_reducible refine Answers.next ?_ | with_reducible refine Answers.ite ?_ ?_
    | (with_reducible refine Frame.upd ?_ ?_ ?_; fail_if_success with_reducible exact ChangesOnly.refl)
    | with_reducible exact Frame.refl | (with_reducible apply Frame.step State.endTask_frame; case k => decide)
    | (with_reducible apply Frame.step State.at__frame; case k => decide))

theorem State.countLate_frame {s : State} {t : Task} :
    Frame [.regs] s (State.countLate s t) := by
  unfold State.countLate
  repeat' (first
    | (with_reducible refine Frame.upd ?_ ?_ ?_; fail_if_success with_reducible exact ChangesOnly.refl)
    | with_reducible exact Frame.refl | (with_reducible apply Frame.step State.bump_frame; case k => decide)
    | with_reducible refine Frame.ite ?_ ?_ | split)

theorem State.windowEnds_frame {s : State} {u : UnitId} {c : Cls} :
    Frame [.regs, .itin, .reqs, .ctxs, .engines, .tiles, .conns, .links, .dbg, .out] s (State.windowEnds s u c) := by
  unfold State.windowEnds
  repeat' (first
    | (lift_lets; intro x; refine Frame.cut x ?_ (fun hx => ?_); rotate_left; clear_value x)
    | (lift_lets; intro x; with_reducible refine Frame.trans Frame.refl ?_)
    | (with_reducible refine Frame.upd ?_ ?_ ?_; fail_if_success with_reducible exact ChangesOnly.refl)
    | with_reducible exact Frame.refl | with_reducible assumption
    | (with_reducible apply Frame.step State.bump_frame; case k => decide)
    | (with_reducible apply Frame.step State.setPlan_frame; case k => decide)
    | (with_reducible apply Frame.step State.startAll_frame; case k => decide)
    | (with_reducible apply Frame.step State.countLate_frame; case k => decide) | with_reducible refine Frame.ite ?_ ?_
    | with_reducible refine Frame.foldl (fun _ _ => ?_) ?_ | with_reducible refine Frame.foldl_snd (fun _ _ => ?_) ?_
    | (simp only [x]; split) | split | dsimp only)

theorem execWindowNominalEnd_frame {t : Nat} {u : UnitId} {c : Cls} {s : State} :
    Answers [.now, .regs, .itin, .reqs, .ctxs, .engines, .tiles, .conns, .links, .dbg, .out] s (execWindowNominalEnd t u c s) := by
  unfold execWindowNominalEnd
  repeat' (first
    | (lift_lets; intro x; refine Answers.cut x ?_ (fun hx => ?_); rotate_left; clear_value x)
    | (lift_lets; intro x; refine Frame.cut x ?_ (fun hx => ?_); rotate_left; clear_value x)
    | (lift_lets; intro x; with_reducible refine Frame.trans Frame.refl ?_) | with_reducible refine Answers.next ?_
    | with_reducible refine Answers.ite ?_ ?_
    | (with_reducible refine Frame.upd ?_ ?_ ?_; fail_if_success with_reducible exact ChangesOnly.refl)
    | with_reducible exact Frame.refl | with_reducible assumption
    | (with_reducible apply Frame.step State.at__frame; case k => decide)
    | (with_reducible apply Frame.step State.windowEnds_frame; case k => decide) | with_reducible refine Frame.ite ?_ ?_ | split)

theorem execGatedTaskReleased_frame {t : Nat} {u : UnitId} {task : Nat} {s : State} :
    Answers [.now, .itin, .reqs, .ctxs, .engines, .tiles, .conns, .links, .dbg, .out] s (execGatedTaskReleased t u task s) := by
  unfold execGatedTaskReleased
  repeat' (first
    | (lift_lets; intro x; refine Answers.cut x ?_ (fun hx => ?_); rotate_left; clear_value x)
    | (lift_lets; intro x; refine Frame.cut x ?_ (fun hx => ?_); rotate_left; clear_value x)
    | (lift_lets; intro x; with_reducible refine Frame.trans Frame.refl ?_) | with_reducible refine Answers.next ?_
    | with_reducible refine Answers.ite ?_ ?_
    | (with_reducible refine Frame.upd ?_ ?_ ?_; fail_if_success with_reducible exact ChangesOnly.refl)
    | with_reducible exact Frame.refl | with_reducible assumption
    | (with_reducible apply Frame.step State.at__frame; case k => decide)
    | (with_reducible apply Frame.step State.startNext_frame; case k => decide) | with_reducible refine Frame.ite ?_ ?_ | split)

end Sys2Proof.Machine
end

