-- ==== Sys2Proof/Laws/StratumFrames.lean ====
section
/-! SUPPORT. What each operation of Machine/Stratum.lean may change, and that it keeps the invariant of Safety.lean. -/
namespace Sys2Proof.Machine

theorem State.delayRunning_frame {s : State} {u : UnitId} {ps : Nat} :
    Frame [.itin] s (State.delayRunning s u ps) := by
  unfold State.delayRunning
  repeat' (first
    | (lift_lets; intro x; refine Frame.cut x ?_ (fun hx => ?_); rotate_left; clear_value x)
    | (lift_lets; intro x; with_reducible refine Frame.trans Frame.refl ?_)
    | (with_reducible refine Frame.upd ?_ ?_ ?_; fail_if_success with_reducible exact ChangesOnly.refl)
    | with_reducible exact Frame.refl | with_reducible assumption
    | (with_reducible apply Frame.step State.setPlan_frame; case k => decide) | split)

theorem State.refreshAt_frame {s : State} {n : Nat} :
    Frame [.regs, .itin, .engines] s (State.refreshAt s n) := by
  unfold State.refreshAt
  repeat' (first
    | (lift_lets; intro x; refine Frame.cut x ?_ (fun hx => ?_); rotate_left; clear_value x)
    | (lift_lets; intro x; with_reducible refine Frame.trans Frame.refl ?_)
    | (with_reducible refine Frame.upd ?_ ?_ ?_; fail_if_success with_reducible exact ChangesOnly.refl)
    | with_reducible exact Frame.refl | with_reducible assumption
    | (with_reducible apply Frame.step State.peak_frame; case k => decide)
    | (with_reducible apply Frame.step State.bump_frame; case k => decide)
    | (with_reducible apply Frame.step State.modEngine_frame; case k => decide)
    | (with_reducible apply Frame.step State.delayRunning_frame; case k => decide) | with_reducible refine Frame.ite ?_ ?_ | split)

theorem execRefreshSlot_frame {t engine : Nat} {s : State} :
    Answers [.now, .regs, .itin, .engines] s (execRefreshSlot t engine s) := by
  unfold execRefreshSlot
  repeat' (first
    | with_reducible refine Answers.next ?_ | with_reducible refine Answers.ite ?_ ?_
    | (with_reducible refine Frame.upd ?_ ?_ ?_; fail_if_success with_reducible exact ChangesOnly.refl)
    | with_reducible exact Frame.refl | (with_reducible apply Frame.step State.refreshAt_frame; case k => decide)
    | (with_reducible apply Frame.step State.at__frame; case k => decide) | with_reducible refine Frame.ite ?_ ?_ | split)

theorem execMakeupRefreshSlot_frame {t engine : Nat} {s : State} :
    Answers [.now, .regs, .itin, .engines] s (execMakeupRefreshSlot t engine s) := by
  unfold execMakeupRefreshSlot
  repeat' (first
    | with_reducible refine Answers.next ?_ | with_reducible refine Answers.ite ?_ ?_
    | (with_reducible refine Frame.upd ?_ ?_ ?_; fail_if_success with_reducible exact ChangesOnly.refl)
    | with_reducible exact Frame.refl | (with_reducible apply Frame.step State.refreshAt_frame; case k => decide)
    | (with_reducible apply Frame.step State.at__frame; case k => decide) | with_reducible refine Frame.ite ?_ ?_ | split)

theorem execRefreshDebtRepay_frame {t engine : Nat} {s : State} :
    Answers [.now, .engines] s (execRefreshDebtRepay t engine s) := by
  unfold execRefreshDebtRepay
  repeat' (first
    | (lift_lets; intro x; refine Answers.cut x ?_ (fun hx => ?_); rotate_left; clear_value x)
    | (lift_lets; intro x; refine Frame.cut x ?_ (fun hx => ?_); rotate_left; clear_value x)
    | (lift_lets; intro x; with_reducible refine Frame.trans Frame.refl ?_) | with_reducible refine Answers.next ?_
    | with_reducible refine Answers.ite ?_ ?_
    | (with_reducible refine Frame.upd ?_ ?_ ?_; fail_if_success with_reducible exact ChangesOnly.refl)
    | with_reducible exact Frame.refl | with_reducible assumption
    | (with_reducible apply Frame.step State.at__frame; case k => decide)
    | (with_reducible apply Frame.step State.modEngine_frame; case k => decide) | with_reducible refine Frame.ite ?_ ?_ | split)

theorem State.intrudeOn_frame {s : State} {engine : Nat} :
    Frame [.regs, .itin] s (State.intrudeOn s engine) := by
  unfold State.intrudeOn
  repeat' (first
    | (lift_lets; intro x; refine Frame.cut x ?_ (fun hx => ?_); rotate_left; clear_value x)
    | (lift_lets; intro x; with_reducible refine Frame.trans Frame.refl ?_)
    | (with_reducible refine Frame.upd ?_ ?_ ?_; fail_if_success with_reducible exact ChangesOnly.refl)
    | with_reducible exact Frame.refl | with_reducible assumption
    | (with_reducible apply Frame.step State.setPlan_frame; case k => decide)
    | (with_reducible apply Frame.step State.bump_frame; case k => decide) | with_reducible refine Frame.ite ?_ ?_
    | (simp only [x]; split) | split)

theorem State.stackWarm_frame {s : State} {stack : Nat} :
    Frame [.regs, .itin, .power] s (State.stackWarm s stack) := by
  unfold State.stackWarm
  repeat' (first
    | (lift_lets; intro x; refine Frame.cut x ?_ (fun hx => ?_); rotate_left; clear_value x)
    | (lift_lets; intro x; with_reducible refine Frame.trans Frame.refl ?_)
    | (with_reducible refine Frame.upd ?_ ?_ ?_; fail_if_success with_reducible exact ChangesOnly.refl)
    | with_reducible exact Frame.refl | with_reducible assumption
    | (with_reducible apply Frame.step State.intrudeOn_frame; case k => decide) | with_reducible refine Frame.ite ?_ ?_
    | with_reducible refine Frame.foldl (fun _ _ => ?_) ?_ | with_reducible refine Frame.foldl_snd (fun _ _ => ?_) ?_
    | (intro p hp; cases p <;> first | exact absurd hp (by decide) | rfl) | (intro h; exact h.of_eq rfl rfl rfl rfl)
    | (simp only [x]; split) | split | dsimp only)

theorem execStackAbove85C_frame {t stack : Nat} {s : State} :
    Answers [.now, .regs, .itin, .power] s (execStackAbove85C t stack s) := by
  unfold execStackAbove85C
  repeat' (first
    | (lift_lets; intro x; refine Answers.cut x ?_ (fun hx => ?_); rotate_left; clear_value x)
    | (lift_lets; intro x; refine Frame.cut x ?_ (fun hx => ?_); rotate_left; clear_value x)
    | (lift_lets; intro x; with_reducible refine Frame.trans Frame.refl ?_) | with_reducible refine Answers.next ?_
    | with_reducible refine Answers.ite ?_ ?_
    | (with_reducible refine Frame.upd ?_ ?_ ?_; fail_if_success with_reducible exact ChangesOnly.refl)
    | with_reducible exact Frame.refl | with_reducible assumption
    | (with_reducible apply Frame.step State.at__frame; case k => decide)
    | (with_reducible apply Frame.step State.stackWarm_frame; case k => decide) | with_reducible refine Frame.ite ?_ ?_ | split)

theorem execSeCommandStart_frame {t engine : Nat} {s : State} :
    Answers [.now, .itin, .reqs, .ctxs, .engines, .tiles, .conns, .links, .dbg, .out] s (execSeCommandStart t engine s) := by
  unfold execSeCommandStart
  repeat' (first
    | with_reducible refine Answers.next ?_ | with_reducible refine Answers.ite ?_ ?_
    | (with_reducible refine Frame.upd ?_ ?_ ?_; fail_if_success with_reducible exact ChangesOnly.refl)
    | with_reducible exact Frame.refl | (with_reducible apply Frame.step State.startNext_frame; case k => decide)
    | (with_reducible apply Frame.step State.at__frame; case k => decide))

theorem State.cutRunning_frame {s : State} {u : UnitId} :
    Frame [.regs, .itin, .ctxs, .engines, .dbg] s (State.cutRunning s u) := by
  unfold State.cutRunning
  repeat' (first
    | (lift_lets; intro x; refine Frame.cut x ?_ (fun hx => ?_); rotate_left; clear_value x)
    | (lift_lets; intro x; with_reducible refine Frame.trans Frame.refl ?_)
    | (with_reducible refine Frame.upd ?_ ?_ ?_; fail_if_success with_reducible exact ChangesOnly.refl)
    | with_reducible exact Frame.refl | with_reducible assumption
    | (with_reducible apply Frame.step State.meterTask_frame; case k => decide)
    | (with_reducible apply Frame.step State.bump_frame; case k => decide)
    | (with_reducible apply Frame.step State.setPlan_frame; case k => decide)
    | (with_reducible apply Frame.step State.modEngine_frame; case k => decide) | split)

theorem State.returnTasks_frame {s : State} {ts : List Task} :
    Frame [.itin] s (State.returnTasks s ts) := by
  unfold State.returnTasks
  repeat' (first
    | (lift_lets; intro x; refine Frame.cut x ?_ (fun hx => ?_); rotate_left; clear_value x)
    | (lift_lets; intro x; with_reducible refine Frame.trans Frame.refl ?_)
    | (with_reducible refine Frame.upd ?_ ?_ ?_; fail_if_success with_reducible exact ChangesOnly.refl)
    | with_reducible exact Frame.refl | with_reducible assumption
    | (intro p hp; cases p <;> first | exact absurd hp (by decide) | rfl) | (intro h; exact h.of_eq rfl rfl rfl rfl))

theorem State.returnHead_frame {s : State} {n : Nat} :
    Frame [.itin, .tiles] s (State.returnHead s n) := by
  unfold State.returnHead
  repeat' (first
    | (lift_lets; intro x; refine Frame.cut x ?_ (fun hx => ?_); rotate_left; clear_value x)
    | (lift_lets; intro x; with_reducible refine Frame.trans Frame.refl ?_)
    | (with_reducible refine Frame.upd ?_ ?_ ?_; fail_if_success with_reducible exact ChangesOnly.refl)
    | with_reducible exact Frame.refl | with_reducible assumption
    | (with_reducible apply Frame.step State.returnTasks_frame; case k => decide)
    | (with_reducible apply Frame.step State.deliver_frame; case k => decide)
    | (with_reducible apply Frame.step State.setPlan_frame; case k => decide) | split)

theorem State.cutCommand_frame {s : State} {n : Nat} :
    Frame [.regs, .itin, .ctxs, .engines, .tiles, .dbg] s (State.cutCommand s n) := by
  unfold State.cutCommand
  repeat' (first
    | (with_reducible refine Frame.upd ?_ ?_ ?_; fail_if_success with_reducible exact ChangesOnly.refl)
    | with_reducible exact Frame.refl | (with_reducible apply Frame.step State.cutRunning_frame; case k => decide)
    | (with_reducible apply Frame.step State.deliver_frame; case k => decide) | split)

theorem execSeCommandComplete_frame {t engine outcome detail : Nat} {s : State} :
    Answers [.now, .regs, .itin, .reqs, .ctxs, .engines, .tiles, .locals, .conns, .links, .comp, .tier, .health, .dbg, .out, .free] s (execSeCommandComplete t engine outcome detail s) := by
  unfold execSeCommandComplete
  repeat' (first
    | (lift_lets; intro x; refine Answers.cut x ?_ (fun hx => ?_); rotate_left; clear_value x)
    | (lift_lets; intro x; refine Frame.cut x ?_ (fun hx => ?_); rotate_left; clear_value x)
    | (lift_lets; intro x; with_reducible refine Frame.trans Frame.refl ?_) | with_reducible refine Answers.next ?_
    | with_reducible refine Answers.ite ?_ ?_
    | (with_reducible refine Frame.upd ?_ ?_ ?_; fail_if_success with_reducible exact ChangesOnly.refl)
    | with_reducible exact Frame.refl | with_reducible assumption
    | (with_reducible apply Frame.step State.at__frame; case k => decide)
    | (with_reducible apply Frame.step State.endTask_frame; case k => decide)
    | (with_reducible apply Frame.step State.cutCommand_frame; case k => decide)
    | (with_reducible apply Frame.step State.returnHead_frame; case k => decide) | with_reducible refine Frame.ite ?_ ?_ | split)

theorem State.disableEngine_frame {s : State} {n why : Nat} :
    Frame [.regs, .ctxs, .health, .free] s (State.disableEngine s n why) := by
  unfold State.disableEngine
  repeat' (first
    | (with_reducible refine Frame.upd ?_ ?_ ?_; fail_if_success with_reducible exact ChangesOnly.refl)
    | with_reducible exact Frame.refl | (with_reducible apply Frame.step State.degradeMark_frame; case k => decide)
    | (with_reducible apply Frame.step errRecord_frame; case k => decide)
    | (with_reducible apply Frame.step State.wrBit_frame; case k => decide))

theorem State.tripEngine_frame {s : State} {n : Nat} :
    Frame [.regs, .itin, .ctxs, .engines, .tiles, .health, .free] s (State.tripEngine s n) := by
  unfold State.tripEngine
  repeat' (first
    | (lift_lets; intro x; refine Frame.cut x ?_ (fun hx => ?_); rotate_left; clear_value x)
    | (lift_lets; intro x; with_reducible refine Frame.trans Frame.refl ?_)
    | (with_reducible refine Frame.upd ?_ ?_ ?_; fail_if_success with_reducible exact ChangesOnly.refl)
    | with_reducible exact Frame.refl | with_reducible assumption
    | (with_reducible apply Frame.step State.setPlan_frame; case k => decide)
    | (with_reducible apply Frame.step State.returnTasks_frame; case k => decide)
    | (with_reducible apply Frame.step State.deliver_frame; case k => decide)
    | (with_reducible apply Frame.step State.modEngine_frame; case k => decide)
    | (with_reducible apply Frame.step errRecord_frame; case k => decide)
    | (with_reducible apply Frame.step State.disableEngine_frame; case k => decide) | with_reducible refine Frame.ite ?_ ?_
    | with_reducible refine Frame.foldl (fun _ _ => ?_) ?_ | with_reducible refine Frame.foldl_snd (fun _ _ => ?_) ?_ | split
    | dsimp only)

theorem execSeWatchdog_frame {t engine : Nat} {s : State} :
    Answers [.now, .regs, .itin, .ctxs, .engines, .tiles, .health, .free] s (execSeWatchdog t engine s) := by
  unfold execSeWatchdog
  repeat' (first
    | with_reducible refine Answers.next ?_ | with_reducible refine Answers.ite ?_ ?_
    | (with_reducible refine Frame.upd ?_ ?_ ?_; fail_if_success with_reducible exact ChangesOnly.refl)
    | with_reducible exact Frame.refl | (with_reducible apply Frame.step State.tripEngine_frame; case k => decide)
    | (with_reducible apply Frame.step State.at__frame; case k => decide))

theorem execTierSeMaskWrite_frame {t n : Nat} {v : Word} {s : State} :
    Answers [.now, .regs, .staged, .power] s (execTierSeMaskWrite t n v s) := by
  unfold execTierSeMaskWrite
  repeat' (first
    | with_reducible refine Answers.next ?_ | with_reducible refine Answers.ite ?_ ?_
    | (with_reducible refine Frame.upd ?_ ?_ ?_; fail_if_success with_reducible exact ChangesOnly.refl)
    | with_reducible exact Frame.refl | (with_reducible apply Frame.step State.at__frame; case k => decide)
    | (with_reducible apply Frame.step State.writeStaged_frame; case k => decide)
    | (with_reducible apply Frame.step State.wakeUp_frame; case k => decide) | with_reducible refine Frame.ite ?_ ?_ | split)

theorem State.clearFaults_frame {s : State} {n : Nat} {v : Word} :
    Frame [.regs, .engines] s (State.clearFaults s n v) := by
  unfold State.clearFaults
  repeat' (first
    | (lift_lets; intro x; refine Frame.cut x ?_ (fun hx => ?_); rotate_left; clear_value x)
    | (lift_lets; intro x; with_reducible refine Frame.trans Frame.refl ?_)
    | (with_reducible refine Frame.upd ?_ ?_ ?_; fail_if_success with_reducible exact ChangesOnly.refl)
    | with_reducible exact Frame.refl | with_reducible assumption
    | (with_reducible apply Frame.step State.wr_frame; case k => decide) | with_reducible refine Frame.ite ?_ ?_
    | (intro p hp; cases p <;> first | exact absurd hp (by decide) | rfl) | (intro h; exact h.of_eq rfl rfl rfl rfl) | split)

theorem execTierSeFaultClear_frame {t n : Nat} {v : Word} {s : State} :
    Answers [.now, .regs, .engines, .power] s (execTierSeFaultClear t n v s) := by
  unfold execTierSeFaultClear
  repeat' (first
    | with_reducible refine Answers.next ?_ | with_reducible refine Answers.ite ?_ ?_
    | (with_reducible refine Frame.upd ?_ ?_ ?_; fail_if_success with_reducible exact ChangesOnly.refl)
    | with_reducible exact Frame.refl | (with_reducible apply Frame.step State.at__frame; case k => decide)
    | (with_reducible apply Frame.step State.clearFaults_frame; case k => decide)
    | (with_reducible apply Frame.step State.wakeUp_frame; case k => decide) | with_reducible refine Frame.ite ?_ ?_ | split)

theorem State.selfTest_frame {s : State} {v : Word} :
    Frame [.regs] s (State.selfTest s v) := by
  unfold State.selfTest
  repeat' (first
    | (lift_lets; intro x; refine Frame.cut x ?_ (fun hx => ?_); rotate_left; clear_value x)
    | (lift_lets; intro x; with_reducible refine Frame.trans Frame.refl ?_)
    | (with_reducible refine Frame.upd ?_ ?_ ?_; fail_if_success with_reducible exact ChangesOnly.refl)
    | with_reducible exact Frame.refl | with_reducible assumption
    | (with_reducible apply Frame.step State.wr_frame; case k => decide) | with_reducible refine Frame.ite ?_ ?_
    | (simp only [x]; split) | split)

theorem execSeSelfTest_frame {t : Nat} {v : Word} {s : State} :
    Answers [.now, .regs, .power] s (execSeSelfTest t v s) := by
  unfold execSeSelfTest
  repeat' (first
    | with_reducible refine Answers.next ?_ | with_reducible refine Answers.ite ?_ ?_
    | (with_reducible refine Frame.upd ?_ ?_ ?_; fail_if_success with_reducible exact ChangesOnly.refl)
    | with_reducible exact Frame.refl | (with_reducible apply Frame.step State.at__frame; case k => decide)
    | (with_reducible apply Frame.step State.selfTest_frame; case k => decide)
    | (with_reducible apply Frame.step State.wakeUp_frame; case k => decide) | with_reducible refine Frame.ite ?_ ?_ | split)

theorem State.selfTestDone_frame {s : State} {equal : Bool} :
    Frame [.regs, .free] s (State.selfTestDone s equal) := by
  unfold State.selfTestDone
  repeat' (first
    | (lift_lets; intro x; refine Frame.cut x ?_ (fun hx => ?_); rotate_left; clear_value x)
    | (lift_lets; intro x; with_reducible refine Frame.trans Frame.refl ?_)
    | (with_reducible refine Frame.upd ?_ ?_ ?_; fail_if_success with_reducible exact ChangesOnly.refl)
    | with_reducible exact Frame.refl | with_reducible assumption
    | (with_reducible apply Frame.step State.draw_frame; case k => decide)
    | (with_reducible apply Frame.step State.wr_frame; case k => decide) | with_reducible refine Frame.ite ?_ ?_
    | with_reducible refine Frame.of_pair (by assumption) ?_ | split | dsimp only)

theorem execSeSelfTestDone_frame {t : Nat} {equal : Bool} {s : State} :
    Answers [.now, .regs, .free] s (execSeSelfTestDone t equal s) := by
  unfold execSeSelfTestDone
  repeat' (first
    | with_reducible refine Answers.next ?_ | with_reducible refine Answers.ite ?_ ?_
    | (with_reducible refine Frame.upd ?_ ?_ ?_; fail_if_success with_reducible exact ChangesOnly.refl)
    | with_reducible exact Frame.refl | (with_reducible apply Frame.step State.selfTestDone_frame; case k => decide)
    | (with_reducible apply Frame.step State.at__frame; case k => decide))

end Sys2Proof.Machine
end

