-- ==== Sys2Proof/Laws/MovesFrames.lean ====
section
/-! SUPPORT. What each operation of Machine/Moves.lean may change, and that it keeps the invariant of Safety.lean. -/
namespace Sys2Proof.Machine

theorem State.putAt_frame {s : State} {ctx num : Nat} {x : Spot} :
    Frame [.ctxs, .tiles, .tier] s (State.putAt s ctx num x) := by
  unfold State.putAt
  repeat' (first
    | (lift_lets; intro x; refine Frame.cut x ?_ (fun hx => ?_); rotate_left; clear_value x)
    | (lift_lets; intro x; with_reducible refine Frame.trans Frame.refl ?_)
    | (with_reducible refine Frame.upd ?_ ?_ ?_; fail_if_success with_reducible exact ChangesOnly.refl)
    | with_reducible exact Frame.refl | with_reducible assumption
    | (with_reducible apply Frame.step State.dropParcel_frame; case k => decide)
    | (with_reducible apply Frame.step State.dropLines_frame; case k => decide)
    | (with_reducible apply Frame.step State.modPage_frame; case k => decide)
    | (with_reducible apply Frame.step State.addParcel_frame; case k => decide) | with_reducible refine Frame.ite ?_ ?_
    | (simp only [x]; split) | split)

theorem State.placeConvs_frame {s : State} :
    Frame [.regs, .ctxs] s (State.placeConvs s) := by
  unfold State.placeConvs
  repeat' (first
    | (lift_lets; intro x; refine Frame.cut x ?_ (fun hx => ?_); rotate_left; clear_value x)
    | (lift_lets; intro x; with_reducible refine Frame.trans Frame.refl ?_)
    | (with_reducible refine Frame.upd ?_ ?_ ?_; fail_if_success with_reducible exact ChangesOnly.refl)
    | with_reducible exact Frame.refl | with_reducible assumption
    | (with_reducible refine Frame.step (State.modCtx_frame ?_) (by decide) ?_)
    | (with_reducible apply Frame.step State.modConv_frame; case k => decide)
    | (with_reducible apply Frame.step State.wr_frame; case k => decide) | with_reducible refine Frame.ite ?_ ?_
    | with_reducible refine Frame.foldl (fun _ _ => ?_) ?_ | with_reducible refine Frame.foldl_snd (fun _ _ => ?_) ?_
    | exact KeepsCtx.mk (fun _ h => h) (fun _ h => h) | split | dsimp only)

theorem State.destSpot_frame {s : State} {w : Wish} {p : Profile} {pg : Page} {x : Spot} {t : State}
    (e : State.destSpot s w p pg = some (x, t)) :
    Frame [.tier, .free] s t := by
  unfold State.destSpot at e
  dsimp only at e
  split at e
  · exact (State.reserveIn_frame e).mono (by decide)
  · exact (State.reserveIn_frame e).mono (by decide)
  · exact Frame.step (State.reserveIn_frame e) (by decide) (Frame.mono State.draw_frame (by decide))
  · split at e
    · exact nomatch e
    · exact (State.reserveIn_frame e).mono (by decide)
  · split at e
    · exact nomatch e
    · exact (State.reserveIn_frame e).mono (by decide)

theorem State.addMove_frame {s : State} {w : Wish} {p : Profile} {pg : Page} {dst : Spot} :
    Frame [.itin, .tier, .out] s (State.addMove s w p pg dst) := by
  unfold State.addMove
  repeat' (first
    | (lift_lets; intro x; refine Frame.cut x ?_ (fun hx => ?_); rotate_left; clear_value x)
    | (lift_lets; intro x; with_reducible refine Frame.trans Frame.refl ?_)
    | (with_reducible refine Frame.upd ?_ ?_ ?_; fail_if_success with_reducible exact ChangesOnly.refl)
    | with_reducible exact Frame.refl | with_reducible assumption
    | (with_reducible apply Frame.step State.housekeep_frame; case k => decide)
    | (with_reducible apply Frame.step State.readParcel_frame; case k => decide)
    | (with_reducible apply Frame.step State.emit_frame; case k => decide) | with_reducible refine Frame.ite ?_ ?_
    | (intro p hp; cases p <;> first | exact absurd hp (by decide) | rfl) | (intro h; exact h.of_eq rfl rfl rfl rfl)
    | (simp only [x]; split) | split)

theorem State.startMove_frame {s : State} {w : Wish} :
    Frame [.itin, .ctxs, .tiles, .conns, .links, .tier, .dbg, .out, .free] s (State.startMove s w) := by
  unfold State.startMove
  repeat' (first
    | (lift_lets; intro x; refine Frame.cut x ?_ (fun hx => ?_); rotate_left; clear_value x)
    | (lift_lets; intro x; with_reducible refine Frame.trans Frame.refl ?_)
    | (with_reducible refine Frame.upd ?_ ?_ ?_; fail_if_success with_reducible exact ChangesOnly.refl)
    | with_reducible exact Frame.refl | with_reducible assumption
    | (with_reducible apply Frame.step State.sendSend_frame; case k => decide)
    | (with_reducible apply Frame.step State.addMove_frame; case k => decide)
    | (with_reducible refine Frame.step (State.destSpot_frame (by assumption)) (by decide) ?_)
    | (with_reducible apply Frame.step State.giveLines_frame; case k => decide) | with_reducible refine Frame.ite ?_ ?_ | split)

theorem State.startMoves_frame {s : State} :
    Frame [.itin, .ctxs, .tiles, .conns, .links, .tier, .dbg, .out, .free] s (State.startMoves s) := by
  unfold State.startMoves
  repeat' (first
    | (with_reducible refine Frame.upd ?_ ?_ ?_; fail_if_success with_reducible exact ChangesOnly.refl)
    | with_reducible exact Frame.refl | (with_reducible apply Frame.step State.startMove_frame; case k => decide)
    | with_reducible refine Frame.foldl (fun _ _ => ?_) ?_ | with_reducible refine Frame.foldl_snd (fun _ _ => ?_) ?_ | dsimp only)

theorem State.dropMove_frame {s : State} {id : Nat} {own : Bool} :
    Frame [.tier] s (State.dropMove s id own) := by
  unfold State.dropMove
  repeat' (first
    | (with_reducible refine Frame.upd ?_ ?_ ?_; fail_if_success with_reducible exact ChangesOnly.refl)
    | with_reducible exact Frame.refl | (intro p hp; cases p <;> first | exact absurd hp (by decide) | rfl)
    | (intro h; exact h.of_eq rfl rfl rfl rfl))

theorem State.modMove_frame {s : State} {id : Nat} {f : Move → Move} :
    Frame [.tier] s (State.modMove s id f) := by
  unfold State.modMove
  repeat' (first
    | (with_reducible refine Frame.upd ?_ ?_ ?_; fail_if_success with_reducible exact ChangesOnly.refl)
    | with_reducible exact Frame.refl | (intro p hp; cases p <;> first | exact absurd hp (by decide) | rfl)
    | (intro h; exact h.of_eq rfl rfl rfl rfl))

theorem State.commitLocal_frame {s : State} {m : Move} :
    Frame [.regs, .ctxs, .tiles, .tier] s (State.commitLocal s m) := by
  unfold State.commitLocal
  repeat' (first
    | (with_reducible refine Frame.upd ?_ ?_ ?_; fail_if_success with_reducible exact ChangesOnly.refl)
    | with_reducible exact Frame.refl | (with_reducible apply Frame.step State.bump_frame; case k => decide)
    | (with_reducible apply Frame.step State.putAt_frame; case k => decide)
    | (with_reducible apply Frame.step State.dropMove_frame; case k => decide))

theorem State.pointAway_frame {s : State} {ctx page member : Nat} {pg : Page} :
    Frame [.ctxs] s (State.pointAway s ctx page member pg) := by
  unfold State.pointAway
  repeat' (first
    | (with_reducible refine Frame.upd ?_ ?_ ?_; fail_if_success with_reducible exact ChangesOnly.refl)
    | with_reducible exact Frame.refl | (with_reducible refine Frame.step (State.modCtx_frame ?_) (by decide) ?_)
    | with_reducible refine Frame.ite ?_ ?_ | exact KeepsCtx.mk (fun _ h => h) (fun _ h => h) | split)

theorem State.commitAway_frame {s : State} {m : Move} {member : Nat} :
    Frame [.regs, .itin, .ctxs, .tiles, .conns, .links, .comp, .tier, .dbg, .out] s (State.commitAway s m member) := by
  unfold State.commitAway
  repeat' (first
    | (lift_lets; intro x; refine Frame.cut x ?_ (fun hx => ?_); rotate_left; clear_value x)
    | (lift_lets; intro x; with_reducible refine Frame.trans Frame.refl ?_)
    | (with_reducible refine Frame.upd ?_ ?_ ?_; fail_if_success with_reducible exact ChangesOnly.refl)
    | with_reducible exact Frame.refl | with_reducible assumption
    | (with_reducible apply Frame.step State.dropMove_frame; case k => decide)
    | (with_reducible apply Frame.step State.journal_frame; case k => decide)
    | (with_reducible apply Frame.step State.pointAway_frame; case k => decide)
    | (with_reducible apply Frame.step State.sendSend_frame; case k => decide)
    | (with_reducible apply Frame.step State.bump_frame; case k => decide)
    | (with_reducible apply Frame.step State.freePage_frame; case k => decide) | (simp only [x]; split) | split)

theorem State.markDue_frame {s : State} :
    Frame [.tier] s (State.markDue s) := by
  unfold State.markDue
  repeat' (first
    | (with_reducible refine Frame.upd ?_ ?_ ?_; fail_if_success with_reducible exact ChangesOnly.refl)
    | with_reducible exact Frame.refl | (intro p hp; cases p <;> first | exact absurd hp (by decide) | rfl)
    | (intro h; exact h.of_eq rfl rfl rfl rfl) | split)

theorem State.takeIn_frame {s : State} {m : Move} {pg : Page} {p : Profile} {t : State} (e : State.takeIn s m pg p = some t) :
    Frame [.regs, .ctxs, .tiles, .comp, .tier] s t := by
  have drop {l : List Move} : Frame [.regs, .ctxs, .tiles, .comp, .tier] s { s with tier := { s.tier with moves := l } } :=
    ⟨fun p hp => by cases p <;> first | exact absurd hp (by decide) | rfl, fun h => h.of_eq rfl rfl rfl rfl⟩
  have put {l : List Move} {n x} : Frame [.regs, .ctxs, .tiles, .comp, .tier] s (State.putPage { s with tier := { s.tier with moves := l } } m.ctx n x) :=
    Frame.step State.putPage_frame (by decide) drop
  unfold State.takeIn at e
  dsimp only at e
  split at e
  · exact nomatch e
  · injection e with e
    subst e
    refine Frame.step State.bump_frame (by decide) (Frame.step State.journal_frame (by decide) ?_)
    refine .ite ?_ ?_
    · refine Frame.step State.modPeer_frame (by decide) ?_
      exact put
    · refine Frame.step (State.modCtx_frame ?_) (by decide) ?_
      · exact KeepsCtx.mk (fun _ h => h) (fun _ h => h)
      · exact put

theorem State.commitIncoming_frame {s : State} {m : Move} {pg : Page} :
    Frame [.regs, .itin, .ctxs, .tiles, .conns, .links, .comp, .tier, .dbg, .out] s (State.commitIncoming s m pg) := by
  unfold State.commitIncoming
  repeat' (first
    | (lift_lets; intro x; refine Frame.cut x ?_ (fun hx => ?_); rotate_left; clear_value x)
    | (lift_lets; intro x; with_reducible refine Frame.trans Frame.refl ?_)
    | (with_reducible refine Frame.upd ?_ ?_ ?_; fail_if_success with_reducible exact ChangesOnly.refl)
    | with_reducible exact Frame.refl | with_reducible assumption
    | (with_reducible refine Frame.step (State.takeIn_frame (by assumption)) (by decide) ?_)
    | (with_reducible apply Frame.step State.sendSend_frame; case k => decide) | with_reducible refine Frame.ite ?_ ?_ | split
    | (refine OptFrame.getD ?_ ?_; exact fun _ e => Frame.mono (State.takeIn_frame e) (by decide)))

theorem State.commitMove_frame {s : State} {m : Move} :
    Frame [.regs, .itin, .ctxs, .tiles, .conns, .links, .comp, .tier, .dbg, .out] s (State.commitMove s m) := by
  unfold State.commitMove
  repeat' (first
    | (with_reducible refine Frame.upd ?_ ?_ ?_; fail_if_success with_reducible exact ChangesOnly.refl)
    | with_reducible exact Frame.refl | (with_reducible apply Frame.step State.commitIncoming_frame; case k => decide)
    | (with_reducible apply Frame.step State.commitLocal_frame; case k => decide)
    | (with_reducible apply Frame.step State.freePage_frame; case k => decide)
    | (with_reducible apply Frame.step State.journal_frame; case k => decide)
    | (with_reducible apply Frame.step State.dropMove_frame; case k => decide)
    | (with_reducible apply Frame.step State.commitAway_frame; case k => decide) | with_reducible refine Frame.ite ?_ ?_ | split)

theorem State.commitMoves_frame {s : State} :
    Frame [.regs, .itin, .ctxs, .tiles, .conns, .links, .comp, .tier, .dbg, .out] s (State.commitMoves s) := by
  unfold State.commitMoves
  repeat' (first
    | (lift_lets; intro x; refine Frame.cut x ?_ (fun hx => ?_); rotate_left; clear_value x)
    | (lift_lets; intro x; with_reducible refine Frame.trans Frame.refl ?_)
    | (with_reducible refine Frame.upd ?_ ?_ ?_; fail_if_success with_reducible exact ChangesOnly.refl)
    | with_reducible exact Frame.refl | with_reducible assumption
    | (with_reducible apply Frame.step State.markDue_frame; case k => decide)
    | (with_reducible apply Frame.step State.commitMove_frame; case k => decide)
    | with_reducible refine Frame.foldl (fun _ _ => ?_) ?_ | with_reducible refine Frame.foldl_snd (fun _ _ => ?_) ?_ | dsimp only)

theorem State.copyDone_frame {s : State} {id : Nat} {bad : Option Nat} :
    Frame [.regs, .ctxs, .tiles, .tier, .health, .free] s (State.copyDone s id bad) := by
  unfold State.copyDone
  repeat' (first
    | (lift_lets; intro x; refine Frame.cut x ?_ (fun hx => ?_); rotate_left; clear_value x)
    | (lift_lets; intro x; with_reducible refine Frame.trans Frame.refl ?_)
    | (with_reducible refine Frame.upd ?_ ?_ ?_; fail_if_success with_reducible exact ChangesOnly.refl)
    | with_reducible exact Frame.refl | with_reducible assumption
    | (with_reducible apply Frame.step State.modMove_frame; case k => decide)
    | (with_reducible apply Frame.step State.writeLines_frame; case k => decide)
    | (with_reducible apply Frame.step State.corrupt_frame; case k => decide)
    | (with_reducible apply Frame.step State.spoil_frame; case k => decide) | with_reducible refine Frame.ite ?_ ?_
    | (simp only [x]; split) | split)

theorem execMoveCopyComplete_frame {t moveId : Nat} {bad : Option Nat} {s : State} :
    Answers [.now, .regs, .ctxs, .tiles, .tier, .health, .free] s (execMoveCopyComplete t moveId bad s) := by
  unfold execMoveCopyComplete
  repeat' (first
    | with_reducible refine Answers.next ?_ | with_reducible refine Answers.ite ?_ ?_
    | (with_reducible refine Frame.upd ?_ ?_ ?_; fail_if_success with_reducible exact ChangesOnly.refl)
    | with_reducible exact Frame.refl | (with_reducible apply Frame.step State.copyDone_frame; case k => decide)
    | (with_reducible apply Frame.step State.at__frame; case k => decide))

theorem State.onMove_frame {s : State} {slot : Nat} {body : Bytes} :
    Frame [.regs, .itin, .ctxs, .conns, .links, .tier, .health, .dbg, .out, .free] s (State.onMove s slot body) := by
  unfold State.onMove
  repeat' (first
    | (lift_lets; intro x; refine Frame.cut x ?_ (fun hx => ?_); rotate_left; clear_value x)
    | (lift_lets; intro x; with_reducible refine Frame.trans Frame.refl ?_)
    | (with_reducible refine Frame.upd ?_ ?_ ?_; fail_if_success with_reducible exact ChangesOnly.refl)
    | with_reducible exact Frame.refl | with_reducible assumption
    | (with_reducible apply Frame.step State.sendSend_frame; case k => decide)
    | (with_reducible refine Frame.step (State.placeNew_frame (by assumption)) (by decide) ?_)
    | (with_reducible apply Frame.step errRecord_frame; case k => decide) | with_reducible refine Frame.ite ?_ ?_
    | (intro p hp; cases p <;> first | exact absurd hp (by decide) | rfl) | (intro h; exact h.of_eq rfl rfl rfl rfl)
    | (simp only [x]; split) | split)

theorem State.onMoveAck_frame {s : State} {slot : Nat} {body : Bytes} :
    Frame [.regs, .ctxs, .tier, .health, .free] s (State.onMoveAck s slot body) := by
  unfold State.onMoveAck
  repeat' (first
    | (lift_lets; intro x; refine Frame.cut x ?_ (fun hx => ?_); rotate_left; clear_value x)
    | (lift_lets; intro x; with_reducible refine Frame.trans Frame.refl ?_)
    | (with_reducible refine Frame.upd ?_ ?_ ?_; fail_if_success with_reducible exact ChangesOnly.refl)
    | with_reducible exact Frame.refl | with_reducible assumption
    | (with_reducible apply Frame.step State.modMove_frame; case k => decide)
    | (with_reducible apply Frame.step State.corrupt_frame; case k => decide)
    | (with_reducible apply Frame.step State.bump_frame; case k => decide)
    | (with_reducible apply Frame.step State.dropMove_frame; case k => decide) | split)

theorem State.onMoveCommit_frame {s : State} {slot : Nat} {body : Bytes} :
    Frame [.regs, .itin, .ctxs, .tiles, .conns, .links, .comp, .tier, .dbg, .out] s (State.onMoveCommit s slot body) := by
  unfold State.onMoveCommit
  repeat' (first
    | (lift_lets; intro x; refine Frame.cut x ?_ (fun hx => ?_); rotate_left; clear_value x)
    | (lift_lets; intro x; with_reducible refine Frame.trans Frame.refl ?_)
    | (with_reducible refine Frame.upd ?_ ?_ ?_; fail_if_success with_reducible exact ChangesOnly.refl)
    | with_reducible exact Frame.refl | with_reducible assumption
    | (with_reducible refine Frame.step (State.takeIn_frame (by assumption)) (by decide) ?_)
    | (with_reducible apply Frame.step State.commitMove_frame; case k => decide)
    | (with_reducible apply Frame.step State.modMove_frame; case k => decide)
    | (intro p hp; cases p <;> first | exact absurd hp (by decide) | rfl) | (intro h; exact h.of_eq rfl rfl rfl rfl) | split
    | (refine OptFrame.getD ?_ ?_; exact fun _ e => Frame.mono (State.takeIn_frame e) (by decide)))

end Sys2Proof.Machine
end

