-- ==== Sys2Proof/Laws/TiersFrames.lean ====
section
/-! SUPPORT. What each operation of Machine/Tiers.lean may change, and that it keeps the invariant of Safety.lean. -/
namespace Sys2Proof.Machine

theorem State.trackUnit_frame {s : State} {u : Nat} :
    Frame [.tier, .out] s (State.trackUnit s u) := by
  refine ⟨fun p hp => ?_, fun h => ?_⟩
  · unfold State.trackUnit
    repeat' split
    all_goals cases p <;> first | exact absurd hp (by decide) | rfl
  · have b := h.snoop
    unfold State.trackUnit
    split
    · exact h
    · split
      · rename_i e
        rw [e] at b
        split
        · exact .of_parts (fun c hc => ⟨h.xmem c hc, h.meters c hc⟩) h.buffer (by simpa using b) h.rangerBounds
        · exact .of_parts (fun c hc => ⟨h.xmem c hc, h.meters c hc⟩) h.buffer (by simp_all; omega) h.rangerBounds
      · exact .of_parts (fun c hc => ⟨h.xmem c hc, h.meters c hc⟩) h.buffer (by simp) h.rangerBounds

theorem State.hdmServe_frame {s : State} {addr : Nat} :
    Frame [.regs, .tier, .out] s (State.hdmServe s addr) := by
  unfold State.hdmServe
  repeat' (first
    | (lift_lets; intro x; refine Frame.cut x ?_ (fun hx => ?_); rotate_left; clear_value x)
    | (lift_lets; intro x; with_reducible refine Frame.trans Frame.refl ?_)
    | (with_reducible refine Frame.upd ?_ ?_ ?_; fail_if_success with_reducible exact ChangesOnly.refl)
    | with_reducible exact Frame.refl | with_reducible assumption
    | (with_reducible apply Frame.step State.trackUnit_frame; case k => decide)
    | (with_reducible apply Frame.step State.emit_frame; case k => decide)
    | (with_reducible apply Frame.step State.bump_frame; case k => decide) | split)

theorem State.hdmServeAll_frame {s : State} {addr len : Nat} :
    Frame [.regs, .tier, .out] s (State.hdmServeAll s addr len) := by
  unfold State.hdmServeAll
  repeat' (first
    | (with_reducible refine Frame.upd ?_ ?_ ?_; fail_if_success with_reducible exact ChangesOnly.refl)
    | with_reducible exact Frame.refl | (with_reducible apply Frame.step State.hdmServe_frame; case k => decide)
    | with_reducible refine Frame.foldl (fun _ _ => ?_) ?_ | with_reducible refine Frame.foldl_snd (fun _ _ => ?_) ?_ | dsimp only)

theorem State.waitLease_frame {s : State} {n : Nat} {w : Waiter} :
    Frame [.engines] s (State.waitLease s n w) := by
  unfold State.waitLease
  repeat' (first
    | (with_reducible refine Frame.upd ?_ ?_ ?_; fail_if_success with_reducible exact ChangesOnly.refl)
    | with_reducible exact Frame.refl | (with_reducible apply Frame.step State.modEngine_frame; case k => decide))

theorem State.hdmAccess_frame {s : State} {addr : Nat} {y2 : Option Nat} :
    Frame [.regs, .engines, .tier, .out] s (State.hdmAccess s addr y2) := by
  unfold State.hdmAccess
  repeat' (first
    | (with_reducible refine Frame.upd ?_ ?_ ?_; fail_if_success with_reducible exact ChangesOnly.refl)
    | with_reducible exact Frame.refl | (with_reducible apply Frame.step State.bump_frame; case k => decide)
    | (with_reducible apply Frame.step State.emit_frame; case k => decide)
    | (with_reducible apply Frame.step State.waitLease_frame; case k => decide)
    | (with_reducible apply Frame.step State.hdmServeAll_frame; case k => decide) | with_reducible refine Frame.ite ?_ ?_ | split)

theorem State.hdmCredit_frame {s : State} {addr : Nat} {len : Option Nat} :
    Frame [.regs, .engines, .tier, .power, .out] s (State.hdmCredit s addr len) := by
  unfold State.hdmCredit
  repeat' (first
    | (lift_lets; intro x; refine Frame.cut x ?_ (fun hx => ?_); rotate_left; clear_value x)
    | (lift_lets; intro x; with_reducible refine Frame.trans Frame.refl ?_)
    | (with_reducible refine Frame.upd ?_ ?_ ?_; fail_if_success with_reducible exact ChangesOnly.refl)
    | with_reducible exact Frame.refl | with_reducible assumption
    | (with_reducible apply Frame.step State.wakeUp_frame; case k => decide)
    | (with_reducible apply Frame.step State.hdmAccess_frame; case k => decide) | with_reducible refine Frame.ite ?_ ?_
    | (intro p hp; cases p <;> first | exact absurd hp (by decide) | rfl) | (intro h; exact h.of_eq rfl rfl rfl rfl) | split)

theorem State.hdmRelease_frame {s : State} :
    Frame [.regs, .engines, .tier, .out] s (State.hdmRelease s) := by
  unfold State.hdmRelease
  repeat' (first
    | (with_reducible refine Frame.upd ?_ ?_ ?_; fail_if_success with_reducible exact ChangesOnly.refl)
    | with_reducible exact Frame.refl | (with_reducible apply Frame.step State.hdmAccess_frame; case k => decide)
    | with_reducible refine Frame.foldl (fun _ _ => ?_) ?_ | with_reducible refine Frame.foldl_snd (fun _ _ => ?_) ?_
    | (intro p hp; cases p <;> first | exact absurd hp (by decide) | rfl) | (intro h; exact h.of_eq rfl rfl rfl rfl) | dsimp only)

theorem execHdmRead_frame {t addr len : Nat} {s : State} :
    Answers [.now, .regs, .engines, .tier, .power, .out] s (execHdmRead t addr len s) := by
  unfold execHdmRead
  repeat' (first
    | with_reducible refine Answers.next ?_ | with_reducible refine Answers.ite ?_ ?_
    | (with_reducible refine Frame.upd ?_ ?_ ?_; fail_if_success with_reducible exact ChangesOnly.refl)
    | with_reducible exact Frame.refl | (with_reducible apply Frame.step State.hdmCredit_frame; case k => decide)
    | (with_reducible apply Frame.step State.at__frame; case k => decide))

theorem execHdmWrite_frame {t addr : Nat} {y2 : Bytes} {s : State} :
    Answers [.now, .regs, .engines, .tier, .power, .out] s (execHdmWrite t addr y2 s) := by
  unfold execHdmWrite
  repeat' (first
    | with_reducible refine Answers.next ?_ | with_reducible refine Answers.ite ?_ ?_
    | (with_reducible refine Frame.upd ?_ ?_ ?_; fail_if_success with_reducible exact ChangesOnly.refl)
    | with_reducible exact Frame.refl | (with_reducible apply Frame.step State.hdmCredit_frame; case k => decide)
    | (with_reducible apply Frame.step State.at__frame; case k => decide))

theorem State.snoopPage_frame {s : State} {ctx page : Nat} :
    Frame [.tier, .out] s (State.snoopPage s ctx page) := by
  have loop (us : List Nat) : Frame [.tier, .out] s (us.foldl (fun s u => s.emit (.snoop u)) s) :=
    Frame.foldl (fun t u => (State.emit_frame (s := t)).mono (by decide)) .refl
  have keep (t : State) (l : List Nat) (w : List (Nat × Nat)) (k : l.length ≤ t.tier.snoop.length) :
      Frame [.tier, .out] t { t with tier := { t.tier with snoop := l, invalidating := w } } := by
    refine ⟨fun p hp => by cases p <;> first | exact absurd hp (by decide) | rfl, fun h => ?_⟩
    exact .of_parts (fun c hc => ⟨h.xmem c hc, h.meters c hc⟩) h.buffer (Nat.le_trans k h.snoop) h.rangerBounds
  unfold State.snoopPage
  split
  · exact .refl
  · exact (loop _).trans (keep _ _ _ (List.length_filter_le _ _))

theorem State.backInvalidate_frame {s : State} :
    Frame [.tier, .out] s (State.backInvalidate s) := by
  unfold State.backInvalidate
  repeat' (first
    | (lift_lets; intro x; refine Frame.cut x ?_ (fun hx => ?_); rotate_left; clear_value x)
    | (lift_lets; intro x; with_reducible refine Frame.trans Frame.refl ?_)
    | (with_reducible refine Frame.upd ?_ ?_ ?_; fail_if_success with_reducible exact ChangesOnly.refl)
    | with_reducible exact Frame.refl | with_reducible assumption
    | (with_reducible apply Frame.step State.snoopPage_frame; case k => decide)
    | with_reducible refine Frame.foldl (fun _ _ => ?_) ?_ | with_reducible refine Frame.foldl_snd (fun _ _ => ?_) ?_
    | (intro p hp; cases p <;> first | exact absurd hp (by decide) | rfl) | (intro h; exact h.of_eq rfl rfl rfl rfl) | dsimp only)

theorem execSnoopComplete_frame {t ctx page : Nat} {s : State} :
    Answers [.now, .ctxs, .tier] s (execSnoopComplete t ctx page s) := by
  unfold execSnoopComplete
  repeat' (first
    | (lift_lets; intro x; refine Answers.cut x ?_ (fun hx => ?_); rotate_left; clear_value x)
    | (lift_lets; intro x; refine Frame.cut x ?_ (fun hx => ?_); rotate_left; clear_value x)
    | (lift_lets; intro x; with_reducible refine Frame.trans Frame.refl ?_) | with_reducible refine Answers.next ?_
    | with_reducible refine Answers.ite ?_ ?_
    | (with_reducible refine Frame.upd ?_ ?_ ?_; fail_if_success with_reducible exact ChangesOnly.refl)
    | with_reducible exact Frame.refl | with_reducible assumption
    | (with_reducible apply Frame.step State.at__frame; case k => decide)
    | (with_reducible refine Frame.step (State.modCtx_frame ?_) (by decide) ?_) | with_reducible refine Frame.ite ?_ ?_
    | (intro p hp; cases p <;> first | exact absurd hp (by decide) | rfl) | (intro h; exact h.of_eq rfl rfl rfl rfl)
    | exact KeepsCtx.mk (fun _ h => h) (fun _ h => h) | split)

theorem State.dbgData_frame {s : State} {ws : List Nat} :
    Frame [.regs] s (State.dbgData s ws) := by
  unfold State.dbgData
  repeat' (first
    | (with_reducible refine Frame.upd ?_ ?_ ?_; fail_if_success with_reducible exact ChangesOnly.refl)
    | with_reducible exact Frame.refl | (with_reducible apply Frame.step State.wr_frame; case k => decide)
    | with_reducible refine Frame.foldl (fun _ _ => ?_) ?_ | with_reducible refine Frame.foldl_snd (fun _ _ => ?_) ?_ | dsimp only)

theorem State.dbgCipher_frame {s : State} :
    Frame [.regs, .free] s (State.dbgCipher s) := by
  unfold State.dbgCipher
  repeat' (first
    | (lift_lets; intro x; refine Frame.cut x ?_ (fun hx => ?_); rotate_left; clear_value x)
    | (lift_lets; intro x; with_reducible refine Frame.trans Frame.refl ?_)
    | (with_reducible refine Frame.upd ?_ ?_ ?_; fail_if_success with_reducible exact ChangesOnly.refl)
    | with_reducible exact Frame.refl | with_reducible assumption
    | (with_reducible apply Frame.step State.dbgData_frame; case k => decide)
    | (with_reducible apply Frame.step State.wr_frame; case k => decide) | with_reducible refine Frame.ite ?_ ?_
    | (intro p hp; cases p <;> first | exact absurd hp (by decide) | rfl) | (intro h; exact h.of_eq rfl rfl rfl rfl) | split)

theorem State.serveWaiter_frame {s : State} {w : Waiter} :
    Frame [.regs, .tier, .out, .free] s (State.serveWaiter s w) := by
  unfold State.serveWaiter
  repeat' (first
    | (with_reducible refine Frame.upd ?_ ?_ ?_; fail_if_success with_reducible exact ChangesOnly.refl)
    | with_reducible exact Frame.refl | (with_reducible apply Frame.step State.hdmServeAll_frame; case k => decide)
    | (with_reducible apply Frame.step State.peak_frame; case k => decide)
    | (with_reducible apply Frame.step State.bump_frame; case k => decide)
    | (with_reducible apply Frame.step State.dbgCipher_frame; case k => decide) | split)

theorem State.delayLeases_frame {s : State} {ch : Nat} :
    Frame [.itin, .engines] s (State.delayLeases s ch) := by
  unfold State.delayLeases
  repeat' (first
    | (lift_lets; intro x; refine Frame.cut x ?_ (fun hx => ?_); rotate_left; clear_value x)
    | (lift_lets; intro x; with_reducible refine Frame.trans Frame.refl ?_)
    | (with_reducible refine Frame.upd ?_ ?_ ?_; fail_if_success with_reducible exact ChangesOnly.refl)
    | with_reducible exact Frame.refl | with_reducible assumption
    | (with_reducible apply Frame.step State.modEngine_frame; case k => decide) | with_reducible refine Frame.ite ?_ ?_
    | (intro p hp; cases p <;> first | exact absurd hp (by decide) | rfl) | (intro h; exact h.of_eq rfl rfl rfl rfl) | split)

theorem State.openGap_frame {s : State} {ch : Nat} :
    Frame [.regs, .itin, .engines, .tier, .out, .free] s (State.openGap s ch) := by
  unfold State.openGap
  repeat' (first
    | (lift_lets; intro x; refine Frame.cut x ?_ (fun hx => ?_); rotate_left; clear_value x)
    | (lift_lets; intro x; with_reducible refine Frame.trans Frame.refl ?_)
    | (with_reducible refine Frame.upd ?_ ?_ ?_; fail_if_success with_reducible exact ChangesOnly.refl)
    | with_reducible exact Frame.refl | with_reducible assumption
    | (with_reducible apply Frame.step State.bump_frame; case k => decide)
    | (with_reducible apply Frame.step State.delayLeases_frame; case k => decide)
    | (with_reducible apply Frame.step State.modEngine_frame; case k => decide)
    | (with_reducible apply Frame.step State.serveWaiter_frame; case k => decide) | with_reducible refine Frame.ite ?_ ?_
    | with_reducible refine Frame.foldl (fun _ _ => ?_) ?_ | with_reducible refine Frame.foldl_snd (fun _ _ => ?_) ?_
    | (simp only [x]; split) | split | dsimp only)

theorem execLeaseGap_frame {t engine : Nat} {s : State} :
    Answers [.now, .regs, .itin, .engines, .tier, .out, .free] s (execLeaseGap t engine s) := by
  unfold execLeaseGap
  repeat' (first
    | (lift_lets; intro x; refine Answers.cut x ?_ (fun hx => ?_); rotate_left; clear_value x)
    | (lift_lets; intro x; refine Frame.cut x ?_ (fun hx => ?_); rotate_left; clear_value x)
    | (lift_lets; intro x; with_reducible refine Frame.trans Frame.refl ?_) | with_reducible refine Answers.next ?_
    | with_reducible refine Answers.ite ?_ ?_
    | (with_reducible refine Frame.upd ?_ ?_ ?_; fail_if_success with_reducible exact ChangesOnly.refl)
    | with_reducible exact Frame.refl | with_reducible assumption
    | (with_reducible apply Frame.step State.at__frame; case k => decide)
    | (with_reducible apply Frame.step State.openGap_frame; case k => decide) | with_reducible refine Frame.ite ?_ ?_ | split)

theorem execFarReadTimeout_frame {t : Nat} {tier : LateTier} {ctx page : Nat} {s : State} :
    Answers [.now, .regs, .tier] s (execFarReadTimeout t tier ctx page s) := by
  unfold execFarReadTimeout
  repeat' (first
    | (lift_lets; intro x; refine Answers.cut x ?_ (fun hx => ?_); rotate_left; clear_value x)
    | (lift_lets; intro x; refine Frame.cut x ?_ (fun hx => ?_); rotate_left; clear_value x)
    | (lift_lets; intro x; with_reducible refine Frame.trans Frame.refl ?_) | with_reducible refine Answers.next ?_
    | with_reducible refine Answers.ite ?_ ?_
    | (with_reducible refine Frame.upd ?_ ?_ ?_; fail_if_success with_reducible exact ChangesOnly.refl)
    | with_reducible exact Frame.refl | with_reducible assumption
    | (with_reducible apply Frame.step State.at__frame; case k => decide)
    | (with_reducible apply Frame.step State.bump_frame; case k => decide) | with_reducible refine Frame.ite ?_ ?_
    | (intro p hp; cases p <;> first | exact absurd hp (by decide) | rfl) | (intro h; exact h.of_eq rfl rfl rfl rfl) | split)

theorem State.loseFrame_frame {s : State} {ctx num : Nat} :
    Frame [.ctxs] s (State.loseFrame s ctx num) := by
  unfold State.loseFrame
  repeat' (first
    | (with_reducible refine Frame.upd ?_ ?_ ?_; fail_if_success with_reducible exact ChangesOnly.refl)
    | with_reducible exact Frame.refl | (with_reducible apply Frame.step State.modPage_frame; case k => decide))

theorem State.failFar_frame {s : State} {ch : Nat} :
    Frame [.regs, .ctxs, .tiles, .tier, .health, .free] s (State.failFar s ch) := by
  unfold State.failFar
  repeat' (first
    | (lift_lets; intro x; refine Frame.cut x ?_ (fun hx => ?_); rotate_left; clear_value x)
    | (lift_lets; intro x; with_reducible refine Frame.trans Frame.refl ?_)
    | (with_reducible refine Frame.upd ?_ ?_ ?_; fail_if_success with_reducible exact ChangesOnly.refl)
    | with_reducible exact Frame.refl | with_reducible assumption
    | (with_reducible apply Frame.step State.wr_frame; case k => decide)
    | (with_reducible apply Frame.step State.abortMoves_frame; case k => decide)
    | (with_reducible apply Frame.step State.poison_frame; case k => decide)
    | (with_reducible apply Frame.step State.loseFrame_frame; case k => decide)
    | (with_reducible apply Frame.step errRecord_frame; case k => decide) | with_reducible refine Frame.ite ?_ ?_
    | with_reducible refine Frame.foldl (fun _ _ => ?_) ?_ | with_reducible refine Frame.foldl_snd (fun _ _ => ?_) ?_ | split
    | dsimp only)

theorem execFarChannelFail_frame {t channel : Nat} {s : State} :
    Answers [.now, .regs, .ctxs, .tiles, .tier, .health, .free] s (execFarChannelFail t channel s) := by
  unfold execFarChannelFail
  repeat' (first
    | with_reducible refine Answers.next ?_ | with_reducible refine Answers.ite ?_ ?_
    | (with_reducible refine Frame.upd ?_ ?_ ?_; fail_if_success with_reducible exact ChangesOnly.refl)
    | with_reducible exact Frame.refl | (with_reducible apply Frame.step State.failFar_frame; case k => decide)
    | (with_reducible apply Frame.step State.at__frame; case k => decide))

theorem State.cxlDown_frame {s : State} :
    Frame [.regs, .tiles, .tier] s (State.cxlDown s) := by
  unfold State.cxlDown
  repeat' (first
    | (lift_lets; intro x; refine Frame.cut x ?_ (fun hx => ?_); rotate_left; clear_value x)
    | (lift_lets; intro x; with_reducible refine Frame.trans Frame.refl ?_)
    | (with_reducible refine Frame.upd ?_ ?_ ?_; fail_if_success with_reducible exact ChangesOnly.refl)
    | with_reducible exact Frame.refl | with_reducible assumption
    | (with_reducible apply Frame.step State.wr_frame; case k => decide)
    | (with_reducible apply Frame.step State.abortMoves_frame; case k => decide)
    | (intro p hp; cases p <;> first | exact absurd hp (by decide) | rfl) | (intro h; exact h.of_eq rfl rfl rfl rfl) | split)

theorem execHostLinkDown_frame {t : Nat} {s : State} :
    Answers [.now, .regs, .tiles, .tier] s (execHostLinkDown t s) := by
  unfold execHostLinkDown
  repeat' (first
    | with_reducible refine Answers.next ?_ | with_reducible refine Answers.ite ?_ ?_
    | (with_reducible refine Frame.upd ?_ ?_ ?_; fail_if_success with_reducible exact ChangesOnly.refl)
    | with_reducible exact Frame.refl | (with_reducible apply Frame.step State.cxlDown_frame; case k => decide)
    | (with_reducible apply Frame.step State.at__frame; case k => decide))

theorem State.cxlTrained_frame {s : State} {width rate : Nat} :
    Frame [.regs, .tier] s (State.cxlTrained s width rate) := by
  unfold State.cxlTrained
  repeat' (first
    | (lift_lets; intro x; refine Frame.cut x ?_ (fun hx => ?_); rotate_left; clear_value x)
    | (lift_lets; intro x; with_reducible refine Frame.trans Frame.refl ?_)
    | (with_reducible refine Frame.upd ?_ ?_ ?_; fail_if_success with_reducible exact ChangesOnly.refl)
    | with_reducible exact Frame.refl | with_reducible assumption
    | (with_reducible apply Frame.step State.wr_frame; case k => decide)
    | (intro p hp; cases p <;> first | exact absurd hp (by decide) | rfl) | (intro h; exact h.of_eq rfl rfl rfl rfl))

theorem execHostLinkUp_frame {t width rate : Nat} {s : State} :
    Answers [.now, .regs, .tier] s (execHostLinkUp t width rate s) := by
  unfold execHostLinkUp
  repeat' (first
    | (lift_lets; intro x; refine Answers.cut x ?_ (fun hx => ?_); rotate_left; clear_value x)
    | (lift_lets; intro x; refine Frame.cut x ?_ (fun hx => ?_); rotate_left; clear_value x)
    | (lift_lets; intro x; with_reducible refine Frame.trans Frame.refl ?_) | with_reducible refine Answers.next ?_
    | with_reducible refine Answers.ite ?_ ?_
    | (with_reducible refine Frame.upd ?_ ?_ ?_; fail_if_success with_reducible exact ChangesOnly.refl)
    | with_reducible exact Frame.refl | with_reducible assumption
    | (with_reducible apply Frame.step State.at__frame; case k => decide)
    | (with_reducible apply Frame.step State.cxlTrained_frame; case k => decide) | with_reducible refine Frame.ite ?_ ?_ | split)

theorem execStackChannelFail_frame {t channel : Nat} {s : State} :
    Answers [.now, .regs, .ctxs, .engines, .tiles, .tier, .health, .free] s (execStackChannelFail t channel s) := by
  unfold execStackChannelFail
  repeat' (first
    | (lift_lets; intro x; refine Answers.cut x ?_ (fun hx => ?_); rotate_left; clear_value x)
    | (lift_lets; intro x; refine Frame.cut x ?_ (fun hx => ?_); rotate_left; clear_value x)
    | (lift_lets; intro x; with_reducible refine Frame.trans Frame.refl ?_) | with_reducible refine Answers.next ?_
    | with_reducible refine Answers.ite ?_ ?_
    | (with_reducible refine Frame.upd ?_ ?_ ?_; fail_if_success with_reducible exact ChangesOnly.refl)
    | with_reducible exact Frame.refl | with_reducible assumption
    | (with_reducible apply Frame.step State.at__frame; case k => decide)
    | (with_reducible apply Frame.step State.abortMoves_frame; case k => decide)
    | (with_reducible apply Frame.step State.degradeMark_frame; case k => decide)
    | (with_reducible apply Frame.step State.modEngine_frame; case k => decide) | with_reducible refine Frame.ite ?_ ?_ | split)

theorem execBedrockGc_frame {t : Nat} {s : State} :
    Answers [.now, .tier] s (execBedrockGc t s) := by
  unfold execBedrockGc
  repeat' (first
    | (lift_lets; intro x; refine Answers.cut x ?_ (fun hx => ?_); rotate_left; clear_value x)
    | (lift_lets; intro x; refine Frame.cut x ?_ (fun hx => ?_); rotate_left; clear_value x)
    | (lift_lets; intro x; with_reducible refine Frame.trans Frame.refl ?_) | with_reducible refine Answers.next ?_
    | with_reducible refine Answers.ite ?_ ?_
    | (with_reducible refine Frame.upd ?_ ?_ ?_; fail_if_success with_reducible exact ChangesOnly.refl)
    | with_reducible exact Frame.refl | with_reducible assumption
    | (with_reducible apply Frame.step State.at__frame; case k => decide)
    | (with_reducible apply Frame.step State.reclaim_frame; case k => decide) | with_reducible refine Frame.ite ?_ ?_ | split)

theorem execReadDisturbRelocate_frame {t block : Nat} {s : State} :
    Answers [.now, .regs, .tier] s (execReadDisturbRelocate t block s) := by
  unfold execReadDisturbRelocate
  repeat' (first
    | (lift_lets; intro x; refine Answers.cut x ?_ (fun hx => ?_); rotate_left; clear_value x)
    | (lift_lets; intro x; refine Frame.cut x ?_ (fun hx => ?_); rotate_left; clear_value x)
    | (lift_lets; intro x; with_reducible refine Frame.trans Frame.refl ?_) | with_reducible refine Answers.next ?_
    | with_reducible refine Answers.ite ?_ ?_
    | (with_reducible refine Frame.upd ?_ ?_ ?_; fail_if_success with_reducible exact ChangesOnly.refl)
    | with_reducible exact Frame.refl | with_reducible assumption
    | (with_reducible apply Frame.step State.at__frame; case k => decide)
    | (with_reducible apply Frame.step State.disturb_frame; case k => decide) | with_reducible refine Frame.ite ?_ ?_ | split)

theorem State.setSpare_frame {s : State} {spare : Nat} :
    Frame [.regs, .health, .free] s (State.setSpare s spare) := by
  unfold State.setSpare
  repeat' (first
    | (lift_lets; intro x; refine Frame.cut x ?_ (fun hx => ?_); rotate_left; clear_value x)
    | (lift_lets; intro x; with_reducible refine Frame.trans Frame.refl ?_)
    | (with_reducible refine Frame.upd ?_ ?_ ?_; fail_if_success with_reducible exact ChangesOnly.refl)
    | with_reducible exact Frame.refl | with_reducible assumption
    | (with_reducible apply Frame.step State.wr_frame; case k => decide)
    | (with_reducible apply Frame.step errRecord_frame; case k => decide) | with_reducible refine Frame.ite ?_ ?_
    | (simp only [x]; split) | split)

theorem execBlockRetire_frame {t block spare : Nat} {s : State} :
    Answers [.now, .regs, .tier, .health, .free] s (execBlockRetire t block spare s) := by
  unfold execBlockRetire
  repeat' (first
    | (lift_lets; intro x; refine Answers.cut x ?_ (fun hx => ?_); rotate_left; clear_value x)
    | (lift_lets; intro x; refine Frame.cut x ?_ (fun hx => ?_); rotate_left; clear_value x)
    | (lift_lets; intro x; with_reducible refine Frame.trans Frame.refl ?_) | with_reducible refine Answers.next ?_
    | with_reducible refine Answers.ite ?_ ?_
    | (with_reducible refine Frame.upd ?_ ?_ ?_; fail_if_success with_reducible exact ChangesOnly.refl)
    | with_reducible exact Frame.refl | with_reducible assumption
    | (with_reducible apply Frame.step State.at__frame; case k => decide)
    | (with_reducible apply Frame.step State.setSpare_frame; case k => decide)
    | (with_reducible apply Frame.step State.bump_frame; case k => decide)
    | (with_reducible apply Frame.step State.retireBlock_frame; case k => decide) | with_reducible refine Frame.ite ?_ ?_ | split)

theorem execBedrockBlockErased_frame {t block : Nat} {s : State} :
    Answers [.now, .regs, .tier, .nv] s (execBedrockBlockErased t block s) := by
  unfold execBedrockBlockErased
  repeat' (first
    | (lift_lets; intro x; refine Answers.cut x ?_ (fun hx => ?_); rotate_left; clear_value x)
    | (lift_lets; intro x; refine Frame.cut x ?_ (fun hx => ?_); rotate_left; clear_value x)
    | (lift_lets; intro x; with_reducible refine Frame.trans Frame.refl ?_) | with_reducible refine Answers.next ?_
    | with_reducible refine Answers.ite ?_ ?_
    | (with_reducible refine Frame.upd ?_ ?_ ?_; fail_if_success with_reducible exact ChangesOnly.refl)
    | with_reducible exact Frame.refl | with_reducible assumption
    | (with_reducible apply Frame.step State.at__frame; case k => decide)
    | (with_reducible apply Frame.step State.relocate_frame; case k => decide)
    | (with_reducible apply Frame.step State.eraseBlock_frame; case k => decide)
    | (with_reducible apply Frame.step State.modBlock_frame; case k => decide)
    | (with_reducible apply Frame.step State.dropTombstone_frame; case k => decide)
    | with_reducible refine Frame.foldl (fun _ _ => ?_) ?_ | with_reducible refine Frame.foldl_snd (fun _ _ => ?_) ?_ | split
    | dsimp only)

end Sys2Proof.Machine
end

