-- ==== Sys2Proof/Laws/ImagesFrames.lean ====
section
/-! SUPPORT. What each operation of Machine/Images.lean may change, and that it keeps the invariant of Safety.lean. -/
namespace Sys2Proof.Machine

theorem State.putJournal_frame {s : State} {j : Journal} :
    Frame [.regs, .comp] s (State.putJournal s j) := by
  unfold State.putJournal
  repeat' (first
    | (lift_lets; intro x; refine Frame.cut x ?_ (fun hx => ?_); rotate_left; clear_value x)
    | (lift_lets; intro x; with_reducible refine Frame.trans Frame.refl ?_)
    | (with_reducible refine Frame.upd ?_ ?_ ?_; fail_if_success with_reducible exact ChangesOnly.refl)
    | with_reducible exact Frame.refl | with_reducible assumption
    | (with_reducible apply Frame.step State.wr_frame; case k => decide)
    | (intro p hp; cases p <;> first | exact absurd hp (by decide) | rfl) | (intro h; exact h.of_eq rfl rfl rfl rfl))

theorem State.onJournal_frame {s : State} {conn : Nat} {body : Bytes} :
    Frame [.regs, .comp] s (State.onJournal s conn body) := by
  unfold State.onJournal
  repeat' (first
    | (lift_lets; intro x; refine Frame.cut x ?_ (fun hx => ?_); rotate_left; clear_value x)
    | (lift_lets; intro x; with_reducible refine Frame.trans Frame.refl ?_)
    | (with_reducible refine Frame.upd ?_ ?_ ?_; fail_if_success with_reducible exact ChangesOnly.refl)
    | with_reducible exact Frame.refl | with_reducible assumption
    | (with_reducible apply Frame.step State.putJournal_frame; case k => decide) | with_reducible refine Frame.ite ?_ ?_ | split)

theorem State.trimPage_frame {s : State} {ctx conv num keep : Nat} {p : Profile} {pg : Page} {n : Nat} {t : State}
    (e : State.trimPage s ctx conv num keep p pg = some (n, t)) :
    Frame [.regs, .ctxs, .tiles, .tier, .health, .free] s t := by
  unfold State.trimPage at e
  dsimp only at e
  split at e
  · injection e with e
    injection e with _ e
    exact e ▸ Frame.mono State.cutPage_frame (by decide)
  · obtain ⟨y, h, e⟩ := Option.map_eq_some_iff.mp e
    injection e with _ e
    subst e
    have new {u : State} (j : Frame [.regs, .ctxs, .tiles, .tier, .health, .free] s u) {q c m} (h : u.newPage ctx p c m q = some y) : Frame [.regs, .ctxs, .tiles, .tier, .health, .free] s y.2 :=
      Frame.step (State.newPage_frame h) (by decide) j
    have read : Frame [.regs, .ctxs, .tiles, .tier, .health, .free] s y.2 := by
      refine new ?_ h
      split
      · exact Frame.mono State.readParcel_frame (by decide)
      · exact .refl
    refine Frame.step State.dropRef_frame (by decide) ?_
    split
    · exact Frame.step State.corrupt_frame (by decide) read
    · exact read

theorem State.pageOpTrim_frame {s : State} {conn ctx num : Nat} {p : Profile} {pg : Page} {o : PageOpBody} {raw : Bytes} :
    Frame [.regs, .itin, .ctxs, .tiles, .conns, .links, .comp, .tier, .health, .dbg, .out, .free] s (State.pageOpTrim s conn ctx num p pg o raw) := by
  unfold State.pageOpTrim
  repeat' (first
    | (lift_lets; intro x; refine Frame.cut x ?_ (fun hx => ?_); rotate_left; clear_value x)
    | (lift_lets; intro x; with_reducible refine Frame.trans Frame.refl ?_)
    | (with_reducible refine Frame.upd ?_ ?_ ?_; fail_if_success with_reducible exact ChangesOnly.refl)
    | with_reducible exact Frame.refl | with_reducible assumption
    | (with_reducible refine Frame.step (State.trimPage_frame (by assumption)) (by decide) ?_)
    | (with_reducible apply Frame.step State.abandonAssays_frame; case k => decide)
    | (with_reducible apply Frame.step State.modPeer_frame; case k => decide)
    | (with_reducible apply Frame.step State.pageOpDone_frame; case k => decide)
    | (with_reducible apply Frame.step State.journal_frame; case k => decide)
    | (intro p hp; cases p <;> first | exact absurd hp (by decide) | rfl) | (intro h; exact h.of_eq rfl rfl rfl rfl) | split)

theorem State.forgetPage_frame {s : State} {ctx conv key : Nat} :
    Frame [.ctxs] s (State.forgetPage s ctx conv key) := by
  unfold State.forgetPage
  repeat' (first
    | (lift_lets; intro x; refine Frame.cut x ?_ (fun hx => ?_); rotate_left; clear_value x)
    | (lift_lets; intro x; with_reducible refine Frame.trans Frame.refl ?_)
    | (with_reducible refine Frame.upd ?_ ?_ ?_; fail_if_success with_reducible exact ChangesOnly.refl)
    | with_reducible exact Frame.refl | with_reducible assumption
    | (with_reducible refine Frame.step (State.modCtx_frame ?_) (by decide) ?_) | exact KeepsCtx.mk (fun _ h => h) (fun _ h => h))

theorem State.nextPageOps_frame {s : State} {ctx num : Nat} {busy : Bool} :
    Frame [.regs, .itin, .ctxs, .tiles, .conns, .links, .comp, .tier, .health, .dbg, .out] s (State.nextPageOps s ctx num busy) := by
  unfold State.nextPageOps
  repeat' (first
    | (with_reducible refine Frame.upd ?_ ?_ ?_; fail_if_success with_reducible exact ChangesOnly.refl)
    | with_reducible exact Frame.refl | (with_reducible apply Frame.step State.answerPageOps_frame; case k => decide)
    | with_reducible refine Frame.ite ?_ ?_ | split)

theorem State.pageOpHere_frame {s : State} {conn ctx num : Nat} {p : Profile} {pg : Page} {o : PageOpBody} {raw : Bytes} :
    Frame [.regs, .itin, .ctxs, .tiles, .conns, .links, .comp, .tier, .health, .dbg, .out, .free] s (State.pageOpHere s conn ctx num p pg o raw) := by
  unfold State.pageOpHere
  repeat' (first
    | (lift_lets; intro x; refine Frame.cut x ?_ (fun hx => ?_); rotate_left; clear_value x)
    | (lift_lets; intro x; with_reducible refine Frame.trans Frame.refl ?_)
    | (with_reducible refine Frame.upd ?_ ?_ ?_; fail_if_success with_reducible exact ChangesOnly.refl)
    | with_reducible exact Frame.refl | with_reducible assumption
    | (with_reducible refine Frame.step (State.modCtx_frame ?_) (by decide) ?_)
    | (with_reducible apply Frame.step State.pageOpDone_frame; case k => decide)
    | (with_reducible apply Frame.step State.nextPageOps_frame; case k => decide)
    | (with_reducible apply Frame.step State.pageOpTrim_frame; case k => decide)
    | (with_reducible apply Frame.step State.forgetPage_frame; case k => decide)
    | (with_reducible apply Frame.step State.dropRef_frame; case k => decide)
    | (with_reducible apply Frame.step State.journalDrop_frame; case k => decide) | with_reducible refine Frame.ite ?_ ?_
    | (intro p hp; cases p <;> first | exact absurd hp (by decide) | rfl) | (intro h; exact h.of_eq rfl rfl rfl rfl)
    | exact KeepsCtx.mk (fun _ h => h) (fun _ h => h) | (simp only [x]; split) | split)

theorem State.pageOpRebuild_frame {s : State} {conn : Nat} {p : Profile} {b : Rebuild} {o : PageOpBody} {raw : Bytes} :
    Frame [.itin, .ctxs, .conns, .links, .comp, .dbg, .out] s (State.pageOpRebuild s conn p b o raw) := by
  unfold State.pageOpRebuild
  repeat' (first
    | (lift_lets; intro x; refine Frame.cut x ?_ (fun hx => ?_); rotate_left; clear_value x)
    | (lift_lets; intro x; with_reducible refine Frame.trans Frame.refl ?_)
    | (with_reducible refine Frame.upd ?_ ?_ ?_; fail_if_success with_reducible exact ChangesOnly.refl)
    | with_reducible exact Frame.refl | with_reducible assumption
    | (with_reducible apply Frame.step State.pageOpDone_frame; case k => decide) | with_reducible refine Frame.ite ?_ ?_
    | (intro p hp; cases p <;> first | exact absurd hp (by decide) | rfl) | (intro h; exact h.of_eq rfl rfl rfl rfl) | split)

theorem State.onPageOp_frame {s : State} {conn : Nat} {body : Bytes} :
    Frame [.regs, .itin, .ctxs, .tiles, .conns, .links, .comp, .tier, .health, .dbg, .out, .free] s (State.onPageOp s conn body) := by
  unfold State.onPageOp
  repeat' (first
    | (lift_lets; intro x; refine Frame.cut x ?_ (fun hx => ?_); rotate_left; clear_value x)
    | (lift_lets; intro x; with_reducible refine Frame.trans Frame.refl ?_)
    | (with_reducible refine Frame.upd ?_ ?_ ?_; fail_if_success with_reducible exact ChangesOnly.refl)
    | with_reducible exact Frame.refl | with_reducible assumption
    | (with_reducible apply Frame.step State.learnPage_frame; case k => decide)
    | (with_reducible apply Frame.step State.pageOpHere_frame; case k => decide)
    | (with_reducible apply Frame.step State.pageOpRebuild_frame; case k => decide) | split)

theorem State.retryPageOps_frame {s : State} :
    Frame [.regs, .itin, .ctxs, .tiles, .conns, .links, .comp, .tier, .health, .dbg, .out, .free] s (State.retryPageOps s) := by
  unfold State.retryPageOps
  repeat' (first
    | (lift_lets; intro x; refine Frame.cut x ?_ (fun hx => ?_); rotate_left; clear_value x)
    | (lift_lets; intro x; with_reducible refine Frame.trans Frame.refl ?_)
    | (with_reducible refine Frame.upd ?_ ?_ ?_; fail_if_success with_reducible exact ChangesOnly.refl)
    | with_reducible exact Frame.refl | with_reducible assumption
    | (with_reducible apply Frame.step State.onPageOp_frame; case k => decide)
    | with_reducible refine Frame.foldl (fun _ _ => ?_) ?_ | with_reducible refine Frame.foldl_snd (fun _ _ => ?_) ?_
    | (intro p hp; cases p <;> first | exact absurd hp (by decide) | rfl) | (intro h; exact h.of_eq rfl rfl rfl rfl) | dsimp only)

theorem State.onPageOpDone_frame {s : State} {conn : Nat} {body : Bytes} :
    Frame [.regs, .itin, .reqs, .ctxs, .engines, .tiles, .locals, .conns, .links, .comp, .tier, .health, .dbg, .out] s (State.onPageOpDone s conn body) := by
  unfold State.onPageOpDone
  repeat' (first
    | (lift_lets; intro x; refine Frame.cut x ?_ (fun hx => ?_); rotate_left; clear_value x)
    | (lift_lets; intro x; with_reducible refine Frame.trans Frame.refl ?_)
    | (with_reducible refine Frame.upd ?_ ?_ ?_; fail_if_success with_reducible exact ChangesOnly.refl)
    | with_reducible exact Frame.refl | with_reducible assumption
    | (with_reducible apply Frame.step State.modConv_frame; case k => decide)
    | (with_reducible apply Frame.step State.demotionOver_frame; case k => decide))

theorem State.onInventoryRequest_frame {s : State} {conn : Nat} :
    Frame [.itin, .ctxs, .conns, .links, .dbg, .out] s (State.onInventoryRequest s conn) := by
  unfold State.onInventoryRequest
  repeat' (first
    | (with_reducible refine Frame.upd ?_ ?_ ?_; fail_if_success with_reducible exact ChangesOnly.refl)
    | with_reducible exact Frame.refl | (with_reducible apply Frame.step State.sendSend_frame; case k => decide)
    | with_reducible refine Frame.foldl (fun _ _ => ?_) ?_ | with_reducible refine Frame.foldl_snd (fun _ _ => ?_) ?_ | dsimp only)

theorem State.confirmPage_frame {s : State} {ctx member conv hk index fmt : Nat} :
    Frame [.itin, .ctxs, .conns, .links, .dbg, .out, .free] s (State.confirmPage s ctx member conv hk index fmt) := by
  unfold State.confirmPage
  repeat' (first
    | (lift_lets; intro x; refine Frame.cut x ?_ (fun hx => ?_); rotate_left; clear_value x)
    | (lift_lets; intro x; with_reducible refine Frame.trans Frame.refl ?_)
    | (with_reducible refine Frame.upd ?_ ?_ ?_; fail_if_success with_reducible exact ChangesOnly.refl)
    | with_reducible exact Frame.refl | with_reducible assumption
    | (with_reducible refine Frame.step (State.modCtx_frame ?_) (by decide) ?_)
    | (with_reducible apply Frame.step State.dropRemote_frame; case k => decide)
    | (with_reducible apply Frame.step State.setEntry_frame; case k => decide) | with_reducible refine Frame.ite ?_ ?_
    | (intro p hp; cases p <;> first | exact absurd hp (by decide) | rfl) | (intro h; exact h.of_eq rfl rfl rfl rfl)
    | exact KeepsCtx.mk (fun _ h => h) (fun _ h => h) | split)

theorem State.closeInventory_frame {s : State} :
    Frame [.ctxs] s (State.closeInventory s) := by
  refine ⟨fun p hp => by cases p <;> first | exact absurd hp (by decide) | rfl, fun h => ?_⟩
  refine h.mall (f := ?f) ?k ?hc rfl rfl rfl
  case hc => dsimp only [State.closeInventory]; rfl
  exact fun _ => ⟨fun _ k => k, fun _ k => k⟩

theorem State.onInventoryResponse_frame {s : State} {conn : Nat} {body : Bytes} :
    Frame [.itin, .ctxs, .conns, .links, .comp, .dbg, .out, .free] s (State.onInventoryResponse s conn body) := by
  unfold State.onInventoryResponse
  repeat' (first
    | (lift_lets; intro x; refine Frame.cut x ?_ (fun hx => ?_); rotate_left; clear_value x)
    | (lift_lets; intro x; with_reducible refine Frame.trans Frame.refl ?_)
    | (with_reducible refine Frame.upd ?_ ?_ ?_; fail_if_success with_reducible exact ChangesOnly.refl)
    | with_reducible exact Frame.refl | with_reducible assumption
    | (with_reducible apply Frame.step State.confirmPage_frame; case k => decide)
    | (with_reducible apply Frame.step State.closeInventory_frame; case k => decide) | with_reducible refine Frame.ite ?_ ?_
    | with_reducible refine Frame.foldl (fun _ _ => ?_) ?_ | with_reducible refine Frame.foldl_snd (fun _ _ => ?_) ?_
    | (intro p hp; cases p <;> first | exact absurd hp (by decide) | rfl) | (intro h; exact h.of_eq rfl rfl rfl rfl)
    | (simp only [x]; split) | split | dsimp only)

theorem State.onInventory_frame {s : State} {conn : Nat} {body : Bytes} :
    Frame [.itin, .ctxs, .conns, .links, .comp, .dbg, .out, .free] s (State.onInventory s conn body) := by
  unfold State.onInventory
  repeat' (first
    | (with_reducible refine Frame.upd ?_ ?_ ?_; fail_if_success with_reducible exact ChangesOnly.refl)
    | with_reducible exact Frame.refl | (with_reducible apply Frame.step State.onInventoryRequest_frame; case k => decide)
    | (with_reducible apply Frame.step State.onInventoryResponse_frame; case k => decide) | with_reducible refine Frame.ite ?_ ?_
    | split)

end Sys2Proof.Machine
end

