-- ==== Sys2Proof/Laws/FabricFrames.lean ====
section
/-! SUPPORT. What each operation of Machine/Fabric.lean may change, and that it keeps the invariant of Safety.lean. -/
namespace Sys2Proof.Machine

theorem State.showStaged_frame {s : State} :
    Frame [.regs] s (State.showStaged s) := by
  unfold State.showStaged
  repeat' (first
    | (with_reducible refine Frame.upd ?_ ?_ ?_; fail_if_success with_reducible exact ChangesOnly.refl)
    | with_reducible exact Frame.refl | (with_reducible apply Frame.step State.wr_frame; case k => decide) | split)

theorem execCompStage_frame {t : Nat} {ctl : Word} {mem : Option Bytes} {s : State} :
    Answers [.now, .regs, .live, .comp, .power] s (execCompStage t ctl mem s) := by
  unfold execCompStage
  repeat' (first
    | (lift_lets; intro x; refine Answers.cut x ?_ (fun hx => ?_); rotate_left; clear_value x)
    | (lift_lets; intro x; refine Frame.cut x ?_ (fun hx => ?_); rotate_left; clear_value x)
    | (lift_lets; intro x; with_reducible refine Frame.trans Frame.refl ?_) | with_reducible refine Answers.next ?_
    | with_reducible refine Answers.ite ?_ ?_
    | (with_reducible refine Frame.upd ?_ ?_ ?_; fail_if_success with_reducible exact ChangesOnly.refl)
    | with_reducible exact Frame.refl | with_reducible assumption
    | (with_reducible apply Frame.step State.at__frame; case k => decide)
    | (with_reducible apply Frame.step State.ctlWrite_frame; case k => decide)
    | (with_reducible apply Frame.step State.showStaged_frame; case k => decide)
    | (with_reducible apply Frame.step State.wr_frame; case k => decide)
    | (with_reducible apply Frame.step State.opEnd_frame; case k => decide)
    | (with_reducible apply Frame.step State.wakeUp_frame; case k => decide) | with_reducible refine Frame.ite ?_ ?_
    | (intro p hp; cases p <;> first | exact absurd hp (by decide) | rfl) | (intro h; exact h.of_eq rfl rfl rfl rfl)
    | (simp only [x]; split) | split)

theorem execCompWithdraw_frame {t : Nat} {ctl : Word} {s : State} :
    Answers [.now, .regs, .live, .comp, .power] s (execCompWithdraw t ctl s) := by
  unfold execCompWithdraw
  repeat' (first
    | (lift_lets; intro x; refine Answers.cut x ?_ (fun hx => ?_); rotate_left; clear_value x)
    | (lift_lets; intro x; refine Frame.cut x ?_ (fun hx => ?_); rotate_left; clear_value x)
    | (lift_lets; intro x; with_reducible refine Frame.trans Frame.refl ?_) | with_reducible refine Answers.next ?_
    | with_reducible refine Answers.ite ?_ ?_
    | (with_reducible refine Frame.upd ?_ ?_ ?_; fail_if_success with_reducible exact ChangesOnly.refl)
    | with_reducible exact Frame.refl | with_reducible assumption
    | (with_reducible apply Frame.step State.at__frame; case k => decide)
    | (with_reducible apply Frame.step State.ctlWrite_frame; case k => decide)
    | (with_reducible apply Frame.step State.opEnd_frame; case k => decide)
    | (with_reducible apply Frame.step State.wakeUp_frame; case k => decide)
    | (with_reducible apply Frame.step State.showStaged_frame; case k => decide) | with_reducible refine Frame.ite ?_ ?_
    | (intro p hp; cases p <;> first | exact absurd hp (by decide) | rfl) | (intro h; exact h.of_eq rfl rfl rfl rfl) | split)

theorem State.switchReqs_frame {s : State} {old new : CompMap} :
    Frame [.itin, .reqs, .ctxs, .engines, .locals, .conns, .links, .health, .dbg, .out] s (State.switchReqs s old new) := by
  unfold State.switchReqs
  repeat' (first
    | (with_reducible refine Frame.upd ?_ ?_ ?_; fail_if_success with_reducible exact ChangesOnly.refl)
    | with_reducible exact Frame.refl | (with_reducible apply Frame.step State.modReq_frame; case k => decide)
    | (with_reducible apply Frame.step State.failReq_frame; case k => decide) | with_reducible refine Frame.foldl (fun _ _ => ?_) ?_
    | with_reducible refine Frame.foldl_snd (fun _ _ => ?_) ?_ | split | dsimp only)

theorem State.renumber_frame {s : State} {old new : CompMap} :
    Frame [.ctxs] s (State.renumber s old new) := by
  refine ⟨fun p hp => by cases p <;> first | exact absurd hp (by decide) | rfl, fun h => ?_⟩
  refine h.mall (f := ?f) ?k ?hc rfl rfl rfl
  case hc => dsimp only [State.renumber]; rfl
  exact fun _ => ⟨fun _ k => k, fun _ k => k⟩

theorem State.settleUnserved_frame {s : State} {new : CompMap} :
    Frame [.regs, .ctxs, .tiles, .tier] s (State.settleUnserved s new) := by
  unfold State.settleUnserved
  repeat' (first
    | (with_reducible refine Frame.upd ?_ ?_ ?_; fail_if_success with_reducible exact ChangesOnly.refl)
    | with_reducible exact Frame.refl | (with_reducible refine Frame.step (State.modCtx_frame ?_) (by decide) ?_)
    | (with_reducible apply Frame.step State.modConv_frame; case k => decide)
    | (with_reducible apply Frame.step State.dropRef_frame; case k => decide) | with_reducible refine Frame.ite ?_ ?_
    | with_reducible refine Frame.foldl (fun _ _ => ?_) ?_ | with_reducible refine Frame.foldl_snd (fun _ _ => ?_) ?_
    | exact KeepsCtx.mk (fun _ h => h) (fun _ h => h) | split | dsimp only)

theorem State.claimLocal_frame {s : State} {ctx conv : Nat} :
    Frame [.ctxs] s (State.claimLocal s ctx conv) := by
  unfold State.claimLocal
  repeat' (first
    | (lift_lets; intro x; refine Frame.cut x ?_ (fun hx => ?_); rotate_left; clear_value x)
    | (lift_lets; intro x; with_reducible refine Frame.trans Frame.refl ?_)
    | (with_reducible refine Frame.upd ?_ ?_ ?_; fail_if_success with_reducible exact ChangesOnly.refl)
    | with_reducible exact Frame.refl | with_reducible assumption
    | (with_reducible apply Frame.step State.setEntry_frame; case k => decide)
    | (with_reducible refine Frame.step (State.modCtx_frame ?_) (by decide) ?_) | with_reducible refine Frame.ite ?_ ?_
    | with_reducible refine Frame.foldl (fun _ _ => ?_) ?_ | with_reducible refine Frame.foldl_snd (fun _ _ => ?_) ?_
    | exact KeepsCtx.mk (fun _ h => h) (fun _ h => h) | split | dsimp only)

theorem State.takeJournal_frame {s : State} {j : Journal} :
    Frame [.ctxs, .comp] s (State.takeJournal s j) := by
  unfold State.takeJournal
  repeat' (first
    | (lift_lets; intro x; refine Frame.cut x ?_ (fun hx => ?_); rotate_left; clear_value x)
    | (lift_lets; intro x; with_reducible refine Frame.trans Frame.refl ?_)
    | (with_reducible refine Frame.upd ?_ ?_ ?_; fail_if_success with_reducible exact ChangesOnly.refl)
    | with_reducible exact Frame.refl | with_reducible assumption
    | (with_reducible refine Frame.step (State.modCtx_frame ?_) (by decide) ?_)
    | (with_reducible apply Frame.step State.claimLocal_frame; case k => decide) | with_reducible refine Frame.ite ?_ ?_
    | with_reducible refine Frame.foldl (fun _ _ => ?_) ?_ | with_reducible refine Frame.foldl_snd (fun _ _ => ?_) ?_
    | (intro p hp; cases p <;> first | exact absurd hp (by decide) | rfl) | (intro h; exact h.of_eq rfl rfl rfl rfl)
    | exact KeepsCtx.mk (fun _ h => h) (fun _ h => h) | (simp only [x]; split) | split | dsimp only)

theorem State.askInventory_frame {s : State} {slot ctx : Nat} :
    Frame [.itin, .ctxs, .conns, .links, .comp, .dbg, .out] s (State.askInventory s slot ctx) := by
  unfold State.askInventory
  repeat' (first
    | (lift_lets; intro x; refine Frame.cut x ?_ (fun hx => ?_); rotate_left; clear_value x)
    | (lift_lets; intro x; with_reducible refine Frame.trans Frame.refl ?_)
    | (with_reducible refine Frame.upd ?_ ?_ ?_; fail_if_success with_reducible exact ChangesOnly.refl)
    | with_reducible exact Frame.refl | with_reducible assumption
    | (with_reducible apply Frame.step State.sendSend_frame; case k => decide) | with_reducible refine Frame.ite ?_ ?_
    | with_reducible refine Frame.foldl (fun _ _ => ?_) ?_ | with_reducible refine Frame.foldl_snd (fun _ _ => ?_) ?_
    | (intro p hp; cases p <;> first | exact absurd hp (by decide) | rfl) | (intro h; exact h.of_eq rfl rfl rfl rfl) | split
    | dsimp only)

theorem State.takeOver_frame {s : State} {slot : Nat} :
    Frame [.regs, .itin, .ctxs, .conns, .links, .comp, .health, .dbg, .out, .free] s (State.takeOver s slot) := by
  unfold State.takeOver
  repeat' (first
    | (lift_lets; intro x; refine Frame.cut x ?_ (fun hx => ?_); rotate_left; clear_value x)
    | (lift_lets; intro x; with_reducible refine Frame.trans Frame.refl ?_)
    | (with_reducible refine Frame.upd ?_ ?_ ?_; fail_if_success with_reducible exact ChangesOnly.refl)
    | with_reducible exact Frame.refl | with_reducible assumption
    | (with_reducible apply Frame.step errRecord_frame; case k => decide)
    | (with_reducible apply Frame.step State.askInventory_frame; case k => decide)
    | (with_reducible apply Frame.step State.takeJournal_frame; case k => decide)
    | (with_reducible apply Frame.step State.closeInventory_frame; case k => decide) | with_reducible refine Frame.ite ?_ ?_
    | with_reducible refine Frame.foldl (fun _ _ => ?_) ?_ | with_reducible refine Frame.foldl_snd (fun _ _ => ?_) ?_ | split
    | dsimp only)

theorem State.renewStreams_frame {s : State} {old new : CompMap} :
    Frame [.comp] s (State.renewStreams s old new) := by
  unfold State.renewStreams
  repeat' (first
    | (lift_lets; intro x; refine Frame.cut x ?_ (fun hx => ?_); rotate_left; clear_value x)
    | (lift_lets; intro x; with_reducible refine Frame.trans Frame.refl ?_)
    | (with_reducible refine Frame.upd ?_ ?_ ?_; fail_if_success with_reducible exact ChangesOnly.refl)
    | with_reducible exact Frame.refl | with_reducible assumption
    | (with_reducible apply Frame.step State.setStream_frame; case k => decide) | with_reducible refine Frame.ite ?_ ?_
    | with_reducible refine Frame.foldl (fun _ _ => ?_) ?_ | with_reducible refine Frame.foldl_snd (fun _ _ => ?_) ?_
    | (intro p hp; cases p <;> first | exact absurd hp (by decide) | rfl) | (intro h; exact h.of_eq rfl rfl rfl rfl) | split
    | dsimp only)

theorem State.dropJournals_frame {s : State} {old new : CompMap} :
    Frame [.regs, .comp] s (State.dropJournals s old new) := by
  unfold State.dropJournals
  repeat' (first
    | (lift_lets; intro x; refine Frame.cut x ?_ (fun hx => ?_); rotate_left; clear_value x)
    | (lift_lets; intro x; with_reducible refine Frame.trans Frame.refl ?_)
    | (with_reducible refine Frame.upd ?_ ?_ ?_; fail_if_success with_reducible exact ChangesOnly.refl)
    | with_reducible exact Frame.refl | with_reducible assumption
    | (with_reducible apply Frame.step State.wr_frame; case k => decide)
    | (intro p hp; cases p <;> first | exact absurd hp (by decide) | rfl) | (intro h; exact h.of_eq rfl rfl rfl rfl))

theorem State.newMeters_frame {s : State} {id : Nat} :
    Frame [.ctxs] s (State.newMeters s id) := by
  refine ⟨fun p hp => by cases p <;> first | exact absurd hp (by decide) | rfl, fun h => ?_⟩
  refine h.mall (f := ?f) ?k ?hc rfl rfl rfl
  case hc => dsimp only [State.newMeters]; rfl
  refine fun _ => ⟨fun _ k => k, fun _ _ => ?_⟩
  simp only [List.length_take]
  omega

theorem State.switchMoves_frame {s : State} {old : CompMap} :
    Frame [.regs, .tiles, .tier] s (State.switchMoves s old) := by
  unfold State.switchMoves
  repeat' (first
    | (lift_lets; intro x; refine Frame.cut x ?_ (fun hx => ?_); rotate_left; clear_value x)
    | (lift_lets; intro x; with_reducible refine Frame.trans Frame.refl ?_)
    | (with_reducible refine Frame.upd ?_ ?_ ?_; fail_if_success with_reducible exact ChangesOnly.refl)
    | with_reducible exact Frame.refl | with_reducible assumption
    | (with_reducible apply Frame.step State.abortMoves_frame; case k => decide)
    | (intro p hp; cases p <;> first | exact absurd hp (by decide) | rfl) | (intro h; exact h.of_eq rfl rfl rfl rfl))

theorem State.showMap_frame {s : State} {m : CompMap} :
    Frame [.regs] s (State.showMap s m) := by
  unfold State.showMap
  repeat' (first
    | (with_reducible refine Frame.upd ?_ ?_ ?_; fail_if_success with_reducible exact ChangesOnly.refl)
    | with_reducible exact Frame.refl | (with_reducible apply Frame.step State.showStaged_frame; case k => decide)
    | (with_reducible apply Frame.step State.wr_frame; case k => decide))

theorem State.sendMeters_frame {s : State} :
    Frame [.ranger, .out] s (State.sendMeters s) := by
  unfold State.sendMeters
  repeat' (first
    | (with_reducible refine Frame.upd ?_ ?_ ?_; fail_if_success with_reducible exact ChangesOnly.refl)
    | with_reducible exact Frame.refl | (with_reducible apply Frame.step State.reportEvent_frame; case k => decide)
    | (with_reducible apply Frame.step State.emit_frame; case k => decide) | with_reducible refine Frame.ite ?_ ?_ | split)

theorem State.activate_frame {s : State} {new : CompMap} :
    Frame [.regs, .itin, .reqs, .ctxs, .engines, .tiles, .locals, .conns, .links, .comp, .tier, .health, .ranger, .dbg, .out, .free] s (State.activate s new) := by
  unfold State.activate
  repeat' (first
    | (lift_lets; intro x; refine Frame.cut x ?_ (fun hx => ?_); rotate_left; clear_value x)
    | (lift_lets; intro x; with_reducible refine Frame.trans Frame.refl ?_)
    | (with_reducible refine Frame.upd ?_ ?_ ?_; fail_if_success with_reducible exact ChangesOnly.refl)
    | with_reducible exact Frame.refl | with_reducible assumption
    | (with_reducible apply Frame.step State.switchReqs_frame; case k => decide)
    | (with_reducible apply Frame.step State.renumber_frame; case k => decide)
    | (with_reducible apply Frame.step State.showMap_frame; case k => decide)
    | (with_reducible apply Frame.step State.wr_frame; case k => decide)
    | (with_reducible apply Frame.step State.switchMoves_frame; case k => decide)
    | (with_reducible apply Frame.step State.settleUnserved_frame; case k => decide)
    | (with_reducible apply Frame.step State.takeOver_frame; case k => decide)
    | (with_reducible apply Frame.step State.renewStreams_frame; case k => decide)
    | (with_reducible apply Frame.step State.dropJournals_frame; case k => decide)
    | (with_reducible apply Frame.step State.sendMeters_frame; case k => decide)
    | (with_reducible apply Frame.step State.newMeters_frame; case k => decide)
    | (with_reducible apply Frame.step State.degradeMark_frame; case k => decide) | with_reducible refine Frame.ite ?_ ?_
    | with_reducible refine Frame.foldl (fun _ _ => ?_) ?_ | with_reducible refine Frame.foldl_snd (fun _ _ => ?_) ?_
    | (intro p hp; cases p <;> first | exact absurd hp (by decide) | rfl) | (intro h; exact h.of_eq rfl rfl rfl rfl)
    | (simp only [x]; split) | split | dsimp only)

theorem execMapActivation_frame {t : Nat} {s : State} :
    Answers [.now, .regs, .itin, .reqs, .ctxs, .engines, .tiles, .locals, .conns, .links, .comp, .tier, .health, .power, .ranger, .dbg, .out, .free] s (execMapActivation t s) := by
  unfold execMapActivation
  repeat' (first
    | (lift_lets; intro x; refine Answers.cut x ?_ (fun hx => ?_); rotate_left; clear_value x)
    | (lift_lets; intro x; refine Frame.cut x ?_ (fun hx => ?_); rotate_left; clear_value x)
    | (lift_lets; intro x; with_reducible refine Frame.trans Frame.refl ?_) | with_reducible refine Answers.next ?_
    | with_reducible refine Answers.ite ?_ ?_
    | (with_reducible refine Frame.upd ?_ ?_ ?_; fail_if_success with_reducible exact ChangesOnly.refl)
    | with_reducible exact Frame.refl | with_reducible assumption
    | (with_reducible apply Frame.step State.at__frame; case k => decide)
    | (with_reducible apply Frame.step State.wakeUp_frame; case k => decide)
    | (with_reducible apply Frame.step State.activate_frame; case k => decide)
    | (with_reducible apply Frame.step State.wr_frame; case k => decide) | with_reducible refine Frame.ite ?_ ?_
    | (intro p hp; cases p <;> first | exact absurd hp (by decide) | rfl) | (intro h; exact h.of_eq rfl rfl rfl rfl) | split)

theorem execDrainTimeout_frame {t : Nat} {s : State} :
    Answers [.now, .itin, .reqs, .ctxs, .engines, .locals, .conns, .links, .health, .dbg, .out] s (execDrainTimeout t s) := by
  unfold execDrainTimeout
  repeat' (first
    | (lift_lets; intro x; refine Answers.cut x ?_ (fun hx => ?_); rotate_left; clear_value x)
    | (lift_lets; intro x; refine Frame.cut x ?_ (fun hx => ?_); rotate_left; clear_value x)
    | (lift_lets; intro x; with_reducible refine Frame.trans Frame.refl ?_) | with_reducible refine Answers.next ?_
    | with_reducible refine Answers.ite ?_ ?_
    | (with_reducible refine Frame.upd ?_ ?_ ?_; fail_if_success with_reducible exact ChangesOnly.refl)
    | with_reducible exact Frame.refl | with_reducible assumption
    | (with_reducible apply Frame.step State.at__frame; case k => decide)
    | (with_reducible apply Frame.step State.failReq_frame; case k => decide) | with_reducible refine Frame.ite ?_ ?_
    | with_reducible refine Frame.foldl (fun _ _ => ?_) ?_ | with_reducible refine Frame.foldl_snd (fun _ _ => ?_) ?_ | split
    | dsimp only)

theorem State.commitRebuild_frame {s : State} {b : Rebuild} :
    Frame [.regs, .ctxs, .tiles, .comp, .tier, .free] s (State.commitRebuild s b) := by
  unfold State.commitRebuild
  repeat' (first
    | (lift_lets; intro x; refine Frame.cut x ?_ (fun hx => ?_); rotate_left; clear_value x)
    | (lift_lets; intro x; with_reducible refine Frame.trans Frame.refl ?_)
    | (with_reducible refine Frame.upd ?_ ?_ ?_; fail_if_success with_reducible exact ChangesOnly.refl)
    | with_reducible exact Frame.refl | with_reducible assumption
    | (with_reducible refine Frame.step (State.newPage_frame (by assumption)) (by decide) ?_)
    | (with_reducible apply Frame.step State.modPeer_frame; case k => decide)
    | (with_reducible refine Frame.step (State.modCtx_frame ?_) (by decide) ?_)
    | (with_reducible apply Frame.step State.journal_frame; case k => decide) | with_reducible refine Frame.ite ?_ ?_
    | with_reducible refine Frame.foldl (fun _ _ => ?_) ?_ | with_reducible refine Frame.foldl_snd (fun _ _ => ?_) ?_
    | (intro p hp; cases p <;> first | exact absurd hp (by decide) | rfl) | (intro h; exact h.of_eq rfl rfl rfl rfl)
    | exact KeepsCtx.mk (fun _ h => h) (fun _ h => h) | (simp only [x]; split) | split | dsimp only)

theorem execRebuildPageCommit_frame {t ctx conv layer head index : Nat} {s : State} :
    Answers [.now, .regs, .ctxs, .tiles, .comp, .tier, .free] s (execRebuildPageCommit t ctx conv layer head index s) := by
  unfold execRebuildPageCommit
  repeat' (first
    | (lift_lets; intro x; refine Answers.cut x ?_ (fun hx => ?_); rotate_left; clear_value x)
    | (lift_lets; intro x; refine Frame.cut x ?_ (fun hx => ?_); rotate_left; clear_value x)
    | (lift_lets; intro x; with_reducible refine Frame.trans Frame.refl ?_) | with_reducible refine Answers.next ?_
    | with_reducible refine Answers.ite ?_ ?_
    | (with_reducible refine Frame.upd ?_ ?_ ?_; fail_if_success with_reducible exact ChangesOnly.refl)
    | with_reducible exact Frame.refl | with_reducible assumption
    | (with_reducible apply Frame.step State.at__frame; case k => decide)
    | (with_reducible apply Frame.step State.commitRebuild_frame; case k => decide) | with_reducible refine Frame.ite ?_ ?_ | split)

theorem execIsolationTimeout_frame {t : Nat} {s : State} :
    Answers [.now, .regs, .comp] s (execIsolationTimeout t s) := by
  unfold execIsolationTimeout
  repeat' (first
    | (lift_lets; intro x; refine Answers.cut x ?_ (fun hx => ?_); rotate_left; clear_value x)
    | (lift_lets; intro x; refine Frame.cut x ?_ (fun hx => ?_); rotate_left; clear_value x)
    | (lift_lets; intro x; with_reducible refine Frame.trans Frame.refl ?_) | with_reducible refine Answers.next ?_
    | with_reducible refine Answers.ite ?_ ?_
    | (with_reducible refine Frame.upd ?_ ?_ ?_; fail_if_success with_reducible exact ChangesOnly.refl)
    | with_reducible exact Frame.refl | with_reducible assumption
    | (with_reducible apply Frame.step State.at__frame; case k => decide)
    | (with_reducible apply Frame.step State.wr_frame; case k => decide) | with_reducible refine Frame.ite ?_ ?_
    | (intro p hp; cases p <;> first | exact absurd hp (by decide) | rfl) | (intro h; exact h.of_eq rfl rfl rfl rfl) | split)

theorem State.declare_frame {s : State} {c : Nat × Nat} :
    Frame [.regs, .health, .free] s (State.declare s c) := by
  unfold State.declare
  repeat' (first
    | (with_reducible refine Frame.upd ?_ ?_ ?_; fail_if_success with_reducible exact ChangesOnly.refl)
    | with_reducible exact Frame.refl | (with_reducible apply Frame.step State.bump_frame; case k => decide)
    | (with_reducible apply Frame.step errRecord_frame; case k => decide))

theorem State.stormBegins_frame {s : State} {suspects : Nat} :
    Frame [.regs, .comp, .health, .free] s (State.stormBegins s suspects) := by
  unfold State.stormBegins
  repeat' (first
    | (lift_lets; intro x; refine Frame.cut x ?_ (fun hx => ?_); rotate_left; clear_value x)
    | (lift_lets; intro x; with_reducible refine Frame.trans Frame.refl ?_)
    | (with_reducible refine Frame.upd ?_ ?_ ?_; fail_if_success with_reducible exact ChangesOnly.refl)
    | with_reducible exact Frame.refl | with_reducible assumption
    | (with_reducible apply Frame.step State.bump_frame; case k => decide)
    | (with_reducible apply Frame.step errRecord_frame; case k => decide)
    | (with_reducible apply Frame.step State.wr_frame; case k => decide)
    | (intro p hp; cases p <;> first | exact absurd hp (by decide) | rfl) | (intro h; exact h.of_eq rfl rfl rfl rfl))

theorem State.stormEnds_frame {s : State} :
    Frame [.regs, .comp] s (State.stormEnds s) := by
  unfold State.stormEnds
  repeat' (first
    | (with_reducible refine Frame.upd ?_ ?_ ?_; fail_if_success with_reducible exact ChangesOnly.refl)
    | with_reducible exact Frame.refl | (with_reducible apply Frame.step State.wr_frame; case k => decide)
    | (intro p hp; cases p <;> first | exact absurd hp (by decide) | rfl) | (intro h; exact h.of_eq rfl rfl rfl rfl))

theorem execSuspectWindowEnd_frame {t : Nat} {s : State} :
    Answers [.now, .regs, .comp, .health, .free] s (execSuspectWindowEnd t s) := by
  unfold execSuspectWindowEnd
  repeat' (first
    | (lift_lets; intro x; refine Answers.cut x ?_ (fun hx => ?_); rotate_left; clear_value x)
    | (lift_lets; intro x; refine Frame.cut x ?_ (fun hx => ?_); rotate_left; clear_value x)
    | (lift_lets; intro x; with_reducible refine Frame.trans Frame.refl ?_) | with_reducible refine Answers.next ?_
    | with_reducible refine Answers.ite ?_ ?_
    | (with_reducible refine Frame.upd ?_ ?_ ?_; fail_if_success with_reducible exact ChangesOnly.refl)
    | with_reducible exact Frame.refl | with_reducible assumption
    | (with_reducible apply Frame.step State.at__frame; case k => decide)
    | (with_reducible apply Frame.step State.declare_frame; case k => decide)
    | (with_reducible apply Frame.step State.stormBegins_frame; case k => decide)
    | (with_reducible apply Frame.step State.stormEnds_frame; case k => decide) | with_reducible refine Frame.ite ?_ ?_
    | with_reducible refine Frame.foldl (fun _ _ => ?_) ?_ | with_reducible refine Frame.foldl_snd (fun _ _ => ?_) ?_
    | (intro p hp; cases p <;> first | exact absurd hp (by decide) | rfl) | (intro h; exact h.of_eq rfl rfl rfl rfl)
    | (simp only [x]; split) | split | dsimp only)

end Sys2Proof.Machine
end

