-- ==== Sys2Proof/Laws/ReceiveFrames.lean ====
section
/-! SUPPORT. What each operation of Machine/Receive.lean may change, and that it keeps the invariant of Safety.lean. -/
namespace Sys2Proof.Machine

theorem State.journalSend_frame {s : State} {slot : Nat} {body : Bytes} :
    Frame [.regs, .ctxs, .conns, .links, .comp, .dbg, .out] s (State.journalSend s slot body) := by
  unfold State.journalSend
  repeat' (first
    | (lift_lets; intro x; refine Frame.cut x ?_ (fun hx => ?_); rotate_left; clear_value x)
    | (lift_lets; intro x; with_reducible refine Frame.trans Frame.refl ?_)
    | (with_reducible refine Frame.upd ?_ ?_ ?_; fail_if_success with_reducible exact ChangesOnly.refl)
    | with_reducible exact Frame.refl | with_reducible assumption
    | (with_reducible apply Frame.step State.onJournal_frame; case k => decide)
    | (with_reducible apply Frame.step State.sendSack_frame; case k => decide) | with_reducible refine Frame.ite ?_ ?_ | split)

theorem State.onSend_frame {s : State} {slot epoch : Nat} {body : Bytes} :
    Frame [.regs, .itin, .reqs, .ctxs, .engines, .tiles, .locals, .conns, .links, .comp, .tier, .sec, .health, .power, .dbg, .out, .free] s (State.onSend s slot epoch body) := by
  unfold State.onSend
  repeat' (first
    | (with_reducible refine Frame.upd ?_ ?_ ?_; fail_if_success with_reducible exact ChangesOnly.refl)
    | with_reducible exact Frame.refl | (with_reducible apply Frame.step State.onSubreq_frame; case k => decide)
    | (with_reducible apply Frame.step State.wakeUp_frame; case k => decide)
    | (with_reducible apply Frame.step State.onPartial_frame; case k => decide)
    | (with_reducible apply Frame.step State.onLeaf_frame; case k => decide)
    | (with_reducible apply Frame.step State.journalSend_frame; case k => decide)
    | (with_reducible apply Frame.step State.onMove_frame; case k => decide)
    | (with_reducible apply Frame.step State.onMoveAck_frame; case k => decide)
    | (with_reducible apply Frame.step State.onMoveCommit_frame; case k => decide)
    | (with_reducible apply Frame.step State.onPageOp_frame; case k => decide)
    | (with_reducible apply Frame.step State.onPageOpDone_frame; case k => decide)
    | (with_reducible apply Frame.step State.onInventory_frame; case k => decide)
    | (with_reducible apply Frame.step State.onRekey_frame; case k => decide)
    | (with_reducible apply Frame.step State.onRekeyAck_frame; case k => decide)
    | (with_reducible apply Frame.step State.onClose_frame; case k => decide)
    | (with_reducible apply Frame.step State.onRegionAdv_frame; case k => decide)
    | (with_reducible apply Frame.step State.onRegionWd_frame; case k => decide) | split)

theorem State.placeSend_frame {s : State} {x : RxPkt} :
    Frame [.regs, .itin, .reqs, .ctxs, .engines, .tiles, .locals, .conns, .links, .comp, .tier, .sec, .health, .power, .dbg, .out, .free] s (State.placeSend s x) := by
  unfold State.placeSend
  repeat' (first
    | (lift_lets; intro x; refine Frame.cut x ?_ (fun hx => ?_); rotate_left; clear_value x)
    | (lift_lets; intro x; with_reducible refine Frame.trans Frame.refl ?_)
    | (with_reducible refine Frame.upd ?_ ?_ ?_; fail_if_success with_reducible exact ChangesOnly.refl)
    | with_reducible exact Frame.refl | with_reducible assumption
    | (with_reducible apply Frame.step State.openMsg_frame; case k => decide)
    | (with_reducible apply Frame.step State.modRx_frame; case k => decide)
    | (with_reducible apply Frame.step State.headerDrop_frame; case k => decide)
    | (with_reducible apply Frame.step State.bump_frame; case k => decide)
    | (with_reducible apply Frame.step State.onSend_frame; case k => decide)
    | (with_reducible apply Frame.step State.msgDone_frame; case k => decide) | with_reducible refine Frame.ite ?_ ?_
    | (simp only [x]; split) | with_reducible refine Frame.of_pair (by assumption) ?_ | split | dsimp only)

theorem State.deliverSend_frame {s : State} {x : RxPkt} :
    Frame [.regs, .itin, .reqs, .ctxs, .engines, .tiles, .locals, .conns, .links, .comp, .tier, .sec, .health, .power, .dbg, .out, .free] s (State.deliverSend s x) := by
  unfold State.deliverSend
  repeat' (first
    | (lift_lets; intro x; refine Frame.cut x ?_ (fun hx => ?_); rotate_left; clear_value x)
    | (lift_lets; intro x; with_reducible refine Frame.trans Frame.refl ?_)
    | (with_reducible refine Frame.upd ?_ ?_ ?_; fail_if_success with_reducible exact ChangesOnly.refl)
    | with_reducible exact Frame.refl | with_reducible assumption
    | (with_reducible apply Frame.step State.placeSend_frame; case k => decide)
    | (with_reducible apply Frame.step State.answerNak_frame; case k => decide)
    | (with_reducible apply Frame.step State.holdMsg_frame; case k => decide) | with_reducible refine Frame.ite ?_ ?_ | split)

theorem State.recvSend_frame {s : State} {p : Pkt} :
    Frame [.regs, .itin, .reqs, .ctxs, .engines, .tiles, .locals, .conns, .links, .comp, .tier, .sec, .health, .power, .dbg, .out, .free] s (State.recvSend s p) := by
  unfold State.recvSend
  repeat' (first
    | (with_reducible refine Frame.upd ?_ ?_ ?_; fail_if_success with_reducible exact ChangesOnly.refl)
    | with_reducible exact Frame.refl | (with_reducible apply Frame.step State.receive_frame; case k => decide)
    | (with_reducible apply Frame.step State.deliverSend_frame; case k => decide)
    | exact State.receive_frame (fun _ _ => Frame.mono State.deliverSend_frame (by decide)) (by decide))

theorem execRekey_frame {t : Nat} {p : Pkt} {s : State} :
    Answers [.now, .regs, .itin, .reqs, .ctxs, .engines, .tiles, .locals, .conns, .links, .comp, .tier, .sec, .health, .power, .dbg, .out, .free] s (execRekey t p s) := by
  unfold execRekey
  repeat' (first
    | with_reducible refine Answers.next ?_ | with_reducible refine Answers.ite ?_ ?_
    | (with_reducible refine Frame.upd ?_ ?_ ?_; fail_if_success with_reducible exact ChangesOnly.refl)
    | with_reducible exact Frame.refl | (with_reducible apply Frame.step State.recvSend_frame; case k => decide)
    | (with_reducible apply Frame.step State.at__frame; case k => decide))

theorem execRekeyAck_frame {t : Nat} {p : Pkt} {s : State} :
    Answers [.now, .regs, .itin, .reqs, .ctxs, .engines, .tiles, .locals, .conns, .links, .comp, .tier, .sec, .health, .power, .dbg, .out, .free] s (execRekeyAck t p s) := by
  unfold execRekeyAck
  repeat' (first
    | with_reducible refine Answers.next ?_ | with_reducible refine Answers.ite ?_ ?_
    | (with_reducible refine Frame.upd ?_ ?_ ?_; fail_if_success with_reducible exact ChangesOnly.refl)
    | with_reducible exact Frame.refl | (with_reducible apply Frame.step State.recvSend_frame; case k => decide)
    | (with_reducible apply Frame.step State.at__frame; case k => decide))

theorem execRegionAdv_frame {t : Nat} {p : Pkt} {s : State} :
    Answers [.now, .regs, .itin, .reqs, .ctxs, .engines, .tiles, .locals, .conns, .links, .comp, .tier, .sec, .health, .power, .dbg, .out, .free] s (execRegionAdv t p s) := by
  unfold execRegionAdv
  repeat' (first
    | with_reducible refine Answers.next ?_ | with_reducible refine Answers.ite ?_ ?_
    | (with_reducible refine Frame.upd ?_ ?_ ?_; fail_if_success with_reducible exact ChangesOnly.refl)
    | with_reducible exact Frame.refl | (with_reducible apply Frame.step State.recvSend_frame; case k => decide)
    | (with_reducible apply Frame.step State.at__frame; case k => decide))

theorem execRegionWd_frame {t : Nat} {p : Pkt} {s : State} :
    Answers [.now, .regs, .itin, .reqs, .ctxs, .engines, .tiles, .locals, .conns, .links, .comp, .tier, .sec, .health, .power, .dbg, .out, .free] s (execRegionWd t p s) := by
  unfold execRegionWd
  repeat' (first
    | with_reducible refine Answers.next ?_ | with_reducible refine Answers.ite ?_ ?_
    | (with_reducible refine Frame.upd ?_ ?_ ?_; fail_if_success with_reducible exact ChangesOnly.refl)
    | with_reducible exact Frame.refl | (with_reducible apply Frame.step State.recvSend_frame; case k => decide)
    | (with_reducible apply Frame.step State.at__frame; case k => decide))

theorem execSubreq_frame {t : Nat} {p : Pkt} {s : State} :
    Answers [.now, .regs, .itin, .reqs, .ctxs, .engines, .tiles, .locals, .conns, .links, .comp, .tier, .sec, .health, .power, .dbg, .out, .free] s (execSubreq t p s) := by
  unfold execSubreq
  repeat' (first
    | with_reducible refine Answers.next ?_ | with_reducible refine Answers.ite ?_ ?_
    | (with_reducible refine Frame.upd ?_ ?_ ?_; fail_if_success with_reducible exact ChangesOnly.refl)
    | with_reducible exact Frame.refl | (with_reducible apply Frame.step State.recvSend_frame; case k => decide)
    | (with_reducible apply Frame.step State.at__frame; case k => decide))

theorem execPartialMsg_frame {t : Nat} {p : Pkt} {s : State} :
    Answers [.now, .regs, .itin, .reqs, .ctxs, .engines, .tiles, .locals, .conns, .links, .comp, .tier, .sec, .health, .power, .dbg, .out, .free] s (execPartialMsg t p s) := by
  unfold execPartialMsg
  repeat' (first
    | with_reducible refine Answers.next ?_ | with_reducible refine Answers.ite ?_ ?_
    | (with_reducible refine Frame.upd ?_ ?_ ?_; fail_if_success with_reducible exact ChangesOnly.refl)
    | with_reducible exact Frame.refl | (with_reducible apply Frame.step State.recvSend_frame; case k => decide)
    | (with_reducible apply Frame.step State.at__frame; case k => decide))

theorem execLeaf_frame {t : Nat} {p : Pkt} {s : State} :
    Answers [.now, .regs, .itin, .reqs, .ctxs, .engines, .tiles, .locals, .conns, .links, .comp, .tier, .sec, .health, .power, .dbg, .out, .free] s (execLeaf t p s) := by
  unfold execLeaf
  repeat' (first
    | with_reducible refine Answers.next ?_ | with_reducible refine Answers.ite ?_ ?_
    | (with_reducible refine Frame.upd ?_ ?_ ?_; fail_if_success with_reducible exact ChangesOnly.refl)
    | with_reducible exact Frame.refl | (with_reducible apply Frame.step State.recvSend_frame; case k => decide)
    | (with_reducible apply Frame.step State.at__frame; case k => decide))

theorem execJournal_frame {t : Nat} {p : Pkt} {s : State} :
    Answers [.now, .regs, .itin, .reqs, .ctxs, .engines, .tiles, .locals, .conns, .links, .comp, .tier, .sec, .health, .power, .dbg, .out, .free] s (execJournal t p s) := by
  unfold execJournal
  repeat' (first
    | with_reducible refine Answers.next ?_ | with_reducible refine Answers.ite ?_ ?_
    | (with_reducible refine Frame.upd ?_ ?_ ?_; fail_if_success with_reducible exact ChangesOnly.refl)
    | with_reducible exact Frame.refl | (with_reducible apply Frame.step State.recvSend_frame; case k => decide)
    | (with_reducible apply Frame.step State.at__frame; case k => decide))

theorem execMove_frame {t : Nat} {p : Pkt} {s : State} :
    Answers [.now, .regs, .itin, .reqs, .ctxs, .engines, .tiles, .locals, .conns, .links, .comp, .tier, .sec, .health, .power, .dbg, .out, .free] s (execMove t p s) := by
  unfold execMove
  repeat' (first
    | with_reducible refine Answers.next ?_ | with_reducible refine Answers.ite ?_ ?_
    | (with_reducible refine Frame.upd ?_ ?_ ?_; fail_if_success with_reducible exact ChangesOnly.refl)
    | with_reducible exact Frame.refl | (with_reducible apply Frame.step State.recvSend_frame; case k => decide)
    | (with_reducible apply Frame.step State.at__frame; case k => decide))

theorem execMoveAck_frame {t : Nat} {p : Pkt} {s : State} :
    Answers [.now, .regs, .itin, .reqs, .ctxs, .engines, .tiles, .locals, .conns, .links, .comp, .tier, .sec, .health, .power, .dbg, .out, .free] s (execMoveAck t p s) := by
  unfold execMoveAck
  repeat' (first
    | with_reducible refine Answers.next ?_ | with_reducible refine Answers.ite ?_ ?_
    | (with_reducible refine Frame.upd ?_ ?_ ?_; fail_if_success with_reducible exact ChangesOnly.refl)
    | with_reducible exact Frame.refl | (with_reducible apply Frame.step State.recvSend_frame; case k => decide)
    | (with_reducible apply Frame.step State.at__frame; case k => decide))

theorem execMoveCommitMsg_frame {t : Nat} {p : Pkt} {s : State} :
    Answers [.now, .regs, .itin, .reqs, .ctxs, .engines, .tiles, .locals, .conns, .links, .comp, .tier, .sec, .health, .power, .dbg, .out, .free] s (execMoveCommitMsg t p s) := by
  unfold execMoveCommitMsg
  repeat' (first
    | with_reducible refine Answers.next ?_ | with_reducible refine Answers.ite ?_ ?_
    | (with_reducible refine Frame.upd ?_ ?_ ?_; fail_if_success with_reducible exact ChangesOnly.refl)
    | with_reducible exact Frame.refl | (with_reducible apply Frame.step State.recvSend_frame; case k => decide)
    | (with_reducible apply Frame.step State.at__frame; case k => decide))

theorem execPageOp_frame {t : Nat} {p : Pkt} {s : State} :
    Answers [.now, .regs, .itin, .reqs, .ctxs, .engines, .tiles, .locals, .conns, .links, .comp, .tier, .sec, .health, .power, .dbg, .out, .free] s (execPageOp t p s) := by
  unfold execPageOp
  repeat' (first
    | with_reducible refine Answers.next ?_ | with_reducible refine Answers.ite ?_ ?_
    | (with_reducible refine Frame.upd ?_ ?_ ?_; fail_if_success with_reducible exact ChangesOnly.refl)
    | with_reducible exact Frame.refl | (with_reducible apply Frame.step State.recvSend_frame; case k => decide)
    | (with_reducible apply Frame.step State.at__frame; case k => decide))

theorem execPageOpDone_frame {t : Nat} {p : Pkt} {s : State} :
    Answers [.now, .regs, .itin, .reqs, .ctxs, .engines, .tiles, .locals, .conns, .links, .comp, .tier, .sec, .health, .power, .dbg, .out, .free] s (execPageOpDone t p s) := by
  unfold execPageOpDone
  repeat' (first
    | with_reducible refine Answers.next ?_ | with_reducible refine Answers.ite ?_ ?_
    | (with_reducible refine Frame.upd ?_ ?_ ?_; fail_if_success with_reducible exact ChangesOnly.refl)
    | with_reducible exact Frame.refl | (with_reducible apply Frame.step State.recvSend_frame; case k => decide)
    | (with_reducible apply Frame.step State.at__frame; case k => decide))

theorem execInventory_frame {t : Nat} {p : Pkt} {s : State} :
    Answers [.now, .regs, .itin, .reqs, .ctxs, .engines, .tiles, .locals, .conns, .links, .comp, .tier, .sec, .health, .power, .dbg, .out, .free] s (execInventory t p s) := by
  unfold execInventory
  repeat' (first
    | with_reducible refine Answers.next ?_ | with_reducible refine Answers.ite ?_ ?_
    | (with_reducible refine Frame.upd ?_ ?_ ?_; fail_if_success with_reducible exact ChangesOnly.refl)
    | with_reducible exact Frame.refl | (with_reducible apply Frame.step State.recvSend_frame; case k => decide)
    | (with_reducible apply Frame.step State.at__frame; case k => decide))

theorem execInventoryResponse_frame {t : Nat} {p : Pkt} {s : State} :
    Answers [.now, .regs, .itin, .reqs, .ctxs, .engines, .tiles, .locals, .conns, .links, .comp, .tier, .sec, .health, .power, .dbg, .out, .free] s (execInventoryResponse t p s) := by
  unfold execInventoryResponse
  repeat' (first
    | with_reducible refine Answers.next ?_ | with_reducible refine Answers.ite ?_ ?_
    | (with_reducible refine Frame.upd ?_ ?_ ?_; fail_if_success with_reducible exact ChangesOnly.refl)
    | with_reducible exact Frame.refl | (with_reducible apply Frame.step State.recvSend_frame; case k => decide)
    | (with_reducible apply Frame.step State.at__frame; case k => decide))

theorem execClose_frame {t slot : Nat} {received : Option Pkt} {reason : Nat} {s : State} :
    Answers [.now, .regs, .itin, .reqs, .ctxs, .engines, .tiles, .locals, .conns, .links, .comp, .tier, .sec, .health, .power, .dbg, .out, .free] s (execClose t slot received reason s) := by
  unfold execClose
  repeat' (first
    | (lift_lets; intro x; refine Answers.cut x ?_ (fun hx => ?_); rotate_left; clear_value x)
    | (lift_lets; intro x; refine Frame.cut x ?_ (fun hx => ?_); rotate_left; clear_value x)
    | (lift_lets; intro x; with_reducible refine Frame.trans Frame.refl ?_) | with_reducible refine Answers.next ?_
    | with_reducible refine Answers.ite ?_ ?_
    | (with_reducible refine Frame.upd ?_ ?_ ?_; fail_if_success with_reducible exact ChangesOnly.refl)
    | with_reducible exact Frame.refl | with_reducible assumption
    | (with_reducible apply Frame.step State.at__frame; case k => decide)
    | (with_reducible apply Frame.step State.recvSend_frame; case k => decide)
    | (with_reducible apply Frame.step State.closeByNode_frame; case k => decide) | split)

theorem State.runHeld_frame {s : State} {slot : Nat} {m : RxMsg} :
    Frame [.regs, .itin, .reqs, .ctxs, .engines, .tiles, .locals, .conns, .links, .comp, .tier, .sec, .health, .power, .dbg, .out, .free] s (State.runHeld s slot m) := by
  unfold State.runHeld
  repeat' (first
    | (lift_lets; intro x; refine Frame.cut x ?_ (fun hx => ?_); rotate_left; clear_value x)
    | (lift_lets; intro x; with_reducible refine Frame.trans Frame.refl ?_)
    | (with_reducible refine Frame.upd ?_ ?_ ?_; fail_if_success with_reducible exact ChangesOnly.refl)
    | with_reducible exact Frame.refl | with_reducible assumption
    | (with_reducible apply Frame.step State.msgDone_frame; case k => decide)
    | (with_reducible apply Frame.step State.xwrite_frame; case k => decide)
    | (with_reducible apply Frame.step State.serveRead_frame; case k => decide)
    | (with_reducible apply Frame.step State.onSend_frame; case k => decide)
    | (with_reducible apply Frame.step State.bump_frame; case k => decide)
    | (with_reducible apply Frame.step State.runAtomic_frame; case k => decide)
    | (with_reducible apply Frame.step State.runBell_frame; case k => decide) | with_reducible refine Frame.ite ?_ ?_ | split)

theorem execReleaseMessageExecute_frame {t slot msg : Nat} {s : State} :
    Answers [.now, .regs, .itin, .reqs, .ctxs, .engines, .tiles, .locals, .conns, .links, .comp, .tier, .sec, .health, .power, .dbg, .out, .free] s (execReleaseMessageExecute t slot msg s) := by
  unfold execReleaseMessageExecute
  repeat' (first
    | (lift_lets; intro x; refine Answers.cut x ?_ (fun hx => ?_); rotate_left; clear_value x)
    | (lift_lets; intro x; refine Frame.cut x ?_ (fun hx => ?_); rotate_left; clear_value x)
    | (lift_lets; intro x; with_reducible refine Frame.trans Frame.refl ?_) | with_reducible refine Answers.next ?_
    | with_reducible refine Answers.ite ?_ ?_
    | (with_reducible refine Frame.upd ?_ ?_ ?_; fail_if_success with_reducible exact ChangesOnly.refl)
    | with_reducible exact Frame.refl | with_reducible assumption
    | (with_reducible apply Frame.step State.at__frame; case k => decide)
    | (with_reducible apply Frame.step State.runHeld_frame; case k => decide) | with_reducible refine Frame.ite ?_ ?_ | split)

end Sys2Proof.Machine
end

