-- ==== Sys2Proof/Laws/AssaysFrames.lean ====
section
/-! SUPPORT. What each operation of Machine/Assays.lean may change, and that it keeps the invariant of Safety.lean. -/
namespace Sys2Proof.Machine

theorem State.newAssay_frame {s : State} {w : Work} {held : Bool} {opcode block page rowFirst : Nat} {p : Page} {sp : Spec} :
    Frame [.regs, .health] s (State.newAssay s w held opcode block page rowFirst p sp).2 := by
  unfold State.newAssay
  repeat' (first
    | (lift_lets; intro x; refine Frame.cut x ?_ (fun hx => ?_); rotate_left; clear_value x)
    | (lift_lets; intro x; with_reducible refine Frame.trans Frame.refl ?_)
    | (with_reducible refine Frame.upd ?_ ?_ ?_; fail_if_success with_reducible exact ChangesOnly.refl)
    | with_reducible exact Frame.refl | with_reducible assumption
    | (with_reducible apply Frame.step State.bump_frame; case k => decide)
    | (with_reducible apply Frame.step State.countAssays_frame; case k => decide) | with_reducible refine Frame.ite ?_ ?_
    | (intro p hp; cases p <;> first | exact absurd hp (by decide) | rfl) | (intro h; exact h.of_eq rfl rfl rfl rfl) | split)

theorem State.sample_frame {s : State} {w : Work} {block opcode : Nat} {hold : Bool} {ks : List TaskKind} :
    Frame [.regs, .health] s (State.sample s w block opcode hold ks).2 := by
  unfold State.sample
  repeat' (first
    | (lift_lets; intro x; refine Frame.cut x ?_ (fun hx => ?_); rotate_left; clear_value x)
    | (lift_lets; intro x; with_reducible refine Frame.trans Frame.refl ?_)
    | (with_reducible refine Frame.upd ?_ ?_ ?_; fail_if_success with_reducible exact ChangesOnly.refl)
    | with_reducible exact Frame.refl | with_reducible assumption
    | (with_reducible apply Frame.step State.newAssay_frame; case k => decide) | with_reducible refine Frame.ite ?_ ?_
    | with_reducible refine Frame.foldl (fun _ _ => ?_) ?_ | with_reducible refine Frame.foldl_snd (fun _ _ => ?_) ?_
    | with_reducible refine Frame.of_pair (by assumption) ?_ | split | dsimp only)

theorem State.modAssay_frame {s : State} {id : Nat} {f : Assay → Assay} :
    Frame [.health] s (State.modAssay s id f) := by
  unfold State.modAssay
  repeat' (first
    | (with_reducible refine Frame.upd ?_ ?_ ?_; fail_if_success with_reducible exact ChangesOnly.refl)
    | with_reducible exact Frame.refl | (intro p hp; cases p <;> first | exact absurd hp (by decide) | rfl)
    | (intro h; exact h.of_eq rfl rfl rfl rfl))

theorem State.dropAssay_frame {s : State} {id : Nat} :
    Frame [.regs, .health] s (State.dropAssay s id) := by
  unfold State.dropAssay
  repeat' (first
    | (with_reducible refine Frame.upd ?_ ?_ ?_; fail_if_success with_reducible exact ChangesOnly.refl)
    | with_reducible exact Frame.refl | (with_reducible apply Frame.step State.countAssays_frame; case k => decide)
    | (intro p hp; cases p <;> first | exact absurd hp (by decide) | rfl) | (intro h; exact h.of_eq rfl rfl rfl rfl))

theorem State.assayRecord_frame {s : State} {a : Assay} {row elem attr : Nat} {u : UnitId} :
    Frame [.regs, .health, .free] s (State.assayRecord s a row elem attr u) := by
  unfold State.assayRecord
  repeat' (first
    | (with_reducible refine Frame.upd ?_ ?_ ?_; fail_if_success with_reducible exact ChangesOnly.refl)
    | with_reducible exact Frame.refl | (with_reducible apply Frame.step errRecord_frame; case k => decide))

theorem State.assayReleased_frame {s : State} {a : Assay} :
    Frame [.regs, .itin, .reqs, .ctxs, .engines, .tiles, .locals, .conns, .links, .comp, .tier, .health, .dbg, .out, .free] s (State.assayReleased s a) := by
  unfold State.assayReleased
  repeat' (first
    | (with_reducible refine Frame.upd ?_ ?_ ?_; fail_if_success with_reducible exact ChangesOnly.refl)
    | with_reducible exact Frame.refl | (with_reducible apply Frame.step State.completeAttend_frame; case k => decide)
    | (with_reducible apply Frame.step State.publish_frame; case k => decide)
    | (with_reducible apply Frame.step State.runSub_frame; case k => decide) | split)

theorem State.assayFails_frame {s : State} {a : Assay} :
    Frame [.itin, .reqs, .ctxs, .engines, .locals, .conns, .links, .comp, .health, .dbg, .out] s (State.assayFails s a) := by
  unfold State.assayFails
  repeat' (first
    | (with_reducible refine Frame.upd ?_ ?_ ?_; fail_if_success with_reducible exact ChangesOnly.refl)
    | with_reducible exact Frame.refl | (with_reducible apply Frame.step State.failReq_frame; case k => decide)
    | (with_reducible apply Frame.step State.sendPartial_frame; case k => decide) | split)

theorem State.compareAssay_frame {s : State} {a : Assay} {diff : Option (Nat × Nat)} :
    Frame [.regs, .itin, .reqs, .ctxs, .engines, .tiles, .locals, .conns, .links, .comp, .tier, .health, .dbg, .out, .free] s (State.compareAssay s a diff) := by
  unfold State.compareAssay
  repeat' (first
    | (lift_lets; intro x; refine Frame.cut x ?_ (fun hx => ?_); rotate_left; clear_value x)
    | (lift_lets; intro x; with_reducible refine Frame.trans Frame.refl ?_)
    | (with_reducible refine Frame.upd ?_ ?_ ?_; fail_if_success with_reducible exact ChangesOnly.refl)
    | with_reducible exact Frame.refl | with_reducible assumption
    | (with_reducible apply Frame.step State.bump_frame; case k => decide)
    | (with_reducible apply Frame.step State.dropAssay_frame; case k => decide)
    | (with_reducible apply Frame.step State.assayReleased_frame; case k => decide)
    | (with_reducible apply Frame.step State.assayRecord_frame; case k => decide)
    | (with_reducible apply Frame.step State.modAssay_frame; case k => decide)
    | (with_reducible apply Frame.step State.assayFails_frame; case k => decide)
    | (with_reducible apply Frame.step State.countAssays_frame; case k => decide) | with_reducible refine Frame.ite ?_ ?_ | split)

theorem execAssayCompare_frame {t assay : Nat} {diff : Option (Nat × Nat)} {s : State} :
    Answers [.now, .regs, .itin, .reqs, .ctxs, .engines, .tiles, .locals, .conns, .links, .comp, .tier, .health, .dbg, .out, .free] s (execAssayCompare t assay diff s) := by
  unfold execAssayCompare
  repeat' (first
    | (lift_lets; intro x; refine Answers.cut x ?_ (fun hx => ?_); rotate_left; clear_value x)
    | (lift_lets; intro x; refine Frame.cut x ?_ (fun hx => ?_); rotate_left; clear_value x)
    | (lift_lets; intro x; with_reducible refine Frame.trans Frame.refl ?_) | with_reducible refine Answers.next ?_
    | with_reducible refine Answers.ite ?_ ?_
    | (with_reducible refine Frame.upd ?_ ?_ ?_; fail_if_success with_reducible exact ChangesOnly.refl)
    | with_reducible exact Frame.refl | with_reducible assumption
    | (with_reducible apply Frame.step State.at__frame; case k => decide)
    | (with_reducible apply Frame.step State.compareAssay_frame; case k => decide) | with_reducible refine Frame.ite ?_ ?_ | split)

theorem State.attribute_frame {s : State} {u : UnitId} :
    Frame [.regs, .ctxs, .health, .free] s (State.attribute s u) := by
  unfold State.attribute
  repeat' (first
    | (lift_lets; intro x; refine Frame.cut x ?_ (fun hx => ?_); rotate_left; clear_value x)
    | (lift_lets; intro x; with_reducible refine Frame.trans Frame.refl ?_)
    | (with_reducible refine Frame.upd ?_ ?_ ?_; fail_if_success with_reducible exact ChangesOnly.refl)
    | with_reducible exact Frame.refl | with_reducible assumption
    | (with_reducible apply Frame.step State.disableEngine_frame; case k => decide)
    | (with_reducible apply Frame.step State.degradeMark_frame; case k => decide)
    | (with_reducible apply Frame.step errRecord_frame; case k => decide)
    | (with_reducible apply Frame.step State.wrBit_frame; case k => decide) | with_reducible refine Frame.ite ?_ ?_
    | (intro p hp; cases p <;> first | exact absurd hp (by decide) | rfl) | (intro h; exact h.of_eq rfl rfl rfl rfl) | split)

theorem State.attributeAssay_frame {s : State} {a : Assay} {row elem : Nat} {equalsFirst equalsSecond : Bool} :
    Frame [.regs, .ctxs, .health, .free] s (State.attributeAssay s a row elem equalsFirst equalsSecond) := by
  unfold State.attributeAssay
  repeat' (first
    | (lift_lets; intro x; refine Frame.cut x ?_ (fun hx => ?_); rotate_left; clear_value x)
    | (lift_lets; intro x; with_reducible refine Frame.trans Frame.refl ?_)
    | (with_reducible refine Frame.upd ?_ ?_ ?_; fail_if_success with_reducible exact ChangesOnly.refl)
    | with_reducible exact Frame.refl | with_reducible assumption
    | (with_reducible apply Frame.step State.dropAssay_frame; case k => decide)
    | (with_reducible apply Frame.step State.attribute_frame; case k => decide)
    | (with_reducible apply Frame.step State.assayRecord_frame; case k => decide)
    | (with_reducible apply Frame.step State.bump_frame; case k => decide) | split)

theorem execAssayAttribution_frame {t assay : Nat} {equalsFirst equalsSecond : Bool} {s : State} :
    Answers [.now, .regs, .ctxs, .health, .free] s (execAssayAttribution t assay equalsFirst equalsSecond s) := by
  unfold execAssayAttribution
  repeat' (first
    | (lift_lets; intro x; refine Answers.cut x ?_ (fun hx => ?_); rotate_left; clear_value x)
    | (lift_lets; intro x; refine Frame.cut x ?_ (fun hx => ?_); rotate_left; clear_value x)
    | (lift_lets; intro x; with_reducible refine Frame.trans Frame.refl ?_) | with_reducible refine Answers.next ?_
    | with_reducible refine Answers.ite ?_ ?_
    | (with_reducible refine Frame.upd ?_ ?_ ?_; fail_if_success with_reducible exact ChangesOnly.refl)
    | with_reducible exact Frame.refl | with_reducible assumption
    | (with_reducible apply Frame.step State.at__frame; case k => decide)
    | (with_reducible apply Frame.step State.attributeAssay_frame; case k => decide) | with_reducible refine Frame.ite ?_ ?_ | split)

theorem execHealthAssayWrite_frame {t : Nat} {v : Word} {s : State} :
    Answers [.now, .regs, .staged, .health, .free] s (execHealthAssayWrite t v s) := by
  unfold execHealthAssayWrite
  repeat' (first
    | (lift_lets; intro x; refine Answers.cut x ?_ (fun hx => ?_); rotate_left; clear_value x)
    | (lift_lets; intro x; refine Frame.cut x ?_ (fun hx => ?_); rotate_left; clear_value x)
    | (lift_lets; intro x; with_reducible refine Frame.trans Frame.refl ?_) | with_reducible refine Answers.next ?_
    | with_reducible refine Answers.ite ?_ ?_
    | (with_reducible refine Frame.upd ?_ ?_ ?_; fail_if_success with_reducible exact ChangesOnly.refl)
    | with_reducible exact Frame.refl | with_reducible assumption
    | (with_reducible apply Frame.step State.at__frame; case k => decide)
    | (with_reducible apply Frame.step State.draw_frame; case k => decide)
    | (with_reducible apply Frame.step State.writeStaged_frame; case k => decide) | with_reducible refine Frame.ite ?_ ?_
    | (intro p hp; cases p <;> first | exact absurd hp (by decide) | rfl) | (intro h; exact h.of_eq rfl rfl rfl rfl)
    | with_reducible refine Frame.of_pair (by assumption) ?_ | split | dsimp only)

theorem execHealthTilefClear_frame {t n : Nat} {v : Word} {s : State} :
    Answers [.now, .regs, .health] s (execHealthTilefClear t n v s) := by
  unfold execHealthTilefClear
  repeat' (first
    | (lift_lets; intro x; refine Answers.cut x ?_ (fun hx => ?_); rotate_left; clear_value x)
    | (lift_lets; intro x; refine Frame.cut x ?_ (fun hx => ?_); rotate_left; clear_value x)
    | (lift_lets; intro x; with_reducible refine Frame.trans Frame.refl ?_) | with_reducible refine Answers.next ?_
    | with_reducible refine Answers.ite ?_ ?_
    | (with_reducible refine Frame.upd ?_ ?_ ?_; fail_if_success with_reducible exact ChangesOnly.refl)
    | with_reducible exact Frame.refl | with_reducible assumption
    | (with_reducible apply Frame.step State.at__frame; case k => decide)
    | (with_reducible apply Frame.step State.wr_frame; case k => decide) | with_reducible refine Frame.ite ?_ ?_
    | (intro p hp; cases p <;> first | exact absurd hp (by decide) | rfl) | (intro h; exact h.of_eq rfl rfl rfl rfl) | split)

end Sys2Proof.Machine
end

