-- ==== Sys2Proof/Laws/AdmitFrames.lean ====
section
/-! SUPPORT. What each operation of Machine/Admit.lean may change, and that it keeps the invariant of Safety.lean. -/
namespace Sys2Proof.Machine

theorem State.admitConv_frame {s : State} {r : Req} {p : Profile} {n : Nat} :
    Frame [.ctxs] s (State.admitConv s r p n) := by
  unfold State.admitConv
  repeat' (first
    | (lift_lets; intro x; refine Frame.cut x ?_ (fun hx => ?_); rotate_left; clear_value x)
    | (lift_lets; intro x; with_reducible refine Frame.trans Frame.refl ?_)
    | (with_reducible refine Frame.upd ?_ ?_ ?_; fail_if_success with_reducible exact ChangesOnly.refl)
    | with_reducible exact Frame.refl | with_reducible assumption
    | (with_reducible refine Frame.step (State.modCtx_frame ?_) (by decide) ?_) | with_reducible refine Frame.ite ?_ ?_
    | with_reducible refine Frame.foldl (fun _ _ => ?_) ?_ | with_reducible refine Frame.foldl_snd (fun _ _ => ?_) ?_
    | exact KeepsCtx.mk (fun _ h => h) (fun _ h => h) | split | dsimp only)

theorem State.bindReq_frame {s : State} {r : Req} {p : Profile} :
    Frame [.itin, .reqs, .ctxs, .engines, .locals, .conns, .links, .health, .dbg, .out] s (State.bindReq s r p) := by
  unfold State.bindReq
  repeat' (first
    | (lift_lets; intro x; refine Frame.cut x ?_ (fun hx => ?_); rotate_left; clear_value x)
    | (lift_lets; intro x; with_reducible refine Frame.trans Frame.refl ?_)
    | (with_reducible refine Frame.upd ?_ ?_ ?_; fail_if_success with_reducible exact ChangesOnly.refl)
    | with_reducible exact Frame.refl | with_reducible assumption
    | (with_reducible apply Frame.step State.admitConv_frame; case k => decide)
    | (with_reducible apply Frame.step State.modReq_frame; case k => decide)
    | (with_reducible apply Frame.step State.finishAll_frame; case k => decide) | with_reducible refine Frame.ite ?_ ?_
    | (simp only [x]; split) | split)

theorem State.admittedWord_frame {s : State} {r : Req} :
    Frame [.itin, .reqs, .ctxs, .conns, .links, .dbg, .out] s (State.admittedWord s r) := by
  unfold State.admittedWord
  repeat' (first
    | (with_reducible refine Frame.upd ?_ ?_ ?_; fail_if_success with_reducible exact ChangesOnly.refl)
    | with_reducible exact Frame.refl | (with_reducible apply Frame.step State.modReq_frame; case k => decide)
    | (with_reducible apply Frame.step State.status_frame; case k => decide) | with_reducible refine Frame.ite ?_ ?_ | split)

theorem State.planFrame_frame {s : State} {ctx : Nat} {c : Cls} {reserved : Bool} {f : PlanFrame} :
    Frame [.itin] s (State.planFrame s ctx c reserved f).2 := by
  unfold State.planFrame
  repeat' (first
    | (lift_lets; intro x; refine Frame.cut x ?_ (fun hx => ?_); rotate_left; clear_value x)
    | (lift_lets; intro x; with_reducible refine Frame.trans Frame.refl ?_)
    | (with_reducible refine Frame.upd ?_ ?_ ?_; fail_if_success with_reducible exact ChangesOnly.refl)
    | with_reducible exact Frame.refl | with_reducible assumption | with_reducible refine Frame.ite ?_ ?_
    | (intro p hp; cases p <;> first | exact absurd hp (by decide) | rfl) | (intro h; exact h.of_eq rfl rfl rfl rfl) | split)

theorem State.planFrames_frame {s : State} {ctx : Nat} {c : Cls} {reserved : Bool} {fs : List PlanFrame} :
    Frame [.itin] s (State.planFrames s ctx c reserved fs).2 := by
  unfold State.planFrames
  repeat' (first
    | (lift_lets; intro x; refine Frame.cut x ?_ (fun hx => ?_); rotate_left; clear_value x)
    | (lift_lets; intro x; with_reducible refine Frame.trans Frame.refl ?_)
    | (with_reducible refine Frame.upd ?_ ?_ ?_; fail_if_success with_reducible exact ChangesOnly.refl)
    | with_reducible exact Frame.refl | with_reducible assumption
    | (with_reducible apply Frame.step State.planFrame_frame; case k => decide)
    | with_reducible refine Frame.foldl (fun _ _ => ?_) ?_ | with_reducible refine Frame.foldl_snd (fun _ _ => ?_) ?_
    | with_reducible refine Frame.of_pair (by assumption) ?_ | dsimp only)

theorem State.owedFrames_frame {s : State} :
    Frame [.itin] s (State.owedFrames s) := by
  unfold State.owedFrames
  repeat' (first
    | (lift_lets; intro x; refine Frame.cut x ?_ (fun hx => ?_); rotate_left; clear_value x)
    | (lift_lets; intro x; with_reducible refine Frame.trans Frame.refl ?_)
    | (with_reducible refine Frame.upd ?_ ?_ ?_; fail_if_success with_reducible exact ChangesOnly.refl)
    | with_reducible exact Frame.refl | with_reducible assumption
    | (with_reducible apply Frame.step State.planFrames_frame; case k => decide) | with_reducible refine Frame.ite ?_ ?_
    | with_reducible refine Frame.foldl (fun _ _ => ?_) ?_ | with_reducible refine Frame.foldl_snd (fun _ _ => ?_) ?_
    | (simp only [x]; split) | with_reducible refine Frame.of_pair (by assumption) ?_ | split | dsimp only)

/-- The state of a competitor looked at. -/
def Prep.state : Prep → State
  | .ended s => s
  | .go t => t.s

theorem Prep.ended_frame {ps : List Part} {s t : State} (h : Frame ps s t) : Frame ps s (Prep.ended t).state := h

theorem Prep.go_frame {ps : List Part} {s t : State} {work kinds frames rows cost} (h : Frame ps s t) :
    Frame ps s (Prep.go ⟨t, work, kinds, frames, rows, cost⟩).state := h

theorem State.prepReq_frame {s : State} {id block : Nat} :
    Frame [.regs, .itin, .reqs, .ctxs, .engines, .locals, .conns, .links, .health, .dbg, .out] s (State.prepReq s id block).state := by
  unfold State.prepReq
  repeat' (first
    | (lift_lets; intro x; refine Frame.cut x ?_ (fun hx => ?_); rotate_left; clear_value x)
    | (lift_lets; intro x; with_reducible refine Frame.trans Frame.refl ?_) | with_reducible refine Prep.ended_frame ?_
    | with_reducible refine Prep.go_frame ?_
    | (with_reducible refine Frame.upd ?_ ?_ ?_; fail_if_success with_reducible exact ChangesOnly.refl)
    | with_reducible exact Frame.refl | with_reducible assumption
    | (with_reducible apply Frame.step State.failReq_frame; case k => decide)
    | (with_reducible apply Frame.step State.bindReq_frame; case k => decide)
    | (with_reducible apply Frame.step State.sample_frame; case k => decide) | with_reducible refine Frame.ite ?_ ?_
    | (simp only [x]; split) | with_reducible refine Frame.of_pair (by assumption) ?_ | split | dsimp only | split)

theorem State.noteSub_frame {s : State} {q : SubReq} :
    Frame [.ctxs, .tier] s (State.noteSub s q) := by
  unfold State.noteSub
  repeat' (first
    | (lift_lets; intro x; refine Frame.cut x ?_ (fun hx => ?_); rotate_left; clear_value x)
    | (lift_lets; intro x; with_reducible refine Frame.trans Frame.refl ?_)
    | (with_reducible refine Frame.upd ?_ ?_ ?_; fail_if_success with_reducible exact ChangesOnly.refl)
    | with_reducible exact Frame.refl | with_reducible assumption
    | (with_reducible apply Frame.step State.learnPage_frame; case k => decide)
    | (with_reducible refine Frame.step (State.modCtx_frame ?_) (by decide) ?_) | with_reducible refine Frame.ite ?_ ?_
    | with_reducible refine Frame.foldl (fun _ _ => ?_) ?_ | with_reducible refine Frame.foldl_snd (fun _ _ => ?_) ?_
    | exact KeepsCtx.mk (fun _ h => h) (fun _ h => h) | split | dsimp only)

theorem State.prepSub_frame {s : State} {id : Nat} :
    Frame [.regs, .itin, .ctxs, .conns, .links, .comp, .tier, .health, .dbg, .out] s (State.prepSub s id).state := by
  unfold State.prepSub
  repeat' (first
    | (lift_lets; intro x; refine Frame.cut x ?_ (fun hx => ?_); rotate_left; clear_value x)
    | (lift_lets; intro x; with_reducible refine Frame.trans Frame.refl ?_) | with_reducible refine Prep.ended_frame ?_
    | with_reducible refine Prep.go_frame ?_
    | (with_reducible refine Frame.upd ?_ ?_ ?_; fail_if_success with_reducible exact ChangesOnly.refl)
    | with_reducible exact Frame.refl | with_reducible assumption
    | (with_reducible apply Frame.step State.sendPartial_frame; case k => decide)
    | (with_reducible apply Frame.step State.noteSub_frame; case k => decide)
    | (with_reducible apply Frame.step State.sample_frame; case k => decide) | with_reducible refine Frame.ite ?_ ?_
    | (intro p hp; cases p <;> first | exact absurd hp (by decide) | rfl) | (intro h; exact h.of_eq rfl rfl rfl rfl)
    | (simp only [x]; split) | with_reducible refine Frame.of_pair (by assumption) ?_ | split | dsimp only | split)

theorem State.prepAssay_frame {s : State} {id : Nat} :
    Frame [.regs, .health] s (State.prepAssay s id).state := by
  unfold State.prepAssay
  repeat' (first
    | (with_reducible refine Frame.upd ?_ ?_ ?_; fail_if_success with_reducible exact ChangesOnly.refl)
    | with_reducible exact Frame.refl | with_reducible refine Prep.ended_frame ?_ | with_reducible refine Prep.go_frame ?_
    | (with_reducible apply Frame.step State.dropAssay_frame; case k => decide)
    | (with_reducible apply Frame.step State.modAssay_frame; case k => decide) | split | split)

theorem State.prepKeep_frame {s : State} {id cls : Nat} :
    Frame [.itin] s (State.prepKeep s id cls).state := by
  unfold State.prepKeep
  repeat' (first
    | (lift_lets; intro x; refine Frame.cut x ?_ (fun hx => ?_); rotate_left; clear_value x)
    | (lift_lets; intro x; with_reducible refine Frame.trans Frame.refl ?_) | with_reducible refine Prep.ended_frame ?_
    | with_reducible refine Prep.go_frame ?_
    | (with_reducible refine Frame.upd ?_ ?_ ?_; fail_if_success with_reducible exact ChangesOnly.refl)
    | with_reducible exact Frame.refl | with_reducible assumption | with_reducible refine Frame.ite ?_ ?_
    | (intro p hp; cases p <;> first | exact absurd hp (by decide) | rfl) | (intro h; exact h.of_eq rfl rfl rfl rfl) | split | split)

theorem State.prep_frame {s : State} {c : Cand} :
    Frame [.regs, .itin, .reqs, .ctxs, .engines, .locals, .conns, .links, .comp, .tier, .health, .dbg, .out] s (s.prep c).state := by
  unfold State.prep
  split
  · exact Frame.mono State.prepReq_frame (by decide)
  · exact Frame.mono State.prepSub_frame (by decide)
  · exact Frame.mono State.prepAssay_frame (by decide)
  · exact Frame.mono State.prepKeep_frame (by decide)

theorem State.charge_frame {s : State} {c : Cand} {cls cost : Nat} :
    Frame [.itin, .ctxs] s (State.charge s c cls cost) := by
  unfold State.charge
  repeat' (first
    | (lift_lets; intro x; refine Frame.cut x ?_ (fun hx => ?_); rotate_left; clear_value x)
    | (lift_lets; intro x; with_reducible refine Frame.trans Frame.refl ?_)
    | (with_reducible refine Frame.upd ?_ ?_ ?_; fail_if_success with_reducible exact ChangesOnly.refl)
    | with_reducible exact Frame.refl | with_reducible assumption
    | (with_reducible refine Frame.step (State.modCtx_frame ?_) (by decide) ?_) | with_reducible refine Frame.ite ?_ ?_
    | (intro p hp; cases p <;> first | exact absurd hp (by decide) | rfl) | (intro h; exact h.of_eq rfl rfl rfl rfl)
    | exact KeepsCtx.mk (fun _ h => h) (fun _ h => h) | split)

theorem State.holdContinuation_frame {s : State} {w : Work} {block gate : Nat} :
    Frame [.itin] s (State.holdContinuation s w block gate) := by
  unfold State.holdContinuation
  repeat' (first
    | (with_reducible refine Frame.upd ?_ ?_ ?_; fail_if_success with_reducible exact ChangesOnly.refl)
    | with_reducible exact Frame.refl | (with_reducible apply Frame.step State.wait_frame; case k => decide)
    | (with_reducible apply Frame.step State.tookTask_frame; case k => decide) | with_reducible refine Frame.ite ?_ ?_
    | with_reducible refine Frame.foldl (fun _ _ => ?_) ?_ | with_reducible refine Frame.foldl_snd (fun _ _ => ?_) ?_ | split
    | dsimp only)

theorem State.placedReq_frame {s : State} {w : Work} {id block gate : Nat} :
    Frame [.itin, .reqs, .ctxs, .conns, .links, .dbg, .out] s (State.placedReq s w id block gate) := by
  unfold State.placedReq
  repeat' (first
    | (lift_lets; intro x; refine Frame.cut x ?_ (fun hx => ?_); rotate_left; clear_value x)
    | (lift_lets; intro x; with_reducible refine Frame.trans Frame.refl ?_)
    | (with_reducible refine Frame.upd ?_ ?_ ?_; fail_if_success with_reducible exact ChangesOnly.refl)
    | with_reducible exact Frame.refl | with_reducible assumption
    | (with_reducible apply Frame.step State.admittedWord_frame; case k => decide)
    | (with_reducible apply Frame.step State.holdContinuation_frame; case k => decide)
    | (with_reducible apply Frame.step State.modReq_frame; case k => decide) | with_reducible refine Frame.ite ?_ ?_ | split)

theorem State.dropImage_frame {s : State} :
    Frame [.nv] s (State.dropImage s) := by
  unfold State.dropImage
  repeat' (first
    | (with_reducible refine Frame.upd ?_ ?_ ?_; fail_if_success with_reducible exact ChangesOnly.refl)
    | with_reducible exact Frame.refl | (intro p hp; cases p <;> first | exact absurd hp (by decide) | rfl)
    | (intro h; exact h.of_eq rfl rfl rfl rfl))

theorem State.place_frame {s : State} {w : Work} {reserved : Bool} {ks : List TaskKind} {fs : List PlanFrame} :
    Frame [.itin, .engines, .health] s (State.place s w reserved ks fs).2 := by
  unfold State.place
  repeat' (first
    | (lift_lets; intro x; refine Frame.cut x ?_ (fun hx => ?_); rotate_left; clear_value x)
    | (lift_lets; intro x; with_reducible refine Frame.trans Frame.refl ?_)
    | (with_reducible refine Frame.upd ?_ ?_ ?_; fail_if_success with_reducible exact ChangesOnly.refl)
    | with_reducible exact Frame.refl | with_reducible assumption
    | (with_reducible apply Frame.step State.fixAssays_frame; case k => decide)
    | (with_reducible apply Frame.step State.placeAll_frame; case k => decide)
    | (with_reducible apply Frame.step State.planFrames_frame; case k => decide)
    | with_reducible refine Frame.of_pair (by assumption) ?_)

theorem State.emptyTick_frame {s : State} :
    Frame [.itin, .links] s (State.emptyTick s) := by
  unfold State.emptyTick
  repeat' (first
    | (with_reducible refine Frame.upd ?_ ?_ ?_; fail_if_success with_reducible exact ChangesOnly.refl)
    | with_reducible exact Frame.refl | (intro p hp; cases p <;> first | exact absurd hp (by decide) | rfl)
    | (intro h; exact h.of_eq rfl rfl rfl rfl))

theorem Try.put_frame {t : Try} {c : Cand} {reserved : Bool} {cls : Nat} :
    Frame [.regs, .itin, .reqs, .ctxs, .engines, .conns, .links, .health, .dbg, .nv, .out] t.s (Try.put t c reserved cls) := by
  unfold Try.put
  repeat' (first
    | (lift_lets; intro x; refine Frame.cut x ?_ (fun hx => ?_); rotate_left; clear_value x)
    | (lift_lets; intro x; with_reducible refine Frame.trans Frame.refl ?_)
    | (with_reducible refine Frame.upd ?_ ?_ ?_; fail_if_success with_reducible exact ChangesOnly.refl)
    | with_reducible exact Frame.refl | with_reducible assumption
    | (with_reducible apply Frame.step State.place_frame; case k => decide)
    | (with_reducible apply Frame.step State.placedReq_frame; case k => decide)
    | (with_reducible apply Frame.step State.holdContinuation_frame; case k => decide)
    | (with_reducible apply Frame.step State.bump_frame; case k => decide)
    | (with_reducible apply Frame.step State.dropImage_frame; case k => decide)
    | (with_reducible apply Frame.step State.charge_frame; case k => decide) | with_reducible refine Frame.ite ?_ ?_
    | (simp only [x]; split) | with_reducible refine Frame.of_pair (by assumption) ?_ | split)

theorem State.reservedCtx_frame {s : State} {cls ctx count y4 : Nat} :
    Frame [.regs, .itin, .reqs, .ctxs, .engines, .locals, .conns, .links, .comp, .tier, .health, .dbg, .nv, .out] s (State.reservedCtx s cls ctx count y4) := by
  induction y4 generalizing s count with
  | zero => exact .refl
  | succ n ih =>
    unfold State.reservedCtx
    split
    · rename_i c p _ _
      have h : Frame [.regs, .itin, .reqs, .ctxs, .engines, .locals, .conns, .links, .comp, .tier, .health, .dbg, .nv, .out] s (s.prep c).state := Frame.mono State.prep_frame (by decide)
      split
      · exact .refl
      · split
        · rename_i e
          rw [e] at h
          exact h.trans ih
        · rename_i e
          rw [e] at h
          refine .ite .refl ?_
          exact h.trans ((Frame.mono Try.put_frame (by decide)).trans ih)
    · exact .refl

theorem State.reservedPass_frame {s : State} {cls : Nat} :
    Frame [.regs, .itin, .reqs, .ctxs, .engines, .locals, .conns, .links, .comp, .tier, .health, .dbg, .nv, .out] s (State.reservedPass s cls) := by
  unfold State.reservedPass
  repeat' (first
    | (with_reducible refine Frame.upd ?_ ?_ ?_; fail_if_success with_reducible exact ChangesOnly.refl)
    | with_reducible exact Frame.refl | (with_reducible apply Frame.step State.reservedCtx_frame; case k => decide)
    | with_reducible refine Frame.ite ?_ ?_ | with_reducible refine Frame.foldl (fun _ _ => ?_) ?_
    | with_reducible refine Frame.foldl_snd (fun _ _ => ?_) ?_ | split | dsimp only)

theorem State.sharedPass_frame {s : State} {cls : Nat} {skip : List CandKind} {y3 : Nat} :
    Frame [.regs, .itin, .reqs, .ctxs, .engines, .locals, .conns, .links, .comp, .tier, .health, .dbg, .nv, .out] s (State.sharedPass s cls skip y3) := by
  induction y3 generalizing s skip with
  | zero => exact .refl
  | succ n ih =>
    unfold State.sharedPass
    split
    · exact .refl
    · rename_i c _
      have h : Frame [.regs, .itin, .reqs, .ctxs, .engines, .locals, .conns, .links, .comp, .tier, .health, .dbg, .nv, .out] s (s.prep c).state := Frame.mono State.prep_frame (by decide)
      split
      · rename_i e
        rw [e] at h
        exact h.trans ih
      · rename_i e
        rw [e] at h
        refine .ite ?_ ih
        exact h.trans ((Frame.mono Try.put_frame (by decide)).trans ih)

theorem State.admitClass_frame {s : State} {cls : Nat} :
    Frame [.regs, .itin, .reqs, .ctxs, .engines, .locals, .conns, .links, .comp, .tier, .health, .dbg, .nv, .out] s (State.admitClass s cls) := by
  unfold State.admitClass
  repeat' (first
    | (lift_lets; intro x; refine Frame.cut x ?_ (fun hx => ?_); rotate_left; clear_value x)
    | (lift_lets; intro x; with_reducible refine Frame.trans Frame.refl ?_)
    | (with_reducible refine Frame.upd ?_ ?_ ?_; fail_if_success with_reducible exact ChangesOnly.refl)
    | with_reducible exact Frame.refl | with_reducible assumption
    | (with_reducible apply Frame.step State.reservedPass_frame; case k => decide)
    | (with_reducible apply Frame.step State.sharedPass_frame; case k => decide))

end Sys2Proof.Machine
end

