-- ==== Sys2Proof/Laws/RegistersFrames.lean ====
section
/-! SUPPORT. What each operation of Machine/Registers.lean may change, and that it keeps the invariant of Safety.lean. -/
namespace Sys2Proof.Machine

theorem State.writeLock_frame {s : State} {v : Word} :
    Frame [.regs, .live, .power] s (State.writeLock s v) := by
  unfold State.writeLock
  repeat' (first
    | (lift_lets; intro x; refine Frame.cut x ?_ (fun hx => ?_); rotate_left; clear_value x)
    | (lift_lets; intro x; with_reducible refine Frame.trans Frame.refl ?_)
    | (with_reducible refine Frame.upd ?_ ?_ ?_; fail_if_success with_reducible exact ChangesOnly.refl)
    | with_reducible exact Frame.refl | with_reducible assumption
    | (with_reducible apply Frame.step State.wakeUp_frame; case k => decide)
    | (with_reducible apply Frame.step State.writeNow_frame; case k => decide))

theorem State.writeWeatherSel_frame {s : State} {v : Word} :
    Frame [.regs, .live] s (State.writeWeatherSel s v) := by
  unfold State.writeWeatherSel
  repeat' (first
    | (lift_lets; intro x; refine Frame.cut x ?_ (fun hx => ?_); rotate_left; clear_value x)
    | (lift_lets; intro x; with_reducible refine Frame.trans Frame.refl ?_)
    | (with_reducible refine Frame.upd ?_ ?_ ?_; fail_if_success with_reducible exact ChangesOnly.refl)
    | with_reducible exact Frame.refl | with_reducible assumption
    | (with_reducible apply Frame.step State.writeNow_frame; case k => decide) | with_reducible refine Frame.ite ?_ ?_ | split)

theorem State.writeTcc_frame {s : State} {v : Word} :
    Frame [.ctxs] s (State.writeTcc s v) := by
  unfold State.writeTcc
  repeat' (first
    | (with_reducible refine Frame.upd ?_ ?_ ?_; fail_if_success with_reducible exact ChangesOnly.refl)
    | with_reducible exact Frame.refl | (with_reducible refine Frame.step (State.modCtx_frame ?_) (by decide) ?_)
    | with_reducible refine Frame.ite ?_ ?_ | exact KeepsCtx.mk (fun _ h => h) (fun _ h => h) | split)

theorem State.writePlain_frame {s : State} {off : Nat} {v : Word} :
    Frame [.regs, .staged, .power] s (State.writePlain s off v) := by
  unfold State.writePlain
  repeat' (first
    | (lift_lets; intro x; refine Frame.cut x ?_ (fun hx => ?_); rotate_left; clear_value x)
    | (lift_lets; intro x; with_reducible refine Frame.trans Frame.refl ?_)
    | (with_reducible refine Frame.upd ?_ ?_ ?_; fail_if_success with_reducible exact ChangesOnly.refl)
    | with_reducible exact Frame.refl | with_reducible assumption
    | (with_reducible apply Frame.step State.wakeUp_frame; case k => decide)
    | (with_reducible apply Frame.step State.writeStaged_frame; case k => decide) | with_reducible refine Frame.ite ?_ ?_
    | (simp only [x]; split) | split)

theorem execRegisterWrite_frame {t off size : Nat} {v : Word} {s : State} :
    Answers [.now, .regs, .live, .staged, .ctxs, .power] s (execRegisterWrite t off size v s) := by
  unfold execRegisterWrite
  repeat' (first
    | (lift_lets; intro x; refine Answers.cut x ?_ (fun hx => ?_); rotate_left; clear_value x)
    | (lift_lets; intro x; refine Frame.cut x ?_ (fun hx => ?_); rotate_left; clear_value x)
    | (lift_lets; intro x; with_reducible refine Frame.trans Frame.refl ?_) | with_reducible refine Answers.next ?_
    | with_reducible refine Answers.ite ?_ ?_
    | (with_reducible refine Frame.upd ?_ ?_ ?_; fail_if_success with_reducible exact ChangesOnly.refl)
    | with_reducible exact Frame.refl | with_reducible assumption
    | (with_reducible apply Frame.step State.at__frame; case k => decide)
    | (with_reducible apply Frame.step State.writeNow_frame; case k => decide)
    | (with_reducible apply Frame.step State.writeLock_frame; case k => decide)
    | (with_reducible apply Frame.step State.writeWeatherSel_frame; case k => decide)
    | (with_reducible apply Frame.step State.writeTcc_frame; case k => decide)
    | (with_reducible apply Frame.step State.writePlain_frame; case k => decide) | with_reducible refine Frame.ite ?_ ?_ | split)

theorem execSecLockSet_frame {t : Nat} {v : Word} {s : State} :
    Answers [.now, .regs, .live, .power] s (execSecLockSet t v s) := by
  unfold execSecLockSet
  repeat' (first
    | (lift_lets; intro x; refine Answers.cut x ?_ (fun hx => ?_); rotate_left; clear_value x)
    | (lift_lets; intro x; refine Frame.cut x ?_ (fun hx => ?_); rotate_left; clear_value x)
    | (lift_lets; intro x; with_reducible refine Frame.trans Frame.refl ?_) | with_reducible refine Answers.next ?_
    | with_reducible refine Answers.ite ?_ ?_
    | (with_reducible refine Frame.upd ?_ ?_ ?_; fail_if_success with_reducible exact ChangesOnly.refl)
    | with_reducible exact Frame.refl | with_reducible assumption
    | (with_reducible apply Frame.step State.at__frame; case k => decide)
    | (with_reducible apply Frame.step State.writeLock_frame; case k => decide) | with_reducible refine Frame.ite ?_ ?_ | split)

theorem State.rwl_frame {s : State} {off : Nat} {v : Word} :
    Frame [.regs, .live] s (State.rwl s off v) := by
  unfold State.rwl
  repeat' (first
    | (lift_lets; intro x; refine Frame.cut x ?_ (fun hx => ?_); rotate_left; clear_value x)
    | (lift_lets; intro x; with_reducible refine Frame.trans Frame.refl ?_)
    | (with_reducible refine Frame.upd ?_ ?_ ?_; fail_if_success with_reducible exact ChangesOnly.refl)
    | with_reducible exact Frame.refl | with_reducible assumption
    | (with_reducible apply Frame.step State.bump_frame; case k => decide)
    | (with_reducible apply Frame.step State.writeNow_frame; case k => decide) | with_reducible refine Frame.ite ?_ ?_ | split)

theorem execRwlWrite_frame {t off : Nat} {v : Word} {s : State} :
    Answers [.now, .regs, .live, .power] s (execRwlWrite t off v s) := by
  unfold execRwlWrite
  repeat' (first
    | (lift_lets; intro x; refine Answers.cut x ?_ (fun hx => ?_); rotate_left; clear_value x)
    | (lift_lets; intro x; refine Frame.cut x ?_ (fun hx => ?_); rotate_left; clear_value x)
    | (lift_lets; intro x; with_reducible refine Frame.trans Frame.refl ?_) | with_reducible refine Answers.next ?_
    | with_reducible refine Answers.ite ?_ ?_
    | (with_reducible refine Frame.upd ?_ ?_ ?_; fail_if_success with_reducible exact ChangesOnly.refl)
    | with_reducible exact Frame.refl | with_reducible assumption
    | (with_reducible apply Frame.step State.at__frame; case k => decide)
    | (with_reducible apply Frame.step State.rwl_frame; case k => decide)
    | (with_reducible apply Frame.step State.wakeUp_frame; case k => decide) | with_reducible refine Frame.ite ?_ ?_ | split)

theorem execDrbgFail_frame {t : Nat} {s : State} :
    Answers [.now, .regs, .sec, .health, .free] s (execDrbgFail t s) := by
  unfold execDrbgFail
  repeat' (first
    | (lift_lets; intro x; refine Answers.cut x ?_ (fun hx => ?_); rotate_left; clear_value x)
    | (lift_lets; intro x; refine Frame.cut x ?_ (fun hx => ?_); rotate_left; clear_value x)
    | (lift_lets; intro x; with_reducible refine Frame.trans Frame.refl ?_) | with_reducible refine Answers.next ?_
    | with_reducible refine Answers.ite ?_ ?_
    | (with_reducible refine Frame.upd ?_ ?_ ?_; fail_if_success with_reducible exact ChangesOnly.refl)
    | with_reducible exact Frame.refl | with_reducible assumption
    | (with_reducible apply Frame.step State.at__frame; case k => decide)
    | (with_reducible apply Frame.step errRecord_frame; case k => decide) | with_reducible refine Frame.ite ?_ ?_
    | (intro p hp; cases p <;> first | exact absurd hp (by decide) | rfl) | (intro h; exact h.of_eq rfl rfl rfl rfl) | split)

theorem State.startScrubs_frame {s : State} :
    Frame [.itin, .sec, .free] s (State.startScrubs s) := by
  unfold State.startScrubs
  repeat' (first
    | (lift_lets; intro x; refine Frame.cut x ?_ (fun hx => ?_); rotate_left; clear_value x)
    | (lift_lets; intro x; with_reducible refine Frame.trans Frame.refl ?_)
    | (with_reducible refine Frame.upd ?_ ?_ ?_; fail_if_success with_reducible exact ChangesOnly.refl)
    | with_reducible exact Frame.refl | with_reducible assumption
    | (with_reducible apply Frame.step State.beginScrub_frame; case k => decide)
    | with_reducible refine Frame.foldl (fun _ _ => ?_) ?_ | with_reducible refine Frame.foldl_snd (fun _ _ => ?_) ?_ | dsimp only)

theorem execEntropyHealthPass_frame {t : Nat} {s : State} :
    Answers [.now, .itin, .sec, .free] s (execEntropyHealthPass t s) := by
  unfold execEntropyHealthPass
  repeat' (first
    | (lift_lets; intro x; refine Answers.cut x ?_ (fun hx => ?_); rotate_left; clear_value x)
    | (lift_lets; intro x; refine Frame.cut x ?_ (fun hx => ?_); rotate_left; clear_value x)
    | (lift_lets; intro x; with_reducible refine Frame.trans Frame.refl ?_) | with_reducible refine Answers.next ?_
    | with_reducible refine Answers.ite ?_ ?_
    | (with_reducible refine Frame.upd ?_ ?_ ?_; fail_if_success with_reducible exact ChangesOnly.refl)
    | with_reducible exact Frame.refl | with_reducible assumption
    | (with_reducible apply Frame.step State.at__frame; case k => decide)
    | (with_reducible apply Frame.step State.startScrubs_frame; case k => decide)
    | (intro p hp; cases p <;> first | exact absurd hp (by decide) | rfl) | (intro h; exact h.of_eq rfl rfl rfl rfl))

end Sys2Proof.Machine
end

