-- ==== Sys2Proof/Laws/DebugFrames.lean ====
section
/-! SUPPORT. What each operation of Machine/Debug.lean may change, and that it keeps the invariant of Safety.lean. -/
namespace Sys2Proof.Machine

theorem State.dbgGo_frame {s : State} :
    Frame [.regs, .engines, .free] s (State.dbgGo s) := by
  unfold State.dbgGo
  repeat' (first
    | (lift_lets; intro x; refine Frame.cut x ?_ (fun hx => ?_); rotate_left; clear_value x)
    | (lift_lets; intro x; with_reducible refine Frame.trans Frame.refl ?_)
    | (with_reducible refine Frame.upd ?_ ?_ ?_; fail_if_success with_reducible exact ChangesOnly.refl)
    | with_reducible exact Frame.refl | with_reducible assumption
    | (with_reducible apply Frame.step State.wr_frame; case k => decide)
    | (with_reducible apply Frame.step State.dbgData_frame; case k => decide)
    | (with_reducible apply Frame.step State.waitLease_frame; case k => decide)
    | (with_reducible apply Frame.step State.dbgCipher_frame; case k => decide) | with_reducible refine Frame.ite ?_ ?_ | split
    | dsimp only)

theorem State.writeDbg_frame {s : State} {off : Nat} {v : Word} :
    Frame [.regs, .live] s (State.writeDbg s off v) := by
  unfold State.writeDbg
  repeat' (first
    | (with_reducible refine Frame.upd ?_ ?_ ?_; fail_if_success with_reducible exact ChangesOnly.refl)
    | with_reducible exact Frame.refl | (with_reducible apply Frame.step State.writeNow_frame; case k => decide))

theorem execDbgRead_frame {t : Nat} {v : Word} {s : State} :
    Answers [.now, .regs, .live, .engines, .power, .free] s (execDbgRead t v s) := by
  unfold execDbgRead
  repeat' (first
    | (lift_lets; intro x; refine Answers.cut x ?_ (fun hx => ?_); rotate_left; clear_value x)
    | (lift_lets; intro x; refine Frame.cut x ?_ (fun hx => ?_); rotate_left; clear_value x)
    | (lift_lets; intro x; with_reducible refine Frame.trans Frame.refl ?_) | with_reducible refine Answers.next ?_
    | with_reducible refine Answers.ite ?_ ?_
    | (with_reducible refine Frame.upd ?_ ?_ ?_; fail_if_success with_reducible exact ChangesOnly.refl)
    | with_reducible exact Frame.refl | with_reducible assumption
    | (with_reducible apply Frame.step State.at__frame; case k => decide)
    | (with_reducible apply Frame.step State.dbgGo_frame; case k => decide)
    | (with_reducible apply Frame.step State.writeDbg_frame; case k => decide)
    | (with_reducible apply Frame.step State.wakeUp_frame; case k => decide) | with_reducible refine Frame.ite ?_ ?_ | split)

theorem State.armTrace_frame {s : State} {v : Word} :
    Frame [.regs, .live, .dbg] s (State.armTrace s v) := by
  unfold State.armTrace
  repeat' (first
    | (lift_lets; intro x; refine Frame.cut x ?_ (fun hx => ?_); rotate_left; clear_value x)
    | (lift_lets; intro x; with_reducible refine Frame.trans Frame.refl ?_)
    | (with_reducible refine Frame.upd ?_ ?_ ?_; fail_if_success with_reducible exact ChangesOnly.refl)
    | with_reducible exact Frame.refl | with_reducible assumption
    | (with_reducible apply Frame.step State.writeDbg_frame; case k => decide) | with_reducible refine Frame.ite ?_ ?_
    | (intro p hp; cases p <;> first | exact absurd hp (by decide) | rfl) | (intro h; exact h.of_eq rfl rfl rfl rfl) | split)

theorem execTraceArm_frame {t : Nat} {v : Word} {s : State} :
    Answers [.now, .regs, .live, .power, .dbg] s (execTraceArm t v s) := by
  unfold execTraceArm
  repeat' (first
    | (lift_lets; intro x; refine Answers.cut x ?_ (fun hx => ?_); rotate_left; clear_value x)
    | (lift_lets; intro x; refine Frame.cut x ?_ (fun hx => ?_); rotate_left; clear_value x)
    | (lift_lets; intro x; with_reducible refine Frame.trans Frame.refl ?_) | with_reducible refine Answers.next ?_
    | with_reducible refine Answers.ite ?_ ?_
    | (with_reducible refine Frame.upd ?_ ?_ ?_; fail_if_success with_reducible exact ChangesOnly.refl)
    | with_reducible exact Frame.refl | with_reducible assumption
    | (with_reducible apply Frame.step State.at__frame; case k => decide)
    | (with_reducible apply Frame.step State.armTrace_frame; case k => decide)
    | (with_reducible apply Frame.step State.wakeUp_frame; case k => decide) | with_reducible refine Frame.ite ?_ ?_ | split)

theorem execTraceEnd_frame {t : Nat} {s : State} :
    Answers [.now, .regs, .dbg] s (execTraceEnd t s) := by
  unfold execTraceEnd
  repeat' (first
    | (lift_lets; intro x; refine Answers.cut x ?_ (fun hx => ?_); rotate_left; clear_value x)
    | (lift_lets; intro x; refine Frame.cut x ?_ (fun hx => ?_); rotate_left; clear_value x)
    | (lift_lets; intro x; with_reducible refine Frame.trans Frame.refl ?_) | with_reducible refine Answers.next ?_
    | with_reducible refine Answers.ite ?_ ?_
    | (with_reducible refine Frame.upd ?_ ?_ ?_; fail_if_success with_reducible exact ChangesOnly.refl)
    | with_reducible exact Frame.refl | with_reducible assumption
    | (with_reducible apply Frame.step State.at__frame; case k => decide)
    | (with_reducible apply Frame.step State.traceStop_frame; case k => decide) | with_reducible refine Frame.ite ?_ ?_ | split)

theorem State.toggleOut_frame {s : State} {u : UnitId} {out : Bool} :
    Frame [.dbg] s (State.toggleOut s u out) := by
  unfold State.toggleOut
  repeat' (first
    | (with_reducible refine Frame.upd ?_ ?_ ?_; fail_if_success with_reducible exact ChangesOnly.refl)
    | with_reducible exact Frame.refl | with_reducible refine Frame.ite ?_ ?_
    | (intro p hp; cases p <;> first | exact absurd hp (by decide) | rfl) | (intro h; exact h.of_eq rfl rfl rfl rfl) | split)

theorem State.unitOff_frame {s : State} {v : Word} :
    Frame [.regs, .live, .dbg] s (State.unitOff s v) := by
  unfold State.unitOff
  repeat' (first
    | (lift_lets; intro x; refine Frame.cut x ?_ (fun hx => ?_); rotate_left; clear_value x)
    | (lift_lets; intro x; with_reducible refine Frame.trans Frame.refl ?_)
    | (with_reducible refine Frame.upd ?_ ?_ ?_; fail_if_success with_reducible exact ChangesOnly.refl)
    | with_reducible exact Frame.refl | with_reducible assumption
    | (with_reducible apply Frame.step State.writeDbg_frame; case k => decide)
    | (with_reducible apply Frame.step State.toggleOut_frame; case k => decide) | split)

theorem execDbgUnitTakeOut_frame {t : Nat} {v : Word} {s : State} :
    Answers [.now, .regs, .live, .power, .dbg] s (execDbgUnitTakeOut t v s) := by
  unfold execDbgUnitTakeOut
  repeat' (first
    | (lift_lets; intro x; refine Answers.cut x ?_ (fun hx => ?_); rotate_left; clear_value x)
    | (lift_lets; intro x; refine Frame.cut x ?_ (fun hx => ?_); rotate_left; clear_value x)
    | (lift_lets; intro x; with_reducible refine Frame.trans Frame.refl ?_) | with_reducible refine Answers.next ?_
    | with_reducible refine Answers.ite ?_ ?_
    | (with_reducible refine Frame.upd ?_ ?_ ?_; fail_if_success with_reducible exact ChangesOnly.refl)
    | with_reducible exact Frame.refl | with_reducible assumption
    | (with_reducible apply Frame.step State.at__frame; case k => decide)
    | (with_reducible apply Frame.step State.unitOff_frame; case k => decide)
    | (with_reducible apply Frame.step State.wakeUp_frame; case k => decide) | with_reducible refine Frame.ite ?_ ?_ | split)

theorem execDbgUnitReturn_frame {t : Nat} {v : Word} {s : State} :
    Answers [.now, .regs, .live, .power, .dbg] s (execDbgUnitReturn t v s) := by
  unfold execDbgUnitReturn
  repeat' (first
    | (lift_lets; intro x; refine Answers.cut x ?_ (fun hx => ?_); rotate_left; clear_value x)
    | (lift_lets; intro x; refine Frame.cut x ?_ (fun hx => ?_); rotate_left; clear_value x)
    | (lift_lets; intro x; with_reducible refine Frame.trans Frame.refl ?_) | with_reducible refine Answers.next ?_
    | with_reducible refine Answers.ite ?_ ?_
    | (with_reducible refine Frame.upd ?_ ?_ ?_; fail_if_success with_reducible exact ChangesOnly.refl)
    | with_reducible exact Frame.refl | with_reducible assumption
    | (with_reducible apply Frame.step State.at__frame; case k => decide)
    | (with_reducible apply Frame.step State.unitOff_frame; case k => decide)
    | (with_reducible apply Frame.step State.wakeUp_frame; case k => decide) | with_reducible refine Frame.ite ?_ ?_ | split)

theorem State.freqLimit_frame {s : State} {v : Word} :
    Frame [.regs, .staged] s (State.freqLimit s v) := by
  unfold State.freqLimit
  repeat' (first
    | (lift_lets; intro x; refine Frame.cut x ?_ (fun hx => ?_); rotate_left; clear_value x)
    | (lift_lets; intro x; with_reducible refine Frame.trans Frame.refl ?_)
    | (with_reducible refine Frame.upd ?_ ?_ ?_; fail_if_success with_reducible exact ChangesOnly.refl)
    | with_reducible exact Frame.refl | with_reducible assumption | with_reducible refine Frame.ite ?_ ?_
    | (intro p hp; cases p <;> first | exact absurd hp (by decide) | rfl) | (intro h; exact h.of_eq rfl rfl rfl rfl) | split)

theorem execDbgFreqLimitWrite_frame {t : Nat} {v : Word} {s : State} :
    Answers [.now, .regs, .staged, .power] s (execDbgFreqLimitWrite t v s) := by
  unfold execDbgFreqLimitWrite
  repeat' (first
    | (lift_lets; intro x; refine Answers.cut x ?_ (fun hx => ?_); rotate_left; clear_value x)
    | (lift_lets; intro x; refine Frame.cut x ?_ (fun hx => ?_); rotate_left; clear_value x)
    | (lift_lets; intro x; with_reducible refine Frame.trans Frame.refl ?_) | with_reducible refine Answers.next ?_
    | with_reducible refine Answers.ite ?_ ?_
    | (with_reducible refine Frame.upd ?_ ?_ ?_; fail_if_success with_reducible exact ChangesOnly.refl)
    | with_reducible exact Frame.refl | with_reducible assumption
    | (with_reducible apply Frame.step State.at__frame; case k => decide)
    | (with_reducible apply Frame.step State.freqLimit_frame; case k => decide)
    | (with_reducible apply Frame.step State.wakeUp_frame; case k => decide) | with_reducible refine Frame.ite ?_ ?_ | split)

theorem State.debugWrite_frame {s : State} {off : Nat} {v : Word} :
    Frame [.regs, .live, .staged, .engines, .dbg, .free] s (State.debugWrite s off v) := by
  unfold State.debugWrite
  repeat' (first
    | (with_reducible refine Frame.upd ?_ ?_ ?_; fail_if_success with_reducible exact ChangesOnly.refl)
    | with_reducible exact Frame.refl | (with_reducible apply Frame.step State.dbgGo_frame; case k => decide)
    | (with_reducible apply Frame.step State.armTrace_frame; case k => decide)
    | (with_reducible apply Frame.step State.unitOff_frame; case k => decide)
    | (with_reducible apply Frame.step State.freqLimit_frame; case k => decide)
    | (with_reducible apply Frame.step State.writeDbg_frame; case k => decide) | with_reducible refine Frame.ite ?_ ?_ | split)

end Sys2Proof.Machine
end

