-- ==== Sys2Proof/Laws/Fields.lean ====
section
/-! SUPPORT. Laws of register fields: what a field reads after a register or a field has been written. -/
namespace Sys2Proof.Machine

/-- The register written reads as written. -/
theorem getReg_putReg_same (rf : RegFile) (off : Nat) (v : Word) : getReg (putReg rf off v) off = v := by
  unfold putReg getReg
  split
  · rw [mget_mdel_same]; simp_all
  · rw [mget_mset_same]; rfl

/-- Every other register reads as before. -/
theorem getReg_putReg_other (rf : RegFile) {off a : Nat} (v : Word) (h : a ≠ off) : getReg (putReg rf off v) a = getReg rf a := by
  unfold putReg getReg
  split
  · rw [mget_mdel_other _ _ _ h]
  · rw [mget_mset_other _ _ _ _ h]

/-- Two fields of a register that share no bit. -/
def Field.apart (f g : Field) : Prop := f.hi < g.lo ∨ g.hi < f.lo

theorem getLsbD_withField (f : Field) (w : Word) (v i : Nat) (h : i < 64) :
    (withField f w v).getLsbD i =
      if f.lo ≤ i ∧ i < f.lo + f.width then (v % 2 ^ f.width).testBit (i - f.lo) else w.getLsbD i := by
  have hs : ∀ j, (2 ^ f.width - 1).testBit j = decide (j < f.width) := fun j => Nat.testBit_two_pow_sub_one ..
  unfold withField
  simp only [BitVec.getLsbD_or, BitVec.getLsbD_and, BitVec.getLsbD_not, BitVec.getLsbD_shiftLeft, BitVec.getLsbD_ofNat, hs]
  by_cases a : f.lo ≤ i
  · by_cases b : i < f.lo + f.width
    · have c : i - f.lo < f.width := by omega
      have e : i - f.lo < 64 := by omega
      have g : ¬i < f.lo := by omega
      simp [a, b, c, e, g, h]
    · have c : ¬i - f.lo < f.width := by omega
      have d : (v % 2 ^ f.width).testBit (i - f.lo) = false := by
        rw [Nat.testBit_mod_two_pow]; simp [c]
      simp [b, c, d, h]
  · have g : i < f.lo := by omega
    simp [a, g, h]

/-- A field written reads as the value's low bits. -/
theorem fieldOf_withField_same (f : Field) (w : Word) (v : Nat) (h : f.lo + f.width ≤ 64) :
    fieldOf f (withField f w v) = v % 2 ^ f.width := by
  unfold fieldOf
  apply Nat.eq_of_testBit_eq
  intro i
  rw [← BitVec.getLsbD, BitVec.getLsbD_extractLsb']
  by_cases b : i < f.width
  · rw [getLsbD_withField _ _ _ _ (by omega)]
    simp [b]
  · rw [Nat.testBit_mod_two_pow]
    simp [b]

/-- A field apart from the one written reads as before. -/
theorem fieldOf_withField_apart {f g : Field} (w : Word) (v : Nat) (h : f.apart g) (hf : f.lo ≤ f.hi) (hg : g.hi < 64) (hl : g.lo ≤ g.hi) :
    fieldOf g (withField f w v) = fieldOf g w := by
  unfold fieldOf
  apply Nat.eq_of_testBit_eq
  intro i
  rw [← BitVec.getLsbD, ← BitVec.getLsbD, BitVec.getLsbD_extractLsb', BitVec.getLsbD_extractLsb']
  unfold Field.apart at h
  by_cases b : i < g.width
  · unfold Field.width at b
    rw [getLsbD_withField _ _ _ _ (by omega)]
    have : ¬(f.lo ≤ g.lo + i ∧ g.lo + i < f.lo + f.width) := by unfold Field.width; omega
    rw [if_neg this]
  · simp [b]

/-- A field of a register file reads as last put. -/
theorem fget_fput_same (rf : RegFile) (f : Field) (v n : Nat) (h : f.lo + f.width ≤ 64) : fget (fput rf f v n) f n = v % 2 ^ f.width := by
  rw [fget, fput, getReg_putReg_same, fieldOf_withField_same _ _ _ h]

/-- Fields of other registers read as before. -/
theorem fget_fput_other (rf : RegFile) {f g : Field} {n m : Nat} (v : Nat) (h : g.at_ m ≠ f.at_ n) : fget (fput rf f v n) g m = fget rf g m := by
  rw [fget, fput, getReg_putReg_other _ _ h, fget]

/-- Fields of the same register that share no bit with the one put read as before. -/
theorem fget_fput_apart (rf : RegFile) {f g : Field} {n m : Nat} (v : Nat) (e : g.at_ m = f.at_ n) (h : f.apart g) (hf : f.lo ≤ f.hi)
    (hg : g.hi < 64) (hl : g.lo ≤ g.hi) : fget (fput rf f v n) g m = fget rf g m := by
  rw [fget, fput, e, getReg_putReg_same, fieldOf_withField_apart _ _ h hf hg hl, fget, e]

/-- The register that holds the field put. -/
theorem getReg_fput_same (rf : RegFile) (f : Field) (v n : Nat) : getReg (fput rf f v n) (f.at_ n) = withField f (getReg rf (f.at_ n)) v :=
  getReg_putReg_same ..

/-- Other registers. -/
theorem getReg_fput_other (rf : RegFile) (f : Field) (v n : Nat) {a : Nat} (h : a ≠ f.at_ n) : getReg (fput rf f v n) a = getReg rf a :=
  getReg_putReg_other _ _ h

end Sys2Proof.Machine
end

