-- ==== Sys2Proof/Laws/ResetFrames.lean ====
section
/-! SUPPORT. What each operation of Machine/Reset.lean may change, and that it keeps the invariant of Safety.lean. -/
namespace Sys2Proof.Machine

theorem State.nodeWide_frame {s : State} {cause stage : Nat} {warm rangerRuns : Bool} :
    Frame [.now, .regs, .live, .staged, .tick, .itin, .reqs, .nextOrder, .nextSeq, .ctxs, .engines, .tiles, .locals, .conns, .regions, .links, .comp, .tier, .sec, .health, .power, .pins, .ranger, .dbg, .nv] s (State.nodeWide s cause stage warm rangerRuns) := by
  refine Frame.step State.wr_frame (by decide) (Frame.step State.wr_frame (by decide) ⟨fun p hp => ?_, fun h => ?_⟩)
  · cases p <;> first | exact absurd hp (by decide) | rfl
  · have r : RangerBounds (if rangerRuns then s.ranger else s.ranger.booted) := by
      split
      · exact h.rangerBounds
      · exact ⟨h.log, Nat.zero_le _, h.anchors, Nat.le_trans (List.length_filter_le _ _) h.subs⟩
    exact .of_parts (fun c hc => nomatch hc) (Nat.zero_le _) (Nat.zero_le _) ⟨r.log, r.sessions, r.anchors, r.subs⟩

theorem State.powerUp_frame {s : State} :
    Frame [.now, .regs, .live, .staged, .tick, .itin, .reqs, .nextOrder, .nextSeq, .ctxs, .engines, .tiles, .locals, .conns, .regions, .links, .comp, .tier, .sec, .health, .power, .pins, .ranger, .dbg, .nv] s (State.powerUp s) := by
  unfold State.powerUp
  repeat' (first
    | (lift_lets; intro x; refine Frame.cut x ?_ (fun hx => ?_); rotate_left; clear_value x)
    | (lift_lets; intro x; with_reducible refine Frame.trans Frame.refl ?_)
    | (with_reducible refine Frame.upd ?_ ?_ ?_; fail_if_success with_reducible exact ChangesOnly.refl)
    | with_reducible exact Frame.refl | with_reducible assumption
    | (with_reducible apply Frame.step State.nodeWide_frame; case k => decide) | with_reducible refine Frame.ite ?_ ?_
    | (intro p hp; cases p <;> first | exact absurd hp (by decide) | rfl) | (intro h; exact h.of_eq rfl rfl rfl rfl)
    | (simp only [x]; split) | split)

theorem execPowerOn_frame {t mv : Nat} {s : State} (h : mv ≤ absoluteMv) :
    Answers [.now, .regs, .live, .staged, .tick, .itin, .reqs, .nextOrder, .nextSeq, .ctxs, .engines, .tiles, .locals, .conns, .regions, .links, .comp, .tier, .sec, .health, .power, .pins, .ranger, .dbg, .nv] s (execPowerOn t mv s) := by
  unfold execPowerOn
  rw [if_neg (by omega)]
  have a : Frame [.now, .regs, .live, .staged, .tick, .itin, .reqs, .nextOrder, .nextSeq, .ctxs, .engines, .tiles, .locals, .conns, .regions, .links, .comp, .tier, .sec, .health, .power, .pins, .ranger, .dbg, .nv] s (s.at_ t) := Frame.mono State.at__frame (by decide)
  exact .ite (.next a) (.next (Frame.step State.inputMv_frame (by decide) (Frame.step State.powerUp_frame (by decide) a)))

theorem State.logBrownout_frame {s : State} {mv : Nat} :
    Frame [.regs, .health, .ranger, .free] s (State.logBrownout s mv) := by
  unfold State.logBrownout
  refine .ite .refl ?_
  have e : Frame [.health] s { s with health := { s.health with buffer := [] } } := by
    refine ⟨fun p hp => by cases p <;> first | exact absurd hp (by decide) | rfl, fun h => ?_⟩
    exact .of_parts (fun c hc => ⟨h.xmem c hc, h.meters c hc⟩) (Nat.zero_le _) h.snoop h.rangerBounds
  dsimp only
  split
  · exact Frame.step State.logRecord_frame (by decide) (Frame.step errRecord_frame (by decide) (e.mono (by decide)))
  · exact Frame.step errRecord_frame (by decide) (e.mono (by decide))

theorem execBrownout_frame {t mv : Nat} {s : State} :
    Answers [.now, .regs, .live, .staged, .tick, .itin, .reqs, .nextOrder, .nextSeq, .ctxs, .engines, .tiles, .locals, .conns, .regions, .links, .comp, .tier, .sec, .health, .power, .pins, .ranger, .dbg, .nv, .free] s (execBrownout t mv s) := by
  unfold execBrownout
  repeat' (first
    | (lift_lets; intro x; refine Answers.cut x ?_ (fun hx => ?_); rotate_left; clear_value x)
    | (lift_lets; intro x; refine Frame.cut x ?_ (fun hx => ?_); rotate_left; clear_value x)
    | (lift_lets; intro x; with_reducible refine Frame.trans Frame.refl ?_) | with_reducible refine Answers.next ?_
    | with_reducible refine Answers.ite ?_ ?_
    | (with_reducible refine Frame.upd ?_ ?_ ?_; fail_if_success with_reducible exact ChangesOnly.refl)
    | with_reducible exact Frame.refl | with_reducible assumption
    | (with_reducible apply Frame.step State.at__frame; case k => decide)
    | (with_reducible apply Frame.step State.inputMv_frame; case k => decide)
    | (with_reducible apply Frame.step State.nodeWide_frame; case k => decide)
    | (with_reducible apply Frame.step State.logBrownout_frame; case k => decide) | with_reducible refine Frame.ite ?_ ?_ | split)

theorem execThermalTrip_frame {t : Nat} {temp : Int} {s : State} :
    Answers [.now, .regs, .live, .staged, .tick, .itin, .reqs, .nextOrder, .nextSeq, .ctxs, .engines, .tiles, .locals, .conns, .regions, .links, .comp, .tier, .sec, .health, .power, .pins, .ranger, .dbg, .nv] s (execThermalTrip t temp s) := by
  have a : Frame [.now, .regs, .live, .staged, .tick, .itin, .reqs, .nextOrder, .nextSeq, .ctxs, .engines, .tiles, .locals, .conns, .regions, .links, .comp, .tier, .sec, .health, .power, .pins, .ranger, .dbg, .nv] s (s.at_ t) := Frame.mono State.at__frame (by decide)
  have b : Frame [.now, .regs, .live, .staged, .tick, .itin, .reqs, .nextOrder, .nextSeq, .ctxs, .engines, .tiles, .locals, .conns, .regions, .links, .comp, .tier, .sec, .health, .power, .pins, .ranger, .dbg, .nv] s ((s.at_ t).nodeWide 2 0 false false) := Frame.step State.nodeWide_frame (by decide) a
  refine .ite (.next a) (.next (b.trans ⟨fun p hp => by cases p <;> first | exact absurd hp (by decide) | rfl, fun h => ?_⟩))
  exact ⟨h.xmem, h.meters, h.buffer, h.snoop, h.log, h.sessions, h.anchors, h.subs⟩

theorem execModuleReset_frame {t samples : Nat} {s : State} :
    Answers [.now, .regs, .live, .staged, .tick, .itin, .reqs, .nextOrder, .nextSeq, .ctxs, .engines, .tiles, .locals, .conns, .regions, .links, .comp, .tier, .sec, .health, .power, .pins, .ranger, .dbg, .nv] s (execModuleReset t samples s) := by
  unfold execModuleReset
  repeat' (first
    | (lift_lets; intro x; refine Answers.cut x ?_ (fun hx => ?_); rotate_left; clear_value x)
    | (lift_lets; intro x; refine Frame.cut x ?_ (fun hx => ?_); rotate_left; clear_value x)
    | (lift_lets; intro x; with_reducible refine Frame.trans Frame.refl ?_) | with_reducible refine Answers.next ?_
    | with_reducible refine Answers.ite ?_ ?_
    | (with_reducible refine Frame.upd ?_ ?_ ?_; fail_if_success with_reducible exact ChangesOnly.refl)
    | with_reducible exact Frame.refl | with_reducible assumption
    | (with_reducible apply Frame.step State.at__frame; case k => decide)
    | (with_reducible apply Frame.step State.powerUp_frame; case k => decide)
    | (with_reducible apply Frame.step State.nodeWide_frame; case k => decide) | with_reducible refine Frame.ite ?_ ?_
    | (intro p hp; cases p <;> first | exact absurd hp (by decide) | rfl) | (intro h; exact h.of_eq rfl rfl rfl rfl)
    | (simp only [x]; split) | split)

theorem execModuleResetRelease_frame {t : Nat} {s : State} :
    Answers [.now, .pins, .ranger] s (execModuleResetRelease t s) := by
  have a : Frame [.now, .pins, .ranger] s (s.at_ t) := Frame.mono State.at__frame (by decide)
  refine .ite (.next (a.trans ⟨fun p hp => by cases p <;> first | exact absurd hp (by decide) | rfl, fun h => ?_⟩)) (.next a)
  exact ⟨h.xmem, h.meters, h.buffer, h.snoop, h.log, h.sessions, h.anchors, h.subs⟩

theorem State.silenceLocal_frame {s : State} :
    Frame [.reqs] s (State.silenceLocal s) := by
  unfold State.silenceLocal
  repeat' (first
    | (lift_lets; intro x; refine Frame.cut x ?_ (fun hx => ?_); rotate_left; clear_value x)
    | (lift_lets; intro x; with_reducible refine Frame.trans Frame.refl ?_)
    | (with_reducible refine Frame.upd ?_ ?_ ?_; fail_if_success with_reducible exact ChangesOnly.refl)
    | with_reducible exact Frame.refl | with_reducible assumption | with_reducible refine Frame.ite ?_ ?_
    | (intro p hp; cases p <;> first | exact absurd hp (by decide) | rfl) | (intro h; exact h.of_eq rfl rfl rfl rfl) | split)

theorem State.resetRings_frame {s : State} :
    Frame [.regs, .live, .staged, .locals] s (State.resetRings s) := by
  unfold State.resetRings
  repeat' (first
    | (lift_lets; intro x; refine Frame.cut x ?_ (fun hx => ?_); rotate_left; clear_value x)
    | (lift_lets; intro x; with_reducible refine Frame.trans Frame.refl ?_)
    | (with_reducible refine Frame.upd ?_ ?_ ?_; fail_if_success with_reducible exact ChangesOnly.refl)
    | with_reducible exact Frame.refl | with_reducible assumption
    | (intro p hp; cases p <;> first | exact absurd hp (by decide) | rfl) | (intro h; exact h.of_eq rfl rfl rfl rfl))

theorem State.hostSideReset_frame {s : State} :
    Frame [.regs, .live, .staged, .reqs, .locals] s (State.hostSideReset s) := by
  unfold State.hostSideReset
  repeat' (first
    | (with_reducible refine Frame.upd ?_ ?_ ?_; fail_if_success with_reducible exact ChangesOnly.refl)
    | with_reducible exact Frame.refl | (with_reducible apply Frame.step State.resetRings_frame; case k => decide)
    | (with_reducible apply Frame.step State.silenceLocal_frame; case k => decide))

theorem execFlr_frame {t : Nat} {s : State} :
    Answers [.now, .regs, .live, .staged, .reqs, .locals] s (execFlr t s) := by
  unfold execFlr
  repeat' (first
    | with_reducible refine Answers.next ?_ | with_reducible refine Answers.ite ?_ ?_
    | (with_reducible refine Frame.upd ?_ ?_ ?_; fail_if_success with_reducible exact ChangesOnly.refl)
    | with_reducible exact Frame.refl | (with_reducible apply Frame.step State.hostSideReset_frame; case k => decide)
    | (with_reducible apply Frame.step State.at__frame; case k => decide))

theorem execCxlHotReset_frame {t : Nat} {perst : Bool} {s : State} :
    Answers [.now, .regs, .live, .staged, .reqs, .tiles, .locals, .tier, .pins] s (execCxlHotReset t perst s) := by
  unfold execCxlHotReset
  repeat' (first
    | (lift_lets; intro x; refine Answers.cut x ?_ (fun hx => ?_); rotate_left; clear_value x)
    | (lift_lets; intro x; refine Frame.cut x ?_ (fun hx => ?_); rotate_left; clear_value x)
    | (lift_lets; intro x; with_reducible refine Frame.trans Frame.refl ?_) | with_reducible refine Answers.next ?_
    | with_reducible refine Answers.ite ?_ ?_
    | (with_reducible refine Frame.upd ?_ ?_ ?_; fail_if_success with_reducible exact ChangesOnly.refl)
    | with_reducible exact Frame.refl | with_reducible assumption
    | (with_reducible apply Frame.step State.cxlDown_frame; case k => decide)
    | (with_reducible apply Frame.step State.hostSideReset_frame; case k => decide)
    | (with_reducible apply Frame.step State.at__frame; case k => decide)
    | (intro p hp; cases p <;> first | exact absurd hp (by decide) | rfl) | (intro h; exact h.of_eq rfl rfl rfl rfl) | split)

theorem State.cxlTrain_frame {s : State} :
    Frame [.regs, .tier, .free] s (State.cxlTrain s) := by
  unfold State.cxlTrain
  repeat' (first
    | (lift_lets; intro x; refine Frame.cut x ?_ (fun hx => ?_); rotate_left; clear_value x)
    | (lift_lets; intro x; with_reducible refine Frame.trans Frame.refl ?_)
    | (with_reducible refine Frame.upd ?_ ?_ ?_; fail_if_success with_reducible exact ChangesOnly.refl)
    | with_reducible exact Frame.refl | with_reducible assumption
    | (with_reducible apply Frame.step State.draw_frame; case k => decide)
    | (with_reducible apply Frame.step State.cxlTrained_frame; case k => decide)
    | with_reducible refine Frame.of_pair (by assumption) ?_ | split | dsimp only)

theorem execPerstNRelease_frame {t : Nat} {s : State} :
    Answers [.now, .regs, .tier, .pins, .free] s (execPerstNRelease t s) := by
  unfold execPerstNRelease
  repeat' (first
    | (lift_lets; intro x; refine Answers.cut x ?_ (fun hx => ?_); rotate_left; clear_value x)
    | (lift_lets; intro x; refine Frame.cut x ?_ (fun hx => ?_); rotate_left; clear_value x)
    | (lift_lets; intro x; with_reducible refine Frame.trans Frame.refl ?_) | with_reducible refine Answers.next ?_
    | with_reducible refine Answers.ite ?_ ?_
    | (with_reducible refine Frame.upd ?_ ?_ ?_; fail_if_success with_reducible exact ChangesOnly.refl)
    | with_reducible exact Frame.refl | with_reducible assumption
    | (with_reducible apply Frame.step State.at__frame; case k => decide)
    | (with_reducible apply Frame.step State.cxlTrain_frame; case k => decide) | with_reducible refine Frame.ite ?_ ?_
    | (intro p hp; cases p <;> first | exact absurd hp (by decide) | rfl) | (intro h; exact h.of_eq rfl rfl rfl rfl) | split)

theorem State.restoreOne_frame {s : State} {image : Option SealedImage} {ctx : Nat} {e : KeyEntry} :
    Frame [.ctxs] s (State.restoreOne s image ctx e).2 := by
  have fresh (x : Ctx) (hx : x.xmem = []) (hm : x.meters = []) : Frame [.ctxs] s (s.setCtx ctx x) := by
    refine State.setCtx_frame ⟨fun _ => ?_, fun _ => ?_⟩
    · rw [hx]; decide
    · rw [hm]; decide
  unfold State.restoreOne
  split
  · exact fresh _ rfl rfl
  · dsimp only
    split
    · exact fresh _ rfl rfl
    · split
      · split <;> exact fresh _ rfl rfl
      · exact fresh _ rfl rfl

theorem State.settleParcels_frame {s : State} :
    Frame [.tier] s (State.settleParcels s) := by
  unfold State.settleParcels
  repeat' (first
    | (with_reducible refine Frame.upd ?_ ?_ ?_; fail_if_success with_reducible exact ChangesOnly.refl)
    | with_reducible exact Frame.refl | (intro p hp; cases p <;> first | exact absurd hp (by decide) | rfl)
    | (intro h; exact h.of_eq rfl rfl rfl rfl) | split)

theorem State.giveParcels_frame {s : State} :
    Frame [.tier] s (State.giveParcels s) := by
  unfold State.giveParcels
  repeat' (first
    | (with_reducible refine Frame.upd ?_ ?_ ?_; fail_if_success with_reducible exact ChangesOnly.refl)
    | with_reducible exact Frame.refl | (with_reducible apply Frame.step State.addParcel_frame; case k => decide)
    | with_reducible refine Frame.ite ?_ ?_ | with_reducible refine Frame.foldl (fun _ _ => ?_) ?_
    | with_reducible refine Frame.foldl_snd (fun _ _ => ?_) ?_ | split | dsimp only)

theorem State.resumeScrubs_frame {s : State} :
    Frame [.itin, .tier, .sec, .free] s (State.resumeScrubs s) := by
  unfold State.resumeScrubs
  repeat' (first
    | (lift_lets; intro x; refine Frame.cut x ?_ (fun hx => ?_); rotate_left; clear_value x)
    | (lift_lets; intro x; with_reducible refine Frame.trans Frame.refl ?_)
    | (with_reducible refine Frame.upd ?_ ?_ ?_; fail_if_success with_reducible exact ChangesOnly.refl)
    | with_reducible exact Frame.refl | with_reducible assumption
    | (with_reducible apply Frame.step State.tombBlocks_frame; case k => decide)
    | (with_reducible apply Frame.step State.startScrubs_frame; case k => decide) | with_reducible refine Frame.ite ?_ ?_
    | with_reducible refine Frame.foldl (fun _ _ => ?_) ?_ | with_reducible refine Frame.foldl_snd (fun _ _ => ?_) ?_ | split
    | dsimp only)

theorem State.restoreAll_frame {s : State} {tagOk : Bool} :
    Frame [.regs, .itin, .ctxs, .tier, .sec, .nv, .free] s (State.restoreAll s tagOk) := by
  unfold State.restoreAll
  repeat' (first
    | (lift_lets; intro x; refine Frame.cut x ?_ (fun hx => ?_); rotate_left; clear_value x)
    | (lift_lets; intro x; with_reducible refine Frame.trans Frame.refl ?_)
    | (with_reducible refine Frame.upd ?_ ?_ ?_; fail_if_success with_reducible exact ChangesOnly.refl)
    | with_reducible exact Frame.refl | with_reducible assumption
    | (with_reducible apply Frame.step State.restoreOne_frame; case k => decide)
    | (with_reducible apply Frame.step State.countKeys_frame; case k => decide)
    | (with_reducible apply Frame.step State.resumeScrubs_frame; case k => decide)
    | (with_reducible apply Frame.step State.giveParcels_frame; case k => decide)
    | (with_reducible apply Frame.step State.settleParcels_frame; case k => decide)
    | (with_reducible apply Frame.step State.wr_frame; case k => decide) | with_reducible refine Frame.ite ?_ ?_
    | with_reducible refine Frame.foldl (fun _ _ => ?_) ?_ | with_reducible refine Frame.foldl_snd (fun _ _ => ?_) ?_
    | (intro p hp; cases p <;> first | exact absurd hp (by decide) | rfl) | (intro h; exact h.of_eq rfl rfl rfl rfl)
    | (simp only [x]; split) | with_reducible refine Frame.of_pair (by assumption) ?_ | split | dsimp only)

theorem State.stageFail_frame {s : State} {code : Nat} :
    Frame [.regs] s (State.stageFail s code) := by
  unfold State.stageFail
  repeat' (first
    | (with_reducible refine Frame.upd ?_ ?_ ?_; fail_if_success with_reducible exact ChangesOnly.refl)
    | with_reducible exact Frame.refl | (with_reducible apply Frame.step State.wr_frame; case k => decide))

theorem State.loadStaged_frame {s : State} {kind : ImageKind} {block : Nat} :
    Frame [.sec, .ranger] s (State.loadStaged s kind block) := by
  unfold State.loadStaged
  split
  · exact .refl
  · refine ⟨fun p hp => by cases p <;> first | exact absurd hp (by decide) | rfl, fun h => ?_⟩
    exact ⟨h.xmem, h.meters, h.buffer, h.snoop, h.log, h.sessions, h.anchors, h.subs⟩

theorem State.stageRanger_frame {s : State} {ok : Bool} {svn straps : Nat} :
    Frame [.regs, .sec, .pins, .ranger] s (State.stageRanger s ok svn straps) := by
  have ranger {t : State} {r : Ranger} (h : RangerBounds t.ranger → RangerBounds r) : Frame [.ranger] t { t with ranger := r } := by
    refine ⟨fun p hp => by cases p <;> first | exact absurd hp (by decide) | rfl, fun k => ?_⟩
    have b := h k.rangerBounds
    exact ⟨k.xmem, k.meters, k.buffer, k.snoop, b.log, b.sessions, b.anchors, b.subs⟩
  have pins : Frame [.pins] s { s with pins := { s.pins with slotId := straps } } :=
    ⟨fun p hp => by cases p <;> first | exact absurd hp (by decide) | rfl, fun k => k.of_eq rfl rfl rfl rfl⟩
  refine Frame.step State.wr_frame (by decide) (.ite ?_ ?_)
  · refine Frame.step (ranger fun h => ⟨h.log, h.sessions, h.anchors, h.subs⟩) (by decide) ?_
    exact Frame.step State.wr_frame (by decide) (Frame.step State.loadStaged_frame (by decide) (Frame.mono pins (by decide)))
  · exact Frame.step (ranger fun h => ⟨h.log, h.sessions, h.anchors, h.subs⟩) (by decide) (Frame.mono pins (by decide))

theorem State.configure_frame {s : State} {c : ConfigRecord} :
    Frame [.regs, .links] s (State.configure s c) := by
  unfold State.configure
  repeat' (first
    | (lift_lets; intro x; refine Frame.cut x ?_ (fun hx => ?_); rotate_left; clear_value x)
    | (lift_lets; intro x; with_reducible refine Frame.trans Frame.refl ?_)
    | (with_reducible refine Frame.upd ?_ ?_ ?_; fail_if_success with_reducible exact ChangesOnly.refl)
    | with_reducible exact Frame.refl | with_reducible assumption
    | (with_reducible apply Frame.step State.wr_frame; case k => decide)
    | (with_reducible apply Frame.step State.modLink_frame; case k => decide)
    | (with_reducible apply Frame.step State.setMhz_frame; case k => decide) | with_reducible refine Frame.foldl (fun _ _ => ?_) ?_
    | with_reducible refine Frame.foldl_snd (fun _ _ => ?_) ?_ | dsimp only)

theorem State.stageIdentity_frame {s : State} {config : Option ConfigRecord} {secSvn : Nat} {helper : List Bool} {derived : Bytes} {drbgOk : Bool} :
    Frame [.regs, .links, .sec, .health, .ranger, .free] s (State.stageIdentity s config secSvn helper derived drbgOk) := by
  unfold State.stageIdentity
  repeat' (first
    | (lift_lets; intro x; refine Frame.cut x ?_ (fun hx => ?_); rotate_left; clear_value x)
    | (lift_lets; intro x; with_reducible refine Frame.trans Frame.refl ?_)
    | (with_reducible refine Frame.upd ?_ ?_ ?_; fail_if_success with_reducible exact ChangesOnly.refl)
    | with_reducible exact Frame.refl | with_reducible assumption
    | (with_reducible apply Frame.step errRecord_frame; case k => decide)
    | (with_reducible apply Frame.step State.stageFail_frame; case k => decide)
    | (with_reducible apply Frame.step State.wr_frame; case k => decide)
    | (with_reducible apply Frame.step State.configure_frame; case k => decide)
    | (with_reducible apply Frame.step State.loadStaged_frame; case k => decide) | with_reducible refine Frame.ite ?_ ?_
    | (intro p hp; cases p <;> first | exact absurd hp (by decide) | rfl) | (intro h; exact h.of_eq rfl rfl rfl rfl) | split)

theorem State.linkTrains_frame {s : State} {link : Nat} :
    Frame [.regs, .links] s (State.linkTrains s link) := by
  unfold State.linkTrains
  repeat' (first
    | (with_reducible refine Frame.upd ?_ ?_ ?_; fail_if_success with_reducible exact ChangesOnly.refl)
    | with_reducible exact Frame.refl | (with_reducible apply Frame.step State.wr_frame; case k => decide)
    | (with_reducible apply Frame.step State.modLink_frame; case k => decide) | with_reducible refine Frame.ite ?_ ?_ | split)

theorem State.stageTraining_frame {s : State} {stacksOk : Bool} {farFailed enginesFailed links : List Nat} {cxlUp : Bool} :
    Frame [.regs, .ctxs, .tiles, .links, .tier, .health, .free] s (State.stageTraining s stacksOk farFailed enginesFailed links cxlUp) := by
  unfold State.stageTraining
  repeat' (first
    | (lift_lets; intro x; refine Frame.cut x ?_ (fun hx => ?_); rotate_left; clear_value x)
    | (lift_lets; intro x; with_reducible refine Frame.trans Frame.refl ?_)
    | (with_reducible refine Frame.upd ?_ ?_ ?_; fail_if_success with_reducible exact ChangesOnly.refl)
    | with_reducible exact Frame.refl | with_reducible assumption
    | (with_reducible apply Frame.step State.linkTrains_frame; case k => decide)
    | (with_reducible apply Frame.step State.cxlTrain_frame; case k => decide)
    | (with_reducible apply Frame.step State.wr_frame; case k => decide)
    | (with_reducible apply Frame.step State.stageFail_frame; case k => decide)
    | (with_reducible apply Frame.step State.failFar_frame; case k => decide)
    | (with_reducible apply Frame.step State.disableEngine_frame; case k => decide) | with_reducible refine Frame.ite ?_ ?_
    | with_reducible refine Frame.foldl (fun _ _ => ?_) ?_ | with_reducible refine Frame.foldl_snd (fun _ _ => ?_) ?_
    | (simp only [x]; split) | split | dsimp only)

theorem State.stageImages_frame {s : State} {codeOk : Bool} {kernel : Bytes} {assistSvn kernelSvn : Nat} {mapOk : Bool} {copies : List Bool} :
    Frame [.regs, .sec, .ranger] s (State.stageImages s codeOk kernel assistSvn kernelSvn mapOk copies) := by
  unfold State.stageImages
  repeat' (first
    | (lift_lets; intro x; refine Frame.cut x ?_ (fun hx => ?_); rotate_left; clear_value x)
    | (lift_lets; intro x; with_reducible refine Frame.trans Frame.refl ?_)
    | (with_reducible refine Frame.upd ?_ ?_ ?_; fail_if_success with_reducible exact ChangesOnly.refl)
    | with_reducible exact Frame.refl | with_reducible assumption
    | (with_reducible apply Frame.step State.stageFail_frame; case k => decide)
    | (with_reducible apply Frame.step State.wr_frame; case k => decide)
    | (with_reducible apply Frame.step State.loadStaged_frame; case k => decide)
    | (with_reducible apply Frame.step State.countKeys_frame; case k => decide) | with_reducible refine Frame.ite ?_ ?_
    | with_reducible refine Frame.foldl (fun _ _ => ?_) ?_ | with_reducible refine Frame.foldl_snd (fun _ _ => ?_) ?_
    | (intro p hp; cases p <;> first | exact absurd hp (by decide) | rfl) | (intro h; exact h.of_eq rfl rfl rfl rfl) | split
    | dsimp only)

theorem execStartupStageComplete_frame {t : Nat} {r : StageResult} {s : State} :
    Answers [.now, .regs, .itin, .ctxs, .tiles, .links, .tier, .sec, .health, .pins, .ranger, .nv, .free] s (execStartupStageComplete t r s) := by
  unfold execStartupStageComplete
  repeat' (first
    | (lift_lets; intro x; refine Answers.cut x ?_ (fun hx => ?_); rotate_left; clear_value x)
    | (lift_lets; intro x; refine Frame.cut x ?_ (fun hx => ?_); rotate_left; clear_value x)
    | (lift_lets; intro x; with_reducible refine Frame.trans Frame.refl ?_) | with_reducible refine Answers.next ?_
    | with_reducible refine Answers.ite ?_ ?_
    | (with_reducible refine Frame.upd ?_ ?_ ?_; fail_if_success with_reducible exact ChangesOnly.refl)
    | with_reducible exact Frame.refl | with_reducible assumption
    | (with_reducible apply Frame.step State.at__frame; case k => decide)
    | (with_reducible apply Frame.step State.wr_frame; case k => decide)
    | (with_reducible apply Frame.step State.stageRanger_frame; case k => decide)
    | (with_reducible apply Frame.step State.stageIdentity_frame; case k => decide)
    | (with_reducible apply Frame.step State.stageTraining_frame; case k => decide)
    | (with_reducible apply Frame.step State.stageImages_frame; case k => decide)
    | (with_reducible apply Frame.step State.restoreAll_frame; case k => decide) | with_reducible refine Frame.ite ?_ ?_
    | (intro p hp; cases p <;> first | exact absurd hp (by decide) | rfl) | (intro h; exact h.of_eq rfl rfl rfl rfl) | split)

theorem execVinMated_frame {t mv ms : Nat} {s : State} (h : mv ≤ absoluteMv) :
    Answers [.now, .power] s (execVinMated t mv ms s) := by
  unfold execVinMated
  rw [if_neg (by omega)]
  have a : Frame [.now, .power] s (s.at_ t) := Frame.mono State.at__frame (by decide)
  exact .ite (.next a) (.next (a.trans ⟨fun p hp => by cases p <;> first | exact absurd hp (by decide) | rfl, fun h => h.of_eq rfl rfl rfl rfl⟩))

theorem execHoldupCharged_frame {t : Nat} {s : State} :
    Answers [.now, .regs, .live, .staged, .tick, .itin, .reqs, .nextOrder, .nextSeq, .ctxs, .engines, .tiles, .locals, .conns, .regions, .links, .comp, .tier, .sec, .health, .power, .pins, .ranger, .dbg, .nv] s (execHoldupCharged t s) := by
  unfold execHoldupCharged
  repeat' (first
    | (lift_lets; intro x; refine Answers.cut x ?_ (fun hx => ?_); rotate_left; clear_value x)
    | (lift_lets; intro x; refine Frame.cut x ?_ (fun hx => ?_); rotate_left; clear_value x)
    | (lift_lets; intro x; with_reducible refine Frame.trans Frame.refl ?_) | with_reducible refine Answers.next ?_
    | with_reducible refine Answers.ite ?_ ?_
    | (with_reducible refine Frame.upd ?_ ?_ ?_; fail_if_success with_reducible exact ChangesOnly.refl)
    | with_reducible exact Frame.refl | with_reducible assumption
    | (with_reducible apply Frame.step State.at__frame; case k => decide)
    | (with_reducible apply Frame.step State.powerUp_frame; case k => decide) | with_reducible refine Frame.ite ?_ ?_
    | (intro p hp; cases p <;> first | exact absurd hp (by decide) | rfl) | (intro h; exact h.of_eq rfl rfl rfl rfl) | split)

theorem execOverVoltage_frame {t mv : Nat} {s : State} (h : mv ≤ absoluteMv) :
    Answers [.now, .power] s (execOverVoltage t mv s) := by
  unfold execOverVoltage
  rw [if_neg (by omega)]
  have a : Frame [.now, .power] s (s.at_ t) := Frame.mono State.at__frame (by decide)
  exact .ite (.next a) (.next (a.trans ⟨fun p hp => by cases p <;> first | exact absurd hp (by decide) | rfl, fun h => h.of_eq rfl rfl rfl rfl⟩))

theorem execOverVoltageClear_frame {t mv : Nat} {s : State} :
    Answers [.now, .power] s (execOverVoltageClear t mv s) := by
  unfold execOverVoltageClear
  repeat' (first
    | (lift_lets; intro x; refine Answers.cut x ?_ (fun hx => ?_); rotate_left; clear_value x)
    | (lift_lets; intro x; refine Frame.cut x ?_ (fun hx => ?_); rotate_left; clear_value x)
    | (lift_lets; intro x; with_reducible refine Frame.trans Frame.refl ?_) | with_reducible refine Answers.next ?_
    | with_reducible refine Answers.ite ?_ ?_
    | (with_reducible refine Frame.upd ?_ ?_ ?_; fail_if_success with_reducible exact ChangesOnly.refl)
    | with_reducible exact Frame.refl | with_reducible assumption
    | (with_reducible apply Frame.step State.at__frame; case k => decide) | with_reducible refine Frame.ite ?_ ?_
    | (intro p hp; cases p <;> first | exact absurd hp (by decide) | rfl) | (intro h; exact h.of_eq rfl rfl rfl rfl) | split)

end Sys2Proof.Machine
end

