-- ==== Sys2Proof/Laws/RangerFrames.lean ====
section
/-! SUPPORT. What each operation of Machine/Ranger.lean may change, and that it keeps the invariant of Safety.lean. -/
namespace Sys2Proof.Machine

theorem State.modRanger_frame {s : State} {f : Ranger → Ranger} (h : RangerBounds s.ranger → RangerBounds (f s.ranger)) :
    Frame [.ranger] s (s.modRanger f) := by
  refine ⟨fun p hp => by cases p <;> first | exact absurd hp (by decide) | rfl, fun k => ?_⟩
  have b := h k.rangerBounds
  exact ⟨k.xmem, k.meters, k.buffer, k.snoop, b.log, b.sessions, b.anchors, b.subs⟩

theorem State.touchSession_frame {s : State} {id : Nat} :
    Frame [.ranger] s (State.touchSession s id) := by
  unfold State.touchSession
  repeat' (first
    | (lift_lets; intro x; refine Frame.cut x ?_ (fun hx => ?_); rotate_left; clear_value x)
    | (lift_lets; intro x; with_reducible refine Frame.trans Frame.refl ?_)
    | (with_reducible refine Frame.upd ?_ ?_ ?_; fail_if_success with_reducible exact ChangesOnly.refl)
    | with_reducible exact Frame.refl | with_reducible assumption
    | (with_reducible refine Frame.step (State.modRanger_frame ?_) (by decide) ?_)
    | exact (fun h => ⟨h.log, by simpa [lmod] using h.sessions, h.anchors, h.subs⟩))

theorem State.asRole_frame {ps : List Part} {s : State} {id : Nat} {need : Role} {f : State → State} (h : ∀ t, Frame ps t (f t))
    (k : [Part.ranger, .out].all ps.contains = true) : Frame ps s (s.asRole id need f) := by
  have touch : Frame ps s (s.touchSession id) := Frame.mono State.touchSession_frame (by simp_all)
  unfold State.asRole
  split
  · exact .refl
  · refine .ite ?_ (touch.trans (h _))
    exact touch.trans (Frame.mono State.emit_frame (by simp_all))

theorem State.closeSession_frame {s : State} {id : Nat} :
    Frame [.ranger] s (State.closeSession s id) := by
  unfold State.closeSession
  repeat' (first
    | (with_reducible refine Frame.upd ?_ ?_ ?_; fail_if_success with_reducible exact ChangesOnly.refl)
    | with_reducible exact Frame.refl | (with_reducible refine Frame.step (State.modRanger_frame ?_) (by decide) ?_)
    | exact (fun h => ⟨h.log, Nat.le_trans (List.length_filter_le _ _) h.sessions, h.anchors, Nat.le_trans (List.length_filter_le _ _) h.subs⟩)
    | split)

theorem execTlsSession_frame {t : Nat} {o : TlsOffer} {s : State} :
    Answers [.now, .ranger, .out] s (execTlsSession t o s) := by
  have a : Frame [.now, .ranger, .out] s (s.at_ t) := Frame.mono State.at__frame (by decide)
  unfold execTlsSession
  dsimp only
  split
  · exact .next a
  · split
    · exact .next (Frame.step (State.modRanger_frame fun h => ⟨h.log, h.sessions, h.anchors, h.subs⟩) (by decide) a)
    · rename_i k
      refine .ite (.next a) ?_
      split
      · exact .next (Frame.step State.emit_frame (by decide) a)
      · refine .next (Frame.step (State.modRanger_frame fun h => ⟨h.log, ?_, h.anchors, h.subs⟩) (by decide) a)
        rw [List.length_append, List.length_singleton]
        omega

theorem execSessionIdleTimeout_frame {t session : Nat} {s : State} :
    Answers [.now, .ranger] s (execSessionIdleTimeout t session s) := by
  unfold execSessionIdleTimeout
  repeat' (first
    | (lift_lets; intro x; refine Answers.cut x ?_ (fun hx => ?_); rotate_left; clear_value x)
    | (lift_lets; intro x; refine Frame.cut x ?_ (fun hx => ?_); rotate_left; clear_value x)
    | (lift_lets; intro x; with_reducible refine Frame.trans Frame.refl ?_) | with_reducible refine Answers.next ?_
    | with_reducible refine Answers.ite ?_ ?_
    | (with_reducible refine Frame.upd ?_ ?_ ?_; fail_if_success with_reducible exact ChangesOnly.refl)
    | with_reducible exact Frame.refl | with_reducible assumption
    | (with_reducible apply Frame.step State.at__frame; case k => decide)
    | (with_reducible apply Frame.step State.closeSession_frame; case k => decide) | with_reducible refine Frame.ite ?_ ?_ | split)

theorem execRangerTakeRecord_frame {t : Nat} {s : State} :
    Answers [.now, .health, .ranger, .out] s (execRangerTakeRecord t s) := by
  have a : Frame [.now, .health, .ranger, .out] s (s.at_ t) := Frame.mono State.at__frame (by decide)
  unfold execRangerTakeRecord
  dsimp only
  split
  · exact .next a
  · rename_i r rest e
    refine .ite (.next a) (.next ?_)
    have b : Frame [.now, .health, .ranger, .out] s { (s.at_ t) with health := { (s.at_ t).health with buffer := rest } } := by
      refine a.trans ⟨fun p hp => by cases p <;> first | exact absurd hp (by decide) | rfl, fun h => ?_⟩
      refine .of_parts (fun c hc => ⟨h.xmem c hc, h.meters c hc⟩) ?_ h.snoop h.rangerBounds
      have k := h.buffer
      rw [e, List.length_cons] at k
      exact Nat.le_of_succ_le k
    exact .ite (Frame.step State.emit_frame (by decide) (Frame.step State.logRecord_frame (by decide) b)) (Frame.step State.logRecord_frame (by decide) b)

theorem State.modSub_frame {s : State} {id : Nat} {f : Subscription → Subscription} :
    Frame [.ranger] s (State.modSub s id f) := by
  unfold State.modSub
  repeat' (first
    | (with_reducible refine Frame.upd ?_ ?_ ?_; fail_if_success with_reducible exact ChangesOnly.refl)
    | with_reducible exact Frame.refl | (with_reducible refine Frame.step (State.modRanger_frame ?_) (by decide) ?_)
    | exact (fun h => ⟨h.log, h.sessions, h.anchors, by simpa [lmod] using h.subs⟩))

theorem State.deliverEvent_frame {s : State} {u : Subscription} {ok : Bool} :
    Frame [.ranger, .out] s (State.deliverEvent s u ok) := by
  unfold State.deliverEvent
  repeat' (first
    | (with_reducible refine Frame.upd ?_ ?_ ?_; fail_if_success with_reducible exact ChangesOnly.refl)
    | with_reducible exact Frame.refl | (with_reducible apply Frame.step State.modSub_frame; case k => decide)
    | (with_reducible apply Frame.step State.emit_frame; case k => decide)
    | (with_reducible refine Frame.step (State.modRanger_frame ?_) (by decide) ?_) | with_reducible refine Frame.ite ?_ ?_
    | exact (fun h => ⟨h.log, h.sessions, h.anchors, Nat.le_trans (List.length_filter_le _ _) h.subs⟩) | split)

theorem execEventDelivery_frame {t sub : Nat} {ok : Bool} {s : State} :
    Answers [.now, .ranger, .out] s (execEventDelivery t sub ok s) := by
  unfold execEventDelivery
  repeat' (first
    | (lift_lets; intro x; refine Answers.cut x ?_ (fun hx => ?_); rotate_left; clear_value x)
    | (lift_lets; intro x; refine Frame.cut x ?_ (fun hx => ?_); rotate_left; clear_value x)
    | (lift_lets; intro x; with_reducible refine Frame.trans Frame.refl ?_) | with_reducible refine Answers.next ?_
    | with_reducible refine Answers.ite ?_ ?_
    | (with_reducible refine Frame.upd ?_ ?_ ?_; fail_if_success with_reducible exact ChangesOnly.refl)
    | with_reducible exact Frame.refl | with_reducible assumption
    | (with_reducible apply Frame.step State.at__frame; case k => decide)
    | (with_reducible apply Frame.step State.deliverEvent_frame; case k => decide) | with_reducible refine Frame.ite ?_ ?_ | split)

theorem execPostRetry_frame {t sub : Nat} {ok : Bool} {s : State} :
    Answers [.now, .ranger, .out] s (execPostRetry t sub ok s) := by
  unfold execPostRetry
  repeat' (first
    | (lift_lets; intro x; refine Answers.cut x ?_ (fun hx => ?_); rotate_left; clear_value x)
    | (lift_lets; intro x; refine Frame.cut x ?_ (fun hx => ?_); rotate_left; clear_value x)
    | (lift_lets; intro x; with_reducible refine Frame.trans Frame.refl ?_) | with_reducible refine Answers.next ?_
    | with_reducible refine Answers.ite ?_ ?_
    | (with_reducible refine Frame.upd ?_ ?_ ?_; fail_if_success with_reducible exact ChangesOnly.refl)
    | with_reducible exact Frame.refl | with_reducible assumption
    | (with_reducible apply Frame.step State.at__frame; case k => decide)
    | (with_reducible apply Frame.step State.deliverEvent_frame; case k => decide) | with_reducible refine Frame.ite ?_ ?_ | split)

theorem execSubscriptionSuspend_frame {t sub : Nat} {s : State} :
    Answers [.now, .ranger] s (execSubscriptionSuspend t sub s) := by
  unfold execSubscriptionSuspend
  repeat' (first
    | (lift_lets; intro x; refine Answers.cut x ?_ (fun hx => ?_); rotate_left; clear_value x)
    | (lift_lets; intro x; refine Frame.cut x ?_ (fun hx => ?_); rotate_left; clear_value x)
    | (lift_lets; intro x; with_reducible refine Frame.trans Frame.refl ?_) | with_reducible refine Answers.next ?_
    | with_reducible refine Answers.ite ?_ ?_
    | (with_reducible refine Frame.upd ?_ ?_ ?_; fail_if_success with_reducible exact ChangesOnly.refl)
    | with_reducible exact Frame.refl | with_reducible assumption
    | (with_reducible apply Frame.step State.at__frame; case k => decide)
    | (with_reducible apply Frame.step State.modSub_frame; case k => decide) | with_reducible refine Frame.ite ?_ ?_ | split)

theorem execEventSubscriptionCreate_frame {t session : Nat} {push : Bool} {minSeverity : Nat} {cert : Bytes} {s : State} :
    Answers [.now, .regs, .power, .ranger, .out] s (execEventSubscriptionCreate t session push minSeverity cert s) := by
  refine .next ((Frame.mono State.at__frame (by decide)).trans (State.asRole_frame (fun u => ?_) (by decide)))
  split
  · exact Frame.mono State.emit_frame (by decide)
  · rename_i k
    have e : u.wakeUp.ranger = u.ranger := (State.wakeUp_frame (s := u)).same .ranger (by decide)
    refine Frame.step (State.modRanger_frame fun h => ⟨h.log, h.sessions, h.anchors, ?_⟩) (by decide) (Frame.mono State.wakeUp_frame (by decide))
    simp only [Bool.or_eq_true, decide_eq_true_eq, not_or] at k
    rw [e, List.length_append, List.length_singleton]
    omega

theorem State.restartRanger_frame {s : State} :
    Frame [.regs, .sec, .ranger] s (State.restartRanger s) := by
  unfold State.restartRanger
  repeat' (first
    | (lift_lets; intro x; refine Frame.cut x ?_ (fun hx => ?_); rotate_left; clear_value x)
    | (lift_lets; intro x; with_reducible refine Frame.trans Frame.refl ?_)
    | (with_reducible refine Frame.upd ?_ ?_ ?_; fail_if_success with_reducible exact ChangesOnly.refl)
    | with_reducible exact Frame.refl | with_reducible assumption
    | (with_reducible apply Frame.step State.wr_frame; case k => decide)
    | (with_reducible apply Frame.step State.loadStaged_frame; case k => decide)
    | (with_reducible refine Frame.step (State.modRanger_frame ?_) (by decide) ?_) | with_reducible refine Frame.ite ?_ ?_
    | (simp only [x]; split) | exact (fun h => ⟨h.log, Nat.zero_le _, h.anchors, Nat.le_trans (List.length_filter_le _ _) h.subs⟩)
    | split)

theorem execManagerReset_frame {t session : Nat} {s : State} :
    Answers [.now, .regs, .sec, .power, .ranger, .out] s (execManagerReset t session s) := by
  refine .next ((Frame.mono State.at__frame (by decide)).trans (State.asRole_frame (fun u => ?_) (by decide)))
  exact Frame.step State.restartRanger_frame (by decide) (Frame.mono State.wakeUp_frame (by decide))

theorem execRangerWatchdog_frame {t : Nat} {s : State} :
    Answers [.now, .regs, .sec, .ranger] s (execRangerWatchdog t s) := by
  unfold execRangerWatchdog
  repeat' (first
    | with_reducible refine Answers.next ?_ | with_reducible refine Answers.ite ?_ ?_
    | (with_reducible refine Frame.upd ?_ ?_ ?_; fail_if_success with_reducible exact ChangesOnly.refl)
    | with_reducible exact Frame.refl | (with_reducible apply Frame.step State.restartRanger_frame; case k => decide)
    | (with_reducible apply Frame.step State.at__frame; case k => decide))

theorem execRangerSelfTest_frame {t : Nat} {pass : Bool} {s : State} :
    Answers [.now, .regs, .sec, .ranger] s (execRangerSelfTest t pass s) := by
  unfold execRangerSelfTest
  repeat' (first
    | (lift_lets; intro x; refine Answers.cut x ?_ (fun hx => ?_); rotate_left; clear_value x)
    | (lift_lets; intro x; refine Frame.cut x ?_ (fun hx => ?_); rotate_left; clear_value x)
    | (lift_lets; intro x; with_reducible refine Frame.trans Frame.refl ?_) | with_reducible refine Answers.next ?_
    | with_reducible refine Answers.ite ?_ ?_
    | (with_reducible refine Frame.upd ?_ ?_ ?_; fail_if_success with_reducible exact ChangesOnly.refl)
    | with_reducible exact Frame.refl | with_reducible assumption
    | (with_reducible apply Frame.step State.at__frame; case k => decide)
    | (with_reducible apply Frame.step State.restartRanger_frame; case k => decide) | with_reducible refine Frame.ite ?_ ?_ | split)

theorem execRangerEccError_frame {t : Nat} {s : State} :
    Answers [.now, .regs, .sec, .ranger] s (execRangerEccError t s) := by
  unfold execRangerEccError
  repeat' (first
    | (lift_lets; intro x; refine Answers.cut x ?_ (fun hx => ?_); rotate_left; clear_value x)
    | (lift_lets; intro x; refine Frame.cut x ?_ (fun hx => ?_); rotate_left; clear_value x)
    | (lift_lets; intro x; with_reducible refine Frame.trans Frame.refl ?_) | with_reducible refine Answers.next ?_
    | with_reducible refine Answers.ite ?_ ?_
    | (with_reducible refine Frame.upd ?_ ?_ ?_; fail_if_success with_reducible exact ChangesOnly.refl)
    | with_reducible exact Frame.refl | with_reducible assumption
    | (with_reducible apply Frame.step State.at__frame; case k => decide)
    | (with_reducible apply Frame.step State.restartRanger_frame; case k => decide))

theorem execNodeReset_frame {t session : Nat} {s : State} :
    Answers [.now, .regs, .live, .staged, .tick, .itin, .reqs, .nextOrder, .nextSeq, .ctxs, .engines, .tiles, .locals, .conns, .regions, .links, .comp, .tier, .sec, .health, .power, .pins, .ranger, .dbg, .nv, .out] s (execNodeReset t session s) := by
  refine .next ((Frame.mono State.at__frame (by decide)).trans (State.asRole_frame (fun u => ?_) (by decide)))
  exact Frame.mono State.nodeWide_frame (by decide)

theorem State.addAnchor_frame {s : State} {role : Role} {cert : Bytes} (h : s.ranger.anchors.length < maxAnchors) :
    Frame [.ranger] s (s.addAnchor role cert) :=
  State.modRanger_frame fun b => ⟨b.log, b.sessions, by rw [List.length_append]; exact h, b.subs⟩

theorem execTrustAnchorInstall_frame {t session : Nat} {role : Role} {cert : Bytes} {s : State} :
    Answers [.now, .regs, .power, .ranger, .out] s (execTrustAnchorInstall t session role cert s) := by
  refine .next ((Frame.mono State.at__frame (by decide)).trans (State.asRole_frame (fun u => ?_) (by decide)))
  split
  · exact Frame.mono State.emit_frame (by decide)
  · rename_i h
    have e : u.wakeUp.ranger = u.ranger := (State.wakeUp_frame (s := u)).same .ranger (by decide)
    refine Frame.step (State.addAnchor_frame ?_) (by decide) (Frame.mono State.wakeUp_frame (by decide))
    rw [e]
    omega

theorem execTrustAnchorRemove_frame {t session anchor : Nat} {s : State} :
    Answers [.now, .regs, .power, .ranger, .out] s (execTrustAnchorRemove t session anchor s) := by
  refine .next ((Frame.mono State.at__frame (by decide)).trans (State.asRole_frame (fun u => ?_) (by decide)))
  refine .ite (Frame.mono State.emit_frame (by decide)) (.ite ?_ (Frame.mono State.emit_frame (by decide)))
  refine Frame.step (State.modRanger_frame fun h => ⟨h.log, h.sessions, ?_, h.subs⟩) (by decide) (Frame.mono State.wakeUp_frame (by decide))
  have e : u.wakeUp.ranger = u.ranger := (State.wakeUp_frame (s := u)).same .ranger (by decide)
  exact Nat.le_trans (List.length_filter_le _ _) (e ▸ h.anchors)

theorem execFirstAnchorInstall_frame {t : Nat} {role : Role} {cert : Bytes} {s : State} :
    Answers [.now, .ranger, .out] s (execFirstAnchorInstall t role cert s) := by
  have a : Frame [.now, .ranger, .out] s (s.at_ t) := Frame.mono State.at__frame (by decide)
  unfold execFirstAnchorInstall
  dsimp only
  split
  · exact .next a
  · split
    · rename_i h
      have e : (s.at_ t).ranger.anchors = [] := List.isEmpty_iff.mp h
      exact .next (Frame.step (State.addAnchor_frame (by rw [e]; decide)) (by decide) a)
    · exact .next (Frame.step State.emit_frame (by decide) a)

theorem execCertificateInstall_frame {t session : Nat} {spdmSlot1 forIdentityKey : Bool} {cert : Bytes} {s : State} :
    Answers [.now, .regs, .power, .ranger, .out] s (execCertificateInstall t session spdmSlot1 forIdentityKey cert s) := by
  refine .next ((Frame.mono State.at__frame (by decide)).trans (State.asRole_frame (fun u => ?_) (by decide)))
  refine .ite (Frame.mono State.emit_frame (by decide)) (.ite ?_ ?_) <;>
    exact Frame.step (State.modRanger_frame fun h => ⟨h.log, h.sessions, h.anchors, h.subs⟩) (by decide) (Frame.mono State.wakeUp_frame (by decide))

theorem execSpdmMeasurements_frame {t : Nat} {nonce : Bytes} {s : State} :
    Answers [.now, .out, .free] s (execSpdmMeasurements t nonce s) := by
  unfold execSpdmMeasurements
  repeat' (first
    | (lift_lets; intro x; refine Answers.cut x ?_ (fun hx => ?_); rotate_left; clear_value x)
    | (lift_lets; intro x; refine Frame.cut x ?_ (fun hx => ?_); rotate_left; clear_value x)
    | (lift_lets; intro x; with_reducible refine Frame.trans Frame.refl ?_) | with_reducible refine Answers.next ?_
    | with_reducible refine Answers.ite ?_ ?_
    | (with_reducible refine Frame.upd ?_ ?_ ?_; fail_if_success with_reducible exact ChangesOnly.refl)
    | with_reducible exact Frame.refl | with_reducible assumption
    | (with_reducible apply Frame.step State.at__frame; case k => decide)
    | (with_reducible apply Frame.step State.draw_frame; case k => decide)
    | (with_reducible apply Frame.step State.emit_frame; case k => decide) | with_reducible refine Frame.ite ?_ ?_
    | with_reducible refine Frame.of_pair (by assumption) ?_ | split | dsimp only)

theorem execUpdateImage_frame {t session : Nat} {kind : ImageKind} {svn : Nat} {digest : Bytes} {sigOk : Bool} {s : State} :
    Answers [.now, .regs, .power, .ranger, .out] s (execUpdateImage t session kind svn digest sigOk s) := by
  refine .next ((Frame.mono State.at__frame (by decide)).trans (State.asRole_frame (fun u => ?_) (by decide)))
  refine .ite (Frame.mono State.emit_frame (by decide)) ?_
  exact Frame.step (State.modRanger_frame fun h => ⟨h.log, h.sessions, h.anchors, h.subs⟩) (by decide) (Frame.mono State.wakeUp_frame (by decide))

theorem execNetworkProtocolWrite_frame {t session : Nat} {ip6 ip4 gateway : Bytes} {dhcp6 dhcp4 : Bool} {s : State} :
    Answers [.now, .regs, .power, .ranger, .out] s (execNetworkProtocolWrite t session ip6 ip4 gateway dhcp6 dhcp4 s) := by
  refine .next ((Frame.mono State.at__frame (by decide)).trans (State.asRole_frame (fun u => ?_) (by decide)))
  exact Frame.step (State.modRanger_frame fun h => ⟨h.log, h.sessions, h.anchors, h.subs⟩) (by decide) (Frame.mono State.wakeUp_frame (by decide))

theorem State.debugOp_frame {s : State} {op : DebugOp} :
    Frame [.regs, .live, .staged, .engines, .dbg, .out, .free] s (State.debugOp s op) := by
  unfold State.debugOp
  repeat' (first
    | (with_reducible refine Frame.upd ?_ ?_ ?_; fail_if_success with_reducible exact ChangesOnly.refl)
    | with_reducible exact Frame.refl | (with_reducible apply Frame.step State.emit_frame; case k => decide)
    | (with_reducible apply Frame.step State.debugWrite_frame; case k => decide) | with_reducible refine Frame.ite ?_ ?_ | split)

theorem execDebugRequest_frame {t session : Nat} {op : DebugOp} {s : State} :
    Answers [.now, .regs, .live, .staged, .engines, .power, .ranger, .dbg, .out, .free] s (execDebugRequest t session op s) := by
  have a : Frame [.now, .regs, .live, .staged, .engines, .power, .ranger, .dbg, .out, .free] s (s.at_ t) := Frame.mono State.at__frame (by decide)
  unfold execDebugRequest
  dsimp only
  split
  · exact .next a
  · rename_i x _
    have b : Frame [.ranger] (s.at_ t) ((s.at_ t).modRanger (fun r => { r with audit := r.audit ++ [((s.at_ t).rangerNow, x.subject)] })) :=
      State.modRanger_frame fun h => ⟨h.log, h.sessions, h.anchors, h.subs⟩
    refine .next ((b.step (by decide) a).trans ?_)
    exact State.asRole_frame (fun _ => Frame.step State.debugOp_frame (by decide) (Frame.mono State.wakeUp_frame (by decide))) (by decide)

theorem State.reportWeather_frame {s : State} :
    Frame [.ranger, .out] s (State.reportWeather s) := by
  unfold State.reportWeather
  repeat' (first
    | (lift_lets; intro x; refine Frame.cut x ?_ (fun hx => ?_); rotate_left; clear_value x)
    | (lift_lets; intro x; with_reducible refine Frame.trans Frame.refl ?_)
    | (with_reducible refine Frame.upd ?_ ?_ ?_; fail_if_success with_reducible exact ChangesOnly.refl)
    | with_reducible exact Frame.refl | with_reducible assumption
    | (with_reducible apply Frame.step State.reportEvent_frame; case k => decide)
    | (with_reducible apply Frame.step State.emit_frame; case k => decide) | with_reducible refine Frame.ite ?_ ?_ | split)

theorem execWeatheringReport_frame {t : Nat} {s : State} :
    Answers [.now, .ranger, .out] s (execWeatheringReport t s) := by
  unfold execWeatheringReport
  repeat' (first
    | with_reducible refine Answers.next ?_ | with_reducible refine Answers.ite ?_ ?_
    | (with_reducible refine Frame.upd ?_ ?_ ?_; fail_if_success with_reducible exact ChangesOnly.refl)
    | with_reducible exact Frame.refl | (with_reducible apply Frame.step State.reportWeather_frame; case k => decide)
    | (with_reducible apply Frame.step State.at__frame; case k => decide))

theorem execWeatheringSample_frame {t day : Nat} {w : WeatherSample} {s : State} :
    Answers [.now, .health, .ranger, .out] s (execWeatheringSample t day w s) := by
  unfold execWeatheringSample
  repeat' (first
    | (lift_lets; intro x; refine Answers.cut x ?_ (fun hx => ?_); rotate_left; clear_value x)
    | (lift_lets; intro x; refine Frame.cut x ?_ (fun hx => ?_); rotate_left; clear_value x)
    | (lift_lets; intro x; with_reducible refine Frame.trans Frame.refl ?_) | with_reducible refine Answers.next ?_
    | with_reducible refine Answers.ite ?_ ?_
    | (with_reducible refine Frame.upd ?_ ?_ ?_; fail_if_success with_reducible exact ChangesOnly.refl)
    | with_reducible exact Frame.refl | with_reducible assumption
    | (with_reducible apply Frame.step State.at__frame; case k => decide)
    | (with_reducible apply Frame.step State.reportWeather_frame; case k => decide) | with_reducible refine Frame.ite ?_ ?_
    | (intro p hp; cases p <;> first | exact absurd hp (by decide) | rfl) | (intro h; exact h.of_eq rfl rfl rfl rfl) | split
    | dsimp only)

end Sys2Proof.Machine
end

