-- ==== Sys2Proof/Laws/State.lean ====
section
/-! SUPPORT. What each small update of the state does to each field, one lemma per field and update, so that no proof unfolds a record
update. -/
namespace Sys2Proof.Machine

/-! ### at_ -/

@[simp] theorem State.atTime_pending (s : State) (t : Nat) : (s.at_ t).pending = s.pending := rfl
@[simp] theorem State.atTime_now (s : State) (t : Nat) : (s.at_ t).now = max s.now t := rfl
@[simp] theorem State.atTime_regs (s : State) (t : Nat) : (s.at_ t).regs = s.regs := rfl
@[simp] theorem State.atTime_live (s : State) (t : Nat) : (s.at_ t).live = s.live := rfl
@[simp] theorem State.atTime_staged (s : State) (t : Nat) : (s.at_ t).staged = s.staged := rfl
@[simp] theorem State.atTime_tick (s : State) (t : Nat) : (s.at_ t).tick = s.tick := rfl
@[simp] theorem State.atTime_itin (s : State) (t : Nat) : (s.at_ t).itin = s.itin := rfl
@[simp] theorem State.atTime_reqs (s : State) (t : Nat) : (s.at_ t).reqs = s.reqs := rfl
@[simp] theorem State.atTime_nextOrder (s : State) (t : Nat) : (s.at_ t).nextOrder = s.nextOrder := rfl
@[simp] theorem State.atTime_nextSeq (s : State) (t : Nat) : (s.at_ t).nextSeq = s.nextSeq := rfl
@[simp] theorem State.atTime_ctxs (s : State) (t : Nat) : (s.at_ t).ctxs = s.ctxs := rfl
@[simp] theorem State.atTime_engines (s : State) (t : Nat) : (s.at_ t).engines = s.engines := rfl
@[simp] theorem State.atTime_tiles (s : State) (t : Nat) : (s.at_ t).tiles = s.tiles := rfl
@[simp] theorem State.atTime_locals (s : State) (t : Nat) : (s.at_ t).locals = s.locals := rfl
@[simp] theorem State.atTime_conns (s : State) (t : Nat) : (s.at_ t).conns = s.conns := rfl
@[simp] theorem State.atTime_regions (s : State) (t : Nat) : (s.at_ t).regions = s.regions := rfl
@[simp] theorem State.atTime_links (s : State) (t : Nat) : (s.at_ t).links = s.links := rfl
@[simp] theorem State.atTime_comp (s : State) (t : Nat) : (s.at_ t).comp = s.comp := rfl
@[simp] theorem State.atTime_tier (s : State) (t : Nat) : (s.at_ t).tier = s.tier := rfl
@[simp] theorem State.atTime_sec (s : State) (t : Nat) : (s.at_ t).sec = s.sec := rfl
@[simp] theorem State.atTime_health (s : State) (t : Nat) : (s.at_ t).health = s.health := rfl
@[simp] theorem State.atTime_power (s : State) (t : Nat) : (s.at_ t).power = s.power := rfl
@[simp] theorem State.atTime_pins (s : State) (t : Nat) : (s.at_ t).pins = s.pins := rfl
@[simp] theorem State.atTime_ranger (s : State) (t : Nat) : (s.at_ t).ranger = s.ranger := rfl
@[simp] theorem State.atTime_dbg (s : State) (t : Nat) : (s.at_ t).dbg = s.dbg := rfl
@[simp] theorem State.atTime_nv (s : State) (t : Nat) : (s.at_ t).nv = s.nv := rfl
@[simp] theorem State.atTime_out (s : State) (t : Nat) : (s.at_ t).out = s.out := rfl
@[simp] theorem State.atTime_free (s : State) (t : Nat) : (s.at_ t).free = s.free := rfl

/-! ### wr -/

@[simp] theorem State.wr_pending (s : State) (f : Field) (v n : Nat) : (s.wr f v n).pending = s.pending := rfl
@[simp] theorem State.wr_now (s : State) (f : Field) (v n : Nat) : (s.wr f v n).now = s.now := rfl
@[simp] theorem State.wr_regs (s : State) (f : Field) (v n : Nat) : (s.wr f v n).regs = fput s.regs f v n := rfl
@[simp] theorem State.wr_live (s : State) (f : Field) (v n : Nat) : (s.wr f v n).live = s.live := rfl
@[simp] theorem State.wr_staged (s : State) (f : Field) (v n : Nat) : (s.wr f v n).staged = s.staged := rfl
@[simp] theorem State.wr_tick (s : State) (f : Field) (v n : Nat) : (s.wr f v n).tick = s.tick := rfl
@[simp] theorem State.wr_itin (s : State) (f : Field) (v n : Nat) : (s.wr f v n).itin = s.itin := rfl
@[simp] theorem State.wr_reqs (s : State) (f : Field) (v n : Nat) : (s.wr f v n).reqs = s.reqs := rfl
@[simp] theorem State.wr_nextOrder (s : State) (f : Field) (v n : Nat) : (s.wr f v n).nextOrder = s.nextOrder := rfl
@[simp] theorem State.wr_nextSeq (s : State) (f : Field) (v n : Nat) : (s.wr f v n).nextSeq = s.nextSeq := rfl
@[simp] theorem State.wr_ctxs (s : State) (f : Field) (v n : Nat) : (s.wr f v n).ctxs = s.ctxs := rfl
@[simp] theorem State.wr_engines (s : State) (f : Field) (v n : Nat) : (s.wr f v n).engines = s.engines := rfl
@[simp] theorem State.wr_tiles (s : State) (f : Field) (v n : Nat) : (s.wr f v n).tiles = s.tiles := rfl
@[simp] theorem State.wr_locals (s : State) (f : Field) (v n : Nat) : (s.wr f v n).locals = s.locals := rfl
@[simp] theorem State.wr_conns (s : State) (f : Field) (v n : Nat) : (s.wr f v n).conns = s.conns := rfl
@[simp] theorem State.wr_regions (s : State) (f : Field) (v n : Nat) : (s.wr f v n).regions = s.regions := rfl
@[simp] theorem State.wr_links (s : State) (f : Field) (v n : Nat) : (s.wr f v n).links = s.links := rfl
@[simp] theorem State.wr_comp (s : State) (f : Field) (v n : Nat) : (s.wr f v n).comp = s.comp := rfl
@[simp] theorem State.wr_tier (s : State) (f : Field) (v n : Nat) : (s.wr f v n).tier = s.tier := rfl
@[simp] theorem State.wr_sec (s : State) (f : Field) (v n : Nat) : (s.wr f v n).sec = s.sec := rfl
@[simp] theorem State.wr_health (s : State) (f : Field) (v n : Nat) : (s.wr f v n).health = s.health := rfl
@[simp] theorem State.wr_power (s : State) (f : Field) (v n : Nat) : (s.wr f v n).power = s.power := rfl
@[simp] theorem State.wr_pins (s : State) (f : Field) (v n : Nat) : (s.wr f v n).pins = s.pins := rfl
@[simp] theorem State.wr_ranger (s : State) (f : Field) (v n : Nat) : (s.wr f v n).ranger = s.ranger := rfl
@[simp] theorem State.wr_dbg (s : State) (f : Field) (v n : Nat) : (s.wr f v n).dbg = s.dbg := rfl
@[simp] theorem State.wr_nv (s : State) (f : Field) (v n : Nat) : (s.wr f v n).nv = s.nv := rfl
@[simp] theorem State.wr_out (s : State) (f : Field) (v n : Nat) : (s.wr f v n).out = s.out := rfl
@[simp] theorem State.wr_free (s : State) (f : Field) (v n : Nat) : (s.wr f v n).free = s.free := rfl

/-! ### emit -/

@[simp] theorem State.emit_pending (s : State) (o : Out) : (s.emit o).pending = s.pending := rfl
@[simp] theorem State.emit_now (s : State) (o : Out) : (s.emit o).now = s.now := rfl
@[simp] theorem State.emit_regs (s : State) (o : Out) : (s.emit o).regs = s.regs := rfl
@[simp] theorem State.emit_live (s : State) (o : Out) : (s.emit o).live = s.live := rfl
@[simp] theorem State.emit_staged (s : State) (o : Out) : (s.emit o).staged = s.staged := rfl
@[simp] theorem State.emit_tick (s : State) (o : Out) : (s.emit o).tick = s.tick := rfl
@[simp] theorem State.emit_itin (s : State) (o : Out) : (s.emit o).itin = s.itin := rfl
@[simp] theorem State.emit_reqs (s : State) (o : Out) : (s.emit o).reqs = s.reqs := rfl
@[simp] theorem State.emit_nextOrder (s : State) (o : Out) : (s.emit o).nextOrder = s.nextOrder := rfl
@[simp] theorem State.emit_nextSeq (s : State) (o : Out) : (s.emit o).nextSeq = s.nextSeq := rfl
@[simp] theorem State.emit_ctxs (s : State) (o : Out) : (s.emit o).ctxs = s.ctxs := rfl
@[simp] theorem State.emit_engines (s : State) (o : Out) : (s.emit o).engines = s.engines := rfl
@[simp] theorem State.emit_tiles (s : State) (o : Out) : (s.emit o).tiles = s.tiles := rfl
@[simp] theorem State.emit_locals (s : State) (o : Out) : (s.emit o).locals = s.locals := rfl
@[simp] theorem State.emit_conns (s : State) (o : Out) : (s.emit o).conns = s.conns := rfl
@[simp] theorem State.emit_regions (s : State) (o : Out) : (s.emit o).regions = s.regions := rfl
@[simp] theorem State.emit_links (s : State) (o : Out) : (s.emit o).links = s.links := rfl
@[simp] theorem State.emit_comp (s : State) (o : Out) : (s.emit o).comp = s.comp := rfl
@[simp] theorem State.emit_tier (s : State) (o : Out) : (s.emit o).tier = s.tier := rfl
@[simp] theorem State.emit_sec (s : State) (o : Out) : (s.emit o).sec = s.sec := rfl
@[simp] theorem State.emit_health (s : State) (o : Out) : (s.emit o).health = s.health := rfl
@[simp] theorem State.emit_power (s : State) (o : Out) : (s.emit o).power = s.power := rfl
@[simp] theorem State.emit_pins (s : State) (o : Out) : (s.emit o).pins = s.pins := rfl
@[simp] theorem State.emit_ranger (s : State) (o : Out) : (s.emit o).ranger = s.ranger := rfl
@[simp] theorem State.emit_dbg (s : State) (o : Out) : (s.emit o).dbg = s.dbg := rfl
@[simp] theorem State.emit_nv (s : State) (o : Out) : (s.emit o).nv = s.nv := rfl
@[simp] theorem State.emit_out (s : State) (o : Out) : (s.emit o).out = o :: s.out := rfl
@[simp] theorem State.emit_free (s : State) (o : Out) : (s.emit o).free = s.free := rfl

/-! ### writeNow -/

@[simp] theorem State.writeNow_pending (s : State) (off : Nat) (v : Word) : (s.writeNow off v).pending = s.pending := rfl
@[simp] theorem State.writeNow_now (s : State) (off : Nat) (v : Word) : (s.writeNow off v).now = s.now := rfl
@[simp] theorem State.writeNow_regs (s : State) (off : Nat) (v : Word) : (s.writeNow off v).regs = putReg s.regs off v := rfl
@[simp] theorem State.writeNow_live (s : State) (off : Nat) (v : Word) : (s.writeNow off v).live = putReg s.live off v := rfl
@[simp] theorem State.writeNow_staged (s : State) (off : Nat) (v : Word) : (s.writeNow off v).staged = s.staged := rfl
@[simp] theorem State.writeNow_tick (s : State) (off : Nat) (v : Word) : (s.writeNow off v).tick = s.tick := rfl
@[simp] theorem State.writeNow_itin (s : State) (off : Nat) (v : Word) : (s.writeNow off v).itin = s.itin := rfl
@[simp] theorem State.writeNow_reqs (s : State) (off : Nat) (v : Word) : (s.writeNow off v).reqs = s.reqs := rfl
@[simp] theorem State.writeNow_nextOrder (s : State) (off : Nat) (v : Word) : (s.writeNow off v).nextOrder = s.nextOrder := rfl
@[simp] theorem State.writeNow_nextSeq (s : State) (off : Nat) (v : Word) : (s.writeNow off v).nextSeq = s.nextSeq := rfl
@[simp] theorem State.writeNow_ctxs (s : State) (off : Nat) (v : Word) : (s.writeNow off v).ctxs = s.ctxs := rfl
@[simp] theorem State.writeNow_engines (s : State) (off : Nat) (v : Word) : (s.writeNow off v).engines = s.engines := rfl
@[simp] theorem State.writeNow_tiles (s : State) (off : Nat) (v : Word) : (s.writeNow off v).tiles = s.tiles := rfl
@[simp] theorem State.writeNow_locals (s : State) (off : Nat) (v : Word) : (s.writeNow off v).locals = s.locals := rfl
@[simp] theorem State.writeNow_conns (s : State) (off : Nat) (v : Word) : (s.writeNow off v).conns = s.conns := rfl
@[simp] theorem State.writeNow_regions (s : State) (off : Nat) (v : Word) : (s.writeNow off v).regions = s.regions := rfl
@[simp] theorem State.writeNow_links (s : State) (off : Nat) (v : Word) : (s.writeNow off v).links = s.links := rfl
@[simp] theorem State.writeNow_comp (s : State) (off : Nat) (v : Word) : (s.writeNow off v).comp = s.comp := rfl
@[simp] theorem State.writeNow_tier (s : State) (off : Nat) (v : Word) : (s.writeNow off v).tier = s.tier := rfl
@[simp] theorem State.writeNow_sec (s : State) (off : Nat) (v : Word) : (s.writeNow off v).sec = s.sec := rfl
@[simp] theorem State.writeNow_health (s : State) (off : Nat) (v : Word) : (s.writeNow off v).health = s.health := rfl
@[simp] theorem State.writeNow_power (s : State) (off : Nat) (v : Word) : (s.writeNow off v).power = s.power := rfl
@[simp] theorem State.writeNow_pins (s : State) (off : Nat) (v : Word) : (s.writeNow off v).pins = s.pins := rfl
@[simp] theorem State.writeNow_ranger (s : State) (off : Nat) (v : Word) : (s.writeNow off v).ranger = s.ranger := rfl
@[simp] theorem State.writeNow_dbg (s : State) (off : Nat) (v : Word) : (s.writeNow off v).dbg = s.dbg := rfl
@[simp] theorem State.writeNow_nv (s : State) (off : Nat) (v : Word) : (s.writeNow off v).nv = s.nv := rfl
@[simp] theorem State.writeNow_out (s : State) (off : Nat) (v : Word) : (s.writeNow off v).out = s.out := rfl
@[simp] theorem State.writeNow_free (s : State) (off : Nat) (v : Word) : (s.writeNow off v).free = s.free := rfl

/-! ### writeStaged -/

@[simp] theorem State.writeStaged_pending (s : State) (off : Nat) (v : Word) : (s.writeStaged off v).pending = s.pending := rfl
@[simp] theorem State.writeStaged_now (s : State) (off : Nat) (v : Word) : (s.writeStaged off v).now = s.now := rfl
@[simp] theorem State.writeStaged_regs (s : State) (off : Nat) (v : Word) : (s.writeStaged off v).regs = putReg s.regs off v := rfl
@[simp] theorem State.writeStaged_live (s : State) (off : Nat) (v : Word) : (s.writeStaged off v).live = s.live := rfl
@[simp] theorem State.writeStaged_staged (s : State) (off : Nat) (v : Word) : (s.writeStaged off v).staged = s.staged ++ [⟨s.now, off, v⟩] := rfl
@[simp] theorem State.writeStaged_tick (s : State) (off : Nat) (v : Word) : (s.writeStaged off v).tick = s.tick := rfl
@[simp] theorem State.writeStaged_itin (s : State) (off : Nat) (v : Word) : (s.writeStaged off v).itin = s.itin := rfl
@[simp] theorem State.writeStaged_reqs (s : State) (off : Nat) (v : Word) : (s.writeStaged off v).reqs = s.reqs := rfl
@[simp] theorem State.writeStaged_nextOrder (s : State) (off : Nat) (v : Word) : (s.writeStaged off v).nextOrder = s.nextOrder := rfl
@[simp] theorem State.writeStaged_nextSeq (s : State) (off : Nat) (v : Word) : (s.writeStaged off v).nextSeq = s.nextSeq := rfl
@[simp] theorem State.writeStaged_ctxs (s : State) (off : Nat) (v : Word) : (s.writeStaged off v).ctxs = s.ctxs := rfl
@[simp] theorem State.writeStaged_engines (s : State) (off : Nat) (v : Word) : (s.writeStaged off v).engines = s.engines := rfl
@[simp] theorem State.writeStaged_tiles (s : State) (off : Nat) (v : Word) : (s.writeStaged off v).tiles = s.tiles := rfl
@[simp] theorem State.writeStaged_locals (s : State) (off : Nat) (v : Word) : (s.writeStaged off v).locals = s.locals := rfl
@[simp] theorem State.writeStaged_conns (s : State) (off : Nat) (v : Word) : (s.writeStaged off v).conns = s.conns := rfl
@[simp] theorem State.writeStaged_regions (s : State) (off : Nat) (v : Word) : (s.writeStaged off v).regions = s.regions := rfl
@[simp] theorem State.writeStaged_links (s : State) (off : Nat) (v : Word) : (s.writeStaged off v).links = s.links := rfl
@[simp] theorem State.writeStaged_comp (s : State) (off : Nat) (v : Word) : (s.writeStaged off v).comp = s.comp := rfl
@[simp] theorem State.writeStaged_tier (s : State) (off : Nat) (v : Word) : (s.writeStaged off v).tier = s.tier := rfl
@[simp] theorem State.writeStaged_sec (s : State) (off : Nat) (v : Word) : (s.writeStaged off v).sec = s.sec := rfl
@[simp] theorem State.writeStaged_health (s : State) (off : Nat) (v : Word) : (s.writeStaged off v).health = s.health := rfl
@[simp] theorem State.writeStaged_power (s : State) (off : Nat) (v : Word) : (s.writeStaged off v).power = s.power := rfl
@[simp] theorem State.writeStaged_pins (s : State) (off : Nat) (v : Word) : (s.writeStaged off v).pins = s.pins := rfl
@[simp] theorem State.writeStaged_ranger (s : State) (off : Nat) (v : Word) : (s.writeStaged off v).ranger = s.ranger := rfl
@[simp] theorem State.writeStaged_dbg (s : State) (off : Nat) (v : Word) : (s.writeStaged off v).dbg = s.dbg := rfl
@[simp] theorem State.writeStaged_nv (s : State) (off : Nat) (v : Word) : (s.writeStaged off v).nv = s.nv := rfl
@[simp] theorem State.writeStaged_out (s : State) (off : Nat) (v : Word) : (s.writeStaged off v).out = s.out := rfl
@[simp] theorem State.writeStaged_free (s : State) (off : Nat) (v : Word) : (s.writeStaged off v).free = s.free := rfl

/-! ### setCtx -/

@[simp] theorem State.setCtx_pending (s : State) (c : Nat) (x : Ctx) : (s.setCtx c x).pending = s.pending := rfl
@[simp] theorem State.setCtx_now (s : State) (c : Nat) (x : Ctx) : (s.setCtx c x).now = s.now := rfl
@[simp] theorem State.setCtx_regs (s : State) (c : Nat) (x : Ctx) : (s.setCtx c x).regs = s.regs := rfl
@[simp] theorem State.setCtx_live (s : State) (c : Nat) (x : Ctx) : (s.setCtx c x).live = s.live := rfl
@[simp] theorem State.setCtx_staged (s : State) (c : Nat) (x : Ctx) : (s.setCtx c x).staged = s.staged := rfl
@[simp] theorem State.setCtx_tick (s : State) (c : Nat) (x : Ctx) : (s.setCtx c x).tick = s.tick := rfl
@[simp] theorem State.setCtx_itin (s : State) (c : Nat) (x : Ctx) : (s.setCtx c x).itin = s.itin := rfl
@[simp] theorem State.setCtx_reqs (s : State) (c : Nat) (x : Ctx) : (s.setCtx c x).reqs = s.reqs := rfl
@[simp] theorem State.setCtx_nextOrder (s : State) (c : Nat) (x : Ctx) : (s.setCtx c x).nextOrder = s.nextOrder := rfl
@[simp] theorem State.setCtx_nextSeq (s : State) (c : Nat) (x : Ctx) : (s.setCtx c x).nextSeq = s.nextSeq := rfl
@[simp] theorem State.setCtx_ctxs (s : State) (c : Nat) (x : Ctx) : (s.setCtx c x).ctxs = mset s.ctxs c x := rfl
@[simp] theorem State.setCtx_engines (s : State) (c : Nat) (x : Ctx) : (s.setCtx c x).engines = s.engines := rfl
@[simp] theorem State.setCtx_tiles (s : State) (c : Nat) (x : Ctx) : (s.setCtx c x).tiles = s.tiles := rfl
@[simp] theorem State.setCtx_locals (s : State) (c : Nat) (x : Ctx) : (s.setCtx c x).locals = s.locals := rfl
@[simp] theorem State.setCtx_conns (s : State) (c : Nat) (x : Ctx) : (s.setCtx c x).conns = s.conns := rfl
@[simp] theorem State.setCtx_regions (s : State) (c : Nat) (x : Ctx) : (s.setCtx c x).regions = s.regions := rfl
@[simp] theorem State.setCtx_links (s : State) (c : Nat) (x : Ctx) : (s.setCtx c x).links = s.links := rfl
@[simp] theorem State.setCtx_comp (s : State) (c : Nat) (x : Ctx) : (s.setCtx c x).comp = s.comp := rfl
@[simp] theorem State.setCtx_tier (s : State) (c : Nat) (x : Ctx) : (s.setCtx c x).tier = s.tier := rfl
@[simp] theorem State.setCtx_sec (s : State) (c : Nat) (x : Ctx) : (s.setCtx c x).sec = s.sec := rfl
@[simp] theorem State.setCtx_health (s : State) (c : Nat) (x : Ctx) : (s.setCtx c x).health = s.health := rfl
@[simp] theorem State.setCtx_power (s : State) (c : Nat) (x : Ctx) : (s.setCtx c x).power = s.power := rfl
@[simp] theorem State.setCtx_pins (s : State) (c : Nat) (x : Ctx) : (s.setCtx c x).pins = s.pins := rfl
@[simp] theorem State.setCtx_ranger (s : State) (c : Nat) (x : Ctx) : (s.setCtx c x).ranger = s.ranger := rfl
@[simp] theorem State.setCtx_dbg (s : State) (c : Nat) (x : Ctx) : (s.setCtx c x).dbg = s.dbg := rfl
@[simp] theorem State.setCtx_nv (s : State) (c : Nat) (x : Ctx) : (s.setCtx c x).nv = s.nv := rfl
@[simp] theorem State.setCtx_out (s : State) (c : Nat) (x : Ctx) : (s.setCtx c x).out = s.out := rfl
@[simp] theorem State.setCtx_free (s : State) (c : Nat) (x : Ctx) : (s.setCtx c x).free = s.free := rfl

/-! ### modCtx -/

@[simp] theorem State.modCtx_pending (s : State) (c : Nat) (f : Ctx → Ctx) : (s.modCtx c f).pending = s.pending := rfl
@[simp] theorem State.modCtx_now (s : State) (c : Nat) (f : Ctx → Ctx) : (s.modCtx c f).now = s.now := rfl
@[simp] theorem State.modCtx_regs (s : State) (c : Nat) (f : Ctx → Ctx) : (s.modCtx c f).regs = s.regs := rfl
@[simp] theorem State.modCtx_live (s : State) (c : Nat) (f : Ctx → Ctx) : (s.modCtx c f).live = s.live := rfl
@[simp] theorem State.modCtx_staged (s : State) (c : Nat) (f : Ctx → Ctx) : (s.modCtx c f).staged = s.staged := rfl
@[simp] theorem State.modCtx_tick (s : State) (c : Nat) (f : Ctx → Ctx) : (s.modCtx c f).tick = s.tick := rfl
@[simp] theorem State.modCtx_itin (s : State) (c : Nat) (f : Ctx → Ctx) : (s.modCtx c f).itin = s.itin := rfl
@[simp] theorem State.modCtx_reqs (s : State) (c : Nat) (f : Ctx → Ctx) : (s.modCtx c f).reqs = s.reqs := rfl
@[simp] theorem State.modCtx_nextOrder (s : State) (c : Nat) (f : Ctx → Ctx) : (s.modCtx c f).nextOrder = s.nextOrder := rfl
@[simp] theorem State.modCtx_nextSeq (s : State) (c : Nat) (f : Ctx → Ctx) : (s.modCtx c f).nextSeq = s.nextSeq := rfl
@[simp] theorem State.modCtx_ctxs (s : State) (c : Nat) (f : Ctx → Ctx) : (s.modCtx c f).ctxs = mset s.ctxs c (f (s.ctx c)) := rfl
@[simp] theorem State.modCtx_engines (s : State) (c : Nat) (f : Ctx → Ctx) : (s.modCtx c f).engines = s.engines := rfl
@[simp] theorem State.modCtx_tiles (s : State) (c : Nat) (f : Ctx → Ctx) : (s.modCtx c f).tiles = s.tiles := rfl
@[simp] theorem State.modCtx_locals (s : State) (c : Nat) (f : Ctx → Ctx) : (s.modCtx c f).locals = s.locals := rfl
@[simp] theorem State.modCtx_conns (s : State) (c : Nat) (f : Ctx → Ctx) : (s.modCtx c f).conns = s.conns := rfl
@[simp] theorem State.modCtx_regions (s : State) (c : Nat) (f : Ctx → Ctx) : (s.modCtx c f).regions = s.regions := rfl
@[simp] theorem State.modCtx_links (s : State) (c : Nat) (f : Ctx → Ctx) : (s.modCtx c f).links = s.links := rfl
@[simp] theorem State.modCtx_comp (s : State) (c : Nat) (f : Ctx → Ctx) : (s.modCtx c f).comp = s.comp := rfl
@[simp] theorem State.modCtx_tier (s : State) (c : Nat) (f : Ctx → Ctx) : (s.modCtx c f).tier = s.tier := rfl
@[simp] theorem State.modCtx_sec (s : State) (c : Nat) (f : Ctx → Ctx) : (s.modCtx c f).sec = s.sec := rfl
@[simp] theorem State.modCtx_health (s : State) (c : Nat) (f : Ctx → Ctx) : (s.modCtx c f).health = s.health := rfl
@[simp] theorem State.modCtx_power (s : State) (c : Nat) (f : Ctx → Ctx) : (s.modCtx c f).power = s.power := rfl
@[simp] theorem State.modCtx_pins (s : State) (c : Nat) (f : Ctx → Ctx) : (s.modCtx c f).pins = s.pins := rfl
@[simp] theorem State.modCtx_ranger (s : State) (c : Nat) (f : Ctx → Ctx) : (s.modCtx c f).ranger = s.ranger := rfl
@[simp] theorem State.modCtx_dbg (s : State) (c : Nat) (f : Ctx → Ctx) : (s.modCtx c f).dbg = s.dbg := rfl
@[simp] theorem State.modCtx_nv (s : State) (c : Nat) (f : Ctx → Ctx) : (s.modCtx c f).nv = s.nv := rfl
@[simp] theorem State.modCtx_out (s : State) (c : Nat) (f : Ctx → Ctx) : (s.modCtx c f).out = s.out := rfl
@[simp] theorem State.modCtx_free (s : State) (c : Nat) (f : Ctx → Ctx) : (s.modCtx c f).free = s.free := rfl

/-! ### modRanger -/

@[simp] theorem State.modRanger_pending (s : State) (f : Ranger → Ranger) : (s.modRanger f).pending = s.pending := rfl
@[simp] theorem State.modRanger_now (s : State) (f : Ranger → Ranger) : (s.modRanger f).now = s.now := rfl
@[simp] theorem State.modRanger_regs (s : State) (f : Ranger → Ranger) : (s.modRanger f).regs = s.regs := rfl
@[simp] theorem State.modRanger_live (s : State) (f : Ranger → Ranger) : (s.modRanger f).live = s.live := rfl
@[simp] theorem State.modRanger_staged (s : State) (f : Ranger → Ranger) : (s.modRanger f).staged = s.staged := rfl
@[simp] theorem State.modRanger_tick (s : State) (f : Ranger → Ranger) : (s.modRanger f).tick = s.tick := rfl
@[simp] theorem State.modRanger_itin (s : State) (f : Ranger → Ranger) : (s.modRanger f).itin = s.itin := rfl
@[simp] theorem State.modRanger_reqs (s : State) (f : Ranger → Ranger) : (s.modRanger f).reqs = s.reqs := rfl
@[simp] theorem State.modRanger_nextOrder (s : State) (f : Ranger → Ranger) : (s.modRanger f).nextOrder = s.nextOrder := rfl
@[simp] theorem State.modRanger_nextSeq (s : State) (f : Ranger → Ranger) : (s.modRanger f).nextSeq = s.nextSeq := rfl
@[simp] theorem State.modRanger_ctxs (s : State) (f : Ranger → Ranger) : (s.modRanger f).ctxs = s.ctxs := rfl
@[simp] theorem State.modRanger_engines (s : State) (f : Ranger → Ranger) : (s.modRanger f).engines = s.engines := rfl
@[simp] theorem State.modRanger_tiles (s : State) (f : Ranger → Ranger) : (s.modRanger f).tiles = s.tiles := rfl
@[simp] theorem State.modRanger_locals (s : State) (f : Ranger → Ranger) : (s.modRanger f).locals = s.locals := rfl
@[simp] theorem State.modRanger_conns (s : State) (f : Ranger → Ranger) : (s.modRanger f).conns = s.conns := rfl
@[simp] theorem State.modRanger_regions (s : State) (f : Ranger → Ranger) : (s.modRanger f).regions = s.regions := rfl
@[simp] theorem State.modRanger_links (s : State) (f : Ranger → Ranger) : (s.modRanger f).links = s.links := rfl
@[simp] theorem State.modRanger_comp (s : State) (f : Ranger → Ranger) : (s.modRanger f).comp = s.comp := rfl
@[simp] theorem State.modRanger_tier (s : State) (f : Ranger → Ranger) : (s.modRanger f).tier = s.tier := rfl
@[simp] theorem State.modRanger_sec (s : State) (f : Ranger → Ranger) : (s.modRanger f).sec = s.sec := rfl
@[simp] theorem State.modRanger_health (s : State) (f : Ranger → Ranger) : (s.modRanger f).health = s.health := rfl
@[simp] theorem State.modRanger_power (s : State) (f : Ranger → Ranger) : (s.modRanger f).power = s.power := rfl
@[simp] theorem State.modRanger_pins (s : State) (f : Ranger → Ranger) : (s.modRanger f).pins = s.pins := rfl
@[simp] theorem State.modRanger_ranger (s : State) (f : Ranger → Ranger) : (s.modRanger f).ranger = f s.ranger := rfl
@[simp] theorem State.modRanger_dbg (s : State) (f : Ranger → Ranger) : (s.modRanger f).dbg = s.dbg := rfl
@[simp] theorem State.modRanger_nv (s : State) (f : Ranger → Ranger) : (s.modRanger f).nv = s.nv := rfl
@[simp] theorem State.modRanger_out (s : State) (f : Ranger → Ranger) : (s.modRanger f).out = s.out := rfl
@[simp] theorem State.modRanger_free (s : State) (f : Ranger → Ranger) : (s.modRanger f).free = s.free := rfl

/-! ### modReq -/

@[simp] theorem State.modReq_pending (s : State) (id : Nat) (f : Req → Req) : (s.modReq id f).pending = s.pending := rfl
@[simp] theorem State.modReq_now (s : State) (id : Nat) (f : Req → Req) : (s.modReq id f).now = s.now := rfl
@[simp] theorem State.modReq_regs (s : State) (id : Nat) (f : Req → Req) : (s.modReq id f).regs = s.regs := rfl
@[simp] theorem State.modReq_live (s : State) (id : Nat) (f : Req → Req) : (s.modReq id f).live = s.live := rfl
@[simp] theorem State.modReq_staged (s : State) (id : Nat) (f : Req → Req) : (s.modReq id f).staged = s.staged := rfl
@[simp] theorem State.modReq_tick (s : State) (id : Nat) (f : Req → Req) : (s.modReq id f).tick = s.tick := rfl
@[simp] theorem State.modReq_itin (s : State) (id : Nat) (f : Req → Req) : (s.modReq id f).itin = s.itin := rfl
@[simp] theorem State.modReq_reqs (s : State) (id : Nat) (f : Req → Req) : (s.modReq id f).reqs = lmod s.reqs (fun r => r.id == id) f := rfl
@[simp] theorem State.modReq_nextOrder (s : State) (id : Nat) (f : Req → Req) : (s.modReq id f).nextOrder = s.nextOrder := rfl
@[simp] theorem State.modReq_nextSeq (s : State) (id : Nat) (f : Req → Req) : (s.modReq id f).nextSeq = s.nextSeq := rfl
@[simp] theorem State.modReq_ctxs (s : State) (id : Nat) (f : Req → Req) : (s.modReq id f).ctxs = s.ctxs := rfl
@[simp] theorem State.modReq_engines (s : State) (id : Nat) (f : Req → Req) : (s.modReq id f).engines = s.engines := rfl
@[simp] theorem State.modReq_tiles (s : State) (id : Nat) (f : Req → Req) : (s.modReq id f).tiles = s.tiles := rfl
@[simp] theorem State.modReq_locals (s : State) (id : Nat) (f : Req → Req) : (s.modReq id f).locals = s.locals := rfl
@[simp] theorem State.modReq_conns (s : State) (id : Nat) (f : Req → Req) : (s.modReq id f).conns = s.conns := rfl
@[simp] theorem State.modReq_regions (s : State) (id : Nat) (f : Req → Req) : (s.modReq id f).regions = s.regions := rfl
@[simp] theorem State.modReq_links (s : State) (id : Nat) (f : Req → Req) : (s.modReq id f).links = s.links := rfl
@[simp] theorem State.modReq_comp (s : State) (id : Nat) (f : Req → Req) : (s.modReq id f).comp = s.comp := rfl
@[simp] theorem State.modReq_tier (s : State) (id : Nat) (f : Req → Req) : (s.modReq id f).tier = s.tier := rfl
@[simp] theorem State.modReq_sec (s : State) (id : Nat) (f : Req → Req) : (s.modReq id f).sec = s.sec := rfl
@[simp] theorem State.modReq_health (s : State) (id : Nat) (f : Req → Req) : (s.modReq id f).health = s.health := rfl
@[simp] theorem State.modReq_power (s : State) (id : Nat) (f : Req → Req) : (s.modReq id f).power = s.power := rfl
@[simp] theorem State.modReq_pins (s : State) (id : Nat) (f : Req → Req) : (s.modReq id f).pins = s.pins := rfl
@[simp] theorem State.modReq_ranger (s : State) (id : Nat) (f : Req → Req) : (s.modReq id f).ranger = s.ranger := rfl
@[simp] theorem State.modReq_dbg (s : State) (id : Nat) (f : Req → Req) : (s.modReq id f).dbg = s.dbg := rfl
@[simp] theorem State.modReq_nv (s : State) (id : Nat) (f : Req → Req) : (s.modReq id f).nv = s.nv := rfl
@[simp] theorem State.modReq_out (s : State) (id : Nat) (f : Req → Req) : (s.modReq id f).out = s.out := rfl
@[simp] theorem State.modReq_free (s : State) (id : Nat) (f : Req → Req) : (s.modReq id f).free = s.free := rfl

/-! ### modEngine -/

@[simp] theorem State.modEngine_pending (s : State) (n : Nat) (f : Engine → Engine) : (s.modEngine n f).pending = s.pending := rfl
@[simp] theorem State.modEngine_now (s : State) (n : Nat) (f : Engine → Engine) : (s.modEngine n f).now = s.now := rfl
@[simp] theorem State.modEngine_regs (s : State) (n : Nat) (f : Engine → Engine) : (s.modEngine n f).regs = s.regs := rfl
@[simp] theorem State.modEngine_live (s : State) (n : Nat) (f : Engine → Engine) : (s.modEngine n f).live = s.live := rfl
@[simp] theorem State.modEngine_staged (s : State) (n : Nat) (f : Engine → Engine) : (s.modEngine n f).staged = s.staged := rfl
@[simp] theorem State.modEngine_tick (s : State) (n : Nat) (f : Engine → Engine) : (s.modEngine n f).tick = s.tick := rfl
@[simp] theorem State.modEngine_itin (s : State) (n : Nat) (f : Engine → Engine) : (s.modEngine n f).itin = s.itin := rfl
@[simp] theorem State.modEngine_reqs (s : State) (n : Nat) (f : Engine → Engine) : (s.modEngine n f).reqs = s.reqs := rfl
@[simp] theorem State.modEngine_nextOrder (s : State) (n : Nat) (f : Engine → Engine) : (s.modEngine n f).nextOrder = s.nextOrder := rfl
@[simp] theorem State.modEngine_nextSeq (s : State) (n : Nat) (f : Engine → Engine) : (s.modEngine n f).nextSeq = s.nextSeq := rfl
@[simp] theorem State.modEngine_ctxs (s : State) (n : Nat) (f : Engine → Engine) : (s.modEngine n f).ctxs = s.ctxs := rfl
@[simp] theorem State.modEngine_engines (s : State) (n : Nat) (f : Engine → Engine) : (s.modEngine n f).engines = mset s.engines n (f (s.engine n)) := rfl
@[simp] theorem State.modEngine_tiles (s : State) (n : Nat) (f : Engine → Engine) : (s.modEngine n f).tiles = s.tiles := rfl
@[simp] theorem State.modEngine_locals (s : State) (n : Nat) (f : Engine → Engine) : (s.modEngine n f).locals = s.locals := rfl
@[simp] theorem State.modEngine_conns (s : State) (n : Nat) (f : Engine → Engine) : (s.modEngine n f).conns = s.conns := rfl
@[simp] theorem State.modEngine_regions (s : State) (n : Nat) (f : Engine → Engine) : (s.modEngine n f).regions = s.regions := rfl
@[simp] theorem State.modEngine_links (s : State) (n : Nat) (f : Engine → Engine) : (s.modEngine n f).links = s.links := rfl
@[simp] theorem State.modEngine_comp (s : State) (n : Nat) (f : Engine → Engine) : (s.modEngine n f).comp = s.comp := rfl
@[simp] theorem State.modEngine_tier (s : State) (n : Nat) (f : Engine → Engine) : (s.modEngine n f).tier = s.tier := rfl
@[simp] theorem State.modEngine_sec (s : State) (n : Nat) (f : Engine → Engine) : (s.modEngine n f).sec = s.sec := rfl
@[simp] theorem State.modEngine_health (s : State) (n : Nat) (f : Engine → Engine) : (s.modEngine n f).health = s.health := rfl
@[simp] theorem State.modEngine_power (s : State) (n : Nat) (f : Engine → Engine) : (s.modEngine n f).power = s.power := rfl
@[simp] theorem State.modEngine_pins (s : State) (n : Nat) (f : Engine → Engine) : (s.modEngine n f).pins = s.pins := rfl
@[simp] theorem State.modEngine_ranger (s : State) (n : Nat) (f : Engine → Engine) : (s.modEngine n f).ranger = s.ranger := rfl
@[simp] theorem State.modEngine_dbg (s : State) (n : Nat) (f : Engine → Engine) : (s.modEngine n f).dbg = s.dbg := rfl
@[simp] theorem State.modEngine_nv (s : State) (n : Nat) (f : Engine → Engine) : (s.modEngine n f).nv = s.nv := rfl
@[simp] theorem State.modEngine_out (s : State) (n : Nat) (f : Engine → Engine) : (s.modEngine n f).out = s.out := rfl
@[simp] theorem State.modEngine_free (s : State) (n : Nat) (f : Engine → Engine) : (s.modEngine n f).free = s.free := rfl

/-! ### modConn -/

@[simp] theorem State.modConn_pending (s : State) (c : Nat) (f : Conn → Conn) : (s.modConn c f).pending = s.pending := rfl
@[simp] theorem State.modConn_now (s : State) (c : Nat) (f : Conn → Conn) : (s.modConn c f).now = s.now := rfl
@[simp] theorem State.modConn_regs (s : State) (c : Nat) (f : Conn → Conn) : (s.modConn c f).regs = s.regs := rfl
@[simp] theorem State.modConn_live (s : State) (c : Nat) (f : Conn → Conn) : (s.modConn c f).live = s.live := rfl
@[simp] theorem State.modConn_staged (s : State) (c : Nat) (f : Conn → Conn) : (s.modConn c f).staged = s.staged := rfl
@[simp] theorem State.modConn_tick (s : State) (c : Nat) (f : Conn → Conn) : (s.modConn c f).tick = s.tick := rfl
@[simp] theorem State.modConn_itin (s : State) (c : Nat) (f : Conn → Conn) : (s.modConn c f).itin = s.itin := rfl
@[simp] theorem State.modConn_reqs (s : State) (c : Nat) (f : Conn → Conn) : (s.modConn c f).reqs = s.reqs := rfl
@[simp] theorem State.modConn_nextOrder (s : State) (c : Nat) (f : Conn → Conn) : (s.modConn c f).nextOrder = s.nextOrder := rfl
@[simp] theorem State.modConn_nextSeq (s : State) (c : Nat) (f : Conn → Conn) : (s.modConn c f).nextSeq = s.nextSeq := rfl
@[simp] theorem State.modConn_ctxs (s : State) (c : Nat) (f : Conn → Conn) : (s.modConn c f).ctxs = s.ctxs := rfl
@[simp] theorem State.modConn_engines (s : State) (c : Nat) (f : Conn → Conn) : (s.modConn c f).engines = s.engines := rfl
@[simp] theorem State.modConn_tiles (s : State) (c : Nat) (f : Conn → Conn) : (s.modConn c f).tiles = s.tiles := rfl
@[simp] theorem State.modConn_locals (s : State) (c : Nat) (f : Conn → Conn) : (s.modConn c f).locals = s.locals := rfl
@[simp] theorem State.modConn_conns (s : State) (c : Nat) (f : Conn → Conn) : (s.modConn c f).conns = mmod s.conns c f := rfl
@[simp] theorem State.modConn_regions (s : State) (c : Nat) (f : Conn → Conn) : (s.modConn c f).regions = s.regions := rfl
@[simp] theorem State.modConn_links (s : State) (c : Nat) (f : Conn → Conn) : (s.modConn c f).links = s.links := rfl
@[simp] theorem State.modConn_comp (s : State) (c : Nat) (f : Conn → Conn) : (s.modConn c f).comp = s.comp := rfl
@[simp] theorem State.modConn_tier (s : State) (c : Nat) (f : Conn → Conn) : (s.modConn c f).tier = s.tier := rfl
@[simp] theorem State.modConn_sec (s : State) (c : Nat) (f : Conn → Conn) : (s.modConn c f).sec = s.sec := rfl
@[simp] theorem State.modConn_health (s : State) (c : Nat) (f : Conn → Conn) : (s.modConn c f).health = s.health := rfl
@[simp] theorem State.modConn_power (s : State) (c : Nat) (f : Conn → Conn) : (s.modConn c f).power = s.power := rfl
@[simp] theorem State.modConn_pins (s : State) (c : Nat) (f : Conn → Conn) : (s.modConn c f).pins = s.pins := rfl
@[simp] theorem State.modConn_ranger (s : State) (c : Nat) (f : Conn → Conn) : (s.modConn c f).ranger = s.ranger := rfl
@[simp] theorem State.modConn_dbg (s : State) (c : Nat) (f : Conn → Conn) : (s.modConn c f).dbg = s.dbg := rfl
@[simp] theorem State.modConn_nv (s : State) (c : Nat) (f : Conn → Conn) : (s.modConn c f).nv = s.nv := rfl
@[simp] theorem State.modConn_out (s : State) (c : Nat) (f : Conn → Conn) : (s.modConn c f).out = s.out := rfl
@[simp] theorem State.modConn_free (s : State) (c : Nat) (f : Conn → Conn) : (s.modConn c f).free = s.free := rfl

/-! ### modLink -/

@[simp] theorem State.modLink_pending (s : State) (l : Nat) (f : Link → Link) : (s.modLink l f).pending = s.pending := rfl
@[simp] theorem State.modLink_now (s : State) (l : Nat) (f : Link → Link) : (s.modLink l f).now = s.now := rfl
@[simp] theorem State.modLink_regs (s : State) (l : Nat) (f : Link → Link) : (s.modLink l f).regs = s.regs := rfl
@[simp] theorem State.modLink_live (s : State) (l : Nat) (f : Link → Link) : (s.modLink l f).live = s.live := rfl
@[simp] theorem State.modLink_staged (s : State) (l : Nat) (f : Link → Link) : (s.modLink l f).staged = s.staged := rfl
@[simp] theorem State.modLink_tick (s : State) (l : Nat) (f : Link → Link) : (s.modLink l f).tick = s.tick := rfl
@[simp] theorem State.modLink_itin (s : State) (l : Nat) (f : Link → Link) : (s.modLink l f).itin = s.itin := rfl
@[simp] theorem State.modLink_reqs (s : State) (l : Nat) (f : Link → Link) : (s.modLink l f).reqs = s.reqs := rfl
@[simp] theorem State.modLink_nextOrder (s : State) (l : Nat) (f : Link → Link) : (s.modLink l f).nextOrder = s.nextOrder := rfl
@[simp] theorem State.modLink_nextSeq (s : State) (l : Nat) (f : Link → Link) : (s.modLink l f).nextSeq = s.nextSeq := rfl
@[simp] theorem State.modLink_ctxs (s : State) (l : Nat) (f : Link → Link) : (s.modLink l f).ctxs = s.ctxs := rfl
@[simp] theorem State.modLink_engines (s : State) (l : Nat) (f : Link → Link) : (s.modLink l f).engines = s.engines := rfl
@[simp] theorem State.modLink_tiles (s : State) (l : Nat) (f : Link → Link) : (s.modLink l f).tiles = s.tiles := rfl
@[simp] theorem State.modLink_locals (s : State) (l : Nat) (f : Link → Link) : (s.modLink l f).locals = s.locals := rfl
@[simp] theorem State.modLink_conns (s : State) (l : Nat) (f : Link → Link) : (s.modLink l f).conns = s.conns := rfl
@[simp] theorem State.modLink_regions (s : State) (l : Nat) (f : Link → Link) : (s.modLink l f).regions = s.regions := rfl
@[simp] theorem State.modLink_links (s : State) (l : Nat) (f : Link → Link) : (s.modLink l f).links = mset s.links l (f (s.link l)) := rfl
@[simp] theorem State.modLink_comp (s : State) (l : Nat) (f : Link → Link) : (s.modLink l f).comp = s.comp := rfl
@[simp] theorem State.modLink_tier (s : State) (l : Nat) (f : Link → Link) : (s.modLink l f).tier = s.tier := rfl
@[simp] theorem State.modLink_sec (s : State) (l : Nat) (f : Link → Link) : (s.modLink l f).sec = s.sec := rfl
@[simp] theorem State.modLink_health (s : State) (l : Nat) (f : Link → Link) : (s.modLink l f).health = s.health := rfl
@[simp] theorem State.modLink_power (s : State) (l : Nat) (f : Link → Link) : (s.modLink l f).power = s.power := rfl
@[simp] theorem State.modLink_pins (s : State) (l : Nat) (f : Link → Link) : (s.modLink l f).pins = s.pins := rfl
@[simp] theorem State.modLink_ranger (s : State) (l : Nat) (f : Link → Link) : (s.modLink l f).ranger = s.ranger := rfl
@[simp] theorem State.modLink_dbg (s : State) (l : Nat) (f : Link → Link) : (s.modLink l f).dbg = s.dbg := rfl
@[simp] theorem State.modLink_nv (s : State) (l : Nat) (f : Link → Link) : (s.modLink l f).nv = s.nv := rfl
@[simp] theorem State.modLink_out (s : State) (l : Nat) (f : Link → Link) : (s.modLink l f).out = s.out := rfl
@[simp] theorem State.modLink_free (s : State) (l : Nat) (f : Link → Link) : (s.modLink l f).free = s.free := rfl

/-! ### modTile -/

@[simp] theorem State.modTile_pending (s : State) (n : Nat) (f : Tile → Tile) : (s.modTile n f).pending = s.pending := rfl
@[simp] theorem State.modTile_now (s : State) (n : Nat) (f : Tile → Tile) : (s.modTile n f).now = s.now := rfl
@[simp] theorem State.modTile_regs (s : State) (n : Nat) (f : Tile → Tile) : (s.modTile n f).regs = s.regs := rfl
@[simp] theorem State.modTile_live (s : State) (n : Nat) (f : Tile → Tile) : (s.modTile n f).live = s.live := rfl
@[simp] theorem State.modTile_staged (s : State) (n : Nat) (f : Tile → Tile) : (s.modTile n f).staged = s.staged := rfl
@[simp] theorem State.modTile_tick (s : State) (n : Nat) (f : Tile → Tile) : (s.modTile n f).tick = s.tick := rfl
@[simp] theorem State.modTile_itin (s : State) (n : Nat) (f : Tile → Tile) : (s.modTile n f).itin = s.itin := rfl
@[simp] theorem State.modTile_reqs (s : State) (n : Nat) (f : Tile → Tile) : (s.modTile n f).reqs = s.reqs := rfl
@[simp] theorem State.modTile_nextOrder (s : State) (n : Nat) (f : Tile → Tile) : (s.modTile n f).nextOrder = s.nextOrder := rfl
@[simp] theorem State.modTile_nextSeq (s : State) (n : Nat) (f : Tile → Tile) : (s.modTile n f).nextSeq = s.nextSeq := rfl
@[simp] theorem State.modTile_ctxs (s : State) (n : Nat) (f : Tile → Tile) : (s.modTile n f).ctxs = s.ctxs := rfl
@[simp] theorem State.modTile_engines (s : State) (n : Nat) (f : Tile → Tile) : (s.modTile n f).engines = s.engines := rfl
@[simp] theorem State.modTile_tiles (s : State) (n : Nat) (f : Tile → Tile) : (s.modTile n f).tiles = mset s.tiles n (f (s.tile n)) := rfl
@[simp] theorem State.modTile_locals (s : State) (n : Nat) (f : Tile → Tile) : (s.modTile n f).locals = s.locals := rfl
@[simp] theorem State.modTile_conns (s : State) (n : Nat) (f : Tile → Tile) : (s.modTile n f).conns = s.conns := rfl
@[simp] theorem State.modTile_regions (s : State) (n : Nat) (f : Tile → Tile) : (s.modTile n f).regions = s.regions := rfl
@[simp] theorem State.modTile_links (s : State) (n : Nat) (f : Tile → Tile) : (s.modTile n f).links = s.links := rfl
@[simp] theorem State.modTile_comp (s : State) (n : Nat) (f : Tile → Tile) : (s.modTile n f).comp = s.comp := rfl
@[simp] theorem State.modTile_tier (s : State) (n : Nat) (f : Tile → Tile) : (s.modTile n f).tier = s.tier := rfl
@[simp] theorem State.modTile_sec (s : State) (n : Nat) (f : Tile → Tile) : (s.modTile n f).sec = s.sec := rfl
@[simp] theorem State.modTile_health (s : State) (n : Nat) (f : Tile → Tile) : (s.modTile n f).health = s.health := rfl
@[simp] theorem State.modTile_power (s : State) (n : Nat) (f : Tile → Tile) : (s.modTile n f).power = s.power := rfl
@[simp] theorem State.modTile_pins (s : State) (n : Nat) (f : Tile → Tile) : (s.modTile n f).pins = s.pins := rfl
@[simp] theorem State.modTile_ranger (s : State) (n : Nat) (f : Tile → Tile) : (s.modTile n f).ranger = s.ranger := rfl
@[simp] theorem State.modTile_dbg (s : State) (n : Nat) (f : Tile → Tile) : (s.modTile n f).dbg = s.dbg := rfl
@[simp] theorem State.modTile_nv (s : State) (n : Nat) (f : Tile → Tile) : (s.modTile n f).nv = s.nv := rfl
@[simp] theorem State.modTile_out (s : State) (n : Nat) (f : Tile → Tile) : (s.modTile n f).out = s.out := rfl
@[simp] theorem State.modTile_free (s : State) (n : Nat) (f : Tile → Tile) : (s.modTile n f).free = s.free := rfl

end Sys2Proof.Machine
end

