-- ==== Sys2Proof/Tests/Slice0.lean ====
section
/-! SUPPORT. Tests of single commands on small states, and for every statement with hypotheses the states that meet them. -/
set_option Elab.async false
namespace Sys2Proof.Tests
open Sys2Proof Sys2Proof.Machine

/-! ### Small states -/

/-- A state with register fields written. -/
def on (s : State) (fs : List (Field × Nat)) : State := fs.foldl (fun u f => u.wr f.1 f.2) s

/-- The state a command answers. -/
def run (c : Instr) (s : State) : State := match exec c s with
  | .next t => t
  | _ => { s with now := 999 }

/-- A started node with nothing in it. -/
def base : State := on State.reset [(F.ID_BOOT.STAGE, 7), (F.ID_BOOT.READY, 1)]

/-- It runs: the second tick of 10 µs, published. -/
def ticking : State :=
  { on base [(F.TICK_BARRIER.RUNNING, 1)] with now := 12000, tick := { TickState.reset with last := 10000, next := 20000, index := 1, published := true } }

/-- A profile of one layer with one head of `d` dimensions. -/
def profOf (d : Nat) : Profile :=
  { Profile.blank with
    attn := { Profile.blank.attn with layers := 1, kvheads := 1, group := 1, dk := d, dv := d, scale := 0x3F800000 }
    ladder := { Profile.blank.ladder with fresh := 16, floor := 3 }
    cls := { Profile.blank.cls with weights := [256, 256, 256, 256] } }

def prof : Profile := profOf 4

/-- One whose keys and values have pebbles; the others keep tests small. -/
def wide : Profile := profOf 64

def conv0 : Conv := ⟨[(0, 0)], [], [], 0, false, false, none, none, false, none, 1, 0, 0⟩

def ctx1 : Ctx := { Ctx.free with phase := .inService, keyLoaded := true, profile := some prof, convs := [(5, conv0)], xmem := [] }

def policer : Policer := ⟨0, 2, 0, 0, 0, 0, 0, 0, 0⟩

def path0 : PathState := ⟨0x43C80000, 0, 0, 1000, 100, [], 1000, 0, 0, none, 0, 0, 0⟩

def entry (peer init : Bool) : ConnEntry :=
  ⟨0x101, 1, peer, init, false, List.replicate 16 1, 49912, 1, 1, 1, List.replicate 48 2, policer, [⟨false, 0, 0x100, 6, 2, true, 0, 0x100⟩]⟩

/-- An open connection of context 1 with one running ring. -/
def conn (peer : Bool) : Conn :=
  { Conn.fresh (entry peer false) with
    state := 3, rings := [{ RingState.off with rstate := 0 }], keys := { ConnKeys.empty with key := 7 }
    tx := { ConnTx.empty with paths := [path0], credits := 64 }
    regions := [⟨0x100, 3, 0, 65536⟩] }

/-- A running node with context 1 in service, an open connection in slot 0, a link, and a region over the first bytes of the exchange area. -/
def world : State :=
  { ticking with
    ctxs := [(1, ctx1)], conns := [(0, conn false)], links := [(0, { Link.down with up := true, mac := List.replicate 6 1 })]
    regions := [(1, ⟨true, 0, 1, 0, 4096, true, true, true, none, false⟩)], sec := { SecState.reset with drbgOk := true, keysDerived := true } }

/-- A header without an extension, of a packet that the peer of the connection sends. -/
def hdr (type msg len : Nat) : Hdr := ⟨1, type, false, false, false, false, 0, 0, 0x101, 0, msg, 0, len, 0, 0, 0⟩

/-- A packet sealed with the connection's key. -/
def pkt (h : Hdr) (data : Bytes) : Pkt :=
  let e := sealPkt 7 h data
  ⟨0, 49912, 100, false, 0, 0, false, 7, e.nonce, e.aad, e.hdr, data⟩

/-! ### Well-formed and ill-formed commands -/

def okPkt : Pkt := ⟨0, 49912, 100, false, 0, 0, false, 0, [], [], List.replicate 24 0, []⟩

def badPkt : Pkt := { okPkt with link := 16 }

def okHandshake : Handshake := ⟨0, 49912, 500, false, [], List.replicate 440 0, true⟩

def badHandshake : Handshake := { okHandshake with bytes := [] }

def okOffer : TlsOffer := ⟨443, true, true, false, [], []⟩

def late : Nat := 2 ^ 64

/-- One command of every kind, all operands at their least. -/
def okCommands : List Instr :=
  [Instr.tickBoundary 0 ⟨none, [], []⟩, Instr.itineraryPublished 0, Instr.taskComplete 0 (.tile 0) .done, Instr.windowNominalEnd 0 (.tile 0) .c0,
   Instr.gatedTaskReleased 0 (.tile 0) 0, Instr.operandsLanded 0 0 0 [], Instr.queryBlockComplete 0 0 0, Instr.anchorScanComplete 0 0,
   Instr.refreshSlot 0 0, Instr.makeupRefreshSlot 0 0, Instr.refreshDebtRepay 0 0, Instr.stackAbove85C 0 0, Instr.tickPeriodWrite 0 0,
   Instr.tickWindowWrite 0 0, Instr.tickAlignWrite 0 0, Instr.tickOriginWrite 0 0, Instr.arm 0, Instr.start 0, Instr.syncInPulse 0 0,
   Instr.syncInTimeout 0, Instr.ptpLockLost 0, Instr.referenceReturned 0 0, Instr.thermalEmergency 0 0 0, Instr.stackHot 0 0 0,
   Instr.thermalTrip 0 0, Instr.attend 0 0, Instr.attendChunk 0 0, Instr.append 0 0, Instr.seal 0 0, Instr.fork 0 0, Instr.trim 0 0,
   Instr.release 0 0, Instr.hint 0 0, Instr.exportPages 0 0, Instr.importPages 0 0 [], Instr.fence 0 0, Instr.fenceComplete 0 0,
   Instr.fenceCancel 0 0, Instr.probe 0 0, Instr.demotionComplete 0 0 0 none, Instr.bell 0 okPkt, Instr.ringDbWrite 0 0 0, Instr.ringEnable 0 0 0,
   Instr.ringDisable 0 0 0, Instr.descriptorFetched 0 (.localRing 0) 0 (List.replicate 64 0), Instr.write 0 okPkt, Instr.readReq 0 okPkt,
   Instr.readResp 0 okPkt] ++
  [Instr.readRespRerequest 0 0 0, Instr.atomicAdd 0 okPkt, Instr.atomicCas 0 okPkt, Instr.releaseMessageExecute 0 0 0, Instr.sack 0 okPkt,
   Instr.sackDelayExpiry 0 0, Instr.nak 0 okPkt, Instr.policed 0 okPkt, Instr.rtoExpiry 0 0 0, Instr.deadTimer 0 0, Instr.pathProbe 0 0 0,
   Instr.failedSlotRecover 0 0, Instr.hello 0 okHandshake, Instr.accept 0 okHandshake, Instr.finish 0 okHandshake, Instr.helloResend 0 0,
   Instr.rekey 0 okPkt, Instr.rekeyAck 0 okPkt, Instr.keyUpdateTrigger 0 0, Instr.previousKeyExpiry 0 0, Instr.close 0 0 none 0,
   Instr.closeWaitEnd 0 0, Instr.regionAdv 0 okPkt, Instr.regionWd 0 okPkt, Instr.regionWdDone 0 0 0, Instr.linkDown 0 0, Instr.linkUp 0 0,
   Instr.connLoad 0 0 none, Instr.connRemove 0 0, Instr.regionRegister 0 0, Instr.regionRevoke 0 0, Instr.revocationAbandon 0 0,
   Instr.revocationComplete 0 0, Instr.subreq 0 okPkt, Instr.partialMsg 0 okPkt, Instr.leaf 0 okPkt, Instr.journal 0 okPkt, Instr.move 0 okPkt,
   Instr.moveAck 0 okPkt, Instr.moveCommitMsg 0 okPkt, Instr.moveCopyComplete 0 0 none, Instr.pageOp 0 okPkt, Instr.pageOpDone 0 okPkt,
   Instr.inventory 0 okPkt, Instr.inventoryResponse 0 okPkt, Instr.seCommandStart 0 0, Instr.seCommandComplete 0 0 0 0, Instr.seWatchdog 0 0] ++
  [Instr.seSelfTest 0 0, Instr.seSelfTestDone 0 true, Instr.tierSeMaskWrite 0 0 0, Instr.tierSeFaultClear 0 0 0, Instr.hdmRead 0 0 1,
   Instr.hdmWrite 0 0 [], Instr.leaseGap 0 0, Instr.snoopComplete 0 0 0, Instr.farReadTimeout 0 .far 0 0, Instr.farChannelFail 0 0,
   Instr.hostLinkDown 0, Instr.hostLinkUp 0 0 0, Instr.bedrockGc 0, Instr.readDisturbRelocate 0 0, Instr.blockRetire 0 0 0, Instr.progLoad 0 0 none,
   Instr.progUnload 0 0, Instr.ctxCreate 0 0 none, Instr.ctxLoadProfile 0 0 none, Instr.ctxTeardown 0 0, Instr.teardownClose 0 0,
   Instr.keyZeroise 0 0, Instr.tombstoneDurable 0 0, Instr.scrubComplete 0 0, Instr.geodeLoad 0 0 none, Instr.geodeUnload 0 0,
   Instr.ctxClassWrite 0 0, Instr.assayCompare 0 0 none, Instr.assayAttribution 0 0 true true, Instr.healthAssayWrite 0 0,
   Instr.healthTilefClear 0 0 0, Instr.compStage 0 0 none, Instr.compWithdraw 0 0, Instr.mapActivation 0, Instr.drainTimeout 0,
   Instr.rebuildPageCommit 0 0 0 0 0 0, Instr.isolationTimeout 0, Instr.suspectWindowEnd 0, Instr.powerExitComplete 0, Instr.supplyWarning 0 0,
   Instr.flushAcknowledged 0, Instr.supplyRecovery 0, Instr.brownout 0 0, Instr.powerAverage 0 0, Instr.weatheringSample 0 0 (.phase 0 0 0),
   Instr.weatheringReport 0, Instr.rangerTakeRecord 0, Instr.eventDelivery 0 0 true] ++
  [Instr.postRetry 0 0 true, Instr.subscriptionSuspend 0 0, Instr.tlsSession 0 okOffer, Instr.sessionIdleTimeout 0 0, Instr.managerReset 0 0,
   Instr.nodeReset 0 0, Instr.rangerWatchdog 0, Instr.rangerSelfTest 0 true, Instr.rangerEccError 0, Instr.trustAnchorInstall 0 0 .auditor [1],
   Instr.trustAnchorRemove 0 0 0, Instr.firstAnchorInstall 0 .auditor [], Instr.spdmMeasurements 0 (List.replicate 32 0),
   Instr.updateImage 0 0 .ranger 0 (List.replicate 64 0) true, Instr.networkProtocolWrite 0 0 [] [] [] true true, Instr.debugRequest 0 0 .counters,
   Instr.traceArm 0 0, Instr.traceEnd 0, Instr.dbgRead 0 0, Instr.dbgUnitTakeOut 0 0, Instr.dbgUnitReturn 0 0, Instr.dbgFreqLimitWrite 0 0,
   Instr.secLockSet 0 0, Instr.rwlWrite 0 0 0, Instr.drbgFail 0, Instr.registerWrite 0 0 8 0, Instr.powerOn 0 0, Instr.moduleReset 0 0,
   Instr.cxlHotReset 0 true, Instr.flr 0, Instr.perstNRelease 0, Instr.startupStageComplete 0 .rails, Instr.vinMated 0 0 0, Instr.holdupCharged 0,
   Instr.overVoltage 0 0, Instr.overVoltageClear 0 0, Instr.stackChannelFail 0 0, Instr.moduleResetRelease 0, Instr.inputSample 0 0,
   Instr.ptpLockAcquired 0 0, Instr.entropyHealthPass 0, Instr.bedrockBlockErased 0 0, Instr.reorderAllowanceExpiry 0 0 0 0,
   Instr.operationBucketRefill 0 0, Instr.pfcFrame 0 0 0 true, Instr.neighborDiscoveryFrame 0 0 .other, Instr.certificateInstall 0 0 true true [],
   Instr.eventSubscriptionCreate 0 0 true 0 []]

/-- The same commands after the last count of node time. -/
def lateCommands : List Instr :=
  [Instr.tickBoundary late ⟨none, [], []⟩, Instr.itineraryPublished late, Instr.taskComplete late (.tile 0) .done,
   Instr.windowNominalEnd late (.tile 0) .c0, Instr.gatedTaskReleased late (.tile 0) 0, Instr.operandsLanded late 0 0 [],
   Instr.queryBlockComplete late 0 0, Instr.anchorScanComplete late 0, Instr.refreshSlot late 0, Instr.makeupRefreshSlot late 0,
   Instr.refreshDebtRepay late 0, Instr.stackAbove85C late 0, Instr.tickPeriodWrite late 0, Instr.tickWindowWrite late 0,
   Instr.tickAlignWrite late 0, Instr.tickOriginWrite late 0, Instr.arm late, Instr.start late, Instr.syncInPulse late 0, Instr.syncInTimeout late,
   Instr.ptpLockLost late, Instr.referenceReturned late 0, Instr.thermalEmergency late 0 0, Instr.stackHot late 0 0, Instr.thermalTrip late 0,
   Instr.attend late 0, Instr.attendChunk late 0, Instr.append late 0, Instr.seal late 0, Instr.fork late 0, Instr.trim late 0, Instr.release late 0,
   Instr.hint late 0, Instr.exportPages late 0, Instr.importPages late 0 [], Instr.fence late 0, Instr.fenceComplete late 0,
   Instr.fenceCancel late 0, Instr.probe late 0, Instr.demotionComplete late 0 0 none, Instr.bell late okPkt, Instr.ringDbWrite late 0 0,
   Instr.ringEnable late 0 0, Instr.ringDisable late 0 0, Instr.descriptorFetched late (.localRing 0) 0 (List.replicate 64 0),
   Instr.write late okPkt, Instr.readReq late okPkt, Instr.readResp late okPkt] ++
  [Instr.readRespRerequest late 0 0, Instr.atomicAdd late okPkt, Instr.atomicCas late okPkt, Instr.releaseMessageExecute late 0 0,
   Instr.sack late okPkt, Instr.sackDelayExpiry late 0, Instr.nak late okPkt, Instr.policed late okPkt, Instr.rtoExpiry late 0 0,
   Instr.deadTimer late 0, Instr.pathProbe late 0 0, Instr.failedSlotRecover late 0, Instr.hello late okHandshake, Instr.accept late okHandshake,
   Instr.finish late okHandshake, Instr.helloResend late 0, Instr.rekey late okPkt, Instr.rekeyAck late okPkt, Instr.keyUpdateTrigger late 0,
   Instr.previousKeyExpiry late 0, Instr.close late 0 none 0, Instr.closeWaitEnd late 0, Instr.regionAdv late okPkt, Instr.regionWd late okPkt,
   Instr.regionWdDone late 0 0, Instr.linkDown late 0, Instr.linkUp late 0, Instr.connLoad late 0 none, Instr.connRemove late 0,
   Instr.regionRegister late 0, Instr.regionRevoke late 0, Instr.revocationAbandon late 0, Instr.revocationComplete late 0, Instr.subreq late okPkt,
   Instr.partialMsg late okPkt, Instr.leaf late okPkt, Instr.journal late okPkt, Instr.move late okPkt, Instr.moveAck late okPkt,
   Instr.moveCommitMsg late okPkt, Instr.moveCopyComplete late 0 none, Instr.pageOp late okPkt, Instr.pageOpDone late okPkt,
   Instr.inventory late okPkt, Instr.inventoryResponse late okPkt, Instr.seCommandStart late 0, Instr.seCommandComplete late 0 0 0,
   Instr.seWatchdog late 0] ++
  [Instr.seSelfTest late 0, Instr.seSelfTestDone late true, Instr.tierSeMaskWrite late 0 0, Instr.tierSeFaultClear late 0 0, Instr.hdmRead late 0 1,
   Instr.hdmWrite late 0 [], Instr.leaseGap late 0, Instr.snoopComplete late 0 0, Instr.farReadTimeout late .far 0 0, Instr.farChannelFail late 0,
   Instr.hostLinkDown late, Instr.hostLinkUp late 0 0, Instr.bedrockGc late, Instr.readDisturbRelocate late 0, Instr.blockRetire late 0 0,
   Instr.progLoad late 0 none, Instr.progUnload late 0, Instr.ctxCreate late 0 none, Instr.ctxLoadProfile late 0 none, Instr.ctxTeardown late 0,
   Instr.teardownClose late 0, Instr.keyZeroise late 0, Instr.tombstoneDurable late 0, Instr.scrubComplete late 0, Instr.geodeLoad late 0 none,
   Instr.geodeUnload late 0, Instr.ctxClassWrite late 0, Instr.assayCompare late 0 none, Instr.assayAttribution late 0 true true,
   Instr.healthAssayWrite late 0, Instr.healthTilefClear late 0 0, Instr.compStage late 0 none, Instr.compWithdraw late 0, Instr.mapActivation late,
   Instr.drainTimeout late, Instr.rebuildPageCommit late 0 0 0 0 0, Instr.isolationTimeout late, Instr.suspectWindowEnd late,
   Instr.powerExitComplete late, Instr.supplyWarning late 0, Instr.flushAcknowledged late, Instr.supplyRecovery late, Instr.brownout late 0,
   Instr.powerAverage late 0, Instr.weatheringSample late 0 (.phase 0 0 0), Instr.weatheringReport late, Instr.rangerTakeRecord late,
   Instr.eventDelivery late 0 true] ++
  [Instr.postRetry late 0 true, Instr.subscriptionSuspend late 0, Instr.tlsSession late okOffer, Instr.sessionIdleTimeout late 0,
   Instr.managerReset late 0, Instr.nodeReset late 0, Instr.rangerWatchdog late, Instr.rangerSelfTest late true, Instr.rangerEccError late,
   Instr.trustAnchorInstall late 0 .auditor [1], Instr.trustAnchorRemove late 0 0, Instr.firstAnchorInstall late .auditor [],
   Instr.spdmMeasurements late (List.replicate 32 0), Instr.updateImage late 0 .ranger 0 (List.replicate 64 0) true,
   Instr.networkProtocolWrite late 0 [] [] [] true true, Instr.debugRequest late 0 .counters, Instr.traceArm late 0, Instr.traceEnd late,
   Instr.dbgRead late 0, Instr.dbgUnitTakeOut late 0, Instr.dbgUnitReturn late 0, Instr.dbgFreqLimitWrite late 0, Instr.secLockSet late 0,
   Instr.rwlWrite late 0 0, Instr.drbgFail late, Instr.registerWrite late 0 8 0, Instr.powerOn late 0, Instr.moduleReset late 0,
   Instr.cxlHotReset late true, Instr.flr late, Instr.perstNRelease late, Instr.startupStageComplete late .rails, Instr.vinMated late 0 0,
   Instr.holdupCharged late, Instr.overVoltage late 0, Instr.overVoltageClear late 0, Instr.stackChannelFail late 0, Instr.moduleResetRelease late,
   Instr.inputSample late 0, Instr.ptpLockAcquired late 0, Instr.entropyHealthPass late, Instr.bedrockBlockErased late 0,
   Instr.reorderAllowanceExpiry late 0 0 0, Instr.operationBucketRefill late 0, Instr.pfcFrame late 0 0 true,
   Instr.neighborDiscoveryFrame late 0 .other, Instr.certificateInstall late 0 true true [], Instr.eventSubscriptionCreate late 0 true 0 []]

/-- For every other check, a command that it alone refuses. -/
def badCommands : List Instr :=
  [Instr.taskComplete 0 (.engine 192) .done, Instr.windowNominalEnd 0 (.engine 192) .c0, Instr.gatedTaskReleased 0 (.engine 192) 0,
   Instr.operandsLanded 0 65536 0 [], Instr.queryBlockComplete 0 65536 0, Instr.anchorScanComplete 0 65536, Instr.refreshSlot 0 192,
   Instr.makeupRefreshSlot 0 192, Instr.refreshDebtRepay 0 192, Instr.stackAbove85C 0 12, Instr.thermalEmergency 0 96 0, Instr.stackHot 0 12 0,
   Instr.attend 0 65536, Instr.attendChunk 0 65536, Instr.append 0 65536, Instr.seal 0 65536, Instr.fork 0 65536, Instr.trim 0 65536,
   Instr.release 0 65536, Instr.hint 0 65536, Instr.exportPages 0 65536, Instr.importPages 0 65536 [], Instr.fence 0 65536,
   Instr.fenceComplete 0 65536, Instr.fenceCancel 0 65536, Instr.probe 0 65536, Instr.demotionComplete 0 512 0 none,
   Instr.demotionComplete 0 0 (2 ^ 31) none, Instr.bell 0 badPkt, Instr.ringDbWrite 0 16 0, Instr.ringEnable 0 16 0, Instr.ringDisable 0 16 0,
   Instr.descriptorFetched 0 (.localRing 16) 0 (List.replicate 64 0), Instr.descriptorFetched 0 (.localRing 0) 0 [], Instr.write 0 badPkt,
   Instr.readReq 0 badPkt, Instr.readResp 0 badPkt, Instr.readRespRerequest 0 4096 0, Instr.atomicAdd 0 badPkt, Instr.atomicCas 0 badPkt,
   Instr.releaseMessageExecute 0 4096 0, Instr.sack 0 badPkt, Instr.sackDelayExpiry 0 4096, Instr.nak 0 badPkt, Instr.policed 0 badPkt,
   Instr.rtoExpiry 0 4096 0, Instr.rtoExpiry 0 0 64, Instr.deadTimer 0 4096] ++
  [Instr.pathProbe 0 4096 0, Instr.pathProbe 0 0 64, Instr.failedSlotRecover 0 4096, Instr.hello 0 badHandshake, Instr.accept 0 badHandshake,
   Instr.finish 0 badHandshake, Instr.helloResend 0 4096, Instr.rekey 0 badPkt, Instr.rekeyAck 0 badPkt, Instr.keyUpdateTrigger 0 4096,
   Instr.previousKeyExpiry 0 4096, Instr.close 0 4096 none 0, Instr.closeWaitEnd 0 4096, Instr.regionAdv 0 badPkt, Instr.regionWd 0 badPkt,
   Instr.regionWdDone 0 4096 0, Instr.regionWdDone 0 0 (2 ^ 32), Instr.linkDown 0 16, Instr.linkUp 0 16, Instr.revocationAbandon 0 65536,
   Instr.revocationComplete 0 65536, Instr.subreq 0 badPkt, Instr.partialMsg 0 badPkt, Instr.leaf 0 badPkt, Instr.journal 0 badPkt,
   Instr.move 0 badPkt, Instr.moveAck 0 badPkt, Instr.moveCommitMsg 0 badPkt, Instr.pageOp 0 badPkt, Instr.pageOpDone 0 badPkt,
   Instr.inventory 0 badPkt, Instr.inventoryResponse 0 badPkt, Instr.seCommandStart 0 192, Instr.seCommandComplete 0 192 0 0, Instr.seWatchdog 0 192,
   Instr.tierSeMaskWrite 0 3 0, Instr.tierSeFaultClear 0 3 0, Instr.hdmRead 0 0 0, Instr.leaseGap 0 192, Instr.snoopComplete 0 512 0,
   Instr.snoopComplete 0 0 (2 ^ 31), Instr.farReadTimeout 0 .far 512 0, Instr.farReadTimeout 0 .far 0 (2 ^ 31), Instr.farChannelFail 0 16,
   Instr.teardownClose 0 512, Instr.keyZeroise 0 512, Instr.tombstoneDurable 0 512, Instr.scrubComplete 0 512] ++
  [Instr.healthTilefClear 0 24 0, Instr.rebuildPageCommit 0 512 0 0 0 0, Instr.rebuildPageCommit 0 0 0 4096 0 0,
   Instr.rebuildPageCommit 0 0 0 0 128 0, Instr.rebuildPageCommit 0 0 0 0 0 (2 ^ 32), Instr.supplyWarning 0 65536, Instr.brownout 0 65536,
   Instr.powerAverage 0 65536, Instr.eventDelivery 0 8 true, Instr.postRetry 0 8 true, Instr.subscriptionSuspend 0 8,
   Instr.tlsSession 0 { okOffer with tcpPort := 65536 }, Instr.trustAnchorInstall 0 0 .auditor [], Instr.spdmMeasurements 0 [],
   Instr.updateImage 0 0 .ranger 0 [] true, Instr.rwlWrite 0 (2 ^ 20) 0, Instr.rwlWrite 0 4 0, Instr.registerWrite 0 (2 ^ 20) 8 0,
   Instr.registerWrite 0 0 2 0, Instr.powerOn 0 65536, Instr.vinMated 0 65536 0, Instr.overVoltage 0 65536, Instr.overVoltageClear 0 65536,
   Instr.stackChannelFail 0 192, Instr.inputSample 0 65536, Instr.reorderAllowanceExpiry 0 4096 0 0, Instr.operationBucketRefill 0 4096,
   Instr.pfcFrame 0 8 0 true, Instr.pfcFrame 0 0 8 true, Instr.neighborDiscoveryFrame 0 16 .other]

theorem test_well_formed : okCommands.all Instr.wellFormed = true := by decide +kernel

theorem test_late_is_ill_formed : lateCommands.all (fun c => !c.wellFormed) = true := by decide +kernel

theorem test_ill_formed : badCommands.all (fun c => !c.wellFormed) = true := by decide +kernel

theorem test_ill_formed_unit : (UnitId.tile 1536).wellFormed = false ∧ (UnitId.engine 192).wellFormed = false ∧ (UnitId.gate 16).wellFormed = false := by decide

theorem test_ill_formed_ring : (RingRef.partner 4096 0).wellFormed = false ∧ (RingRef.partner 0 4).wellFormed = false ∧ (RingRef.localRing 16).wellFormed = false := by
  decide

theorem test_ill_formed_packet :
    ([badPkt, { okPkt with dport := 65536 }, { okPkt with size := 65536 }, { okPkt with fill := 101 }, { okPkt with dscp := 64 }, { okPkt with hdr := [] },
      { okPkt with payload := List.replicate 4097 0 }].all fun p => !p.wellFormed) = true := by decide +kernel

theorem test_ill_formed_handshake :
    ([badHandshake, { okHandshake with link := 16 }, { okHandshake with dport := 65536 }, { okHandshake with size := 65536 }].all fun h => !h.wellFormed) = true := by
  decide +kernel

/-- No row of the table has bits, so no word spells a command. -/
theorem test_no_word_is_a_command : decodeTableWord 16 0 = none ∧ (State.reset.withFetchWord 16 0).pending = [] := by decide +kernel

theorem test_front_command_runs : step { base with pending := [.rangerEccError 5, .arm 6] } = exec (.rangerEccError 5) { base with pending := [.arm 6] } := rfl

/-! ### The queue and the registers -/

theorem witness_StepRunsFrontCommand : ({ base with pending := [.arm 1, .arm 2] } : State).pending = [.arm 1, .arm 2] ∧ base.pending = [] := by decide

theorem base_safe : SafeState base := by constructor <;> decide

theorem witness_StepKeepsSafeState : SafeState base ∧ ∃ t, step base = .next t := ⟨base_safe, _, rfl⟩

theorem witness_EveryCommandAnswers : inputOf (.inputSample 0 80000) = some 80000 ∧ inputOf (.powerOn 0 80001) = some 80001 ∧ inputOf (.arm 0) = none := by
  decide

theorem test_input_above_80_V : exec (.inputSample 0 80001) base = .fault .beyondAbsoluteLimits := rfl

theorem witness_NodeTimeNeverStepsBack : restartsTime (.arm 0) = false ∧ ∃ t, exec (.arm 0) base = .next t := ⟨rfl, _, rfl⟩

theorem witness_RegisterFieldsAreApart : F.ID_BOOT.STAGE ∈ regFields F.ID_BOOT.STAGE.off ∧ F.ID_BOOT.READY ∈ regFields F.ID_BOOT.STAGE.off := by decide

/-- The offsets the clauses take apart, each open and named: own row, shut, plain, ID block, and the three with tables of their own. -/
theorem witness_RegisterWriteFollowsAccessTypes :
    (∀ off ∈ [F.TICK_PERIOD.PERIOD_US.off, F.RING_LBASE.ADDR.off, F.PWR_CAP.CAP_W.off, F.ID_SCRATCH.SCRATCH.off, F.SEC_LOCK.LOCK.off,
      F.HEALTH_WEATHER_SEL.KIND.off, F.HEALTH_TCC.RELAXED.off], off % 8 = 0 ∧ base.barOpen off = true ∧ regFields off ≠ []) ∧
    ownRow F.TICK_PERIOD.PERIOD_US.off 5 = true ∧ (on base [(F.RING_LCTL.EN, 1)]).writeShut F.RING_LBASE.ADDR.off = true ∧
    (∀ off ∈ [F.PWR_CAP.CAP_W.off, F.ID_SCRATCH.SCRATCH.off, F.SEC_LOCK.LOCK.off, F.HEALTH_WEATHER_SEL.KIND.off, F.HEALTH_TCC.RELAXED.off],
      ownRow off 0 = false ∧ base.writeShut off = false) ∧
    F.ID_SCRATCH.SCRATCH.off < 0x1000 ∧ 0x1000 ≤ F.PWR_CAP.CAP_W.off := by decide

/-- An offset under each reason for which a read answers 0 and a write is ignored. -/
theorem witness_ClosedOffsetsAreInert :
    0x9000 / 4096 = 9 ∧ (State.reset.ready = false ∧ State.reset.rd F.ID_BOOT.STAGE < 3) ∧ regFields 0xA000 = [] ∧
    regFields F.ID_SCRATCH.SCRATCH.off ≠ [] ∧ F.ID_SCRATCH.SCRATCH.off % 8 = 0 := by decide

theorem test_narrow_write_is_ignored : exec (.registerWrite 1 F.ID_SCRATCH.SCRATCH.off 4 5) base = .next (base.at_ 1) := rfl

theorem test_scratch_is_read_back : (run (.registerWrite 1 F.ID_SCRATCH.SCRATCH.off 8 5) base).readBar0 F.ID_SCRATCH.SCRATCH.off 8 = 5 := by decide

def locked : State := on base [(F.SEC_LOCK.LOCK, 1)]

theorem witness_LockHoldsTheHostWindow :
    State.reset.ready = false ∧ base.ready = true ∧ fieldOf F.SEC_LOCK.LOCK 1 = 1 ∧ fieldOf F.SEC_LOCK.LOCK 2 = 0 ∧
    base.rd F.SEC_LOCK.LOCK = 0 ∧ base.hostPages = false ∧ locked.ready = true ∧ locked.rd F.SEC_LOCK.LOCK = 1 ∧
    ({ base with ctxs := [(1, { ctx1 with pages := [(0, (Page.fresh prof.attn 5 0 0 0 16 0).put ⟨4, 0, 0, 0, 0⟩)] })] } : State).hostPages = true := by decide

theorem test_locked_base_keeps : (run (.rwlWrite 1 F.TIER_HOST_BASE.ADDR.off 0x200000) locked).rd F.TIER_HOST_BASE.ADDR = 0 := by decide

theorem test_lock_is_set : (run (.secLockSet 1 1) base).rd F.SEC_LOCK.LOCK = 1 := by decide

theorem witness_EntropySourceFailsAndReturns : base.sec.drbgOk = false ∧ world.sec.drbgOk = true := by decide

theorem test_entropy_fails : (run (.drbgFail 1) world).sec.drbgOk = false := by decide

theorem test_entropy_returns : (run (.entropyHealthPass 1) base).sec.drbgOk = true := by decide

/-! ### The tick -/

theorem witness_TickSetupWritesAreStaged :
    State.reset.ready = false ∧ base.ready = true ∧ (base.running = false ∨ base.tick.source ≠ 0) ∧
    ticking.ready = true ∧ ticking.running = true ∧ ticking.tick.source = 0 ∧
    fieldOf F.TICK_PERIOD.PERIOD_US 4 = 4 ∧ fieldOf F.TICK_PERIOD.PERIOD_US 5 = 5 ∧ fieldOf F.TICK_PERIOD.PERIOD_US 1000 = 1000 ∧
    fieldOf F.TICK_PERIOD.PERIOD_US 1001 = 1001 := by decide

theorem test_period_of_4_is_refused : (run (.tickPeriodWrite 1 4) base).rd F.TICK_STATUS.BAD_CONFIG = 1 ∧
    (run (.tickPeriodWrite 1 4) base).rd F.TICK_PERIOD.PERIOD_US = base.rd F.TICK_PERIOD.PERIOD_US := by decide

theorem test_period_of_1000_is_staged : (run (.tickPeriodWrite 1 1000) base).tick.stagedPeriod = some 1000 := by decide

theorem test_origin_is_read_back : (run (.tickOriginWrite 1 77) base).rd F.TICK_ORIGIN.ORIGIN = 77 := by decide

/-- Shares 64, 64, 64 and 64 of 256. -/
theorem test_window_is_staged : (run (.tickWindowWrite 1 0x40404040) base).rd F.TICK_STATUS.STAGED = 1 := by decide

def pulsing : State := on { base with live := base.live } [(F.TICK_BARRIER.ARMED, 1)]

/-- SYNC_OUT enabled and in force. -/
def driving : State := run (.tickAlignWrite 1 (withField F.TICK_ALIGN.SYNC_OUT_EN 0 1)) base

theorem witness_ArmStartAndAlign :
    State.reset.ready = false ∧ base.ready = true ∧ driving.ready = true ∧ driving.lv F.TICK_ALIGN.SYNC_OUT_EN = 1 ∧ driving.tick.source ≠ 1 ∧
    base.lv F.TICK_ALIGN.SYNC_OUT_EN ≠ 1 ∧ base.running = false ∧ ticking.ready = true ∧ ticking.running = true ∧
    fieldOf F.TICK_ALIGN.SOURCE (withField F.TICK_ALIGN.SOURCE 0 1) ≠ ticking.tick.source ∧
    fieldOf F.TICK_ALIGN.SOURCE (withField F.TICK_ALIGN.SOURCE 0 2) = 2 := by decide

theorem test_arm_sets_armed : (run (.arm 1) base).rd F.TICK_BARRIER.ARMED = 1 := by decide

theorem test_start_asks_for_a_pulse : (run (.start 1) driving).tick.startDue = true := by decide

theorem test_source_changes_at_once : (run (.tickAlignWrite 1 (withField F.TICK_ALIGN.SOURCE 0 1)) base).tick.source = 1 := by decide

def plain : BoundaryInputs := ⟨none, [], []⟩

theorem witness_BoundariesArePeriodic :
    State.reset.ready = false ∧ ticking.ready = true ∧ ticking.running = true ∧
    (ticking.at_ 19999).startsNow = none ∧ max ticking.now 19999 < ticking.tick.next ∧
    (ticking.at_ 20000).startsNow = none ∧ ticking.tick.next ≤ max ticking.now 20000 ∧
    base.ready = true ∧ (base.at_ 5).startsNow = none ∧ base.running = false := by decide

theorem test_boundary : (run (.tickBoundary 20000 plain) ticking).tick.index = 2 ∧ (run (.tickBoundary 20000 plain) ticking).tick.next = 30000 := by
  decide +kernel

theorem test_no_boundary_before_its_time : (run (.tickBoundary 19999 plain) ticking).tick.index = 1 := by decide +kernel

def armed : State := on base [(F.TICK_BARRIER.ARMED, 1)]

/-- An armed node of source 2 with an origin of 1,000. -/
def ptpArmed : State := { armed with tick := { base.tick with source := 2, origin := 1000 } }

theorem witness_StartPointRestartsTheIndex :
    base.rd F.TICK_BARRIER.ARMED ≠ 1 ∧ armed.rd F.TICK_BARRIER.ARMED = 1 ∧ armed.tick.source = 0 ∧ armed.running = false ∧ armed.ready = true ∧
    (armed.at_ 5).startsNow = some 0 ∧ ptpArmed.tick.source = 2 ∧ ptpArmed.ready = true ∧ (ptpArmed.at_ 31000).startsNow = some 3 ∧
    (ptpArmed.at_ 31001).startsNow = none := by decide

theorem test_start : (run (.tickBoundary 5 plain) armed).rd F.TICK_BARRIER.RUNNING = 1 ∧ (run (.tickBoundary 5 plain) armed).tick.index = 0 := by decide +kernel

theorem test_ptp_start : (run (.tickBoundary 31000 plain) ptpArmed).tick.index = 3 := by decide +kernel

/-- A SYNC follower, a PTP node, and each in holdover. -/
def sync (n : Nat) : State := { ticking with tick := { ticking.tick with source := n, lastEdge := some 10000 } }

def held (n : Nat) : State := { sync n with tick := { (sync n).tick with holdover := true } }

theorem witness_ReferenceEvents :
    ticking.tick.source ≠ 1 ∧ (sync 1).tick.source = 1 ∧ (sync 1).rd F.TICK_BARRIER.ARMED ≠ 1 ∧
    (on (sync 1) [(F.TICK_BARRIER.ARMED, 1)]).rd F.TICK_BARRIER.ARMED = 1 ∧
    (∀ e ∈ (sync 1).tick.lastEdge, e + 2 * (sync 1).tick.periodUs * 1000 + 100 ≤ max (sync 1).now 30100) ∧
    ¬(∀ e ∈ (sync 1).tick.lastEdge, e + 2 * (sync 1).tick.periodUs * 1000 + 100 ≤ max (sync 1).now 30099) ∧
    (sync 2).tick.source = 2 ∧ base.tick.source ≠ 2 ∧
    ({ base with tick := { base.tick with source := 2 } } : State).running = false ∧ base.tick.ptpStepped = false ∧ (sync 2).running = true ∧
    (sync 1).tick.holdover = false ∧ (held 1).tick.holdover = true ∧ (held 1).tick.source ≠ 0 ∧ (held 1).tick.stuck = false ∧
    (held 1).lv F.TICK_OFFSET.LIMIT_NS = 125 ∧ (-125 : Int).natAbs ≤ 125 ∧ 125 < (126 : Int).natAbs := by decide

theorem test_pulse_starts_a_follower : (run (.syncInPulse 13000 40) (on (sync 1) [(F.TICK_BARRIER.ARMED, 1)])).tick.index = 0 := by decide +kernel

theorem test_pulse_is_remembered : (run (.syncInPulse 13000 40) (sync 1)).tick.lastEdge = some 13000 := by decide

theorem test_timeout_enters_holdover : (run (.syncInTimeout 30100) (sync 1)).tick.holdover = true ∧ (run (.syncInTimeout 30099) (sync 1)).tick.holdover = false := by
  decide +kernel

theorem test_lock_lost : (run (.ptpLockLost 1) (sync 2)).rd F.TICK_STATUS.REF_LOST = 1 := by decide

theorem test_clock_steps_up : (run (.ptpLockAcquired 5 900) { base with tick := { base.tick with source := 2 } }).now = 900 := by decide

theorem test_reference_returns : (run (.referenceReturned 13000 (-125)) (held 1)).tick.holdover = false ∧
    (run (.referenceReturned 13000 126) (held 1)).tick.stuck = true := by decide

/-! ### Tasks and engines -/

def desc (op : Nat) : Desc := ⟨op, 0, 77, 5, 0, 0, 1, 1, 0, 0, 0, 0x100, 0x100, 512, 1024, 0, 0, 0, 0⟩

/-- An admitted request of conversation 5. -/
def reqOf (op : Nat) : Req := { world.newReq (.partner 0 0) (desc op) [] false 0 with id := 9, admittedAt := some 11000, profile := some prof }

def withReq (r : Req) : State := { world with reqs := [r] }

def task (id : Nat) (k : TaskKind) : Task :=
  ⟨id, none, 1, k, .c1, 2000000, 0, 3600, 0, false, false, false, false, none, 0, none, 0, none⟩

def begun (k : Task) : Task := { k with startedAt := some 10400 }

/-- Unit `u` runs a task and has others in place. -/
def planned (u : UnitId) (running : Option Task) (placed : List Task) : State := world.setPlan u ⟨running, placed, []⟩

def seal0 : Task := task 3 (.seal 0)

/-- A task gated on operands that have not landed. -/
def waiting0 : State := (withReq (reqOf 1)).setPlan (.tile 0) ⟨none, [{ task 4 (.rotate 0 0 0 1) with req := some 9 }], []⟩

theorem witness_TasksStartInOrder :
    let s := planned (.tile 0) none [seal0]
    let e := planned (.engine 3) none [seal0]
    ((s.plan (.tile 0)).running = none ∧ s.tick.published = true ∧ (s.at_ 12000).gated seal0 = false ∧ (s.at_ 12000).planPassed (.tile 0) seal0 = true) ∧
    ((e.plan (.engine 3)).placed = [seal0] ∧ (e.at_ 12000).planPassed (.engine 3) seal0 = true ∧
      (e.at_ 12000).planPassed (.engine 3) { seal0 with planPs := 12000001 } = false) ∧
    (waiting0.at_ 12000).gated ((waiting0.plan (.tile 0)).placed.headD seal0) = true ∧ (s.plan (.tile 1)).placed = [] ∧
    (s.running = true ∧ ({ s.tick with published := false } : TickState).published = false ∧ s.tick.last ≤ (s.at_ 10000).now) := by decide +kernel

theorem test_task_starts : ((run (.gatedTaskReleased 12000 (.tile 0) 3) (planned (.tile 0) none [seal0])).plan (.tile 0)).running =
    some { seal0 with startedAt := some 12000 } := by decide +kernel

theorem test_command_starts : ((run (.seCommandStart 12000 3) (planned (.engine 3) none [seal0])).plan (.engine 3)).running =
    some { seal0 with startedAt := some 12000 } := by decide +kernel

theorem test_published_once : (run (.itineraryPublished 12000) { world with tick := { world.tick with published := false } }).tick.published = true := by
  decide +kernel

theorem witness_TasksEndAndSpill :
    let s := planned (.engine 3) (some (begun seal0)) [task 4 (.seal 1)]
    (s.plan (.tile 0)).running = none ∧ (s.plan (.engine 3)).running = some (begun seal0) ∧ (s.at_ 12000).now < s.tick.next ∧
    s.tick.next ≤ (s.at_ 20000).now ∧ (s.plan (.engine 3)).placed = [task 4 (.seal 1)] ∧
    (s.running = true ∧ s.tick.last * 1000 + windowEnd s.tick.periodUs s.tick.shares 1 ≤ (s.at_ 16000).now * 1000 ∧
      ¬(s.tick.last * 1000 + windowEnd s.tick.periodUs s.tick.shares 1 ≤ (s.at_ 12000).now * 1000)) ∧
    (withReq (reqOf 1)).outcomeOf (begun seal0) .done = .done ∧
    (withReq (reqOf 1)).outcomeOf (begun seal0) (.corrupt 2) = .corrupt 2 ∧
    (withReq (reqOf 1)).outcomeOf (begun seal0) (.tagFault 2) = .tagFault 2 := by decide +kernel

theorem test_task_ends : ((run (.taskComplete 12500 (.tile 0) .done) (planned (.tile 0) (some (begun seal0)) [])).plan (.tile 0)).running = none := by
  decide +kernel

theorem test_cut_is_carried :
    ((run (.seCommandComplete 20000 3 3 0) (planned (.engine 3) (some (begun seal0)) [])).plan (.engine 3)).carry.map Task.id = [3] := by decide +kernel

theorem test_spill_is_counted :
    (run (.windowNominalEnd 16000 (.tile 0) .c1) (planned (.tile 0) (some (begun seal0)) [])).rd F.TICK_EVENTS.SPILL = 1 := by decide +kernel

theorem witness_EngineWatchdog :
    let s := planned (.engine 3) (some (begun seal0)) []
    (s.plan (.engine 4)).running = none ∧ (s.plan (.engine 3)).running = some (begun seal0) ∧
    ((s.engine 3).trips.filter (fun x => decide (12000 < x + 1000000000)) ++ [12000]).length < 3 ∧
    3 ≤ ([11000, 11500] ++ [12000]).length := by decide +kernel

def tripped : State := { planned (.engine 3) (some (begun seal0)) [] with engines := [(3, { Engine.idle with trips := [11000, 11500] })] }

theorem test_third_trip_disables : bitOf (run (.seWatchdog 12000 3) tripped).regs F.TIER_SE_FAULT.FAULT 3 = true := by decide +kernel

theorem test_watchdog_returns_tasks : (run (.seWatchdog 12000 3) (planned (.engine 3) (some (begun seal0)) [])).itin.waiting.map Task.id = [3] := by
  decide +kernel

def owing (n : Nat) : State := { planned (.engine 3) (some (begun seal0)) [] with engines := [(3, { Engine.idle with debt := n })] }

theorem witness_RefreshDebt :
    (192 ≤ 192 ∨ world.engineBusy 192 = false) ∧ (owing 2).engineBusy 3 = true ∧ ((owing 2).engine 3).debt + 1 < 4 ∧
    4 ≤ ((owing 3).engine 3).debt + 1 ∧ ((owing 3).plan (.engine 3)).running = some (begun seal0) ∧
    (world.engineBusy 3 = false ∧ 0 < (({ world with engines := [(3, { Engine.idle with debt := 1 })] } : State).engine 3).debt) ∧
    world.power.above85.contains 11 = false ∧ (world.running && !world.power.hotGrid.contains 11) = true ∧
    (base.running && !base.power.hotGrid.contains 11) = false := by decide +kernel

theorem test_refresh_is_owed : ((run (.refreshSlot 12000 3) (owing 2)).engine 3).debt = 3 := by decide +kernel

theorem test_fourth_is_forced : (run (.makeupRefreshSlot 12000 3) (owing 3)).rd F.TIER_SE_REFRESH.FORCED = 1 := by decide +kernel

theorem test_debt_is_repaid :
    ((run (.refreshDebtRepay 12000 3) { world with engines := [(3, { Engine.idle with debt := 1 })] }).engine 3).debt = 0 := by decide +kernel

theorem test_above_85 : (run (.stackAbove85C 12000 11) world).power.above85 = [11] := by decide +kernel

theorem witness_EngineRegisters :
    State.reset.ready = false ∧ base.ready = true ∧ fieldOf F.TIER_SE_TEST.ENGINE 191 = 191 ∧ fieldOf F.TIER_SE_TEST.ENGINE 192 = 192 ∧
    base.rd F.TIER_SE_TEST.BUSY = 0 ∧ (on base [(F.TIER_SE_TEST.BUSY, 1)]).rd F.TIER_SE_TEST.BUSY = 1 ∧ base.running = false ∧
    (bitOf ticking.live F.TIER_SE_MASK.MASK 191 = false ∧ ticking.running = true) ∧
    fieldOf F.TIER_SE_TEST.START (withField F.TIER_SE_TEST.START 191 1) = 1 := by decide +kernel

theorem test_mask_is_read_back : getReg (run (.tierSeMaskWrite 1 2 5) base).regs (F.TIER_SE_MASK.MASK.at_ 2) = 5 := by decide +kernel

theorem test_fault_is_cleared : (run (.tierSeFaultClear 1 0 3) (on base [(F.TIER_SE_FAULT.FAULT, 7)])).rd F.TIER_SE_FAULT.FAULT = 4 := by decide +kernel

theorem test_self_test : (run (.seSelfTest 1 (withField F.TIER_SE_TEST.START 191 1)) base).rd F.TIER_SE_TEST.BUSY = 1 ∧
    (run (.seSelfTest 1 (withField F.TIER_SE_TEST.START 191 1)) ticking).rd F.TIER_SE_TEST.REFUSED = 1 := by decide +kernel

/-! ### Tiers -/

/-- A sealed page of conversation 5 in the stacks, channel 2. -/
def page0 : Page := { Page.fresh prof.attn 5 0 0 0 16 0 with fill := 4, home := 2, recHome := 2, pebbles := [] }

def paged (pg : Page) : State := { world with ctxs := [(1, { ctx1 with hdmRead := true, pages := [(0, pg)] })], tier := { world.tier with cxlUp := true } }

def windowed : State := on (paged page0) [(F.TIER_HDM.EN, 1)]

/-- The window's address of page 0 of context 1. -/
def addr0 : Nat := 2 ^ 48

def leasedState : State := { windowed with engines := [(2, { Engine.idle with leases := [(12000, 13000)] })] }

theorem witness_WindowReadsAndWrites :
    ¬(base.rd F.TIER_HDM.EN ≠ 0) ∧ (windowed.rd F.TIER_HDM.EN ≠ 0 ∧ addr0 < 2 ^ 57 ∧ windowed.tier.cxlUp = true) ∧
    windowed.rd F.PWR_STATE.CURRENT < 3 ∧ 3 ≤ (on windowed [(F.PWR_STATE.CURRENT, 3)]).rd F.PWR_STATE.CURRENT ∧
    leasedState.hdmEngine addr0 = some 2 ∧ (leasedState.at_ 12000).leased 2 = true ∧ (windowed.at_ 12000).leased 2 = false ∧
    (world.at_ 12000).leaseBoundary 2 = false ∧
    (({ leasedState with engines := [(2, { Engine.idle with waiters := [.hdm 12500 addr0 64], leases := [(12000, 13000)] })] } : State).at_
      13000).leaseBoundary 2 = true ∧
    world.tier.invalidating.contains (1, 0) = false ∧ [(1, 0)].contains (1, 0) = true ∧ world.tier.reissued.contains (1, 0) = false := by decide +kernel

theorem test_read_waits : ((run (.hdmRead 12000 addr0 64) leasedState).engine 2).waiters = [.hdm 12000 addr0 64] := by decide +kernel

theorem test_write_is_dropped : (run (.hdmWrite 12000 addr0 []) windowed).rd F.TIER_HDM.WRITES_DROPPED = 1 := by decide +kernel

theorem test_gap_serves_waiters :
    ((run (.leaseGap 13000 2) { leasedState with engines := [(2, { Engine.idle with waiters := [.hdm 12500 addr0 64], leases := [(12000, 13000)] })] }).engine
      2).waiters = [] := by decide +kernel

theorem test_snoop_frees : (run (.snoopComplete 12000 1 7) { world with
    ctxs := [(1, { ctx1 with retiring := [7] })], tier := { world.tier with invalidating := [(1, 7)] } }).ctx 1 = ctx1 := by decide +kernel

theorem test_late_read_is_counted : (run (.farReadTimeout 12000 .far 1 0) world).rd F.TIER_LATE.REISSUED = 1 := by decide +kernel

def farPage : State := paged { page0 with tier := 2, home := 15 }

theorem witness_ChannelsAndLinkFail :
    (16 ≤ 16 ∨ world.farDown 16 = true) ∧ (15 < 16 ∧ farPage.farDown 15 = false ∧ farPage.pagesAt 2 15 = [(1, 0)]) ∧
    (191 < 192 ∧ world.channelDown 191 = false) ∧ State.reset.rd F.ID_BOOT.STAGE < 3 ∧
    (world.pins.perstLow = false ∧ 3 ≤ world.rd F.ID_BOOT.STAGE) := by decide +kernel

theorem test_far_channel_poisons : (run (.farChannelFail 12000 15) farPage).pagePoisoned 1 0 = true := by decide +kernel

theorem test_stack_channel_fails : (run (.stackChannelFail 12000 191) world).channelDown 191 = true := by decide +kernel

theorem test_host_link : (run (.hostLinkDown 12000) world).rd F.TIER_PLACE_STATUS.HOST_DOWN = 1 ∧
    (run (.hostLinkUp 12000 8 64) (on world [(F.TIER_PLACE_STATUS.HOST_DOWN, 1)])).rd F.TIER_PLACE_STATUS.HOST_DOWN = 0 := by decide +kernel

def block0 : EraseBlock := ⟨0, 4, some 0, false, []⟩

/-- Bedrock with one block, which a parcel of 100 bytes lies in or none. -/
def logged (parcels : List Parcel) (b : EraseBlock) : State :=
  { world with tier := { world.tier with blocks := [(0, b)], stripes := [[0]], logHead := 1, parcels := parcels } }

def garbage : State := { logged [] block0 with tier := { (logged [] block0).tier with stripes := [[0], []], logHead := 16384 } }

theorem garbage_written (n : Nat) : (List.range (n + 1)).map (fun i => min 16384 (16384 - ((0 * (n + 1) + i) * 16 + 0) * 16384)) =
    16384 :: ((List.range n).map (fun i => min 16384 (16384 - ((0 * (n + 1) + (i + 1)) * 16 + 0) * 16384))) := by
  simp [List.range_succ_eq_map]

theorem garbage_bytes : garbage.garbageBytes 0 block0 ≠ 0 := by
  show lsum ((List.range (Config.blockUnits + 1)).map (fun i => min 16384 (16384 - ((0 * (Config.blockUnits + 1) + i) * 16 + 0) * 16384))) - 0 ≠ 0
  have zeros : ∀ (l : List Nat) (a : Nat), 0 < a → 0 < l.foldl (· + ·) a := by
    intro l
    induction l with
    | nil => exact fun _ h => h
    | cons x xs ih => exact fun a h => ih (a + x) (Nat.lt_of_lt_of_le h (Nat.le_add_right a x))
  rw [garbage_written]
  exact Nat.pos_iff_ne_zero.mp (zeros _ (0 + 16384) (by decide))

theorem garbage_found : garbage.mostGarbage = some 0 := by
  have h : garbage.closedBlocks = [(0, block0)] := by decide
  have k : (garbage.garbageBytes 0 block0 != 0 && block0.tombs.isEmpty) = true := by simp [garbage_bytes]; rfl
  simp [State.mostGarbage, h, k, lsort, linsert]

theorem logged_live : (logged [⟨1, 0, 0, 100⟩] block0).liveBytes 0 = 100 := by
  have h : (logged [⟨1, 0, 0, 100⟩] block0).unitBlock 0 = 0 := by simp [State.unitBlock, logged, lget]
  have k : (Parcel.units ⟨1, 0, 0, 100⟩) = [0] := by decide
  show lsum [lsum (((Parcel.units ⟨1, 0, 0, 100⟩).filter (fun u => (logged [⟨1, 0, 0, 100⟩] block0).unitBlock u == 0)).map
    (Parcel.bytesIn ⟨1, 0, 0, 100⟩))] = 100
  rw [k]
  simp [h]
  decide

theorem witness_BedrockBlocks :
    (world.at_ 12000).now < ({ world.tier with gcUntil := 12001 } : TierState).gcUntil ∧ ¬(3 ≤ world.rd F.PWR_STATE.CURRENT) ∧
    world.mostGarbage = none ∧ garbage.mostGarbage = some 0 ∧ mwf garbage.tier.blocks = true ∧
    garbage.liveBytes 0 = 0 ∧ (logged [⟨1, 0, 0, 100⟩] block0).liveBytes 0 ≠ 0 ∧
    ((mget (logged [] { block0 with retired := true }).tier.blocks 0).map EraseBlock.retired).getD false = true ∧
    ((mget garbage.tier.blocks 0).map EraseBlock.retired).getD false = false ∧ 39 < 40 ∧ 19 < 20 ∧
    mget world.tier.blocks 0 = none ∧ mget garbage.tier.blocks 0 = some block0 :=
  ⟨by decide, by decide +kernel, by decide, garbage_found, by decide, by decide, by rw [logged_live]; decide, by decide, by decide, by decide,
    by decide, by decide, by decide⟩

theorem test_block_is_retired : (run (.blockRetire 12000 0 39) world).rd F.TIER_PLACE_STATUS.BEDROCK_LOW = 1 ∧
    (run (.blockRetire 12000 0 19) world).rd F.TIER_BEDROCK.READ_ONLY = 1 := by decide +kernel

theorem test_block_is_erased : (mget (run (.bedrockBlockErased 12000 0) { world with tier := { world.tier with blocks := [(0, { block0 with stripe := none })] } }).tier.blocks 0).map EraseBlock.erases = some 5 := by decide +kernel

def copying : Move := ⟨6, 1, 0, 2, 15, ⟨1, 2, 0, 2, 0⟩, none, none, .copying, false, 12000⟩

def moving : State := { farPage with tier := { farPage.tier with moves := [copying] } }

def pendingPage : Page := { page0 with demotePending := true, pass := 1, passFmt := 8 }

theorem witness_CopiesAndDemotionsEnd :
    world.tier.moves.find? (fun m => m.id == 6 && m.incoming.isNone && m.member.isNone && m.phase == .copying) = none ∧
    moving.tier.moves.find? (fun m => m.id == 6 && m.incoming.isNone && m.member.isNone && m.phase == .copying) = some copying ∧
    (moving.at_ 11999).now = 12000 ∧ copying.ready ≤ (moving.at_ 12000).now ∧ moving.hkDue (.move 6) = false ∧
    ((none : Option Nat).or ((mget (moving.ctx 1).pages 0).bind Page.badPeb)) = none ∧
    ((some 3).or ((mget (moving.ctx 1).pages 0).bind Page.badPeb)).isSome = true ∧
    (world.assayOn 1 0 || !world.scannable 1 0) = true ∧ ((paged pendingPage).assayOn 1 0 || !(paged pendingPage).scannable 1 0) = false ∧
    mget ((paged pendingPage).ctx 1).pages 0 = some pendingPage ∧ pendingPage.badPeb = none := by decide +kernel

theorem test_copy_ends : (run (.moveCopyComplete 12000 6 none) moving).tier.moves.map Move.phase = [.copied] := by decide +kernel

theorem test_copy_fails : (run (.moveCopyComplete 12000 6 (some 3)) moving).pagePoisoned 1 0 = true := by decide +kernel

theorem test_demotion_fails : (run (.demotionComplete 12000 1 0 (some 3)) (paged pendingPage)).pagePoisoned 1 0 = true := by decide +kernel

/-! ### Requests and their operations -/

/-- Bytes of zeros. -/
def zeros (n : Nat) : Bytes := List.replicate n 0

def entry0 : PageEntry := ⟨0, 0, [], false, false, 0, 16, false, false⟩

/-- A conversation with one page of 4 tokens. -/
def conv4 : Conv := { conv0 with lens := [(0, 4)], pageMap := [(0, entry0)] }

def tail0 : Page := { Page.fresh prof.attn 5 0 0 0 16 0 with fill := 4, home := 2, recHome := 2 }

def ctx4 : Ctx := { ctx1 with convs := [(5, conv4)], pages := [(0, tail0)] }

def withTail (r : Req) : State := { withReq r with ctxs := [(1, ctx4)] }

def append4 : Req := { reqOf 3 with desc := { desc 3 with tokenFirst := 4, tokenSpan := 1 }, operands := [(0, zeros 16)] }


def attend0 : Req := { reqOf 1 with desc := { desc 1 with qpos := 1 }, nc := 1 }

def landed0 : Req := { attend0 with operands := [(0, zeros 8)] }

/-- One key of its rows is not a number. -/
def bad0 : Req := { attend0 with operands := [(0, List.replicate 8 0xFF)] }

def chunk0 : Req := { reqOf 2 with desc := { desc 2 with tokenSpan := 1 }, operands := [(0, zeros 8)], nc := 1 }

/-- A request whose block has a bound pass or page-task still to run. -/
def scanning (k : TaskKind) : State := { (withReq { landed0 with desc := { landed0.desc with flags := 8 }, placedBlocks := 1 }) with
  itin := { Itinerary.reset with waiting := [{ task 4 k with req := some 9 }] } }

theorem witness_OperandsLand :
    world.req? 9 = none ∧ ((withReq attend0).req? 9 = some attend0 ∧ attend0.profile.or ((withReq attend0).ctx 1).profile = some prof) ∧
    (attend0.operandBytes prof.attn 0 ≠ some 7 ∧ attend0.operandBytes prof.attn 0 = some 8) ∧ mhas landed0.operands 0 = true ∧
    mhas attend0.operands 0 = false ∧ attend0.desc.isAttend = true ∧ ((withReq attend0).at_ 12000).queryBad bad0 0 = true ∧
    ((withReq attend0).at_ 12000).queryBad landed0 0 = false ∧ append4.desc.isAttend = false ∧
    ((withReq append4).at_ 12000).sourceBad append4 wide (List.replicate 256 0xFF) = true ∧
    ((withReq append4).at_ 12000).sourceBad append4 wide (zeros 256) = false ∧
    ((withReq landed0).workOf 9).map Work.skip = some false ∧
    (let s := scanning (.bound 0 0 0 0 1)
     (s.workOf 9).map Work.skip = some true ∧ s.blocksOf 9 = [0] ∧ s.skipReady 9 0 = false ∧ (s.workOf 9).map (fun w => s.anchorsDone w 0) = some false) ∧
    (let s := scanning (.output 0 0)
     (s.workOf 9).map (fun w => (s.anchorsDone w 0, (s.formMasks 9 0).allTasks.filter ((s.formMasks 9 0).allSkip w 0))) = some (true, [])) := by
  decide +kernel

theorem test_operands_are_kept :
    ((run (.operandsLanded 12000 9 0 (zeros 8)) (withReq attend0)).req? 9).map (fun r => r.operands) = some [(0, zeros 8)] := by decide +kernel

theorem test_bad_operands_end : ((run (.operandsLanded 12000 9 0 (List.replicate 8 0xFF)) (withReq attend0)).req? 9).isNone = true := by decide +kernel

theorem test_scan_forms_masks : (run (.anchorScanComplete 12000 9) (scanning (.output 0 0))).skipReady 9 0 = true := by decide +kernel

theorem witness_AttentionRuns :
    (withReq landed0).req? 9 = some landed0 ∧ landed0.desc.opcode = 1 ∧ landed0.desc.blocks = 1 ∧ (withReq chunk0).req? 9 = some chunk0 ∧
    chunk0.desc.opcode = 2 ∧ ((scanning (.bound 0 0 0 0 1)).at_ 12000).scanBusy 9 0 = true ∧
    (let s := (scanning (.output 0 0)).at_ 12000
     s.scanBusy 9 0 = false ∧ (s.homeLeaves 9 0).blockBusy 9 0 = true) ∧
    (∀ r ∈ [attend0, landed0, bad0],
      let s := ((withReq r).at_ 12000).homeLeaves 9 0
      ((withReq r).at_ 12000).scanBusy 9 0 = false ∧ s.blockBusy 9 0 = false ∧ s.req? 9 = some r ∧ r.profile = some prof ∧
      s.conv? r.ctx r.desc.conv = some conv0 ∧ r.desc.isAttend = true ∧ s.mayAct r = true ∧ 0 < r.desc.blocks ∧ r.doneBlocks.contains 0 = false ∧
      r.cancelledBy = none) ∧
    ((withReq bad0).blockRows bad0 prof 0 = none ∧ mhas bad0.operands 0 = true) ∧
    ((withReq attend0).blockRows attend0 prof 0 = none ∧ mhas attend0.operands 0 = false) ∧
    ((withReq landed0).blockRows landed0 prof 0).isSome = true := by decide +kernel

theorem test_attend_ends_on_bad_operands : ((run (.attend 12000 9) (withReq bad0)).req? 9).isNone = true := by decide +kernel

theorem test_attend_answers : (run (.attend 12000 9) (withReq landed0)).req? 9 = none ∧
    Out.status (.partner 0) 1024 (statusWord 4 0 77 1) ∈ (run (.attend 12000 9) (withReq landed0)).out := by decide +kernel

theorem test_chunk_answers : (run (.attendChunk 12000 9) (withReq chunk0)).req? 9 = none := by decide +kernel

/-- An APPEND of one token to a conversation that the far tier takes, whose channels are all down. -/
def full0 : Req := { reqOf 3 with desc := { desc 3 with tokenSpan := 1 }, operands := [(0, zeros 16)], profile := some prof }

def noRoom : State :=
  { on (withReq full0) [(F.TIER_FAR_FAULT.CHANNEL, 65535)] with ctxs := [(1, { ctx1 with profile := some prof, convs := [(5, { conv0 with placed := 2 })] })] }

theorem noRoom_channels (u : State) (x : Nat) (h : u.regs = noRoom.regs) : u.farFrom x = [] := by
  have down : ∀ ch < 16, noRoom.farDown ch = true := by decide +kernel
  refine List.filter_eq_nil_iff.mpr (fun ch hc => ?_)
  obtain ⟨i, -, rfl⟩ := List.mem_map.mp hc
  have e : u.farDown ((x + i) % 16) = noRoom.farDown ((x + i) % 16) := by simp [State.farDown, State.rd, h]
  simp [e, down _ (Nat.mod_lt _ (by decide))]

theorem noRoom_plans : (noRoom.at_ 12000).applyPlans full0 prof
    (okPlans ((List.range 1).map ((noRoom.at_ 12000).planHead full0 prof { conv0 with placed := 2 } (zeros 16)))) = none := by
  have h : okPlans ((List.range 1).map ((noRoom.at_ 12000).planHead full0 prof { conv0 with placed := 2 } (zeros 16))) = [(0, [⟨0, none, [([], [])]⟩])] := by
    decide +kernel
  have c : (noRoom.at_ 12000).conv? 1 5 = some { conv0 with placed := 2 } := by decide +kernel
  rw [h]
  show ((noRoom.at_ 12000).applyPlan 1 prof full0.desc 0 1 ⟨0, none, [([], [])]⟩) = none
  unfold State.applyPlan
  have c' : (noRoom.at_ 12000).conv? 1 full0.desc.conv = some { conv0 with placed := 2 } := c
  rw [c']
  simp [State.newPage, State.placeNew, State.reserveIn, noRoom_channels, State.draw, State.at_]

theorem witness_EffectsAreAnswered :
    let r := reqOf 12
    (withReq r).req? 9 = some r ∧ r.demotions = [] ∧ r.journalWait.all (withReq r).msgAcked = true ∧ ([3] : List Nat) ≠ [] := by decide +kernel

/-- The request as an admitted one of conversation 5, in a context that holds the conversation and its tail page. -/
def acts (s : State) (op : Nat) : Bool := ((s.at_ 12000).acting 9 op).isSome

def shortAppend : Req := { append4 with operands := [(0, zeros 15)] }

def poisonedTail : State := { withTail append4 with ctxs := [(1, { ctx4 with pages := [(0, { tail0 with poisoned := true })] })] }

/-- The tail lies with member 1. -/
def awayTail : State := { withTail append4 with ctxs := [(1, { ctx4 with convs := [(5, { conv4 with pageMap := [(0, { entry0 with member := 1 })] })] })] }

def headPlans (s : State) (r : Req) (c : Conv) : List HeadPlan :=
  (List.range r.desc.kvhCount).map ((s.at_ 12000).planHead r prof c ((mget r.operands 0).getD []))

def isAway (h : HeadPlan) : Bool := match h with
  | .away _ => true
  | _ => false

def overQuota : Ctx := { ctx4 with profile := some { prof with place := { prof.place with qNode := 1 } } }

def forkReq (span : Nat) : Req := { reqOf 5 with desc := { desc 5 with conv := 6, queryRkey := 5, tokenSpan := span } }

/-- A FORK of conversation 5 into conversation 6, which its admission has made. -/
def forking (span : Nat) : State :=
  { withReq (forkReq span) with ctxs := [(1, { ctx4 with convs := [(5, conv4), (6, { conv0 with creator := some 9 })] })] }

def hintReq (what : Nat) : Req := { reqOf 8 with desc := { desc 8 with qgroup := what } }

theorem witness_OperationsChangeConversations :
    (∀ op ∈ [3, 4, 5, 6, 7, 8], (world.at_ 12000).acting 9 op = none ∧ acts (withTail { append4 with desc := { append4.desc with opcode := op } }) op = true) ∧
    ((mget shortAppend.operands 0).getD []).length < shortAppend.sourceBytes prof.attn ∧
    append4.sourceBytes prof.attn ≤ ((mget append4.operands 0).getD []).length ∧
    (acts poisonedTail 3 = true ∧ firstFail (headPlans poisonedTail append4 conv4) = some (cPageCorrupt, none)) ∧
    (let c := { conv4 with pageMap := [(0, { entry0 with member := 1 })] }
     acts awayTail 3 = true ∧ firstFail (headPlans awayTail append4 c) = none ∧ (headPlans awayTail append4 c).any isAway = true) ∧
    (firstFail (headPlans (withTail append4) append4 conv4) = none ∧ (headPlans (withTail append4) append4 conv4).any isAway = false) ∧
    overQuota.quotaOk (overQuota.pinnedConv conv4) 1 = false ∧ ctx4.quotaOk (ctx4.pinnedConv conv4) 0 = true ∧ 0 ≤ ctx4.freeNumbers ∧
    ((withTail append4).at_ 12000).conv? 1 5 = some conv4 := by decide +kernel

theorem witness_append_without_room : acts noRoom 3 = true ∧ (noRoom.at_ 12000).applyPlans full0 prof
    (okPlans ((List.range 1).map ((noRoom.at_ 12000).planHead full0 prof { conv0 with placed := 2 } (zeros 16)))) = none :=
  ⟨by decide +kernel, noRoom_plans⟩

theorem witness_operations_on_conversations :
    (conv4.pageMap.any (fun e => e.2.asked && !e.2.poisoned && !e.2.lost) = false ∧
      ({ conv4 with pageMap := [(0, { entry0 with asked := true })] } : Conv).pageMap.any (fun e => e.2.asked && !e.2.poisoned && !e.2.lost) = true) ∧
    (acts (forking 4) 5 = true ∧ (forking 4).conv? 1 7 = none ∧ (forking 4).conv? 1 5 = some conv4 ∧
      ((forking 5).at_ 12000).forkCode 1 prof.attn conv4 5 = some cPosition ∧
      ((forking 4).at_ 12000).forkCode 1 prof.attn conv4 4 = some cNotSealed ∧
      ((forking 4).at_ 12000).forkCode 1 prof.attn { conv4 with pageMap := [] } 0 = none) ∧
    (∀ what ∈ [0, 1, 2, 3], acts (withTail (hintReq what)) 8 = true) ∧
    striped (pagesOf ((conv4.lens.map Prod.snd).foldl max 0)) world.nc prof.place = false := by decide +kernel

theorem test_append_fills_the_tail : ((run (.append 12000 9) (withTail append4)).ctx 1).pages.map (fun p => p.2.fill) = [5] := by decide +kernel

theorem test_seal_marks_the_tail : ((run (.seal 12000 9) (withTail { append4 with desc := { append4.desc with opcode := 4 } })).ctx 1).pages.map
    (fun p => p.2.isSealed) = [true] := by decide +kernel

theorem test_fork_takes_the_lengths : ((run (.fork 12000 9) { forking 0 with
    ctxs := [(1, { ctx4 with pages := [], convs := [(5, { conv0 with lens := [(0, 0)] }), (6, { conv0 with creator := some 9 })] })] }).req? 9) = none := by
  decide +kernel

theorem test_release_ends_the_conversation :
    (run (.release 12000 9) (withTail { append4 with desc := { append4.desc with opcode := 7 } })).conv? 1 5 = none := by decide +kernel

theorem test_trim_cuts : ((run (.trim 12000 9) (withTail { append4 with desc := { append4.desc with opcode := 6, tokenFirst := 0 } })).conv? 1 5).map (fun c => c.len 0) = some 0 := by decide +kernel

theorem test_bad_hint : (run (.hint 12000 9) (withTail (hintReq 0))).req? 9 = none := by decide +kernel

def exportReq : Req := { reqOf 9 with desc := desc 9 }

/-- A page of 4 tokens as an EXPORT writes it. -/
def parcel0 : Bytes := exportBytes prof.attn tail0

def importReq (progress : Nat) : Req := { reqOf 10 with desc := { desc 10 with tokenSpan := 4 }, progress := progress }

def importing : State := withReq (importReq 0)

theorem witness_OperationsCopyPages :
    (∀ op ∈ [9, 10, 12], (world.at_ 12000).acting 9 op = none ∧ acts (withTail (reqOf op)) op = true) ∧
    exportEntries prof.attn (desc 9) conv0 = [] ∧ exportEntries prof.attn (desc 9) conv4 = [(0, entry0)] ∧
    ((poisonedTail.at_ 12000).exportOne 1 prof entry0).1.isRight = true ∧ (((withTail exportReq).at_ 12000).exportOne 1 prof entry0).1.isLeft = true ∧
    (importReq 0).progress = 0 ∧ importCount prof.attn 4 = 1 ∧ overQuota.quotaOk (overQuota.pinnedConv conv4) 1 = false ∧
    (ctx1.quotaOk (ctx1.pinnedConv conv0) 1 = true ∧ 1 ≤ ctx1.freeNumbers) ∧ (importReq 1).progress ≠ 0 ∧
    (let took := importing.importFrom (importReq 0) prof conv0 0 []
     took.1 = none ∧ took.2.1 < 1) ∧
    (importing.importFrom (importReq 0) prof conv0 0 [[]]).1 = some 0 ∧
    (let took := importing.importFrom (importReq 0) prof conv0 0 [parcel0]
     took.1 = none ∧ 1 ≤ took.2.1) := by decide +kernel

theorem test_export_writes_the_page : Out.result (.partner 0) 512 parcel0 ∈ (run (.exportPages 12000 9) (withTail exportReq)).out := by decide +kernel

theorem test_import_takes_a_page : ((run (.importPages 12000 9 [parcel0]) importing).conv? 1 5).map (fun c => c.len 0) = some 4 := by decide +kernel

theorem test_import_refuses_a_parcel : (run (.importPages 12000 9 [[]]) importing).req? 9 = none := by decide +kernel

theorem test_probe_answers : (run (.probe 12000 9) (withTail (reqOf 12))).req? 9 = none := by decide +kernel

/-- A FENCE of mode `m`, fetched 500 ns before the boundary, after the request 9 that is not admitted. -/
def fenceReq (m : Nat) (admitted : Option Nat) : Req :=
  { reqOf 11 with id := 8, desc := { desc 11 with qgroup := m }, order := 2, fetchedAt := 9500, admittedAt := admitted }

def fenced (m : Nat) (admitted : Option Nat) : State := { world with reqs := [{ reqOf 12 with order := 1, admittedAt := none }, fenceReq m admitted] }

def alone (m : Nat) (admitted : Option Nat) : State := { world with reqs := [fenceReq m admitted] }

theorem witness_FencesWaitAndCancel :
    world.req? 8 = none ∧ (fenced 0 none).req? 8 = some (fenceReq 0 none) ∧ (fenceReq 0 none).desc.opcode = 11 ∧
    ((fenced 0 none).at_ 12000).fenceReady (fenceReq 0 none) = true ∧ ((fenced 0 none).at_ 12000).admitting = true ∧
    ({ fenced 0 none with tick := { ticking.tick with rearmed := true } } : State).admitting = false ∧
    (fenced 0 none).fencedBefore (fenceReq 0 none) ≠ [] ∧ (alone 0 none).fencedBefore (fenceReq 0 none) = [] ∧
    ((fenced 1 none).at_ 12000).fenceReady (fenceReq 1 none) = true ∧ ((fenced 2 none).at_ 12000).fenceReady (fenceReq 2 none) = true ∧
    ((fenced 1 none).fencedBefore (fenceReq 1 none)).filter (fun q => (fenceReq 1 none).desc.qgroup == 1 || q.desc.conv == 5) =
      [{ reqOf 12 with order := 1, admittedAt := none }] ∧
    (∀ q ∈ (fenced 1 none).reqs, q.cancelledBy ≠ some 8) := by decide +kernel

theorem test_fence_answers : (run (.fence 12000 8) (alone 0 none)).req? 8 = none := by decide +kernel

theorem test_fence_waits : (run (.fence 12000 8) (fenced 0 none)).req? 8 = some (fenceReq 0 (some 12000)) ∧
    (run (.fenceComplete 12000 8) (alone 0 (some 11000))).req? 8 = none := by decide +kernel

theorem test_fence_cancels : (run (.fenceCancel 12000 8) (fenced 1 none)).reqs = [] := by decide +kernel

/-! ### Rings -/

/-- Local ring 3 runs on 64 entries of context 1. -/
def ringing (r : RingState) : State :=
  { (world.wr F.RING_LCTL.EN 1 3) with locals := [(3, ⟨r, ⟨0, none, []⟩⟩)] }

/-- The packet arrives and is taken in a state of which `f` holds. -/
def meets (s : State) (p : Pkt) (type : Nat) (f : RxPkt → State → Conn → Bool) : Bool := match (s.at_ 12000).arrives p [type] with
  | none => false
  | some (x, w) => match w.conn? x.slot with
    | none => false
    | some c => f x w c

/-- A BELL of ring 0 with a producer index. -/
def bellPkt (pi flags : Nat) : Pkt := pkt { hdr 8 0 8 with isRelease := false } (leBytes 4 flags ++ leBytes 4 pi)

def going : RingState := { RingState.off with rstate := 0 }

def unserved : State := { world with ctxs := [(1, { ctx1 with phase := .draining })] }

theorem witness_DoorbellsMoveTheProducer :
    State.reset.ready = false ∧ (ringing going).ready = true ∧ ((ringing going).ring (.localRing 3)).rstate = 0 ∧
    2 ^ ((ringing going).ringConf (.localRing 3)).log2 = 64 ∧ fieldOf F.RING_DB.PI 64 = 64 ∧ fieldOf F.RING_DB.PI 65 = 65 ∧
    meets world (bellPkt 1 0) 8 (fun x w c => (c.rxMsg? x.h.msg).isNone && w.inService c.entry.ctx && !(x.h.isRelease && c.mustWait x.h.msg) &&
      c.state == 3 && (w.ring (.partner x.slot 0)).rstate == 0) = true ∧
    meets { world with conns := [(0, { conn false with rx := { ConnRx.empty with msgs := [⟨0, 8, 8, [], [], 0, 0, true, false, false, 0⟩] } })] } (bellPkt 1 0) 8
      (fun x _ c => (c.rxMsg? x.h.msg).isSome) = true ∧
    meets unserved (bellPkt 1 0) 8 (fun x w c => (c.rxMsg? x.h.msg).isNone && !w.inService c.entry.ctx) = true ∧
    meets world (pkt { hdr 8 1 8 with isRelease := true } (leBytes 4 0 ++ leBytes 4 1)) 8
      (fun x w c => w.inService c.entry.ctx && (x.h.isRelease && c.mustWait x.h.msg)) = true ∧
    meets { world with conns := [(0, { conn false with rings := [{ going with rstate := 1 }] })] } (bellPkt 0 4) 8
      (fun x w _ => (parseBell x.p.payload).resync && (w.ring (.partner x.slot 0)).rstate == 1 && (w.ring (.partner x.slot 0)).consumer == 0) = true := by
  decide +kernel

theorem test_doorbell_moves : ((run (.ringDbWrite 12000 3 64) (ringing going)).ring (.localRing 3)).pi = 64 := by decide +kernel

theorem test_doorbell_past_the_ring : ((run (.ringDbWrite 12000 3 65) (ringing going)).ring (.localRing 3)).rstate = 1 := by decide +kernel

theorem test_bell_moves : ((run (.bell 12000 (bellPkt 64 0)) world).ring (.partner 0 0)).pi = 64 := by decide +kernel

theorem test_bell_resyncs : ((run (.bell 12000 (bellPkt 0 4)) { world with conns := [(0, { conn false with rings := [{ going with rstate := 1 }] })] }).ring
    (.partner 0 0)).rstate = 0 := by decide +kernel

/-- Two entries of the ring are being fetched. -/
def fetching : State := ringing { going with pi := 2, issued := 2, fetches := [⟨0, 2, 0⟩] }

theorem witness_RingsStartStopAndPass :
    State.reset.ready = false ∧ 16 ≤ 16 ∧ world.ready = true ∧ world.rd F.RING_LCTL.EN 15 = 0 ∧ (ringing going).rd F.RING_LCTL.EN 3 = 1 ∧
    world.comp.isolated = false ∧
    (let r := fetching.ring (.localRing 3)
     r.rstate ≠ 3 ∧ r.fetching 0 = true ∧ r.fetching 1 = true ∧ r.fetching 2 = false ∧ mhas r.ready 0 = false ∧ (zeros 64).length = 64 ∧ r.consumer = 0) := by
  decide +kernel

theorem test_ring_starts : (run (.ringEnable 12000 15 0) world).rd F.RING_LCTL.EN 15 = 1 ∧
    ((run (.ringEnable 12000 15 0) world).ring (.localRing 15)).rstate = 0 := by decide +kernel

theorem test_ring_stops : ((run (.ringDisable 12000 3 0) (ringing going)).ring (.localRing 3)).rstate = 3 := by decide +kernel

theorem test_entry_waits_its_turn : ((run (.descriptorFetched 12000 (.localRing 3) 1 (zeros 64)) fetching).ring (.localRing 3)).ready = [(1, zeros 64)] := by
  decide +kernel

theorem test_entry_is_passed : ((run (.descriptorFetched 12000 (.localRing 3) 0 (zeros 64)) fetching).ring (.localRing 3)).consumer = 1 := by decide +kernel

/-! ### The trail -/

def exHdr (type msg len addr : Nat) : Hdr := { hdr type msg len with rkey := 256, addr := addr }

/-- An 8-byte WRITE at the end of the region. -/
def writePkt (release : Bool) (msg addr : Nat) : Pkt := pkt { exHdr 1 msg 8 addr with isRelease := release } (List.replicate 8 3)

/-- Message 0 is a WRITE of two packets of which none has come, or is held, or given up. -/
def partly (held abandoned : Bool) : State :=
  { world with conns := [(0, { conn false with rx := { ConnRx.empty with msgs := [⟨0, 1, 8, [], [], 256, 16, held, false, abandoned, 0⟩] } })] }

theorem witness_WritesStoreTheirPayload :
    meets world (writePkt false 0 4088) 1 (fun x w c => (c.rxMsg? x.h.msg).isNone && w.regionCode 1 1 x.h.rkey x.h.addr x.h.len == 0 &&
      !(x.h.isRelease && c.mustWait x.h.msg)) = true ∧
    meets world (writePkt false 0 4089) 1 (fun x w c => (c.rxMsg? x.h.msg).isNone && w.regionCode 1 1 x.h.rkey x.h.addr x.h.len == 3) = true ∧
    meets world (writePkt true 1 4088) 1 (fun x w c => (c.rxMsg? x.h.msg).isNone && w.regionCode 1 1 x.h.rkey x.h.addr x.h.len == 0 &&
      (x.h.isRelease && c.mustWait x.h.msg) && decide (c.heldCount < 256)) = true ∧
    meets (partly false false) (writePkt false 0 16) 1 (fun x _ c => (c.rxMsg? x.h.msg).any (fun m => !m.held && !m.abandoned)) = true ∧
    meets (partly true false) (writePkt false 0 16) 1 (fun x _ c => (c.rxMsg? x.h.msg).any RxMsg.held) = true ∧
    meets (partly false true) (writePkt false 0 16) 1 (fun x _ c => (c.rxMsg? x.h.msg).any RxMsg.abandoned) = true := by decide +kernel

theorem test_write_stores : (run (.write 12000 (writePkt false 0 4088)) world).xmem 1 = (List.range 8).map (fun i => (4088 + i, 3)) := by decide +kernel

theorem test_write_past_the_region : (run (.write 12000 (writePkt false 0 4089)) world).xmem 1 = [] := by decide +kernel

/-- Eight bytes of ones at address 16. -/
def stored : State := { world with ctxs := [(1, { ctx1 with xmem := (List.range 8).map (fun i => (16 + i, 1)) })] }

def readPkt (addr : Nat) : Pkt := pkt (exHdr 2 0 8 addr) []

def addPkt (addr : Nat) : Pkt := pkt (exHdr 5 0 8 addr) (leBytes 8 2)

def casPkt (old : Nat) : Pkt := pkt (exHdr 6 0 16 16) (leBytes 8 old ++ leBytes 8 9)

def servable (x : RxPkt) (w : State) (c : Conn) : Bool := (c.rxMsg? x.h.msg).isNone && w.regionCode 1 x.h.type x.h.rkey x.h.addr x.h.len == 0 &&
  !(x.h.isRelease && c.mustWait x.h.msg)

theorem witness_ReadsAndAtomics :
    meets stored (readPkt 16) 2 servable = true ∧ meets stored (addPkt 16) 5 servable = true ∧
    meets stored (casPkt 1) 6 servable = true ∧ meets stored (readPkt 4089) 2 (fun x w _ => w.regionCode 1 2 x.h.rkey x.h.addr x.h.len != 0) = true ∧
    meets stored (addPkt 17) 5 (fun x w _ => w.regionCode 1 5 x.h.rkey x.h.addr x.h.len == 5) = true ∧
    meets (partly false false) (readPkt 16) 2 (fun x _ c => (c.rxMsg? x.h.msg).isSome) = true ∧
    meets stored (pkt { exHdr 2 1 8 16 with isRelease := true } []) 2 (fun x _ c => x.h.isRelease && c.mustWait x.h.msg) = true := by decide +kernel

theorem test_read_answers : Out.readResp 0 0 (List.replicate 8 1) ∈ (run (.readReq 12000 (readPkt 16)) stored).out := by decide +kernel

theorem test_atomic_adds : Memory.readN ((run (.atomicAdd 12000 (addPkt 16)) stored).xmem 1) 16 8 = 3 :: List.replicate 7 1 := by decide +kernel

theorem test_swap_needs_equal : Memory.readN ((run (.atomicCas 12000 (casPkt 0x0101010101010101)) stored).xmem 1) 16 8 = 9 :: List.replicate 7 0 ∧
    Memory.readN ((run (.atomicCas 12000 (casPkt 1)) stored).xmem 1) 16 8 = List.replicate 8 1 := by decide +kernel

/-- A packet of message `msg`, sent at 4,000 on path 0, and what it was for. -/
def sentPkt (msg : Nat) (kind : TxKind) (count passed : Nat) : TxPkt :=
  ⟨msg, 0, 1, 8, false, kind, 0, 0, 4000, count, 0, zeros 8, false, passed, 2, 0x100, 512, false, 0, 7, false, 0⟩

/-- A read of two packets of which `got` have come. -/
def readOut (got : List (Nat × Bytes)) (tries : Nat) : ReadOut := ⟨3, 0, 0x100, 4104, .operand 0 0, 0, got, tries, 0, 0⟩

def sending (pkts : List TxPkt) (reads : List ReadOut) : State :=
  { world with conns := [(0, { conn false with tx := { (conn false).tx with nextMsg := 4, pkts := pkts, reads := reads } })] }

def respPkt : Pkt := pkt { hdr 3 3 4104 with off := 4096 } (zeros 8)

def sackPkt (cum : Nat) : Pkt := let b := sackBytes ⟨cum, 5, 0, 0, 0, [], []⟩
  pkt (hdr 9 0 b.length) b

def nakPkt (code : Nat) : Pkt := pkt (hdr 10 0 32) (nakBytes code 0 2 0 0 [])

/-- The packet passes checks 1 to 5 in a state of which `f` holds. -/
def passes (s : State) (p : Pkt) (type : Nat) (f : RxPkt → Conn → Bool) : Bool := match (s.at_ 12000).checks p [type] with
  | (none, _) => false
  | (some x, w) => (w.conn? x.slot).any (f x)

theorem witness_AnswersReachTheSender :
    (∀ type ∈ [3, 9, 10, 11], ((world.at_ 12000).checks (bellPkt 0 0) [type]).1 = none) ∧
    passes (sending [] [readOut [] 0]) respPkt 3 (fun x c => c.tx.reads.any (fun r => r.msg == x.h.msg && r.len == x.h.len &&
      !r.got.any (fun g => g.1 == x.h.off) && decide (r.got.length + 1 < packetCount r.len))) = true ∧
    passes (sending [] [{ readOut [] 0 with msg := 2 }]) respPkt 3 (fun x c => c.tx.reads.any (fun r => r.msg != x.h.msg)) = true ∧
    passes (sending [sentPkt 2 (.result 0) 1 0] []) (sackPkt 4) 9 (fun x c => decide (msgDist (parseSack x.p.payload).cum c.tx.cum ≤ c.tx.nextMsg - c.tx.cum)) = true ∧
    passes (sending [] []) (nakPkt 5) 10 (fun x c => c.sentKind (be x.p.payload 4 4) == none) = true ∧
    (∀ code ∈ [0, 1, 4, 5, 10, 11, 12], passes (sending [sentPkt 2 (.result 0) 1 0] []) (nakPkt code) 10 (fun x c =>
      be x.p.payload 0 1 == code && (c.sentKind (be x.p.payload 4 4)).isSome && c.state == 3) = true) ∧
    passes world (pkt (hdr 11 0 12) (policedBytes 1 0 0 700)) 11 (fun _ _ => true) = true := by decide +kernel

theorem test_resp_fills_its_read :
    ((run (.readResp 12000 respPkt) (sending [] [readOut [] 0])).conn? 0).map (fun c => c.tx.reads.map ReadOut.got) = some [[(4096, zeros 8)]] := by
  decide +kernel

theorem test_last_resp_ends_it :
    ((run (.readResp 12000 respPkt) (sending [] [readOut [(0, zeros 4096)] 0])).conn? 0).map (fun c => c.tx.reads) = some [] := by decide +kernel

theorem test_sack_acknowledges : ((run (.sack 12000 (sackPkt 4)) (sending [sentPkt 2 (.result 0) 1 0] [])).conn? 0).map
    (fun c => (c.tx.cum, c.tx.credits)) = some (4, 5) := by decide +kernel

theorem test_nak_fails : (run (.nak 12000 (nakPkt 5)) (sending [sentPkt 2 (.result 0) 1 0] [])).rd F.NET_EVENTS.CONN_FAILED = 1 := by decide +kernel

theorem test_policed_waits : ((run (.policed 12000 (pkt (hdr 11 0 12) (policedBytes 1 0 0 700))) world).conn? 0).map (fun c => c.tx.waitUntil) =
    some [(1, 12700)] := by decide +kernel

/-- A SACK is owed since 10,000. -/
def owingSack : State := { world with conns := [(0, { conn false with rx := { ConnRx.empty with sincePkts := 1, sinceAt := some 10000 } })] }

def suspended : State :=
  { world with conns := [(0, { conn false with tx := { (conn false).tx with pkts := [sentPkt 2 (.result 0) 1 0], paths := [{ path0 with suspendedUntil := some 12000 }] } })] }

def policed : State := { world with conns := [(0, { conn false with entry := { (entry false false) with policer := { policer with mode := 1 } } })] }

theorem witness_ConnectionTimers :
    world.conn? 1 = none ∧
    (owingSack.lv F.NET_ACK.SACK_NS = 2000 ∧ (owingSack.at_ 11999).now < 10000 + 2001 ∧ 10000 + 2000 ≤ (owingSack.at_ 12000).now) ∧
    (let s := sending [] [readOut [] 0]
     s.rto path0 = 8000 ∧ 0 + 8000 ≤ (s.at_ 12000).now ∧ (s.lv F.NET_RETX.RETX_MAX ≤ (readOut [] 16).tries) ∧ (readOut [] 15).tries < s.lv F.NET_RETX.RETX_MAX) ∧
    (let s := sending [sentPkt 2 (.result 0) 1 0] []
     let due (t : Nat) := ([sentPkt 2 (.result 0) 1 0] : List TxPkt).filter (fun k => !k.held && !k.lost && k.path == 0 &&
       decide (k.sentAt + s.rto path0 ≤ (s.at_ t).now))
     due 12000 ≠ [] ∧ ({ s with now := 11999 } : State).now < 4000 + s.rto path0) ∧
    ({ path0 with suspendedUntil := some 12000 } : PathState).suspendedUntil = some 12000 ∧
    (let s := suspended.at_ 12000
     (s.openLinks (entry false false)).contains (pathLink (s.linkList (entry false false)) 0) = true ∧ s.classHeld (conn false) 2 = false) ∧
    world.lv F.NET_RETX.DEAD_MS = 500 ∧ 0 + 500 * 1000000 ≤ (world.at_ 500000000).now ∧
    (sending [] []).reordered (sentPkt 2 (.result 0) 1 2) = false ∧ (sending [] []).reordered (sentPkt 2 (.result 0) 1 3) = true ∧
    (16 ≤ (sentPkt 2 (.result 0) 16 3).count) ∧ ({ world with links := [] } : State).classHeld (conn false) 2 = true ∧
    policer.mode = 0 ∧ ({ policer with mode := 1 } : Policer).mode ≠ 0 := by decide +kernel

theorem test_sack_goes_out : ((run (.sackDelayExpiry 12000 0) owingSack).conn? 0).map (fun c => c.rx.sinceAt) = some none := by decide +kernel

theorem test_read_asks_again : ((run (.readRespRerequest 12000 0 3) (sending [] [readOut [(0, zeros 4096)] 0])).conn? 0).map (fun c => c.tx.reads.map
    (fun r => (r.addr, r.len, r.tries))) = some [(4096, 8, 1)] := by decide +kernel

theorem test_rto_counts : (run (.rtoExpiry 12000 0 0) (sending [sentPkt 2 (.result 0) 1 0] [])).rd F.NET_EVENTS.RTO = 1 := by decide +kernel

theorem test_dead_connection_fails : (run (.deadTimer 500000000 0) (sending [sentPkt 2 (.result 0) 1 0] [])).rd F.NET_EVENTS.CONN_FAILED = 1 := by decide +kernel

theorem test_reordered_goes_again : (run (.reorderAllowanceExpiry 12000 0 2 0) (sending [sentPkt 2 (.result 0) 1 3] [])).rd F.NET_EVENTS.RETX = 1 := by
  decide +kernel

theorem test_probe_ends_the_wait : ((run (.pathProbe 12000 0 0) suspended).conn? 0).map (fun c => (c.path 0).suspendedUntil) = some none := by decide +kernel

def honouring : State := { world with live := fput (fput world.live F.NET_PCFG.PFC_EN 1) F.NET_PCFG.PCP 5 }

theorem witness_LinkEvents :
    16 ≤ 16 ∧ 15 < 16 ∧ world.linkExists 0 = true ∧ world.linkExists 1 = false ∧
    (honouring.lv F.NET_PCFG.PFC_EN = 1 ∧ honouring.lv F.NET_PCFG.PCP = 5) ∧ world.lv F.NET_PCFG.PFC_EN ≠ 1 := by decide +kernel

theorem test_link_goes_down : ((run (.linkDown 12000 0) world).link 0).up = false := by decide +kernel

theorem test_link_comes_up : ((run (.linkUp 12000 0) { world with links := [] }).link 0).up = true := by decide +kernel

theorem test_pfc_pauses : ((run (.pfcFrame 12000 0 5 true) honouring).link 1).paused = true ∧ ((run (.pfcFrame 12000 0 4 true) honouring).link 0).paused = false := by
  decide +kernel

theorem test_neighbour_is_kept : ((run (.neighborDiscoveryFrame 12000 0 (.neighbor [1] [2])) world).link 0).neighbors = [([1], [2])] := by decide +kernel

/-! ### Handshakes, keys and closing -/

/-- A handshake message of a kind for the connection, of zeros where nothing else is asked. -/
def shake (kind : Nat) : Handshake :=
  ⟨0, 49912, 500, false, encHdr { hdr 4 0 440 with conn := 0 }, leBytes 2 kind ++ zeros 2 ++ leBytes 4 0x101 ++ zeros 432, true⟩

def zeroKeyId : Bytes := sha512 (zeros 133)

/-- The connection in slot state `n`, of an initiator or not, whose peer has the identity key of zeros. -/
def shakingConn (n : Nat) (init : Bool) : Conn :=
  { conn false with entry := { (entry false init) with peerId := zeroKeyId }, state := n, keys := { ConnKeys.empty with key := 7, helloFirstAt := some 0, helloLastAt := some 0 } }

def shaking (n : Nat) (init : Bool) : State := { world with conns := [(0, shakingConn n init)] }

theorem zero_key_id (n : Nat) (init : Bool) (kind : Nat) (h : slice (shake kind).bytes 0xAD 133 = zeros 133) : peerIdOk (shakingConn n init) (shake kind).bytes = true := by
  simp [peerIdOk, h, shakingConn, zeroKeyId]

theorem witness_HandshakesOpenConnections :
    (∀ kind ∈ [0x200, 0x201, 0x202], world.handshakeForm (shake 0x203) kind = false ∧ world.handshakeForm (shake kind) kind = true ∧
      world.slotOf (le (shake kind).bytes 4 4) = some 0 ∧ slice (shake kind).bytes 0xAD 133 = zeros 133) ∧
    ({ world with conns := [] } : State).slotOf 0x101 = none ∧ (shake 0x200).sigOk = true ∧
    (∀ n ∈ [1, 2, 3], (world.conn? 0).isSome = true ∧ (shakingConn n false).state = n ∧ (shakingConn n false).entry.initiator = false ∧
      (shakingConn n true).entry.initiator = true) ∧
    ({ (shakingConn 2 false).keys with helloBytes := (shake 0x200).bytes } : ConnKeys).helloBytes = (shake 0x200).bytes ∧
    (shakingConn 1 false).keys.helloBytes ≠ (shake 0x200).bytes ∧ world.canHandshake = true ∧ base.canHandshake = false ∧
    (world.openPaths (conn false)) ≠ [] ∧ ({ world with links := [] } : State).openPaths (conn false) = [] := by decide +kernel

theorem witness_hello_stands : peerIdOk (shakingConn 1 false) (shake 0x200).bytes = true ∧ peerIdOk (shakingConn 3 false) (shake 0x200).bytes = true ∧
    peerIdOk (shakingConn 2 true) (shake 0x201).bytes = true :=
  ⟨zero_key_id _ _ _ (by decide +kernel), zero_key_id _ _ _ (by decide +kernel), zero_key_id _ _ _ (by decide +kernel)⟩

theorem test_finish_opens : ((run (.finish 12000 (shake 0x202)) (shaking 2 false)).conn? 0).map (fun c => (c.state, c.tx.credits)) = some (3, 64) := by
  decide +kernel

theorem test_finish_out_of_turn_is_dropped : (run (.finish 12000 (shake 0x202)) (shaking 1 false)).rd F.NET_DROPS.HEADER = 1 := by decide +kernel

theorem witness_SlotsConnectAgain :
    world.conn? 1 = none ∧ (shaking 1 true).canHandshake = true ∧ (shakingConn 1 true).closedAt = none ∧
    ({ shakingConn 1 true with closedAt := some 2000 } : Conn).closedAt = some 2000 ∧ 2000 + 10000000 ≤ (world.at_ 10002000).now ∧
    ¬(2000 + 10000000 ≤ (world.at_ 10001999).now) ∧ (shakingConn 2 true).keys.helloLastAt = some 0 ∧ 0 + 1000000 ≤ (world.at_ 1000000).now ∧
    (world.at_ 999999999).now < 0 + 1000000000 ∧ 0 + 1000000000 ≤ (world.at_ 1000000000).now ∧
    ({ shakingConn 5 true with failedAt := some 12000 } : Conn).failedAt = some 12000 ∧ (shakingConn 5 false).state = 5 := by decide +kernel

theorem test_responder_is_ready_again : ((run (.failedSlotRecover 1012000 0) { world with conns := [(0, { shakingConn 5 false with failedAt := some 12000 })] }).conn?
    0).map (fun c => c.state) = some 1 ∧
    ((run (.failedSlotRecover 1011999 0) { world with conns := [(0, { shakingConn 5 false with failedAt := some 12000 })] }).conn? 0).map
      (fun c => c.state) = some 5 := by decide +kernel

theorem test_hello_is_repeated : ((run (.helloResend 1000000 0) (shaking 2 true)).conn? 0).map (fun c => c.keys.helloLastAt) = some (some 1000000) := by
  decide +kernel

def rekeyed : Conn := { conn false with keys := { ConnKeys.empty with key := 7, prev := 6, prevUntil := some 12000 } }

def closing : Conn := { conn false with state := 4, closedAt := some 12000 }

theorem witness_KeysAndClosing :
    world.conn? 1 = none ∧ ((conn false).state == 3 && !(conn false).keys.rekeyStarted && !(conn false).keys.rekeyAnswered && world.sec.drbgOk) = true ∧
    ((conn false).state == 3 && base.sec.drbgOk) = false ∧ rekeyed.keys.prevUntil = some 12000 ∧ (conn false).keys.prevUntil = none ∧
    (conn false).state = 3 ∧ closing.state = 4 ∧ closing.tx.pkts.any (fun k => !k.held) = false ∧
    ([sentPkt 2 (.result 0) 1 0] : List TxPkt).any (fun k => !k.held) = true ∧ (world.at_ 1011999).now < 12000 + 1000000 ∧
    ({ conn false with withdrawn := [0x300] } : Conn).withdrawn.contains 0x300 = true ∧ (world.at_ 12000).regionInUse 0 0x300 = false ∧
    (sending [sentPkt 2 (.result 0) 1 0] []).regionInUse 0 0x100 = true := by decide +kernel

theorem test_previous_key_ends : ((run (.previousKeyExpiry 12000 0) { world with conns := [(0, rekeyed)] }).conn? 0).map (fun c => c.keys.prev) = some 0 := by
  decide +kernel

theorem test_close_is_sent : Out.send 0 0x102 (leBytes 4 1) ∈ (run (.close 12000 0 none 1) world).out := by decide +kernel

theorem test_close_wait_ends : ((run (.closeWaitEnd 12000 0) { world with conns := [(0, closing)] }).conn? 0).map (fun c => c.state) = some 1 := by decide +kernel

theorem test_withdrawal_is_answered :
    Out.send 0 0x112 (leBytes 4 0x300) ∈ (run (.regionWdDone 12000 0 0x300) { world with conns := [(0, { conn false with withdrawn := [0x300] })] }).out := by
  decide +kernel

/-! ### SENDs -/

/-- Bytes of zeros but for little-endian values at offsets. -/
def bytesAt (n : Nat) (fs : List (Nat × Nat × Nat)) : Bytes :=
  (List.range n).map (fun i =>
    (fs.findSome? (fun f => if f.1 ≤ i ∧ i < f.1 + f.2.1 then some (BitVec.ofNat 8 (f.2.2 / 256 ^ (i - f.1))) else none)).getD 0)

/-- A SEND of one packet. -/
def sendPkt (release : Bool) (msg : Nat) (b : Bytes) : Pkt := pkt { hdr 4 msg b.length with isRelease := release } b

/-- The node with its connection to a peer that has been granted SENDs. -/
def peered : State := { world with conns := [(0, { conn true with rx := { ConnRx.empty with grants := 8 } })] }

def kindBytes (kind n : Nat) : Bytes := bytesAt n [(0, 2, kind)]

/-- A SEND of kind `kind` arrives whose check 9 answers `code`. -/
def coded (s : State) (p : Pkt) (code : Nat) (f : RxPkt → State → Conn → Bool) : Bool :=
  meets s p 4 (fun x w c => (c.rxMsg? x.h.msg).isNone && w.sendCode c x.sendKind == code && f x w c)

def soon (x : RxPkt) (w : State) (c : Conn) : Bool :=
  !(x.h.isRelease && c.mustWait x.h.msg) && packetCount x.h.len == 1 && (w.openMsg x).2.sendFits x.p.payload

def rekeying : State := { world with conns := [(0, { conn false with keys := { (conn false).keys with rekeyStarted := true } })] }

theorem witness_SendsAreTakenByKind :
    (world.at_ 12000).arrives (bellPkt 0 0) [4] = none ∧
    coded world (sendPkt false 0 (kindBytes 1 64)) 9 (fun _ _ _ => true) = true ∧
    coded world (sendPkt true 1 (kindBytes 0x110 32)) 0 (fun x _ c => x.h.isRelease && c.mustWait x.h.msg) = true ∧
    coded world (pkt (hdr 4 0 4104) (kindBytes 0x110 4096)) 0 (fun x _ c => !(x.h.isRelease && c.mustWait x.h.msg) && decide (1 < packetCount x.h.len)) = true ∧
    (∀ kind ∈ [0x100, 0x101, 0x102, 0x110, 0x111], coded world (sendPkt false 0 (kindBytes kind 136)) 0 (fun x w c => soon x w c && le x.p.payload 0 2 == kind) = true) ∧
    (∀ kind ∈ [1, 2, 3, 4, 5, 6, 7, 8, 9, 10],
      coded peered (sendPkt false 0 (kindBytes kind 192)) 0 (fun x w c => soon x w c && le x.p.payload 0 2 == kind) = true) ∧
    coded (on peered [(F.TIER_BEDROCK.READ_ONLY, 1)]) (sendPkt false 0 (kindBytes 4 192)) 0 (fun x w _ => !(w.openMsg x).2.sendFits x.p.payload) = true ∧
    (world.sec.drbgOk = true ∧ ((conn false).keys.rekeyStarted && (conn false).entry.initiator) = false ∧ (conn false).keys.rekeyAnswered = false) ∧
    meets rekeying (sendPkt false 0 (kindBytes 0x101 136)) 4 (fun _ _ c => c.keys.rekeyStarted) = true ∧ (conn false).state = 3 ∧
    (conn false).regions.length + (advEntries (kindBytes 0x110 32)).length ≤ 256 ∧
    ({ ctx1 with profile := none } : Ctx).profile = none ∧
    ([{ copying with member := some 1 }] : List Move).find? (fun m => m.id == 6 && m.incoming.isNone && m.member.isSome && m.phase == .copying && m.ctx == 1) =
      some { copying with member := some 1 } := by decide +kernel

theorem test_rekey_is_answered : ((run (.rekey 12000 (sendPkt false 0 (kindBytes 0x100 136))) world).conn? 0).map (fun c => (c.keys.rekeyAnswered, c.keys.next)) =
    some (true, 1) := by decide +kernel

theorem test_rekey_ack_changes_keys : ((run (.rekeyAck 12000 (sendPkt false 0 (kindBytes 0x101 136))) rekeying).conn? 0).map
    (fun c => (c.keys.key, c.keys.prev)) = some (1, 7) := by decide +kernel

theorem test_region_is_advertised : ((run (.regionAdv 12000 (sendPkt false 0 (bytesAt 32 [(0, 2, 0x110), (8, 4, 0x200)]))) world).conn? 0).map
    (fun c => c.regions.map AdvRegion.rkey) = some [0x100, 0x200] := by decide +kernel

theorem test_region_is_withdrawn : ((run (.regionWd 12000 (sendPkt false 0 (bytesAt 16 [(0, 2, 0x111), (8, 4, 0x100)]))) world).conn? 0).map
    (fun c => c.regions) = some [] := by decide +kernel

theorem test_close_ends_requests : ((run (.close 12000 0 (some (sendPkt false 0 (kindBytes 0x102 16))) 0) world).conn? 0).map (fun c => c.state) = some 4 := by
  decide +kernel

theorem test_subreq_is_kept : (run (.subreq 12000 (sendPkt false 0 (kindBytes 1 192))) peered).comp.subs.map SubReq.slot = [some 0] := by decide +kernel

theorem test_move_ack : (run (.moveAck 12000 (sendPkt false 0 (bytesAt 16 [(0, 2, 6), (8, 4, 6)]))) { peered with
    tier := { peered.tier with moves := [{ copying with member := some 1 }] } }).tier.moves.map Move.phase = [.acked] := by decide +kernel

def heldMsg (type : Nat) (b : Bytes) : RxMsg := ⟨0, type, b.length, [0], [(0, b)], 256, 16, true, false, false, 0⟩

def holding (type : Nat) (b : Bytes) : State := { stored with conns := [(0, { conn true with rx := { ConnRx.empty with grants := 8, msgs := [heldMsg type b] } })] }

theorem witness_HeldMessagesExecuteInTurn :
    (conn true).rxMsg? 0 = none ∧
    (∀ type ∈ [1, 2, 4, 5, 6, 8], ((holding type (zeros 16)).conn? 0).map (fun c => (c.rxMsg? 0, c.rx.cum)) = some (some (heldMsg type (zeros 16)), 0)) ∧
    (heldMsg 1 []).held = true ∧ ({ heldMsg 1 [] with held := false } : RxMsg).held = false ∧ 1 ≠ 0 ∧
    (holding 4 (kindBytes 1 192)).sendFits (heldMsg 4 (kindBytes 1 192)).body = true ∧
    (on (holding 4 (kindBytes 4 192)) [(F.TIER_BEDROCK.READ_ONLY, 1)]).sendFits (heldMsg 4 (kindBytes 4 192)).body = false := by decide +kernel

theorem test_held_write_executes : Memory.readN ((run (.releaseMessageExecute 12000 0 0) (holding 1 (List.replicate 8 5))).xmem 1) 16 8 = List.replicate 8 5 := by
  decide +kernel

/-! ### Control registers -/

/-- CTX_CTL, NET_CONN_CTL and the others as written: the fields of one register. -/
def ctl (fs : List (Field × Nat)) : Word := fs.foldl (fun w f => withField f.1 w f.2) 0

/-- A connection entry for slot 2 of context 1, which the peer opens. -/
def entryBytes : Bytes := bytesAt 384 [(0, 4, 0x202), (4, 2, 1), (0x1A, 1, 1), (0x1C, 2, 1)]

/-- The same of a node, as initiator. -/
def initBytes : Bytes := bytesAt 384 [(0, 4, 0x202), (4, 2, 1), (6, 1, 1), (7, 1, 1), (0x1A, 1, 1), (0x1C, 2, 1)]

def slot2 : Word := ctl [(F.NET_CONN_CTL.SLOT, 2)]

/-- Region 1 waits to be revoked since 12,000, with a message bound to it or none. -/
def revoking (bound : Bool) : State :=
  { (if bound then partly false false else world) with regions := [(1, ⟨false, 1, 1, 0, 4096, true, true, true, some 12000, true⟩)] }

def area (off len : Nat) : State :=
  { on world [(F.NET_REGION_ADDR.OFFSET, off), (F.NET_REGION_ADDR.LENGTH, len)] with
    ctxs := [(1, { ctx1 with profile := some { prof with place := { prof.place with xSize := 4096 } } })] }

def region2 : Word := ctl [(F.NET_REGION_CTL.INDEX, 2), (F.NET_REGION_CTL.CTX, 1)]

theorem witness_ConnectionAndRegionOperations :
    State.reset.ready = false ∧ world.ready = true ∧ fieldOf F.NET_CONN_CTL.SLOT slot2 = 2 ∧
    world.connLoadCode 2 none = 5 ∧ world.connLoadCode 2 (some []) = 1 ∧ world.connLoadCode 2 (some entryBytes) = 0 ∧
    world.connLoadCode 2 (some initBytes) = 0 ∧ (world.conn? 2).isNone = true ∧ (parseConnEntry entryBytes).initiator = false ∧
    (parseConnEntry initBytes).initiator = true ∧ world.canHandshake = true ∧ (world.openPaths (Conn.fresh (parseConnEntry initBytes))) ≠ [] ∧
    ({ world with links := [] } : State).openPaths (Conn.fresh (parseConnEntry initBytes)) = [] ∧ (world.conn? 0).map (fun c => c.state) = some 3 ∧
    (revoking false).regionBusy = true ∧ world.regionBusy = false ∧
    ((area 0 8).ctlWrite F.NET_REGION_CTL.INDEX.off region2).registerCode 1 2 0 8 = 0 ∧
    ((area 0 8).ctlWrite F.NET_REGION_CTL.INDEX.off region2).registerCode 1 2 4089 8 = 1 ∧
    (mget world.regions 2).isNone = true ∧ (mget world.regions 1).map Region.valid = some true ∧ world.boundTo 1 = [] ∧
    (partly false false).boundTo 1 ≠ [] ∧ (mget (revoking true).regions 1).map Region.fenceAt = some (some 12000) ∧ (revoking true).boundTo 1 ≠ [] ∧
    (revoking false).boundTo 1 = [] ∧ (world.at_ 100011999).now < 12000 + 100000000 ∧ 12000 + 100000000 ≤ (world.at_ 100012000).now ∧
    mwf (revoking true).conns = true := by decide +kernel

theorem test_entry_is_loaded : ((run (.connLoad 12000 slot2 (some entryBytes)) world).conn? 2).map (fun c => (c.entry.conn, c.state)) = some (0x202, 1) := by
  decide +kernel

theorem test_connection_is_removed : (run (.connRemove 12000 0) world).conn? 0 = none := by decide +kernel

theorem test_region_is_registered : (mget (run (.regionRegister 12000 region2) (area 0 8)).regions 2).map (fun r => (r.valid, r.gen, r.len)) = some (true, 1, 8) := by
  decide +kernel

theorem test_region_is_revoked : (mget (run (.regionRevoke 12000 (ctl [(F.NET_REGION_CTL.INDEX, 1)])) world).regions 1).map
    (fun r => (r.valid, r.revoked)) = some (false, true) := by decide +kernel

theorem test_revocation_completes : (mget (run (.revocationComplete 12000 1) (revoking false)).regions 1).map Region.fenceAt = some none := by decide +kernel

theorem test_revocation_is_abandoned : (run (.revocationAbandon 100012000 1) (revoking true)).boundTo 1 = [] := by decide +kernel

/-! ### Contexts -/

def creationBytes : Bytes := bytesAt 128 [(0, 2, 1), (8, 8, 7)]

/-- Profile bytes in every range: one layer, one head, 64 dimensions, the fresh format 16. -/
def profileBytes : Bytes := bytesAt 256
  [(0, 2, 1), (2, 1, 1), (3, 1, 1), (4, 2, 64), (6, 2, 64), (0x18, 4, 0x3F800000), (0x40, 5, 0x0303030310), (0x64, 1, 1), (0x68, 4, 10), (0x6C, 4, 1),
   (0x70, 4, 1), (0xA4, 2, 1), (0xA6, 2, 1), (0xA8, 2, 1), (0xAC, 8, 0x0001000100010001), (0xC1, 1, 1), (0xC4, 4, 1)]

/-- The geode's one rotation. -/
def geode0 : Geode := ⟨0, [], [⟨1, 0, 0, zeros 16384⟩]⟩

def lockedWorld : State := { on base [(F.SEC_LOCK.LOCK, 1)] with sec := world.sec }

def created : State := { lockedWorld with ctxs := [(1, { Ctx.free with phase := .created, geodes := [(0, geode0)] })] }

def ctx1ctl : Word := ctl [(F.CTX_CTL.CTX, 1)]

theorem witness_ContextsAreMade :
    State.reset.ready = false ∧ lockedWorld.ready = true ∧ fieldOf F.CTX_CTL.CTX ctx1ctl = 1 ∧
    lockedWorld.createCode 1 none = 5 ∧ lockedWorld.createCode 1 (some creationBytes) = 0 ∧ base.createCode 1 (some creationBytes) = 3 ∧
    (created.profileCode 1 none).1 = 5 ∧ ((created.ctx 1).loadable = true) ∧ (base.ctx 1).loadable = false ∧
    (((created.at_ 1).ctlWrite F.CTX_CTL.CTX.off ctx1ctl).profileCode 1 (some profileBytes)).1 = 0 := by decide +kernel

theorem test_context_is_created : ((run (.ctxCreate 1 ctx1ctl (some creationBytes)) lockedWorld).ctx 1).phase = .created ∧
    (run (.ctxCreate 1 ctx1ctl (some creationBytes)) lockedWorld).rd F.CTX_CTL.DONE = 1 := by decide +kernel

theorem test_profile_is_pending : ((run (.ctxLoadProfile 1 ctx1ctl (some profileBytes)) created).ctx 1).pendingProfile = some (1, parseProfile profileBytes) := by
  decide +kernel

theorem test_teardown_is_asked : ((run (.ctxTeardown 7 ctx1ctl) created).ctx 1).teardownAsked = some 7 := by decide +kernel

/-- Context 1 is drained, with its key a tombstone or not. -/
def draining (tombstone : Bool) : State :=
  { base with ctxs := [(1, { ctx1 with phase := .draining, teardownAt := some 100 })]
              nv := { base.nv with keyStore := [(1, ⟨tombstone, [], 1, false, [], [], none⟩)] } }

def scrubbing : State := { draining true with ctxs := [(1, { ctx1 with phase := .scrubbing })], sec := { base.sec with scrubs := [1] } }

theorem witness_ContextsAreTornDown :
    ((draining false).ctx 1).phase = .draining ∧ ((draining false).ctx 1).teardownAt = some 100 ∧ (world.ctx 1).phase ≠ .draining ∧
    world.drained 1 = false ∧ world.tick.published = true ∧ (draining false).drained 1 = true ∧ (draining false).tick.published = false ∧
    (mget (draining false).nv.keyStore 1).map KeyEntry.tombstone = some false ∧ (mget (draining true).nv.keyStore 1).map KeyEntry.tombstone = some true ∧
    (scrubbing.ctx 1).phase = .scrubbing ∧ scrubbing.sec.scrubs.contains 1 = true ∧ scrubbing.hkDue (.scrub 1) = false ∧
    ((world.ctx 1).phase ≠ .scrubbing) := by decide +kernel

theorem test_teardown_closes : (run (.teardownClose 12000 1) { world with ctxs := [(1, { ctx1 with phase := .draining, teardownAt := some 100 })] }).conn? 0 = none := by
  decide +kernel

theorem test_key_goes : ((run (.keyZeroise 200 1) (draining false)).ctx 1).keyLoaded = false ∧
    (mget (run (.keyZeroise 200 1) (draining false)).nv.keyStore 1).map KeyEntry.tombstone = some true := by decide +kernel

theorem test_tombstone_starts_the_scrub : ((run (.tombstoneDurable 200 1) (draining true)).ctx 1).phase = .scrubbing := by decide +kernel

theorem test_scrub_frees : (run (.scrubComplete 200 1) scrubbing).ctx 1 = Ctx.free := by decide +kernel

/-! ### Geodes, programs, assays and health -/

/-- A geode for a device whose identity is the empty string, with no sections. -/
def issuer0 : Bytes := sha512 (zeros 133)

def body0 : Bytes := bytesAt 24 [(0, 2, 4), (8, 4, 8), (16, 1, 16)]

def geodeIn : GeodeInput :=
  { header := (bytesAt 256 [(0, 4, 0x44454F47), (4, 2, 1), (6, 2, 1), (8, 8, 24)]).take 16 ++ issuer0 ++ sha512 body0 ++ zeros 112, devices := [[]],
    recipReservedOk := true, issuerKey := zeros 133, sigOk := true, wrapOk := true, tagOk := true, body := body0 }

def geodeCtx : State := { base with ctxs := [(1, { Ctx.free with phase := .created, issuer := issuer0 })] }

def geodeCtl : Word := ctl [(F.CTX_GEODE_CTL.CTX, 1), (F.CTX_GEODE_CTL.SLOT, 2)]

/-- An image of one instruction, the FEND of opcode 0x20. -/
def progBytes : Bytes := bytesAt 1248 [(0, 4, 0x534D4F44), (4, 1, 1), (5, 1, 1), (0x60, 4, 0x80000000)]

def progCtl : Word := ctl [(F.CTX_PROG_CTL.CTX, 1), (F.CTX_PROG_CTL.SLOT, 3)]


theorem geode_is_loadable : geodeCtx.geodeLoadCode 1 2 (some geodeIn) = 0 := by decide +kernel

def retiringCtx : Ctx := { ctx1 with programs := [(3, ⟨some (progOfImage [] progBytes 0), some (progOfImage [1] progBytes 0)⟩)] }

def programmed (r : Req) : State := { withReq r with ctxs := [(1, retiringCtx)] }

def marginCtl (ns : Nat) : Word := ctl [(F.CTX_CLASS.C0_MARGIN_NS, ns), (F.CTX_CLASS.HK_WEIGHT, 3)]

theorem witness_GeodesAndPrograms :
    State.reset.ready = false ∧ world.ready = true ∧ fieldOf F.CTX_GEODE_CTL.CTX geodeCtl = 1 ∧ fieldOf F.CTX_PROG_CTL.CTX progCtl = 1 ∧
    ((base.at_ 1).ctlWrite F.CTX_GEODE_CTL.CTX.off geodeCtl).geodeLoadCode 1 2 none = 8 ∧
    ((geodeCtx.at_ 1).ctlWrite F.CTX_GEODE_CTL.CTX.off geodeCtl).geodeLoadCode 1 2 (some geodeIn) = 0 ∧
    (base.ctx 1).phase = .free ∧ (geodeCtx.ctx 1).phase = .created ∧ (world.ctx 1).phase = .inService ∧
    ({ ctx1 with profile := some { prof with attn := { prof.attn with geode := 2 } } } : Ctx).geodeInUse 2 = true ∧ ctx1.geodeInUse 2 = false ∧
    ((world.at_ 1).ctlWrite F.CTX_PROG_CTL.CTX.off progCtl).progLoadCode 1 3 none = 7 ∧
    ((world.at_ 1).ctlWrite F.CTX_PROG_CTL.CTX.off progCtl).progLoadCode 1 3 (some progBytes) = 0 ∧
    (((world.ctx 1).prog 3).image.isNone && !(world.ctx 1).pendingProgs.any (fun q => q.slot == 3)) = true ∧
    ((retiringCtx.prog 3).image.isNone && !retiringCtx.pendingProgs.any (fun q => q.slot == 3)) = false ∧
    (let r := { reqOf 1 with image := some (progOfImage [1] progBytes 0), desc := { desc 1 with modifier := 0x8003 } }
     (programmed r).retireCode 1 3 = (if (programmed r).retiringUsed 1 3 then 6 else 0)) ∧
    (programmed (reqOf 12)).retireCode 1 3 = 0 := by decide +kernel

theorem test_geode_is_loaded : mhas ((run (.geodeLoad 1 geodeCtl (some geodeIn)) geodeCtx).ctx 1).geodes 2 = true := by decide +kernel

theorem test_geode_is_unloaded :
    mhas ((run (.geodeUnload 1 geodeCtl) { geodeCtx with ctxs := [(1, { Ctx.free with phase := .created, geodes := [(2, ⟨0, [], []⟩)] })] }).ctx 1).geodes 2 = false := by
  decide +kernel

theorem test_program_waits_for_its_boundary :
    ((run (.progLoad 12000 progCtl (some progBytes)) world).ctx 1).pendingProgs.map (fun q => (q.time, q.slot)) = [(12000, 3)] := by decide +kernel

theorem test_program_unload_waits : ((run (.progUnload 12000 progCtl) { world with ctxs := [(1, retiringCtx)] }).ctx 1).pendingProgs = [⟨12000, 3, none⟩] := by
  decide +kernel

theorem test_class_weight_is_read_back : (run (.ctxClassWrite 12000 (marginCtl 500)) world).rd F.CTX_CLASS.HK_WEIGHT = 3 := by decide +kernel

def assay (held placed : Bool) (mismatch : Option (Nat × Nat)) : Assay :=
  ⟨4, 9, 0, 0, 1, 1, 2, [], 0, 0, held, 0, 0, placed, .tile 0, .tile 1, some (.tile 2), mismatch⟩

def assaying (held placed : Bool) (mismatch : Option (Nat × Nat)) : State :=
  { withReq (reqOf 1) with health := { HealthState.reset with assays := [assay held placed mismatch] } }

/-- The faults of tile 1 and engine 3 a second ago. -/
def faulted (mismatch : Option (Nat × Nat)) (u : UnitId) : State :=
  { assaying false true mismatch with health := { (assaying false true mismatch).health with faults := [(u, 11000)], assays := [{ assay false true mismatch with second := u }] } }

theorem witness_AssaysCompareAndAttribute :
    world.health.assays.find? (fun a => a.id == 4) = none ∧
    (∀ held ∈ [true, false], (assaying held true none).health.assays.find? (fun a => a.id == 4) = some (assay held true none) ∧
      (assay held true none).placed = true ∧ (assaying held true none).assayRuns 4 = false ∧ (assay held true none).mismatch = none) ∧
    (assay false false none).placed = false ∧ (assay false true (some (0, 0))).mismatch.isSome = true ∧
    ((assaying true true none).req? 9).isSome = true ∧
    ((faulted (some (0, 0)) (.tile 1535)).health.faults = [(.tile 1535, 11000)] ∧ max 12000 12000 < 11000 + 3600000000000 ∧ 1535 < 1536) ∧
    ((faulted (some (0, 0)) (.engine 191)).health.faults = [(.engine 191, 11000)] ∧ 191 < 192) := by decide +kernel

theorem test_match_is_counted : (run (.assayCompare 12000 4 none) (assaying false true none)).rd F.HEALTH_ASSAY_STAT.MATCHED = 1 := by decide +kernel

theorem test_held_mismatch_ends_the_request : (run (.assayCompare 12000 4 (some (0, 1))) (assaying true true none)).req? 9 = none := by decide +kernel

theorem test_second_fault_disables : bitOf (run (.assayAttribution 12000 4 true false) (faulted (some (0, 0)) (.tile 1535))).regs F.HEALTH_TILEF.FAULT 1535 = true := by
  decide +kernel

theorem test_unresolved_is_counted : (run (.assayAttribution 12000 4 false false) (assaying false true (some (0, 0)))).rd F.HEALTH_ASSAY_STAT.UNRESOLVED = 1 := by
  decide +kernel

theorem witness_HealthRegisters :
    State.reset.ready = false ∧ base.ready = true ∧ fieldOf F.HEALTH_ASSAY.RATE 4096 = 4096 ∧ fieldOf F.HEALTH_ASSAY.RATE 4097 = 4097 ∧ 23 < 24 ∧ 24 ≤ 24 := by
  decide +kernel

theorem test_rate_is_read_back : (run (.healthAssayWrite 1 4096) base).rd F.HEALTH_ASSAY.RATE = 4096 ∧
    (run (.healthAssayWrite 1 4097) base).rd F.HEALTH_ASSAY.RATE = base.rd F.HEALTH_ASSAY.RATE := by decide +kernel

theorem test_tile_fault_is_cleared : (run (.healthTilefClear 1 23 1) { base with regs := fput base.regs F.HEALTH_TILEF.FAULT 3 23 }).rd F.HEALTH_TILEF.FAULT 23 = 2 := by
  decide +kernel

/-! ### The fabric -/

def nodeA : Bytes := List.replicate 64 1

def nodeB : Bytes := List.replicate 64 2

/-- A map of epoch 1 with the nodes A and B. -/
def mapBytes : Bytes :=
  bytesAt 128 [(0, 4, 0x504D4F43), (4, 2, 1), (6, 2, 2), (8, 4, 9)] ++ nodeA ++ bytesAt 32 [(0, 2, 1)] ++ nodeB ++ bytesAt 32 [(0, 2, 0xFFFF)]

def inFabric : State := { world with sec := { world.sec with identity := nodeA, kernel := zeros 64 } }

def staged (time act : Nat) : State := { inFabric with comp := { CompState.reset with staged := some (time, { parseCompMap mapBytes with actTime := act }) } }

/-- A request of the map of epoch 0 waits for a peer. -/
def blocked : State :=
  { staged 9600 10000 with
    comp := { (staged 9600 10000).comp with current := some (parseCompMap mapBytes), epoch := 1 }
    reqs := [{ reqOf 1 with shares := [⟨0, 1, 1, true, false, false, none, [], []⟩] }] }

theorem witness_MapsAreStagedAndActivated :
    State.reset.ready = false ∧ world.ready = true ∧ inFabric.compCode none = 7 ∧ world.compCode (some mapBytes) = 2 ∧ inFabric.compCode (some mapBytes) = 0 ∧
    world.comp.staged = none ∧ (staged 9601 10000).tick.last < 9601 + 400 ∧ (staged 9600 10001).tick.last < 10001 ∧
    (10000 ≤ (staged 9600 10000).tick.last ∧ 9600 + 400 ≤ (staged 9600 10000).tick.last) ∧ blocked.blocking ≠ [] ∧ (staged 9600 10000).blocking = [] ∧
    blocked.comp.firstQualified = none ∧ inFabric.lv F.NET_FAB.DRAIN_MS = 100 ∧ 10000 + 100 * 1000000 ≤ (inFabric.at_ 100010000).now := by decide +kernel

theorem test_map_is_staged : (run (.compStage 12000 0 (some mapBytes)) inFabric).rd F.NET_COMP_CTL.STAGED_EPOCH = 1 := by decide +kernel

theorem test_map_is_withdrawn : (run (.compWithdraw 12000 0) (staged 9600 10000)).comp.staged = none := by decide +kernel

theorem test_map_is_deferred : (run (.mapActivation 12000) blocked).rd F.NET_COMP_CTL.DEFERRED = 1 := by decide +kernel

theorem test_map_is_active : (run (.mapActivation 12000) (staged 9600 10000)).comp.epoch = 1 := by decide +kernel

theorem test_drain_ends_requests : (run (.drainTimeout 100010000) { blocked with comp := { blocked.comp with firstQualified := some 10000 } }).reqs = [] := by
  decide +kernel

/-- Pages of context 1, slot 1, that a rebuild takes from their journal. -/
def rebuildOne (index : Nat) : Rebuild := ⟨1, 1, imageKey 5 0 index, { Page.fresh prof.attn 5 0 0 index 16 1 with fill := 4, refs := 0 }⟩

def rebuilding : State := { world with comp := { CompState.reset with rebuilds := [rebuildOne 0, rebuildOne 1] } }

def rebuildLeft : State := { rebuilding.at_ 12000 with comp := { rebuilding.comp with rebuilds := [rebuildOne 1] } }

def rebuiltPage : Page := { (rebuildOne 0).page with refs := 1, rebuilt := true }

/-- The far tier takes the page whichever channel the free value begins with. -/
theorem rebuild_is_placed : (rebuildLeft.placeNew prof { Conv.remote 1 with placed := 2 } 1 rebuiltPage).isSome = true := by
  let next : State := { rebuildLeft with free := rebuildLeft.free + 1 }
  let pref : Nat := preferred 192 rebuiltPage.conv rebuiltPage.layer rebuiltPage.head rebuiltPage.index prof.attn.kvheads (rebuildLeft.width 1 prof.place)
  have up : ∀ u < 16, next.farDown u = false ∧ (next.reserve prof.attn 16 2 u none pref).isSome = true := by decide +kernel
  have some_ : ∀ x, (next.reserveIn prof.attn 16 2 (next.farFrom x) none pref).isSome = true := by
    intro x
    have h := up _ (Nat.mod_lt x (by decide))
    simp only [State.reserveIn, List.findSome?_isSome_iff]
    exact ⟨x % 16, List.mem_filter.mpr ⟨List.mem_map.mpr ⟨0, by simp⟩, by simp [h.1]⟩, h.2⟩
  show (next.reserveIn prof.attn 16 2 (next.farFrom (Config.freeNat rebuildLeft.free)) none pref).isSome = true
  exact some_ _

theorem rebuild_has_room : (rebuildLeft.newPage 1 prof { Conv.remote 1 with placed := 2 } 1 rebuiltPage).isSome = true := by
  have number : (rebuildLeft.ctx 1).freePage = some 0 := by decide +kernel
  obtain ⟨y, hy⟩ := Option.isSome_iff_exists.mp rebuild_is_placed
  simp [State.newPage, number, hy]

/-- A node of the map that has heard nothing since 0, and one that has seen member 1 late on most of its results. -/
def alone_ : State := { inFabric with comp := { CompState.reset with current := some (parseCompMap mapBytes) } }

def lateMember (storm : Bool) (ms : List Nat) : State :=
  { inFabric with comp := { CompState.reset with arrivals := ms.map (fun m => (m, (1000, 1000))), storm := storm } }

theorem witness_RebuildIsolationAndSuspects :
    world.comp.rebuilds.find? (fun b => b.ctx == 1 && b.key == imageKey 5 (headKey 0 0) 0) = none ∧
    rebuilding.comp.rebuilds.find? (fun b => b.ctx == 1 && b.key == imageKey 5 (headKey 0 0) 0) = some (rebuildOne 0) ∧
    (rebuilding.at_ 12000).rebuildOrder (rebuildOne 0) < (rebuilding.at_ 12000).rebuildOrder (rebuildOne 1) ∧
    (rebuilding.ctx 1).profile = some prof ∧ (({ rebuilding with ctxs := [] } : State).ctx 1).profile = none ∧
    ((rebuildOne 0).page.refs == 0 || !((rebuilding.at_ 12000).rebuiltEntries (rebuildOne 0)).isEmpty) = true ∧
    ((1 : Nat) == 0 || !((rebuilding.at_ 12000).rebuiltEntries (rebuildOne 0)).isEmpty) = false ∧
    (rebuilding.comp.recoverFrom + (rebuilding.at_ 12000).recoverTime prof (rebuildOne 0) ≤ (rebuilding.at_ 12000).now ∧
      0 < (rebuilding.at_ 12000).recoverTime prof (rebuildOne 0)) ∧
    (alone_.hasPeers = true ∧ alone_.comp.isolated = false ∧ alone_.comp.heard + alone_.lv F.NET_FAB.ISOLATE_MS * 1000000 ≤ (alone_.at_ 1000000000).now) ∧
    inFabric.hasPeers = false ∧ (alone_.at_ 199999999).now < alone_.comp.heard + alone_.lv F.NET_FAB.ISOLATE_MS * 1000000 ∧
    (inFabric.at_ 99999999).now < 0 + inFabric.lv F.NET_SUSPECT.WINDOW_MS * 1000000 ∧
    0 + inFabric.lv F.NET_SUSPECT.WINDOW_MS * 1000000 ≤ (inFabric.at_ 100000000).now ∧
    ((lateMember false [1, 2]).candidates.length = inFabric.lv F.NET_SUSPECT.BUDGET) ∧
    inFabric.lv F.NET_SUSPECT.BUDGET < (lateMember false [1, 2, 3]).candidates.length := by decide +kernel

theorem test_node_isolates : (run (.isolationTimeout 200000000) alone_).rd F.NET_COMP_CTL.ISOLATED = 1 := by decide +kernel

theorem test_suspects_are_declared : (run (.suspectWindowEnd 100000000) (lateMember false [1, 2])).rd F.NET_SUSPECT_STAT.DECLARED = 2 := by decide +kernel

theorem test_more_is_a_storm : (run (.suspectWindowEnd 100000000) (lateMember false [1, 2, 3])).comp.storm = true := by decide +kernel

/-! ### Power and supply -/

def exiting : State := { on world [(F.PWR_STATE.CURRENT, 2), (F.PWR_STATE.EXITING, 1)] with power := { PowerState.reset with exiting := true } }

def onHold : State := { world with power := { PowerState.reset with hold := true, flushSent := true } }

theorem witness_PowerAndSupply :
    world.power.exiting = false ∧ exiting.power.exiting = true ∧ 44000 < 44001 ∧ 40000 ≤ 40000 ∧ (40000 < 40001 ∧ 44000 ≤ 44000) ∧ onHold.power.hold = true ∧
    world.power.hold = false ∧ (onHold.power.flushSent = true ∧ onHold.journalPending = false) ∧
    ({ onHold with comp := { CompState.reset with streams := [⟨1, 0, 0, 1, [], [], [], false⟩] } } : State).journalPending = true ∧
    80000 < 80001 ∧ 80000 ≤ 80000 ∧ exiting.tier.withheld = [] := by decide +kernel

theorem test_exit_is_over : (run (.powerExitComplete 12000) exiting).rd F.PWR_STATE.EXITING = 0 := by decide +kernel

theorem test_warning_holds : (run (.supplyWarning 12000 44000) world).rd F.PWR_SUPPLY.HOLDS = 1 ∧
    (run (.supplyWarning 12000 44001) world).rd F.PWR_SUPPLY.HOLDS = 0 := by decide +kernel

theorem test_flush_is_shown : (run (.flushAcknowledged 12000) onHold).rd F.PWR_SUPPLY.FLUSHED = 1 := by decide +kernel

theorem test_recovery : (run (.supplyRecovery 12000) onHold).power.recovered = true := by decide +kernel

theorem test_low_band : (run (.inputSample 1 44000) base).rd F.PWR_SUPPLY.LOW = 1 ∧ (run (.inputSample 1 46000) base).rd F.PWR_SUPPLY.LOW = 0 ∧
    (run (.inputSample 1 58001) base).rd F.PWR_SUPPLY.OVER = 1 := by decide +kernel

theorem test_power_is_shown : (run (.powerAverage 1 1900) base).rd F.PWR_CAP.POWER_W = 1900 := by decide +kernel

theorem witness_EmergenciesAndHotStacks :
    (95 < 96 ∧ 840 ≤ (840 : Int) ∧ mhas world.power.emergencies 95 = false) ∧ ¬((840 : Int) ≤ 839) ∧ halfColumn 0 = 0 ∧
    ((planned (.tile 0) (some (begun seal0)) []).plan (.tile 0)).running = some (begun seal0) ∧
    (11 < 12 ∧ 760 < (761 : Int)) ∧ (12 ≤ 12 ∨ (760 : Int) ≤ 760) ∧
    (world.running && !world.power.hotGrid.contains 11 && !world.power.above85.contains 11) = true ∧
    (base.running && !base.power.hotGrid.contains 11 && !base.power.above85.contains 11) = false := by decide +kernel

theorem test_emergency_is_remembered : mhas (run (.thermalEmergency 1 95 840) base).power.emergencies 95 = true ∧
    mhas (run (.thermalEmergency 1 95 839) base).power.emergencies 95 = false := by decide +kernel

theorem test_stack_is_hot : bit ((run (.stackHot 1 11 761) base).rd F.PWR_STACK.HOT) 11 = true ∧
    bit ((run (.stackHot 1 11 760) base).rd F.PWR_STACK.HOT) 11 = false := by decide +kernel

/-! ### Resets -/

def session (role : Role) : Session := ⟨5, role, 0, []⟩

def managed (role : Role) : State := { world with ranger := { Ranger.reset with running := true, sessions := [session role], nextSession := 6 } }

def trippedNode : State := { base with power := { PowerState.reset with tripped := true, packageOn := false } }

theorem witness_NodeWideResets :
    80000 < 80001 ∧ (45999 < 46000 ∧ 58000 < 58001) ∧ 46000 ≤ 46000 ∧ 58000 ≤ 58000 ∧ base.power.charging = false ∧
    ({ PowerState.reset with charging := true } : PowerState).charging = true ∧ 40000 < 40001 ∧ trippedNode.power.tripped = true ∧
    base.power.tripped = false ∧ ((919 : Int) < 920) ∧ 49 < 50 ∧ (State.reset.rd F.ID_BOOT.CAUSE ≠ 1) ∧
    ((on State.reset [(F.ID_BOOT.CAUSE, 1)]).rd F.ID_BOOT.CAUSE = 1 ∧ (on State.reset [(F.ID_BOOT.CAUSE, 1)]).rd F.ID_BOOT.STAGE = 0) ∧
    (managed .auditor).session? 5 = some (session .auditor) ∧ (managed .auditor).session? 6 = none ∧
    roleRank Role.auditor < roleRank Role.operator ∧ (managed .operator).session? 5 = some (session .operator) := by decide +kernel

theorem test_power_on : (run (.powerOn 9 46000) trippedNode).rd F.ID_BOOT.CAUSE = 2 ∧ (run (.powerOn 9 46000) trippedNode).power.tripped = false := by decide +kernel

theorem test_holdup_charged : (run (.holdupCharged 9) { base with power := { PowerState.reset with charging := true } }).rd F.ID_BOOT.READY = 0 := by decide +kernel

theorem test_brownout : (run (.brownout 9 40000) base).rd F.ID_BOOT.CAUSE = 1 ∧ (run (.brownout 9 40001) base).ready = true := by decide +kernel

theorem test_thermal_trip : (run (.thermalTrip 9 920) base).pins.thermTrip = true ∧ (run (.thermalTrip 9 919) base).ready = true := by decide +kernel

theorem test_module_reset : (run (.moduleReset 9 50) base).rd F.ID_BOOT.CAUSE = 3 ∧ (run (.moduleReset 9 49) base).ready = true := by decide +kernel

theorem test_node_reset : (run (.nodeReset 12000 5) (managed .operator)).rd F.ID_BOOT.CAUSE = 4 ∧ (run (.nodeReset 12000 5) (managed .auditor)).ready = true := by
  decide +kernel

/-- One request of a local ring is admitted and one is not. -/
def hosted : State :=
  { ringing going with reqs := [{ reqOf 12 with ring := .localRing 3 }, { reqOf 12 with id := 10, ring := .localRing 3, admittedAt := none }, { reqOf 12 with id := 11 }] }

def heldPins : State := { base with pins := { Pins.reset with perstLow := true, moduleResetLow := true } }

theorem witness_HostSideResetsAndPins :
    base.pins.perstLow = false ∧ heldPins.pins.perstLow = true ∧ 3 ≤ heldPins.rd F.ID_BOOT.STAGE ∧ State.reset.rd F.ID_BOOT.STAGE < 3 ∧
    base.pins.moduleResetLow = false ∧ heldPins.pins.moduleResetLow = true := by decide +kernel

theorem test_flr_silences : (run (.flr 12000) hosted).reqs.map (fun r => (r.id, r.silent)) = [(9, true), (11, false)] := by decide +kernel

theorem test_hot_reset : (run (.cxlHotReset 12000 true) hosted).pins.perstLow = true ∧ (run (.cxlHotReset 12000 true) hosted).locals = [] := by decide +kernel

theorem test_pins_release : (run (.perstNRelease 9) heldPins).tier.cxlUp = true ∧ (run (.moduleResetRelease 9) heldPins).pins.moduleResetLow = false := by
  decide +kernel

/-! ### Start-up -/

/-- Start-up in a stage. -/
def starting (n : Nat) : State := on State.reset [(F.ID_BOOT.STAGE, n)]

def record0 : ConfigRecord := ⟨zeros 16, [], [], zeros 133, [], []⟩

theorem witness_StartUpRunsInStages :
    (∀ n ∈ [0, 1, 2, 3, 4, 5], let s := starting n
      s.rd F.ID_BOOT.FAIL = 0 ∧ s.ready = false ∧ s.power.packageOn = true ∧ s.pins.moduleResetLow = false ∧ s.rd F.ID_BOOT.STAGE = n) ∧
    base.ready = true ∧ ([false, true].any id = true ∧ [false, false].any id = false) ∧ zeros 133 = record0.publicKey ∧ ([] : Bytes) ≠ record0.publicKey ∧
    (starting 3).linkExists 0 = true ∧ heldPins.pins.perstLow = true ∧ mwf (draining true).nv.keyStore = true ∧
    (mget (draining true).nv.keyStore 1).map (fun e => e.tombstone) = some true ∧
    (mget (draining false).nv.keyStore 1).map (fun e => e.tombstone || e.marked 15) = some false ∧
    (⟨false, [true], 1, false, [], [], none⟩ : KeyEntry).marked 15 = true ∧ 80000 < 80001 ∧ (46000 ≤ 46000 ∧ 100 ≤ 100 ∧ (starting 0).power.charging = false) ∧
    ¬(100 ≤ 99) ∧ 60000 ≤ 60000 ∧ 60000 < 60001 ∧ 59000 < 59001 ∧ 59000 ≤ 59000 := by decide +kernel

theorem test_stage_0 : (run (.startupStageComplete 9 .rails) (starting 0)).rd F.ID_BOOT.STAGE = 1 ∧ (run (.startupStageComplete 9 .rails) (starting 0)).pins.pwrOk = true := by
  decide +kernel

theorem test_stage_5_is_ready : (run (.startupStageComplete 9 (.restore true)) (starting 5)).ready = true := by decide +kernel

theorem test_switch : (run (.vinMated 9 46000 100) (starting 0)).power.charging = true ∧ (run (.vinMated 9 46000 99) (starting 0)).power.charging = false := by
  decide +kernel

theorem test_over_voltage_opens : (run (.overVoltage 9 60001) base).power.switchClosed = false ∧
    (run (.overVoltageClear 9 59000) (run (.overVoltage 9 60001) base)).power.switchClosed = true := by decide +kernel

/-! ### Ranger -/

def offer (anchors : List Nat) : TlsOffer := ⟨443, true, true, false, anchors, []⟩

def anchored : State := { managed .operator with ranger := { (managed .operator).ranger with anchors := [⟨1, .operator, []⟩, ⟨2, .auditor, []⟩] } }

def sessions16 : State := { managed .operator with ranger := { (managed .operator).ranger with sessions := List.replicate 16 (session .operator) } }

theorem witness_SessionsAndRestarts :
    base.rangerUp = false ∧ (managed .operator).rangerUp = true ∧ (offer []).tcpPort = 443 ∧ sessions16.rangerUp = true ∧
    sessions16.ranger.sessions.length = 16 ∧ anchored.ranger.sessions.length < 16 ∧
    ((offer [1]).tls13 = true ∧ (offer [1]).parameters = true ∧ (offer [1]).refusedFeature = false) ∧
    (∃ a ∈ anchored.ranger.anchors, a.id ∈ (offer [1]).anchors) ∧ (∀ a ∈ anchored.ranger.anchors, a.id ∉ (offer [3]).anchors) ∧
    (managed .operator).session? 6 = none ∧ (managed .operator).session? 5 = some (session .operator) ∧
    ((managed .operator).at_ 3599999999999).rangerNow < (session .operator).lastAt + 3600000000000 ∧
    (session .operator).lastAt + 3600000000000 ≤ ((managed .operator).at_ 3600000000000).rangerNow ∧
    (managed .auditor).session? 5 = some (session .auditor) ∧ roleRank Role.auditor < roleRank Role.operator := by decide +kernel

theorem test_least_privileged_role : (run (.tlsSession 12000 (offer [1, 2])) anchored).ranger.sessions.map Session.role = [.operator, .auditor] := by decide +kernel

theorem test_seventeenth_is_counted : (run (.tlsSession 12000 (offer [1])) sessions16).ranger.refused = 1 := by decide +kernel

theorem test_idle_session_closes : (run (.sessionIdleTimeout 3600000000000 5) (managed .operator)).ranger.sessions = [] := by decide +kernel

theorem test_restart : (run (.managerReset 12000 5) (managed .operator)).ranger.restarts.length = 1 ∧
    (run (.rangerWatchdog 12000) (managed .operator)).ranger.sessions = [] ∧ (run (.rangerEccError 12000) (managed .operator)).ranger.sessions = [] ∧
    (run (.rangerSelfTest 12000 false) (managed .operator)).ranger.sessions = [] := by decide +kernel

def errRecord (severity seq : Nat) : ErrorRecord := ⟨severity, 1, 0, 0, 0, none, 0, 0, 0, 0, 0, 0, 0, 0, [], seq⟩

def sub0 (push : Bool) (failing : Option Nat) : Subscription := ⟨0, 5, push, 0, [1], 0, failing, 0, false⟩

/-- Ranger with a record in the buffer, one in its log, and a subscription. -/
def subscribed (push : Bool) (failing : Option Nat) : State :=
  { managed .auditor with
    health := { HealthState.reset with buffer := [errRecord 2 8] }
    ranger := { (managed .auditor).ranger with log := [errRecord 1 7], subs := [sub0 push failing] } }

theorem witness_RecordsAndEvents :
    base.rangerUp = false ∧ world.health.buffer = [] ∧ (subscribed true none).rangerUp = true ∧ (subscribed true none).health.buffer = [errRecord 2 8] ∧
    (subscribed true none).ranger.log.length < 65536 ∧ (world.liveSub 0).isNone = true ∧
    (∀ push ∈ [true, false], (subscribed push none).liveSub 0 = some (sub0 push none) ∧
      (subscribed push none).ranger.nextFor (sub0 push none) = some (0, errRecord 1 7)) ∧
    ({ (subscribed true none).ranger with log := [] } : Ranger).nextFor (sub0 true none) = none ∧ (sub0 true none).failingSince = none ∧
    (subscribed true (some 0)).liveSub 0 = some (sub0 true (some 0)) ∧ ((subscribed true (some 0)).at_ 999999999).rangerNow < 0 + 1000000000 ∧
    0 + 1000000000 ≤ ((subscribed true (some 0)).at_ 1000000000).rangerNow ∧ ((subscribed true (some 0)).at_ 3599999999999).rangerNow < 0 + 3600000000000 ∧
    0 + 3600000000000 ≤ ((subscribed true (some 0)).at_ 3600000000000).rangerNow ∧ (List.replicate 8 (sub0 true none)).length = 8 ∧
    (managed .auditor).session? 5 = some (session .auditor) ∧ (managed .auditor).ranger.subs.length < 8 := by decide +kernel

theorem test_record_is_taken : (run (.rangerTakeRecord 12000) (subscribed true none)).ranger.log.map ErrorRecord.seq = [7, 8] ∧
    Out.alertOverMctp 1 ∈ (run (.rangerTakeRecord 12000) (subscribed true none)).out := by decide +kernel

theorem test_event_is_delivered : (run (.eventDelivery 12000 0 true) (subscribed true none)).ranger.subs.map Subscription.position = [1] := by decide +kernel

theorem test_retry_waits_a_second : (run (.postRetry 1000000000 0 true) (subscribed true (some 0))).ranger.subs.map Subscription.position = [1] ∧
    (run (.postRetry 999999999 0 true) (subscribed true (some 0))).ranger.subs.map Subscription.position = [0] := by decide +kernel

theorem test_push_is_suspended : (run (.subscriptionSuspend 3600000000000 0) (subscribed true (some 0))).ranger.subs.map Subscription.suspended = [true] := by
  decide +kernel

theorem test_subscription : (run (.eventSubscriptionCreate 12000 5 true 3 [1]) (managed .auditor)).ranger.subs.length = 1 ∧
    (run (.eventSubscriptionCreate 12000 5 true 4 [1]) (managed .auditor)).ranger.subs = [] := by decide +kernel

theorem witness_WeatheringIsSampledAndReported :
    base.rangerUp = false ∧ (managed .auditor).rangerUp = true ∧ weatherUnits (weatherIndex (.stackChannel 192 0 0)).1 ≤ 192 ∧
    191 < weatherUnits (weatherIndex (.stackChannel 191 0 0)).1 ∧ (managed .auditor).moduleIndex / 100 = 0 := by decide +kernel

theorem test_sample_is_kept : (run (.weatheringSample 12000 3 (.stackChannel 191 0 0)) base).health.weather.map (fun x => (x.1, x.2.1)) = [(191, 3)] := by
  decide +kernel

theorem test_report_goes_out : ((run (.weatheringReport 12000) (managed .auditor)).ranger.log.map ErrorRecord.severity) = [0] := by decide +kernel

def anchors2 : State := { managed .administrator with ranger := { (managed .administrator).ranger with anchors := [⟨1, .administrator, []⟩, ⟨2, .auditor, []⟩] } }

theorem witness_AnchorsImagesAndEvidence :
    (managed .operator).session? 5 = some (session .operator) ∧ roleRank Role.operator < roleRank Role.administrator ∧
    (managed .administrator).session? 5 = some (session .administrator) ∧ (List.replicate 8 (⟨1, .auditor, []⟩ : Anchor)).length = 8 ∧
    anchors2.ranger.anchors.length < 8 ∧ (∃ a ∈ anchors2.ranger.anchors, a.id = 2) ∧ (∀ a ∈ anchors2.ranger.anchors, a.id ≠ 3) ∧
    (∃ a ∈ anchors2.ranger.anchors, a.id ≠ 2 ∧ a.role = .administrator) ∧ (∀ a ∈ anchors2.ranger.anchors, ¬(a.id ≠ 1 ∧ a.role = .administrator)) ∧
    base.rangerUp = false ∧ (managed .operator).rangerUp = true ∧ (managed .operator).ranger.anchors = [] ∧ anchors2.ranger.anchors ≠ [] ∧
    base.sec.keysDerived = false ∧ ((managed .operator).ranger.running = true ∧ (managed .operator).sec.keysDerived = true) := by decide +kernel

theorem test_anchor_is_installed : (run (.trustAnchorInstall 12000 5 .auditor [7]) (managed .administrator)).ranger.anchors.map Anchor.cert = [[7]] ∧
    (run (.trustAnchorInstall 12000 5 .auditor [7]) (managed .operator)).ranger.anchors = [] := by decide +kernel

theorem test_last_administrator_stays : (run (.trustAnchorRemove 12000 5 1) anchors2).ranger.anchors.length = 2 ∧
    (run (.trustAnchorRemove 12000 5 2) anchors2).ranger.anchors.length = 1 := by decide +kernel

theorem test_first_anchor : (run (.firstAnchorInstall 12000 .administrator [7]) (managed .operator)).ranger.anchors.map Anchor.role = [.administrator] := by
  decide +kernel

theorem test_certificate : (run (.certificateInstall 12000 5 true true [9]) (managed .administrator)).ranger.spdmSlot1 = some [9] := by decide +kernel

theorem test_image_is_staged : (run (.updateImage 12000 5 .kernel 3 [1] true) (managed .administrator)).ranger.staged = [(.kernel, 3, [1])] ∧
    Out.http 400 ∈ (run (.updateImage 12000 5 .kernel 3 [1] false) (managed .administrator)).out := by decide +kernel

theorem test_addresses_are_set : (run (.networkProtocolWrite 12000 5 [1] [2] [3] false true) (managed .administrator)).ranger.gateway = [3] := by decide +kernel

theorem test_measurements_are_signed : (run (.spdmMeasurements 12000 (zeros 32)) (managed .operator)).out.length = 1 := by decide +kernel

def tracing : State := { managed .administrator with dbg := { DbgState.reset with traceArmed := true, trace := List.replicate traceDepth ⟨0, 0, .tile 0, 0, 0, 0, 0, false, false⟩ } }

def rdSel (tier unit line : Nat) : Word := ctl [(F.DBG_RD_SEL.TIER, tier), (F.DBG_RD_SEL.UNIT, unit), (F.DBG_RD_SEL.LINE, line)]

def unitOp (op unit : Nat) : Word := ctl [(F.DBG_UNIT_OFF.OP, op), (F.DBG_UNIT_OFF.UNIT, unit)]

/-- An engine of the stacks holds the lease of channel 2. -/
def leasedAdmin : State := { managed .administrator with engines := [(2, { Engine.idle with leases := [(12000, 13000)] })] }

theorem trace_is_full : traceDepth ≤ tracing.dbg.trace.length := by simp [tracing]

theorem witness_DebugReadsTracesAndUnits :
    base.rangerUp = false ∧ (managed .auditor).session? 6 = none ∧ (managed .auditor).session? 5 = some (session .auditor) ∧
    roleRank Role.auditor < roleRank (debugRole (.read 0x9000)) ∧ roleRank (debugRole (.write 0x9000 0)) ≤ roleRank Role.administrator ∧
    roleRank (debugRole .counters) ≤ roleRank Role.administrator ∧
    (F.DBG_SEQ_SEL.ENGINE.off / 4096 = 9 ∧ regFields F.DBG_SEQ_SEL.ENGINE.off ≠ []) ∧ F.ID_BOOT.STAGE.off / 4096 ≠ 9 ∧
    (managed .administrator).rangerUp = true ∧ (managed .administrator).rd F.DBG_TRACE_CTL.RUNNING = 0 ∧ (managed .administrator).dbg.traceArmed = false ∧
    tracing.dbg.traceArmed = true ∧
    (∀ tier ∈ [0, 1, 2, 3, 4], fieldOf F.DBG_RD_SEL.TIER (rdSel tier 0 0) = tier) ∧ (managed .administrator).rd F.DBG_RD_CTL.BUSY = 0 ∧
    (on (managed .administrator) [(F.DBG_RD_CTL.BUSY, 1)]).rd F.DBG_RD_CTL.BUSY = 1 ∧
    ((managed .administrator).writeDbg F.DBG_RD_SEL.TIER.off (rdSel 0 0 0)).dbgCode = 0 ∧
    ((managed .administrator).writeDbg F.DBG_RD_SEL.TIER.off (rdSel 0 0 6)).dbgCode ≠ 0 ∧
    (let sel := ((leasedAdmin.at_ 12000).wakeUp).writeDbg F.DBG_RD_SEL.TIER.off (rdSel 1 2 0)
     sel.dbgCode = 0 ∧ sel.leased sel.dbgSelected.2.1 = true) ∧
    (let sel := ((managed .administrator).at_ 12000).wakeUp.writeDbg F.DBG_RD_SEL.TIER.off (rdSel 1 2 0)
     sel.dbgCode = 0 ∧ sel.leased sel.dbgSelected.2.1 = false) ∧
    fieldOf F.DBG_UNIT_OFF.OP (unitOp 1 0) = 1 ∧ fieldOf F.DBG_UNIT_OFF.OP (unitOp 2 0) = 2 ∧
    dbgUnit (unitOp 1 1535) = some (.tile 1535) ∧
    (∀ mhz ∈ [0, 600, 1800], fieldOf F.DBG_FREQ_LIMIT.MHZ (BitVec.ofNat 64 mhz) = mhz) ∧ fieldOf F.DBG_FREQ_LIMIT.MHZ 650 = 650 := by decide +kernel

theorem test_request_is_logged : (run (.debugRequest 12000 5 (.read F.DBG_SEQ_SEL.ENGINE.off)) (managed .administrator)).ranger.audit.length = 1 ∧
    Out.refusedRequest ∈ (run (.debugRequest 12000 5 (.read F.DBG_SEQ_SEL.ENGINE.off)) (managed .auditor)).out := by decide +kernel

theorem test_trace_is_armed : (run (.traceArm 12000 (ctl [(F.DBG_TRACE_CTL.ARM, 1), (F.DBG_TRACE_CTL.TICKS, 4096)])) (managed .administrator)).dbg.traceLeft = 4096 := by
  decide +kernel

theorem test_tile_sram_reads_zeros : (run (.dbgRead 12000 (rdSel 0 0 0)) (managed .administrator)).rd F.DBG_RD_CTL.DONE = 1 := by decide +kernel

theorem test_leased_bank_waits : (run (.dbgRead 12000 (rdSel 1 2 0)) leasedAdmin).rd F.DBG_RD_CTL.BUSY = 1 := by decide +kernel

theorem test_unit_is_taken_out : (run (.dbgUnitTakeOut 12000 (unitOp 1 1535)) (managed .administrator)).outNext (.tile 1535) = true ∧
    (run (.dbgUnitReturn 12000 (unitOp 2 1535)) (run (.dbgUnitTakeOut 12000 (unitOp 1 1535)) (managed .administrator))).outNext (.tile 1535) = false := by
  decide +kernel

theorem test_ceiling : (run (.dbgFreqLimitWrite 12000 600) (managed .administrator)).rd F.DBG_FREQ_LIMIT.MHZ = 600 ∧
    (run (.dbgFreqLimitWrite 12000 650) (managed .administrator)).rd F.DBG_FREQ_LIMIT.MHZ = 0 := by decide +kernel

end Sys2Proof.Tests
end

section
/-! SUPPORT. The rules of Ranger's sessions: which role a certificate opens, what a TLS connection and an idle timeout leave, and what a
request does that needs a role (15_ranger.md, R320-R322, Table 15.1). -/
namespace Sys2Proof.Machine

variable {s u : State} {t : Nat} {ps : List Part}

/-! ### Time and Ranger -/

@[simp] theorem State.atTime_rangerUp (s : State) (t : Nat) : (s.at_ t).rangerUp = s.rangerUp := rfl
@[simp] theorem State.atTime_session? (s : State) (t id : Nat) : (s.at_ t).session? id = s.session? id := rfl

theorem State.rangerUp_of_session? {id : Nat} {x : Session} (h : s.session? id = some x) : s.rangerUp = true := by
  unfold State.session? at h
  split at h
  · assumption
  · cases h

theorem State.modRanger_changesOnly (s : State) (f : Ranger → Ranger) : ChangesOnly [.ranger] s (s.modRanger f) := by
  intro p hp
  cases p
  case ranger => exact absurd hp (by decide)
  all_goals rfl

/-- A command that moves node time and then acts within a frame. -/
theorem Completes.of_atTime {p : State → Prop} (hu : p u) (h : ChangesOnly ps (s.at_ t) u) (k : Part.now ∈ ps) :
    Completes ps s p (.next u) :=
  ⟨u, rfl, hu, (State.at__frame.same.mono (by simpa using k)).trans h⟩

/-! ### The role of a certificate (R321) -/

/-- The step of the scan of Ranger.roleOf is the library's choice of the lesser of two. -/
theorem minOn_roleRank : minOn roleRank = fun m y => if roleRank y < roleRank m then y else m := by
  funext m y
  by_cases h : roleRank y < roleRank m
  · rw [if_pos h, minOn_eq_right (Nat.not_le.mpr h)]
  · rw [if_neg h, minOn_eq_left (Nat.not_lt.mp h)]

theorem Ranger.roleOf_eq_minOn? (r : Ranger) (chain : List Nat) :
    r.roleOf chain = ((r.anchors.filter fun a => chain.contains a.id).map Anchor.role).minOn? roleRank := by
  unfold Ranger.roleOf List.minOn?
  rw [minOn_roleRank]
  generalize (r.anchors.filter fun a => chain.contains a.id).map Anchor.role = roles
  cases roles <;> rfl

theorem Anchor.mem_chained {r : Ranger} {chain : List Nat} {a : Anchor} :
    a ∈ r.anchors.filter (fun a => chain.contains a.id) ↔ a ∈ r.anchors ∧ a.id ∈ chain := by
  rw [List.mem_filter, List.contains_iff_mem]

/-- A role found is that of an anchor the certificate chains to. -/
theorem Ranger.roleOf_mem {r : Ranger} {chain : List Nat} {role : Role} (h : r.roleOf chain = some role) :
    ∃ a, (a ∈ r.anchors ∧ a.id ∈ chain) ∧ a.role = role := by
  rw [Ranger.roleOf_eq_minOn?] at h
  obtain ⟨a, ha, hr⟩ := List.mem_map.mp (List.minOn?_mem h)
  exact ⟨a, Anchor.mem_chained.mp ha, hr⟩

/-- No anchor the certificate chains to has a role of lower rank. -/
theorem Ranger.roleOf_least {r : Ranger} {chain : List Nat} {role : Role} (h : r.roleOf chain = some role) {a : Anchor}
    (ha : a ∈ r.anchors ∧ a.id ∈ chain) : roleRank role ≤ roleRank a.role := by
  rw [Ranger.roleOf_eq_minOn?] at h
  rw [← List.minOn_eq_of_minOn?_eq_some h]
  exact List.apply_minOn_le_of_mem (List.mem_map_of_mem (Anchor.mem_chained.mpr ha))

theorem Ranger.roleOf_eq_none_iff (r : Ranger) (chain : List Nat) :
    r.roleOf chain = none ↔ ∀ a, ¬(a ∈ r.anchors ∧ a.id ∈ chain) := by
  constructor
  · intro h a ha
    rw [Ranger.roleOf_eq_minOn?] at h
    have found := List.isSome_minOn?_of_mem (f := roleRank) (List.mem_map_of_mem (f := Anchor.role) (Anchor.mem_chained.mpr ha))
    rw [h] at found
    cases found
  · intro h
    cases e : r.roleOf chain with
    | none => rfl
    | some role =>
      obtain ⟨a, ha, -⟩ := Ranger.roleOf_mem e
      exact absurd ha (h a)

/-! ### TLS_SESSION (R319-R322) -/

variable {o : TlsOffer}

theorem exec_tlsSession (t : Nat) (o : TlsOffer) (s : State) : exec (.tlsSession t o) s = execTlsSession t o s := rfl

/-- Ranger takes TLS connections on port 443 while it serves (R319, R330). -/
def ServesTls (s : State) (o : TlsOffer) : Prop := s.rangerUp = true ∧ o.tcpPort = 443

/-- The offer is of TLS 1.3 with the one set of parameters and no refused feature (R320). -/
def OfferMeets (o : TlsOffer) : Prop := o.tls13 = true ∧ o.parameters = true ∧ o.refusedFeature = false

/-- Ranger with a session opened at a time of its own. -/
def Ranger.opened (r : Ranger) (role : Role) (now : Nat) (subject : Bytes) : Ranger :=
  { r with sessions := r.sessions ++ [⟨r.nextSession, role, now, subject⟩], nextSession := r.nextSession + 1 }

/-- What a connection Ranger takes does below the limit of 16 sessions, with an offer that meets R320. -/
def State.admitTls (s : State) (o : TlsOffer) : State :=
  match s.ranger.roleOf o.anchors with
  | none => s.emit .tlsAlert
  | some role => s.modRanger (·.opened role s.rangerNow o.subject)

theorem not_servesTls_iff (s : State) (o : TlsOffer) : (!s.rangerUp || o.tcpPort != 443) = true ↔ ¬ServesTls s o := by
  simp only [ServesTls, Decidable.not_and_iff_not_or_not, Bool.or_eq_true, Bool.not_eq_true', Bool.not_eq_true, bne_iff_ne, ne_eq]

theorem execTlsSession_of_not_serves (h : ¬ServesTls s o) : execTlsSession t o s = .next (s.at_ t) := by
  unfold execTlsSession
  exact if_pos ((not_servesTls_iff s o).mpr h)

theorem execTlsSession_of_serves (h : ServesTls s o) :
    execTlsSession t o s =
      if 16 ≤ s.ranger.sessions.length then .next ((s.at_ t).modRanger fun r => { r with refused := r.refused + 1 })
      else if !o.tls13 || !o.parameters || o.refusedFeature then .next (s.at_ t)
      else .next ((s.at_ t).admitTls o) := by
  have served : ¬(!(s.at_ t).rangerUp || o.tcpPort != 443) = true := mt (not_servesTls_iff s o).mp (not_not_intro h)
  unfold execTlsSession State.admitTls
  dsimp only
  rw [if_neg served]
  cases (s.at_ t).ranger.roleOf o.anchors <;> rfl

theorem execTlsSession_of_full (h : ServesTls s o) (full : 16 ≤ s.ranger.sessions.length) :
    execTlsSession t o s = .next ((s.at_ t).modRanger fun r => { r with refused := r.refused + 1 }) := by
  rw [execTlsSession_of_serves h, if_pos full]

theorem not_offerMeets_iff (o : TlsOffer) : (!o.tls13 || !o.parameters || o.refusedFeature) = true ↔ ¬OfferMeets o := by
  simp only [OfferMeets, Decidable.not_and_iff_not_or_not, Bool.or_eq_true, Bool.not_eq_true', Bool.not_eq_true, Bool.not_eq_false, or_assoc]

theorem execTlsSession_of_not_meets (h : ServesTls s o) (free : s.ranger.sessions.length < 16) (k : ¬OfferMeets o) :
    execTlsSession t o s = .next (s.at_ t) := by
  rw [execTlsSession_of_serves h, if_neg (Nat.not_le.mpr free), if_pos ((not_offerMeets_iff o).mpr k)]

theorem execTlsSession_of_meets (h : ServesTls s o) (free : s.ranger.sessions.length < 16) (k : OfferMeets o) :
    execTlsSession t o s = .next ((s.at_ t).admitTls o) := by
  rw [execTlsSession_of_serves h, if_neg (Nat.not_le.mpr free), if_neg (mt (not_offerMeets_iff o).mp (not_not_intro k))]

theorem State.admitTls_of_none (h : s.ranger.roleOf o.anchors = none) : s.admitTls o = s.emit .tlsAlert := by
  simp [State.admitTls, h]

theorem State.admitTls_of_some {role : Role} (h : s.ranger.roleOf o.anchors = some role) :
    s.admitTls o = s.modRanger (·.opened role s.rangerNow o.subject) := by
  simp [State.admitTls, h]

theorem State.admitTls_sessions_length_le (s : State) (o : TlsOffer) :
    (s.admitTls o).ranger.sessions.length ≤ s.ranger.sessions.length + 1 := by
  cases h : s.ranger.roleOf o.anchors with
  | none => simp [State.admitTls_of_none h]
  | some role => simp [State.admitTls_of_some h, Ranger.opened]

/-- A connection whose certificate chains to an anchor opens a session under the least-privileged role of these anchors. -/
theorem State.admitTls_opens (h : ∃ a, a ∈ s.ranger.anchors ∧ a.id ∈ o.anchors) :
    ∃ role, ((∃ a, (a ∈ s.ranger.anchors ∧ a.id ∈ o.anchors) ∧ a.role = role) ∧
        ∀ a, (a ∈ s.ranger.anchors ∧ a.id ∈ o.anchors) → roleRank role ≤ roleRank a.role) ∧
      s.admitTls o = s.modRanger (·.opened role s.rangerNow o.subject) := by
  cases e : s.ranger.roleOf o.anchors with
  | none =>
    obtain ⟨a, ha⟩ := h
    exact absurd ha ((Ranger.roleOf_eq_none_iff _ _).mp e a)
  | some role => exact ⟨role, ⟨Ranger.roleOf_mem e, fun _ ha => Ranger.roleOf_least e ha⟩, State.admitTls_of_some e⟩

/-- Ranger never holds a seventeenth session (R322). -/
theorem execTlsSession_sessions_le (h : s.ranger.sessions.length ≤ 16) (e : execTlsSession t o s = .next u) :
    u.ranger.sessions.length ≤ 16 := by
  by_cases serves : ServesTls s o
  · by_cases full : 16 ≤ s.ranger.sessions.length
    · rw [execTlsSession_of_full serves full] at e
      cases e
      exact h
    · by_cases meets : OfferMeets o
      · rw [execTlsSession_of_meets serves (Nat.not_le.mp full) meets] at e
        cases e
        exact Nat.le_trans (State.admitTls_sessions_length_le _ _) (Nat.not_le.mp full)
      · rw [execTlsSession_of_not_meets serves (Nat.not_le.mp full) meets] at e
        cases e
        exact h
  · rw [execTlsSession_of_not_serves serves] at e
    cases e
    exact h

/-! ### SESSION_IDLE_TIMEOUT (R322) -/

variable {id : Nat} {x : Session}

theorem hourNs_eq : hourNs = 3600000000000 := rfl

theorem exec_sessionIdleTimeout (t id : Nat) (s : State) : exec (.sessionIdleTimeout t id) s = execSessionIdleTimeout t id s := rfl

theorem execSessionIdleTimeout_of_none (h : s.session? id = none) : execSessionIdleTimeout t id s = .next (s.at_ t) := by
  simp [execSessionIdleTimeout, h]

theorem execSessionIdleTimeout_of_some (h : s.session? id = some x) :
    execSessionIdleTimeout t id s =
      if x.lastAt + hourNs ≤ (s.at_ t).rangerNow then .next ((s.at_ t).closeSession id) else .next (s.at_ t) := by
  simp only [execSessionIdleTimeout, State.atTime_session?, h]

theorem State.closeSession_changesOnly (s : State) (id : Nat) : ChangesOnly [.ranger] s (s.closeSession id) :=
  s.modRanger_changesOnly _

@[simp] theorem State.mem_closeSession_sessions (s : State) (id : Nat) (y : Session) :
    y ∈ (s.closeSession id).ranger.sessions ↔ y ∈ s.ranger.sessions ∧ y.id ≠ id := by
  simp [State.closeSession]

@[simp] theorem State.mem_closeSession_subs (s : State) (id : Nat) (v : Subscription) :
    v ∈ (s.closeSession id).ranger.subs ↔ v ∈ s.ranger.subs ∧ (v.push = true ∨ v.owner ≠ id) := by
  simp [State.closeSession]

/-! ### Requests that need a role (Table 15.1) -/

variable {need : Role} {f : State → State}

theorem State.asRole_of_none (h : s.session? id = none) : s.asRole id need f = s := by
  simp [State.asRole, h]

theorem State.asRole_of_lower (h : s.session? id = some x) (k : roleRank x.role < roleRank need) :
    s.asRole id need f = (s.touchSession id).emit .refusedRequest := by
  simp [State.asRole, h, k]

theorem State.asRole_of_granted (h : s.session? id = some x) (k : roleRank need ≤ roleRank x.role) :
    s.asRole id need f = f (s.touchSession id) := by
  simp [State.asRole, h, Nat.not_lt.mpr k]

theorem State.touchSession_changesOnly (s : State) (id : Nat) : ChangesOnly [.ranger] s (s.touchSession id) :=
  State.touchSession_frame.same

/-- A request that needs a role and completes when it is granted: without its session nothing happens, and below the role it is refused. -/
theorem roleChecked_asRole {p : State → Prop}
    (granted : ∀ x, s.session? id = some x → Completes ps s p (.next (f ((s.at_ t).touchSession id)))) :
    RoleChecked s t id need (.next ((s.at_ t).asRole id need f)) (Completes ps s p (.next ((s.at_ t).asRole id need f))) := by
  refine ⟨fun unknown => ?_, fun x known => ⟨fun lower => ?_, fun enough => ?_⟩⟩
  · rw [State.asRole_of_none (by simpa using unknown)]
  · rw [State.asRole_of_lower (by simpa using known) lower]
    refine Completes.of_atTime (t := t) ⟨rfl, rfl⟩ ?_ (by decide)
    exact ((State.touchSession_changesOnly _ id).mono (by decide)).trans (State.emit_frame.same.mono (by decide))
  · rw [State.asRole_of_granted (by simpa using known) enough]
    exact granted x known

end Sys2Proof.Machine
end

section
/-! SUPPORT. What a restart of Ranger leaves, and that a wake-up and traffic on a session before it do not matter (R330, R331). -/
namespace Sys2Proof.Machine

variable {s u : State} {t : Nat}

theorem exec_rangerSelfTest_pass (t : Nat) (s : State) : exec (.rangerSelfTest t true) s = .next (s.at_ t) := rfl
theorem exec_managerReset (t id : Nat) (s : State) :
    exec (.managerReset t id) s = .next ((s.at_ t).asRole id .operator fun v => v.wakeUp.restartRanger) := rfl

/-! ### A write of one register -/

theorem State.wr_regsKept (s : State) (f : Field) (v : Nat) : RegsKept [f.off] s (s.wr f v) := by
  intro off h
  exact getReg_fput_other _ _ _ _ (by simpa [Field.at_] using h)

theorem State.wakeUp_regsKept (s : State) : RegsKept [F.PWR_STATE.EXITING.off] s s.wakeUp := by
  unfold State.wakeUp
  split
  · exact fun _ _ => rfl
  · split
    · exact fun _ _ => rfl
    · exact s.wr_regsKept F.PWR_STATE.EXITING 1

/-! ### A staged firmware of Ranger's own -/

/-- The firmware image of its own that waits for Ranger's restart (R331). -/
def Ranger.stagedOwn (r : Ranger) : Option (ImageKind × Nat × Bytes) := r.staged.find? fun x => x.1 == ImageKind.ranger

/-- The state in which Ranger's boot ROM has taken over a staged firmware, when one waits. -/
def State.bootStaged (s : State) : State :=
  match s.ranger.stagedOwn with
  | none => s
  | some x => (s.loadStaged .ranger 1).wr F.SEC_SVN.RANGER (x.2.1 % 65536)

theorem State.bootStaged_of_none (h : s.ranger.stagedOwn = none) : s.bootStaged = s := by
  simp [State.bootStaged, h]

theorem State.bootStaged_of_some {x : ImageKind × Nat × Bytes} (h : s.ranger.stagedOwn = some x) :
    s.bootStaged = (s.loadStaged .ranger 1).wr F.SEC_SVN.RANGER (x.2.1 % 65536) := by
  simp [State.bootStaged, h]

theorem State.loadStaged_of_some {kind : ImageKind} {x : ImageKind × Nat × Bytes} (block : Nat)
    (h : s.ranger.staged.find? (fun x => x.1 == kind) = some x) :
    s.loadStaged kind block =
      { s with sec := { s.sec with digests := mset s.sec.digests block x.2.2 }
               ranger := { s.ranger with staged := s.ranger.staged.filter (fun y => y.1 != kind) } } := by
  simp [State.loadStaged, h]

theorem Ranger.stagedOwn_eq_none_iff (r : Ranger) : r.stagedOwn = none ↔ ∀ x ∈ r.staged, x.1 ≠ ImageKind.ranger := by
  simp [Ranger.stagedOwn]

/-- No image of Ranger's own stays staged, and nothing else of Ranger changes. -/
theorem State.bootStaged_ranger (s : State) :
    s.bootStaged.ranger = { s.ranger with staged := s.ranger.staged.filter (fun x => x.1 != ImageKind.ranger) } := by
  cases h : s.ranger.stagedOwn with
  | none =>
    have keep : s.ranger.staged.filter (fun x => x.1 != ImageKind.ranger) = s.ranger.staged :=
      List.filter_eq_self.mpr fun x hx => by simpa using s.ranger.stagedOwn_eq_none_iff.mp h x hx
    rw [State.bootStaged_of_none h, keep]
  | some x => rw [State.bootStaged_of_some h, State.wr_ranger, State.loadStaged_of_some 1 h]

/-! ### The restart -/

/-- Ranger after a restart at a time of its own; what is staged is left to the boot ROM. -/
def Ranger.restarted (r : Ranger) (now : Nat) : Ranger :=
  let recent := r.restarts.filter fun a => decide (now < a + hourNs)
  { r with sessions := [], subs := r.subs.filter Subscription.push, restarts := recent ++ [now], recovery := decide (2 ≤ recent.length) }

theorem State.restartRanger_of_down (h : s.rangerUp = false) : s.restartRanger = s := by
  simp [State.restartRanger, h]

theorem State.restartRanger_of_up (h : s.rangerUp = true) :
    s.restartRanger = s.bootStaged.modRanger (·.restarted s.rangerNow) := by
  have up : ¬(!s.rangerUp) = true := by simp [h]
  unfold State.restartRanger
  rw [if_neg up]
  change s.bootStaged.modRanger _ = _
  simp [State.modRanger, Ranger.restarted, State.bootStaged_ranger]

/-- Ranger's firmware is measured into block 1 and its security version shown (R260, R331). -/
theorem State.bootStaged_shows {x : ImageKind × Nat × Bytes} (h : s.ranger.stagedOwn = some x) :
    s.bootStaged.sec = { s.sec with digests := mset s.sec.digests 1 x.2.2 } ∧ s.bootStaged.rd F.SEC_SVN.RANGER = x.2.1 % 65536 ∧
      RegsKept [F.SEC_SVN.RANGER.off] s s.bootStaged := by
  rw [State.bootStaged_of_some h, State.loadStaged_of_some 1 h]
  refine ⟨rfl, ?_, fun off n => State.wr_regsKept _ _ _ off n⟩
  have svn := fget_fput_same s.regs F.SEC_SVN.RANGER (x.2.1 % 65536) 0 (by decide)
  exact svn.trans (Nat.mod_mod _ _)

theorem State.restartRanger_rangerRestarted (h : s.rangerUp = true) : RangerRestarted s s.restartRanger s.rangerNow [] := by
  rw [State.restartRanger_of_up h]
  refine ⟨?_, fun unstaged => ?_, fun x hx => s.bootStaged_shows hx⟩
  · rw [State.modRanger_ranger, State.bootStaged_ranger]
    rfl
  · rw [State.bootStaged_of_none (s.ranger.stagedOwn_eq_none_iff.mpr unstaged)]
    exact ⟨rfl, fun _ _ => rfl⟩

theorem RegsKept.trans {v : State} {as bs : List Nat} (h : RegsKept as s u) (k : RegsKept bs u v) : RegsKept (bs ++ as) s v := by
  intro off n
  obtain ⟨nb, na⟩ : off ∉ bs ∧ off ∉ as := by simpa using n
  exact (k off (by simpa using nb)).trans (h off (by simpa using na))

/-- A restart of Ranger is the same whether or not the command has first moved node time, taken the sessions' traffic or woken the node. -/
theorem RangerRestarted.preceded {v : State} {now : Nat} {offs : List Nat} (h : RangerRestarted u v now [])
    (ranger : ∃ l, u.ranger = { s.ranger with sessions := l }) (sec : u.sec = s.sec) (regs : RegsKept offs s u) :
    RangerRestarted s v now offs := by
  obtain ⟨l, ranger⟩ := ranger
  unfold RangerRestarted at h
  rw [ranger, sec] at h
  obtain ⟨after, plain, image⟩ := h
  refine ⟨after, fun unstaged => ?_, fun x hx => ?_⟩
  · obtain ⟨noDigest, kept⟩ := plain unstaged
    exact ⟨noDigest, regs.trans kept⟩
  · obtain ⟨digest, svn, kept⟩ := image x hx
    exact ⟨digest, svn, regs.trans kept⟩

/-! ### The commands -/

/-- A restart of Ranger that no session asks for. -/
theorem restartRanger_completes (h : s.rangerUp = true) :
    Completes [.now, .regs, .sec, .ranger] s (fun u => RangerRestarted s u (s.at_ t).rangerNow []) (.next (s.at_ t).restartRanger) :=
  Completes.of_atTime (t := t) ((s.at_ t).restartRanger_rangerRestarted h) (State.restartRanger_frame.same.mono (by decide)) (by decide)

/-- A session's traffic and the wake-up come before the restart that a ForceRestart asks for. -/
theorem State.forceRestart_rangerRestarted (h : s.rangerUp = true) (t id : Nat) :
    RangerRestarted s ((s.at_ t).touchSession id).wakeUp.restartRanger (s.at_ t).rangerNow [F.PWR_STATE.EXITING.off] := by
  let asked := (s.at_ t).touchSession id
  have same : ChangesOnly [.regs, .power] asked asked.wakeUp := State.wakeUp_frame.same
  have ranger : asked.wakeUp.ranger = asked.ranger := same .ranger (by decide)
  have time : asked.wakeUp.rangerNow = (s.at_ t).rangerNow := by
    unfold State.rangerNow
    rw [ranger, show asked.wakeUp.now = asked.now from same .now (by decide)]
    rfl
  have up : asked.wakeUp.rangerUp = true := by
    unfold State.rangerUp
    rw [ranger]
    exact h
  have restarted := asked.wakeUp.restartRanger_rangerRestarted up
  rw [time] at restarted
  exact restarted.preceded ⟨_, ranger⟩ (same .sec (by decide)) asked.wakeUp_regsKept

theorem State.forceRestart_changesOnly (s : State) (id : Nat) :
    ChangesOnly [.now, .regs, .sec, .power, .ranger] s (s.touchSession id).wakeUp.restartRanger :=
  ((s.touchSession_changesOnly id).mono (by decide)).trans
    ((State.wakeUp_frame.same.mono (by decide)).trans (State.restartRanger_frame.same.mono (by decide)))

end Sys2Proof.Machine
end

section
/-! SUPPORT. Sessions of Ranger open, close and are counted; Ranger restarts (R319-R322, R330). -/
namespace Sys2Proof.Machine

variable {s : State} {t id : Nat} {o : TlsOffer} {x : Session}

/-- The seventeenth connection is counted (R322). -/
theorem tlsSession_full_completes (h : ServesTls s o) (full : 16 ≤ s.ranger.sessions.length) :
    Completes [.now, .ranger] s (fun u => u.ranger = { s.ranger with refused := s.ranger.refused + 1 }) (exec (.tlsSession t o) s) := by
  rw [exec_tlsSession, execTlsSession_of_full h full]
  exact Completes.of_atTime (t := t) rfl ((State.modRanger_changesOnly _ _).mono (by decide)) (by decide)

/-- A certificate that chains to no anchor ends the connection with an alert (R321). -/
theorem tlsSession_unanchored_completes (h : ServesTls s o) (free : s.ranger.sessions.length < 16) (k : OfferMeets o)
    (unanchored : ∀ a, ¬(a ∈ s.ranger.anchors ∧ a.id ∈ o.anchors)) :
    Completes [.now, .out] s (fun u => u.out = .tlsAlert :: s.out) (exec (.tlsSession t o) s) := by
  have noRole : (s.at_ t).ranger.roleOf o.anchors = none := (Ranger.roleOf_eq_none_iff _ _).mpr unanchored
  rw [exec_tlsSession, execTlsSession_of_meets h free k, State.admitTls_of_none noRole]
  exact Completes.of_atTime (t := t) rfl (State.emit_frame.same.mono (by decide)) (by decide)

/-- A certificate that chains to an anchor opens a session (R321, R322). -/
theorem tlsSession_anchored_completes (h : ServesTls s o) (free : s.ranger.sessions.length < 16) (k : OfferMeets o)
    (anchored : ∃ a, a ∈ s.ranger.anchors ∧ a.id ∈ o.anchors) :
    Completes [.now, .ranger] s
      (fun u => ∃ role, (∃ a, (a ∈ s.ranger.anchors ∧ a.id ∈ o.anchors) ∧ a.role = role) ∧
        (∀ a, a ∈ s.ranger.anchors ∧ a.id ∈ o.anchors → roleRank role ≤ roleRank a.role) ∧
        u.ranger = s.ranger.opened role (s.at_ t).rangerNow o.subject)
      (exec (.tlsSession t o) s) := by
  obtain ⟨role, ⟨held, least⟩, opens⟩ := (s.at_ t).admitTls_opens anchored
  rw [exec_tlsSession, execTlsSession_of_meets h free k, opens]
  exact Completes.of_atTime (t := t) ⟨role, held, least, rfl⟩ ((State.modRanger_changesOnly _ _).mono (by decide)) (by decide)

/-- An hour without traffic closes the session with its streams (R322, R324). -/
theorem sessionIdleTimeout_completes (h : s.session? id = some x) (idle : x.lastAt + 3600000000000 ≤ (s.at_ t).rangerNow) :
    Completes [.now, .ranger] s
      (fun u => (∀ y, y ∈ u.ranger.sessions ↔ y ∈ s.ranger.sessions ∧ y.id ≠ id) ∧
        (∀ v, v ∈ u.ranger.subs ↔ v ∈ s.ranger.subs ∧ (v.push = true ∨ v.owner ≠ id)) ∧
        u.ranger = { s.ranger with sessions := u.ranger.sessions, subs := u.ranger.subs })
      (exec (.sessionIdleTimeout t id) s) := by
  rw [exec_sessionIdleTimeout, execSessionIdleTimeout_of_some h, hourNs_eq, if_pos idle]
  exact Completes.of_atTime (t := t) ⟨State.mem_closeSession_sessions _ id, State.mem_closeSession_subs _ id, rfl⟩
    ((State.closeSession_changesOnly _ id).mono (by decide)) (by decide)

/-- Settles O56: the TLS clauses by the cases of a connection and the least-rank search of Ranger.roleOf, the idle clauses by the session
found, and the restarts by State.restartRanger_rangerRestarted, which the wake-up of a ForceRestart precedes. -/
theorem sessionsAndRestarts : Obligations.SessionsAndRestarts := by
  unfold Obligations.SessionsAndRestarts
  intro s t now at_ restart run
  have restarts : run (.next now.restartRanger) :=
    ⟨fun down => congrArg Host.Outcome.next (State.restartRanger_of_down down), restartRanger_completes⟩
  refine ⟨fun o => ?tls, fun o u bound next => execTlsSession_sessions_le bound next, fun id => ?idle, fun id => ?forced,
    restarts, restarts, restarts, exec_rangerSelfTest_pass t s⟩
  case tls =>
    exact ⟨execTlsSession_of_not_serves, tlsSession_full_completes, execTlsSession_of_not_meets, tlsSession_unanchored_completes,
      tlsSession_anchored_completes⟩
  case idle =>
    refine ⟨execSessionIdleTimeout_of_none, fun x known => ⟨fun early => ?_, sessionIdleTimeout_completes known⟩⟩
    rw [exec_sessionIdleTimeout, execSessionIdleTimeout_of_some known, hourNs_eq]
    exact if_neg (Nat.not_le.mpr early)
  case forced =>
    rw [exec_managerReset]
    refine roleChecked_asRole fun x known => ?_
    have up := State.rangerUp_of_session? known
    exact Completes.of_atTime (t := t) (State.forceRestart_rangerRestarted up t id) (State.forceRestart_changesOnly _ id) (by decide)

end Sys2Proof.Machine
end

section
/-! SUPPORT. The rules of BAR0: which offsets answer, what a read returns there, and which writes are ignored (R360, R334, R261). -/
namespace Sys2Proof.Machine

variable {s : State} {off size : Nat}

theorem exec_registerWrite (t off size : Nat) (v : Word) (s : State) :
    exec (.registerWrite t off size v) s = execRegisterWrite t off size v s := rfl

@[simp] theorem State.atTime_barOpen (s : State) (t off : Nat) : (s.at_ t).barOpen off = s.barOpen off := rfl

/-! ### Which offsets answer -/

/-- From 0xA000 on no table names a register. -/
theorem regFields_of_beyond (h : 10 ≤ off / 4096) : regFields off = [] := by
  obtain ⟨n, hn⟩ := Nat.exists_eq_add_of_le' h
  simp [regFields, F.block, hn]

theorem State.barOpen_of_id (s : State) (h : off < 0x1000) : s.barOpen off = decide (3 ≤ s.rd F.ID_BOOT.STAGE) := if_pos h

theorem State.barOpen_of_beyond_id (s : State) (h : 0x1000 ≤ off) : s.barOpen off = (s.ready && off / 4096 != 9) :=
  if_neg (Nat.not_lt.mpr h)

/-- The upper half of a register is open exactly when the register is. -/
theorem State.barOpen_add_four (s : State) (h : off % 8 = 0) : s.barOpen (off + 4) = s.barOpen off := by
  have below : off + 4 < 0x1000 ↔ off < 0x1000 := by omega
  have block : (off + 4) / 4096 = off / 4096 := by omega
  simp only [State.barOpen, below, block]

/-- The blocks that do not answer the control host: DBG, everything from 0xA000 on, the blocks that wait for READY, and the ID block before
stage 3 of the start-up. -/
def State.ShutAt (s : State) (off : Nat) : Prop :=
  off / 4096 = 9 ∨ 0xA000 ≤ off ∨ (s.ready = false ∧ 0x1000 ≤ off) ∨ (s.rd F.ID_BOOT.STAGE < 3 ∧ off < 0x1000)

/-- An offset in a shut block is closed, or the registers of its block have no name. -/
theorem State.ShutAt.closed_or_unnamed (h : s.ShutAt off) {reg : Nat} (block : reg / 4096 = off / 4096) :
    s.barOpen off = false ∨ regFields reg = [] := by
  rcases h with dbg | beyond | ⟨early, later⟩ | ⟨early, id⟩
  · left
    rw [s.barOpen_of_beyond_id (by omega)]
    simp [dbg]
  · exact .inr (regFields_of_beyond (by omega))
  · left
    rw [s.barOpen_of_beyond_id later, early, Bool.false_and]
  · left
    rw [s.barOpen_of_id id]
    exact decide_eq_false (Nat.not_le.mpr early)

/-! ### Reads -/

/-- The offset is closed, or the register it lies in has no name. -/
def State.SilentAt (s : State) (off : Nat) : Prop := s.barOpen off = false ∨ regFields (off / 8 * 8) = []

theorem State.ShutAt.silentAt (h : s.ShutAt off) : s.SilentAt off := h.closed_or_unnamed (by omega)

theorem State.silentAt_add_four (s : State) (h : off % 8 = 0) : s.SilentAt (off + 4) ↔ s.SilentAt off := by
  have reg : (off + 4) / 8 * 8 = off / 8 * 8 := by omega
  rw [State.SilentAt, State.SilentAt, s.barOpen_add_four h, reg]

theorem State.readBar0_of_silent (size : Nat) (h : s.SilentAt off) : s.readBar0 off size = 0 := by
  unfold State.readBar0
  exact if_pos (by simpa [State.SilentAt] using h)

theorem State.readBar0_of_answering (size : Nat) (h : ¬s.SilentAt off) :
    s.readBar0 off size =
      if size = 8 && off % 8 == 0 then s.readReg off
      else if size = 4 && off % 4 == 0 then
        (if off % 8 = 0 then s.readReg off &&& 0xFFFFFFFF else s.readReg (off - 4) >>> 32)
      else 0 := by
  unfold State.readBar0
  exact if_neg (by simpa [State.SilentAt] using h)

/-- A read that is neither an aligned register nor an aligned half of one. -/
theorem State.readBar0_of_misshapen (s : State) (h : (size ≠ 4 ∧ size ≠ 8) ∨ off % size ≠ 0) : s.readBar0 off size = 0 := by
  by_cases silent : s.SilentAt off
  · exact State.readBar0_of_silent size silent
  · have notRegister : ¬(size = 8 ∧ off % 8 = 0) := by
      rintro ⟨rfl, aligned⟩
      omega
    have notHalf : ¬(size = 4 ∧ off % 4 = 0) := by
      rintro ⟨rfl, aligned⟩
      omega
    rw [State.readBar0_of_answering size silent, if_neg (by simpa using notRegister), if_neg (by simpa using notHalf)]

theorem State.readBar0_lower_half (s : State) (h : off % 8 = 0) : s.readBar0 off 4 = s.readBar0 off 8 &&& 0xFFFFFFFF := by
  by_cases silent : s.SilentAt off
  · simp [State.readBar0_of_silent _ silent]
  · have half : off % 4 = 0 := by omega
    simp [State.readBar0_of_answering _ silent, h, half]

theorem State.readBar0_upper_half (s : State) (h : off % 8 = 0) : s.readBar0 (off + 4) 4 = s.readBar0 off 8 >>> 32 := by
  by_cases silent : s.SilentAt off
  · have silentUpper : s.SilentAt (off + 4) := (s.silentAt_add_four h).mpr silent
    simp [State.readBar0_of_silent _ silentUpper, State.readBar0_of_silent _ silent]
  · have answers : ¬s.SilentAt (off + 4) := mt (s.silentAt_add_four h).mp silent
    have half : (off + 4) % 4 = 0 := by omega
    have upper : (off + 4) % 8 ≠ 0 := by omega
    simp [State.readBar0_of_answering _ answers, State.readBar0_of_answering _ silent, h, half, upper]

/-! ### Writes -/

/-- A write that is narrow, unaligned, to a closed offset or to no register is ignored. -/
theorem execRegisterWrite_of_ignored (t : Nat) (v : Word)
    (h : size ≠ 8 ∨ off % 8 ≠ 0 ∨ s.barOpen off = false ∨ regFields off = []) :
    execRegisterWrite t off size v s = .next (s.at_ t) := by
  unfold execRegisterWrite
  refine if_pos ?_
  rcases h with narrow | unaligned | closed | unnamed
  · simp [narrow]
  · simp [unaligned]
  · simp [closed]
  · simp [unnamed]

/-- Settles O8: a shut block is closed or unnamed (State.ShutAt.closed_or_unnamed), and each other reason for which a read returns 0 or a
write is ignored is a case of State.readBar0 or execRegisterWrite. -/
theorem closedOffsetsAreInert : Obligations.ClosedOffsetsAreInert := by
  unfold Obligations.ClosedOffsetsAreInert
  intro shut
  refine ⟨fun s off aligned => ⟨s.readBar0_lower_half aligned, s.readBar0_upper_half aligned⟩, ?reads, ?writes⟩
  case reads =>
    rintro s off size (closed | unnamed | misshapen)
    · exact State.readBar0_of_silent size (State.ShutAt.silentAt closed)
    · exact State.readBar0_of_silent size (.inr unnamed)
    · exact s.readBar0_of_misshapen misshapen
  case writes =>
    intro s t off size v ignored
    rw [exec_registerWrite]
    refine execRegisterWrite_of_ignored t v ?_
    rcases ignored with closed | unnamed | narrow | unaligned
    · exact .inr (.inr (State.ShutAt.closed_or_unnamed closed rfl))
    · exact .inr (.inr (.inr unnamed))
    · exact .inl narrow
    · exact .inr (.inl unaligned)

end Sys2Proof.Machine
end
